-- ==== Sys2Proof/Word.lean ====
section
/-! DEFINITION. The word types of the machine (R3 to R5) and nothing else. -/

namespace Sys2Proof

/-- A byte of memory. -/
abbrev Byte := BitVec 8
/-- A 32-bit value: a v-register, a scalar instruction word. -/
abbrev W32 := BitVec 32
/-- A 64-bit value: a scalar register, a queue word, a hub register. -/
abbrev Word := BitVec 64
/-- One bit for each lane of a group (R38). -/
abbrev Mask := BitVec 64
/-- A trap or fault cause code (R64 and the other cause tables). -/
abbrev Cause := BitVec 8
/-- A scalar operand field: 0 to 47 name s0 to s47, 48 to 63 name q0 to q15 (R32). -/
abbrev SReg := BitVec 6
/-- A lane operand field (R35). -/
abbrev LReg := BitVec 8

end Sys2Proof
end

