-- ==== Sys2Proof/Machine/Cause.lean ====
section
/-! DEFINITION. The trap and fault causes the hardware raises by name (R64, R118, R144, R201, R230, R251, R293, R311, R334,
R356). The codes raised only by STRAP and VTRAP are the list of R340 in `Tc.software`. -/

namespace Sys2Proof.Tc

/-! Causes of R64. -/
abbrev illegalOpcode : Cause := 0x00
abbrev illegalMinor : Cause := 0x01
abbrev illegalOperand : Cause := 0x02
abbrev res0Set : Cause := 0x03
abbrev oddPair : Cause := 0x04
abbrev pairConflict : Cause := 0x05
abbrev lookaheadDep : Cause := 0x06
abbrev lookaheadIllegal : Cause := 0x07
abbrev maskWord : Cause := 0x08
abbrev illegalPrefix : Cause := 0x09
abbrev regRange : Cause := 0x0A
abbrev queueReserved : Cause := 0x0B
abbrev queueDirection : Cause := 0x0C
abbrev typeUnsupported : Cause := 0x0D
abbrev roundReserved : Cause := 0x0E
abbrev scopeReserved : Cause := 0x0F
abbrev specialUndefined : Cause := 0x10
abbrev specialReadonly : Cause := 0x11
abbrev fetchBounds : Cause := 0x12
abbrev fetchMisaligned : Cause := 0x13
abbrev maskRange : Cause := 0x14
abbrev condReserved : Cause := 0x15
abbrev immNotAllowed : Cause := 0x16
abbrev snapshotWrite : Cause := 0x17
abbrev imageMagic : Cause := 0x18
abbrev imageCrc : Cause := 0x19
abbrev widthMismatch : Cause := 0x1A
abbrev regsExceeded : Cause := 0x1B
abbrev sramExceeded : Cause := 0x1C
abbrev cimsExceeded : Cause := 0x1D
abbrev imageLayout : Cause := 0x1E
abbrev zeroWord : Cause := 0x1F

/-! Causes of R118. -/
abbrev uniformSource : Cause := 0x20
abbrev partReserved : Cause := 0x21
abbrev guardFixed : Cause := 0x22
abbrev vtosTarget : Cause := 0x23
abbrev vtosEmpty : Cause := 0x24
abbrev cvtPair : Cause := 0x25
abbrev elementSlot : Cause := 0x26
abbrev blockWidth : Cause := 0x27
abbrev sdQueue : Cause := 0x28

/-! Causes of R144. -/
abbrev illegalConvergence : Cause := 0x30
abbrev formatDivergence : Cause := 0x31
abbrev formatReserved : Cause := 0x32
abbrev formatPair : Cause := 0x33
abbrev bMismatch : Cause := 0x34
abbrev cimRange : Cause := 0x35
abbrev countRange : Cause := 0x36
abbrev sramBounds : Cause := 0x37
abbrev sramAlign : Cause := 0x38
abbrev matrixUniform : Cause := 0x39
abbrev matrixFrozen : Cause := 0x3A
abbrev resumeState : Cause := 0x3B
abbrev statusInvalid : Cause := 0x3C
abbrev columnPart : Cause := 0x3D
abbrev cimStopped : Cause := 0x3E
abbrev cimNone : Cause := 0x3F

/-! Causes of R230. -/
abbrev addrNoncanon : Cause := 0x40
abbrev sramRange : Cause := 0x41
abbrev atomicAlign : Cause := 0x42
abbrev quadAlign : Cause := 0x43
abbrev atomicOp : Cause := 0x44
abbrev atomicScopeOp : Cause := 0x45
abbrev scopeSpace : Cause := 0x46
abbrev gatherBase : Cause := 0x47
abbrev paramUnbound : Cause := 0x48
abbrev paramAlign : Cause := 0x49
abbrev waitAlign : Cause := 0x4A
abbrev counterAlign : Cause := 0x4B
abbrev counterBusy : Cause := 0x4C
abbrev counterUnarmed : Cause := 0x4D
abbrev counterTableFull : Cause := 0x4E
abbrev counterIdRange : Cause := 0x4F
abbrev engineOpcode : Cause := 0x50
abbrev engineField : Cause := 0x51
abbrev engineAlign : Cause := 0x52
abbrev engineLength : Cause := 0x53
abbrev engineSram : Cause := 0x54
abbrev engineAid : Cause := 0x55
abbrev engineOverlap : Cause := 0x56
abbrev engineBpn : Cause := 0x57
abbrev waitSpace : Cause := 0x58
abbrev timelineAhead : Cause := 0x59
abbrev hostAtomicUnsupported : Cause := 0x5A
abbrev enginePartial : Cause := 0x5B
abbrev engineHalted : Cause := 0x5C
abbrev fabricAbsent : Cause := 0x5D

/-! Causes of R201. -/
abbrev amSetFull : Cause := 0x60
abbrev pageLost : Cause := 0x61
abbrev amBlockPoison : Cause := 0x62
abbrev amMetaUe : Cause := 0x63
abbrev amDirFull : Cause := 0x64
abbrev amPoolError : Cause := 0x65
abbrev amClimbTimeout : Cause := 0x66
abbrev amHostError : Cause := 0x67
abbrev amTransitTimeout : Cause := 0x68
abbrev amRebuildTimeout : Cause := 0x69
abbrev amSetDisabled : Cause := 0x6A
abbrev amPoolPoison : Cause := 0x6B
abbrev amHostPoison : Cause := 0x6C
abbrev amRemotePoison : Cause := 0x6D
abbrev amPinConflict : Cause := 0x6E
abbrev amMirrorNone : Cause := 0x6F

/-! Causes of R293. -/
abbrev pathOverflow : Cause := 0x70
abbrev badTarget : Cause := 0x71
abbrev branchRange : Cause := 0x72
abbrev lendDiverged : Cause := 0x73
abbrev retDivergent : Cause := 0x74
abbrev ctrlGuard : Cause := 0x75
abbrev watchdog : Cause := 0x76
abbrev safepointGap : Cause := 0x77
abbrev barrierScope : Cause := 0x78
abbrev launchRecord : Cause := 0x79
abbrev launchDepth : Cause := 0x7A

/-! Causes of R251. -/
abbrev dominoNone : Cause := 0x80
abbrev dominoPath : Cause := 0x81
abbrev dominoGuard : Cause := 0x82
abbrev dominoNoMask : Cause := 0x83
abbrev dominoForbidden : Cause := 0x84
abbrev dominoSpace : Cause := 0x85
abbrev dominoExit : Cause := 0x86
abbrev dominoNest : Cause := 0x87
abbrev dominoTarget : Cause := 0x88

/-! Causes of R311. -/
abbrev xlateInvalid : Cause := 0x90
abbrev xlateWrite : Cause := 0x91
abbrev xlateExec : Cause := 0x92
abbrev pteReserved : Cause := 0x93
abbrev spaceMismatch : Cause := 0x94
abbrev hostCached : Cause := 0x95
abbrev spaceRefused : Cause := 0x96
abbrev inboundUnmapped : Cause := 0x97
abbrev privSpecial : Cause := 0x98
abbrev walkPoison : Cause := 0x99
abbrev xlateTimeout : Cause := 0x9A
abbrev windowRange : Cause := 0x9B

/-! Causes of R334. -/
abbrev mbxNotEnabled : Cause := 0xA0
abbrev mbxLength : Cause := 0xA1
abbrev mbxSram : Cause := 0xA2
abbrev mbxGuard : Cause := 0xA3
abbrev mbxUniform : Cause := 0xA4
abbrev mbxQuery : Cause := 0xA5

/-! Causes of R356. -/
abbrev ueLaneReg : Cause := 0xB0
abbrev ueScalarReg : Cause := 0xB1
abbrev ueTeamSram : Cause := 0xB2
abbrev ueL1 : Cause := 0xB3
abbrev ueL2 : Cause := 0xB4
abbrev ueCim : Cause := 0xB5
abbrev ueHbm : Cause := 0xB6
abbrev preemptSave : Cause := 0xB7
abbrev resumeRestore : Cause := 0xB8
abbrev eretOutside : Cause := 0xB9
abbrev handlerTrap : Cause := 0xBA
abbrev vectorInvalid : Cause := 0xBB
abbrev imageSeal : Cause := 0xBC
abbrev rollbackLimit : Cause := 0xBD

/-- The codes STRAP and VTRAP may name (R340). -/
def software (c : Cause) : Bool :=
  let n := c.toNat
  (0x29 ≤ n && n ≤ 0x2F) || n == 0x5E || n == 0x5F || (0x7B ≤ n && n ≤ 0x7F) || (0x89 ≤ n && n ≤ 0x8F) ||
    (0x9C ≤ n && n ≤ 0x9F) || (0xA6 ≤ n && n ≤ 0xAF) || n == 0xBE || n == 0xBF

end Sys2Proof.Tc
end

