-- ==== Sys2Proof/Syntax.lean ====
section
/-! DEFINITION. The instructions and the indivisible steps of the machine: one constructor of `Instr` for each row of
spec/opcode_table.json. Scalar rows carry the fields of their 32-bit word, lane rows the decoded 96-bit word `LaneW`
(R49, R50), the pair word its two sub-ops (R53). A row without an encoding is a step of another unit of the part (file 95);
its arguments name the object it acts on: `g` a group, `t` a team, `l` a launch, `q` a quadrant (or a queue), `c` a context
(or a climb), `i` an access set, `k` a span or an index, `m` a message between hubs, `st` a stage, `e` an episode,
`v` a register value. -/

namespace Sys2Proof

/-- The operand types of R51; `bpn k` is .bpn(k+2). -/
inductive Ty where
  | b32 | b64 | i8 | i16 | i32 | i64 | n8 | n16 | n32 | n64 | f32 | f64 | bf16 | e4m3 | e5m2 | e2m1 | e8m0
  | bpn (k : Fin 7)
  deriving DecidableEq, Repr, Inhabited

/-- The RND field of R50, without the reserved value. -/
inductive Rnd where
  | dflt | rne | rz | rdn | rup | rna | sr
  deriving DecidableEq, Repr, Inhabited

/-- The SCOPE field of R50, without the reserved values. -/
inductive Scope where
  | grp | team | die | pkg | pod | sys
  deriving DecidableEq, Repr, Inhabited

/-- The comparison conditions of R46. -/
inductive Cond where
  | eq | ne | lt | ge | ltn | gen
  deriving DecidableEq, Repr, Inhabited

/-- A lane word of R49 and R50 after its major: safe-point flag S, lookahead L, guard G and sense N, the operand fields,
the decoded MINOR and IMM. The JOIN field of R280 is the 24 bits VA, VB, VC. -/
structure LaneW where
  safe  : Bool
  look  : BitVec 4
  g     : BitVec 3
  n     : Bool
  vd    : LReg
  va    : LReg
  vb    : LReg
  vc    : LReg
  ty    : Ty
  rnd   : Rnd
  scope : Scope
  i     : Bool
  opx   : BitVec 3
  imm   : W32
  deriving DecidableEq, Repr, Inhabited

/-- One sub-op of a pair word (R53), its OP not yet checked against R54. -/
structure SubOp where
  op   : BitVec 8
  vd   : LReg
  va   : LReg
  vb   : LReg
  g    : BitVec 3
  n    : Bool
  cls  : BitVec 2
  sgn  : Bool
  res0 : BitVec 5
  deriving DecidableEq, Repr, Inhabited

/-- A pair word (R53). -/
structure PairW where
  sat : Bool
  rnd : BitVec 2
  a   : SubOp
  b   : SubOp
  deriving DecidableEq, Repr, Inhabited

/-- Every row of the opcode table. -/
inductive Instr where
  /-- SADD_REG (R92). Scalar register form of SADD: sd gets sa plus sb modulo 2^64. -/
  | saddReg (d : SReg) (a : SReg) (b : SReg)
  /-- SSUB (R92). Scalar register subtract: sd gets sa minus sb modulo 2^64. -/
  | ssub (d : SReg) (a : SReg) (b : SReg)
  /-- SMUL_REG (R92). Scalar register multiply: sd gets the low 64 bits of sa times sb. -/
  | smulReg (d : SReg) (a : SReg) (b : SReg)
  /-- SMULH (R92). Scalar multiply high: sd gets bits [127:64] of the signed or unsigned product. -/
  | smulh (d : SReg) (a : SReg) (b : SReg) (u : BitVec 1)
  /-- SDIV_REG (R92). Scalar register divide: sd gets the quotient of IntDiv. -/
  | sdivReg (d : SReg) (a : SReg) (b : SReg) (u : BitVec 1)
  /-- SREM_REG (R92). Scalar register remainder: sd gets the remainder of IntDiv. -/
  | sremReg (d : SReg) (a : SReg) (b : SReg) (u : BitVec 1)
  /-- SAND_REG (R92). Scalar register bitwise and. -/
  | sandReg (d : SReg) (a : SReg) (b : SReg)
  /-- SOR_REG (R92). Scalar register bitwise or. -/
  | sorReg (d : SReg) (a : SReg) (b : SReg)
  /-- SXOR_REG (R92). Scalar register bitwise xor. -/
  | sxorReg (d : SReg) (a : SReg) (b : SReg)
  /-- SSHL_REG (R92). Scalar register shift left by sb[5:0]. -/
  | sshlReg (d : SReg) (a : SReg) (b : SReg)
  /-- SSHR_REG (R92). Scalar register logical shift right by sb[5:0]. -/
  | sshrReg (d : SReg) (a : SReg) (b : SReg)
  /-- SSRA_REG (R92). Scalar register arithmetic shift right by sb[5:0]. -/
  | ssraReg (d : SReg) (a : SReg) (b : SReg)
  /-- SMIN_REG (R92). Scalar register minimum, signed or unsigned. -/
  | sminReg (d : SReg) (a : SReg) (b : SReg) (u : BitVec 1)
  /-- SMAX_REG (R92). Scalar register maximum, signed or unsigned. -/
  | smaxReg (d : SReg) (a : SReg) (b : SReg) (u : BitVec 1)
  /-- SCMP (R92). Scalar compare: sd gets 1 if the condition holds for sa and sb, else 0. -/
  | scmp (d : SReg) (a : SReg) (b : SReg) (c : BitVec 3)
  /-- SSEL (R93). Scalar select: sd gets sa if the old sd is nonzero, else sb. -/
  | ssel (d : SReg) (a : SReg) (b : SReg)
  /-- SMOV_REG (R92). Scalar register move of sa to sd, pushing or popping queue ports as named. -/
  | smovReg (d : SReg) (a : SReg)
  /-- SADD_IMM (R92). Scalar add of a sign-extended immediate. -/
  | saddImm (d : SReg) (a : SReg) (imm : BitVec 14)
  /-- SMUL_IMM (R92). Scalar multiply by an immediate. -/
  | smulImm (d : SReg) (a : SReg) (imm : BitVec 14)
  /-- SDIV_IMM (R92). Scalar signed divide by an immediate. -/
  | sdivImm (d : SReg) (a : SReg) (imm : BitVec 14)
  /-- SREM_IMM (R92). Scalar signed remainder by an immediate. -/
  | sremImm (d : SReg) (a : SReg) (imm : BitVec 14)
  /-- SAND_IMM (R92). Scalar and with an immediate. -/
  | sandImm (d : SReg) (a : SReg) (imm : BitVec 14)
  /-- SOR_IMM (R92). Scalar or with an immediate. -/
  | sorImm (d : SReg) (a : SReg) (imm : BitVec 14)
  /-- SXOR_IMM (R92). Scalar xor with an immediate. -/
  | sxorImm (d : SReg) (a : SReg) (imm : BitVec 14)
  /-- SSHL_IMM (R92). Scalar shift left by an immediate. -/
  | sshlImm (d : SReg) (a : SReg) (imm : BitVec 14)
  /-- SSHR_IMM (R92). Scalar logical shift right by an immediate. -/
  | sshrImm (d : SReg) (a : SReg) (imm : BitVec 14)
  /-- SSRA_IMM (R92). Scalar arithmetic shift right by an immediate. -/
  | ssraImm (d : SReg) (a : SReg) (imm : BitVec 14)
  /-- SMIN_IMM (R92). Scalar signed minimum with an immediate. -/
  | sminImm (d : SReg) (a : SReg) (imm : BitVec 14)
  /-- SMAX_IMM (R92). Scalar signed maximum with an immediate. -/
  | smaxImm (d : SReg) (a : SReg) (imm : BitVec 14)
  /-- SMOV_IMM (R92). Scalar move of the sign-extended immediate to sd. -/
  | smovImm (d : SReg) (imm : BitVec 14)
  /-- SLD_64 (R205). Scalar 64-bit load from sa plus immediate. -/
  | sld64 (d : SReg) (a : SReg) (imm : BitVec 14)
  /-- SLD_N32 (R205). Scalar 32-bit zero-extending load. -/
  | sldN32 (d : SReg) (a : SReg) (imm : BitVec 14)
  /-- SLD_I32 (R205). Scalar 32-bit sign-extending load. -/
  | sldI32 (d : SReg) (a : SReg) (imm : BitVec 14)
  /-- SST_64 (R205). Scalar 64-bit store of sd to sa plus immediate. -/
  | sst64 (d : SReg) (a : SReg) (imm : BitVec 14)
  /-- SST_N32 (R205). Scalar 32-bit store of sd[31:0]. -/
  | sstN32 (d : SReg) (a : SReg) (imm : BitVec 14)
  /-- SLDW (R206). Reads a doubleword of a parameter window, or returns 0 and sets PWSTAT beyond the bound. -/
  | sldw (d : SReg) (w : BitVec 3) (imm : BitVec 14)
  /-- SBR (R273). Scalar conditional branch comparing sa with sb. -/
  | sbr (c : BitVec 3) (a : SReg) (b : SReg) (o : BitVec 11)
  /-- SJMP (R273). Scalar relative jump. -/
  | sjmp (o : BitVec 26)
  /-- SJMPI (R273). Scalar indirect jump to the address in sa. -/
  | sjmpi (a : SReg)
  /-- SCALL (R273). Scalar call: s47 gets the return address and SPC jumps. -/
  | scall (o : BitVec 26)
  /-- SRET (R273). Scalar return to the address in sa. -/
  | sret (a : SReg)
  /-- LRUN (R274). Enqueues a lane block with a snapshot of s0-s47, waiting while the queue is full. -/
  | lrun (o : BitVec 24)
  /-- LSYNC (R275). Waits until the lane block queue is empty and the last LEND retired, then acquires. -/
  | lsync
  /-- SBAR (R277). Arrives at a team, crew or launch barrier and waits for its release. -/
  | sbar (lvl : BitVec 2)
  /-- WAITTL (R224). Waits until the copy or fabric timeline reaches sa, then acquires. -/
  | waittl (a : SReg) (f : BitVec 1)
  /-- ARMA (R226). Binds an arrival-table entry to a team-SRAM counter and sets its target. -/
  | arma (d : SReg) (a : SReg) (b : SReg) (c : BitVec 1)
  /-- WAITA (R227). Waits until an armed arrival counter reaches its target, then acquires its time. -/
  | waita (a : SReg)
  /-- WAITCMP (R228). Waits until a masked memory word satisfies a condition, placing a wait-table entry. -/
  | waitcmp (d : SReg) (a : SReg) (b : SReg) (sc : BitVec 3) (w : BitVec 1) (c : BitVec 3)
  /-- WAITIF (R215). Waits until an in-flight counter is at most sa, then acquires the lane lt. -/
  | waitif (a : SReg) (n : BitVec 2)
  /-- SFENCE (R216). Waits for scalar commits, publishes narrow lines by scope, flushes ports or fabric. -/
  | sfence (f : BitVec 1) (sc : BitVec 3)
  /-- SGET (R309). Reads a special register into sd. -/
  | sget (d : SReg) (ix : BitVec 8)
  /-- SSET (R309). Writes sa to a special register by its access code. -/
  | sset (a : SReg) (ix : BitVec 8)
  /-- STRAP (R340). Raises a software check cause with sa[31:0] in TINFO. -/
  | strap (a : SReg) (c : BitVec 8)
  /-- SEXIT (R276). Waits for blocks, commits, engine commands and regions to finish, then retires the group. -/
  | sexit
  /-- ERET (R342). Ends handler mode, reloading s44-s47 and the trap frame and resuming. -/
  | eret
  /-- SNOP (R48). Does nothing for one dc. -/
  | snop
  /-- LIMM (R47). Prefix supplying upper immediate bits; executes as one unit with the following SI word. -/
  | limm (imm : BitVec 26)
  /-- VADD (R95). Lane integer add, wrapping or saturating. -/
  | vadd (w : LaneW)
  /-- VSUB (R95). Lane integer subtract. -/
  | vsub (w : LaneW)
  /-- VMUL (R95). Lane integer multiply, low bits. -/
  | vmul (w : LaneW)
  /-- VMULH (R95). Lane integer multiply, high bits. -/
  | vmulh (w : LaneW)
  /-- VMAD (R95). Lane integer multiply-add. -/
  | vmad (w : LaneW)
  /-- VDIV (R95). Lane integer divide by IntDiv. -/
  | vdiv (w : LaneW)
  /-- VREM (R95). Lane integer remainder by IntDiv. -/
  | vrem (w : LaneW)
  /-- VAND (R95). Lane bitwise and. -/
  | vand (w : LaneW)
  /-- VOR (R95). Lane bitwise or. -/
  | vor (w : LaneW)
  /-- VXOR (R95). Lane bitwise xor. -/
  | vxor (w : LaneW)
  /-- VANDN (R95). Lane and-not. -/
  | vandn (w : LaneW)
  /-- VSHL (R95). Lane shift left. -/
  | vshl (w : LaneW)
  /-- VSHR (R95). Lane logical shift right. -/
  | vshr (w : LaneW)
  /-- VSRA (R95). Lane arithmetic shift right. -/
  | vsra (w : LaneW)
  /-- VROT (R95). Lane rotate left or right. -/
  | vrot (w : LaneW)
  /-- VMIN (R95). Lane integer minimum. -/
  | vmin (w : LaneW)
  /-- VMAX (R95). Lane integer maximum. -/
  | vmax (w : LaneW)
  /-- VABS (R95). Lane integer absolute value. -/
  | vabs (w : LaneW)
  /-- VNEG (R95). Lane integer negate. -/
  | vneg (w : LaneW)
  /-- VCLZ (R95). Lane leading zero count. -/
  | vclz (w : LaneW)
  /-- VPOPC (R95). Lane population count. -/
  | vpopc (w : LaneW)
  /-- VBREV (R95). Lane bit reverse. -/
  | vbrev (w : LaneW)
  /-- VBFE (R96). Lane bit-field extract. -/
  | vbfe (w : LaneW)
  /-- VBFI (R96). Lane bit-field insert. -/
  | vbfi (w : LaneW)
  /-- VSEL (R95). Lane select by predicate. -/
  | vsel (w : LaneW)
  /-- VMOV (R95). Lane register or immediate move with no arithmetic. -/
  | vmov (w : LaneW)
  /-- VCMP (R97). Lane integer compare writing a predicate. -/
  | vcmp (w : LaneW)
  /-- VPLOG (R97). Lane predicate logic by a truth table. -/
  | vplog (w : LaneW)
  /-- VADDC (R97). Lane add or subtract with carry predicate. -/
  | vaddc (w : LaneW)
  /-- FADD (R98). Lane floating add, rounded once. -/
  | fadd (w : LaneW)
  /-- FSUB (R98). Lane floating subtract. -/
  | fsub (w : LaneW)
  /-- FMUL (R98). Lane floating multiply. -/
  | fmul (w : LaneW)
  /-- FFMA (R98). Lane fused multiply-add. -/
  | ffma (w : LaneW)
  /-- FDIV (R98). Lane floating divide. -/
  | fdiv (w : LaneW)
  /-- FSQRT (R98). Lane floating square root. -/
  | fsqrt (w : LaneW)
  /-- FMIN (R100). Lane floating minimum. -/
  | fmin (w : LaneW)
  /-- FMAX (R100). Lane floating maximum. -/
  | fmax (w : LaneW)
  /-- FCMP (R100). Lane floating compare writing a predicate. -/
  | fcmp (w : LaneW)
  /-- FCLASS (R100). Lane floating classification mask. -/
  | fclass (w : LaneW)
  /-- FRND (R98). Lane round to integer in the type. -/
  | frnd (w : LaneW)
  /-- FSCALE (R98). Lane multiply by a power of two. -/
  | fscale (w : LaneW)
  /-- FRCP (R98). Lane reciprocal. -/
  | frcp (w : LaneW)
  /-- FRSQ (R98). Lane reciprocal square root. -/
  | frsq (w : LaneW)
  /-- FEXP2 (R98). Lane base-2 exponential. -/
  | fexp2 (w : LaneW)
  /-- FLOG2 (R98). Lane base-2 logarithm. -/
  | flog2 (w : LaneW)
  /-- FSINPI (R98). Lane sin(pi a). -/
  | fsinpi (w : LaneW)
  /-- FCOSPI (R98). Lane cos(pi a). -/
  | fcospi (w : LaneW)
  /-- CVTF (R102). Lane conversion to a floating format. -/
  | cvtf (w : LaneW)
  /-- CVTI (R102). Lane integer-to-integer conversion. -/
  | cvti (w : LaneW)
  /-- CVTFI (R102). Lane floating-to-integer conversion. -/
  | cvtfi (w : LaneW)
  /-- CVTN (R103). Converts two FP32 values into a packed narrow slot. -/
  | cvtn (w : LaneW)
  /-- CVTW (R103). Widens one packed narrow element. -/
  | cvtw (w : LaneW)
  /-- MXSCALE (R104). Computes the MX block scale over a 32-lane block. -/
  | mxscale (w : LaneW)
  /-- MXPACK (R104). Scales and rounds an element into an MX format. -/
  | mxpack (w : LaneW)
  /-- MXUNPACK (R104). Expands an MX element to FP32. -/
  | mxunpack (w : LaneW)
  /-- BPNSPLIT (R105). Gathers bit k of each block lane into a plane word. -/
  | bpnsplit (w : LaneW)
  /-- BPNJOIN (R105). Places a plane bit into the lane's BPN-p value. -/
  | bpnjoin (w : LaneW)
  /-- VSHFL (R108). Shuffles values within a tile. -/
  | vshfl (w : LaneW)
  /-- QXCH (R109). Exchanges values within a quad. -/
  | qxch (w : LaneW)
  /-- VVOTE (R110). Votes a predicate over a tile. -/
  | vvote (w : LaneW)
  /-- VMATCH (R111). Returns the mask of tile lanes with an equal value. -/
  | vmatch (w : LaneW)
  /-- VRED (R112). Reduces a tile by a fixed tree. -/
  | vred (w : LaneW)
  /-- VSCAN (R113). Scans a tile by a fixed tree. -/
  | vscan (w : LaneW)
  /-- VBCAST (R114). Broadcasts one tile lane's value. -/
  | vbcast (w : LaneW)
  /-- VTOS (R115). Writes the lowest voting lane's value to a live scalar register. -/
  | vtos (w : LaneW)
  /-- PAIR_WORD (R53). Issues two pairable sub-ops together in one dc. -/
  | pairWord (w : PairW)
  /-- LDG (R207). Lane global load. -/
  | ldg (w : LaneW)
  /-- STG (R207). Lane global store. -/
  | stg (w : LaneW)
  /-- LDS (R207). Lane team-SRAM load. -/
  | lds (w : LaneW)
  /-- STS (R207). Lane team-SRAM store. -/
  | sts (w : LaneW)
  /-- LDX (R208). Packet gather load. -/
  | ldx (w : LaneW)
  /-- PREF (R209). Prefetches a line at group, package or pod scope. -/
  | pref (w : LaneW)
  /-- ATOMG (R211). Global atomic with return, performed where its scope chooses. -/
  | atomg (w : LaneW)
  /-- ATOMS (R211). Team-SRAM atomic with return. -/
  | atoms (w : LaneW)
  /-- REDG (R212). Global reduction without return. -/
  | redg (w : LaneW)
  /-- CAS128 (R213). 16-byte compare and swap. -/
  | cas128 (w : LaneW)
  /-- MLDB (R137). Loads and aligns a B tile into a macro. -/
  | mldb (w : LaneW)
  /-- MMA (R138). Multiplies M rows of A by the B tiles of a macro span. -/
  | mma (w : LaneW)
  /-- MDRAIN (R140). Reads an accumulator row into lanes. -/
  | mdrain (w : LaneW)
  /-- MFILL (R140). Writes an accumulator row from lanes. -/
  | mfill (w : LaneW)
  /-- MDRAINB (R141). Reads raw cell or side-data rows. -/
  | mdrainb (w : LaneW)
  /-- MFILLB (R141). Writes raw cell, side-data or status rows. -/
  | mfillb (w : LaneW)
  /-- MSTAT (R142). Reads a macro's status words. -/
  | mstat (w : LaneW)
  /-- MRESUME (R139). Continues a stopped MMA. -/
  | mresume (w : LaneW)
  /-- MCLR (R140). Clears accumulators, or whole macros. -/
  | mclr (w : LaneW)
  /-- DBEGIN (R248). Opens a domino region with a checkpoint, or raises the nest count. -/
  | dbegin (w : LaneW)
  /-- DCOMMIT (R241). Commits the domino region or lowers the nest count. -/
  | dcommit (w : LaneW)
  /-- DABORT (R249). Aborts the live region with cause EXPLICIT. -/
  | dabort (w : LaneW)
  /-- DSTAT (R250). Reads a domino status word. -/
  | dstat (w : LaneW)
  /-- MBSEND (R330). Sends actions to step mailboxes as a store-class set. -/
  | mbsend (w : LaneW)
  /-- MBGEN (R331). Sets the context's policy generation. -/
  | mbgen (w : LaneW)
  /-- VBR (R282). Votes a lane branch, possibly diverging. -/
  | vbr (w : LaneW)
  /-- VJMP (R283). Moves the whole path to a target. -/
  | vjmp (w : LaneW)
  /-- VJMPI (R284). Indirect lane jump forming arms per target. -/
  | vjmpi (w : LaneW)
  /-- VCALL (R285). Lane call writing a link. -/
  | vcall (w : LaneW)
  /-- VCALLI (R285). Indirect lane call. -/
  | vcalli (w : LaneW)
  /-- VRET (R286). Lane return to an agreed offset. -/
  | vret (w : LaneW)
  /-- VJOIN (R281). Arrives at the path's join point. -/
  | vjoin (w : LaneW)
  /-- VLAND (R287). Landing pad that does nothing. -/
  | vland (w : LaneW)
  /-- VEXIT (R288). Removes acting lanes from EXEC and LaneSet. -/
  | vexit (w : LaneW)
  /-- LEND (R289). Ends a lane block and releases the lane lt. -/
  | lend (w : LaneW)
  /-- VNOP (R287). Does nothing for one dc. -/
  | vnop (w : LaneW)
  /-- VGETS (R309). Reads a special register into lanes. -/
  | vgets (w : LaneW)
  /-- SETEXEC (R116). Sets, ands, ors or andns the path's EXEC. -/
  | setexec (w : LaneW)
  /-- SETPART (R116). Writes PART.TILE. -/
  | setpart (w : LaneW)
  /-- SETCVM (R116). Writes CVMODE or CVSEED. -/
  | setcvm (w : LaneW)
  /-- VTRAP (R340). Raises a software check cause from the lane stream. -/
  | vtrap (w : LaneW)
  /-- VGETT (R341). Reads a trap register into lanes. -/
  | vgett (w : LaneW)
  /-- LANE_BLOCK_START (R24). Starts the next queued lane block after its predecessor's LEND retires. -/
  | laneBlockStart (g : Nat)
  /-- MATRIX_CMD_ACCEPT (R121). A waiting matrix command is accepted when the unit becomes idle. -/
  | matrixCmdAccept (q : Nat)
  /-- MLDB_COMPLETE (R131). An MLDB finishes and its macro becomes LOADED. -/
  | mldbComplete (q : Nat)
  /-- MMA_COMPLETE (R130). An MMA or MRESUME finishes, pushing an event word when requested. -/
  | mmaComplete (q : Nat)
  /-- MCLR_COMPLETE (R131). An MCLR finishes after 4 dc. -/
  | mclrComplete (q : Nat)
  /-- MATRIX_EVENT_PUSH (R133). A completion waiting for room in q5 pushes its event word. -/
  | matrixEventPush (q : Nat)
  /-- MATRIX_STOP (R143). A frozen MMA's macros enter STOPPED after the last started row. -/
  | matrixStop (q : Nat)
  /-- STORE_SET_LEAVE (R156). A store-class set leaves its quadrant after the strike window and earlier commits. -/
  | storeSetLeave (i : Nat)
  /-- LOAD_SET_COMMIT (R156). A load set at the head commits when its leases cover the party lt. -/
  | loadSetCommit (i : Nat)
  /-- STORE_SET_COMMIT (R156). A store-class set commits when every span returns its ts. -/
  | storeSetCommit (i : Nat)
  /-- HOME_SLICE_LOAD (R153). A home slice serves a load or renewal and extends the lease. -/
  | homeSliceLoad (i : Nat) (k : Nat)
  /-- HOME_SLICE_STORE (R154). A home slice performs a store span and returns its ts. -/
  | homeSliceStore (i : Nat) (k : Nat)
  /-- HOME_SLICE_ATOMIC (R155). An atomic performs load and store in one step. -/
  | homeSliceAtomic (i : Nat) (k : Nat)
  /-- WRITE_QUEUE_APPLY (R163). A write-queue entry applies to the array at the head. -/
  | writeQueueApply (slice : Nat)
  /-- PUBLISH (R162). A narrow L1 line is written back before an outside access. -/
  | publish (line : Nat)
  /-- AMC_TAG_LOOKUP (R181). An AMC looks up the set's tags for a miss and reads a local frame. -/
  | amcTagLookup (c : Nat)
  /-- TAG_SCRUB (R191). An AMC scrubs a set's tags when CYCLE reaches its slot. -/
  | tagScrub (set : Nat)
  /-- HINT_LOOKUP (R182). The hub looks up the hint cache and sends a read and registration or a home request. -/
  | hintLookup (c : Nat)
  /-- DIRECTORY_LOOKUP (R182). The home looks up the directory, registers a replica and forwards the read. -/
  | directoryLookup (m : Nat)
  /-- REGISTRATION (R182). The home checks a hinted holder and registers or answers stale. -/
  | registration (m : Nat)
  /-- HOLDER_READ (R181). A holder reads out a page to its hub and sends it. -/
  | holderRead (m : Nat)
  /-- NOT_HELD_ANSWER (R182). A requester's hub resends a read to the home after a not-held answer. -/
  | notHeldAnswer (m : Nat)
  /-- STALE_ANSWER (R182). A requester discards hinted data on a stale answer. -/
  | staleAnswer (m : Nat)
  /-- REGISTRATION_ACK (R182). The home's registration acknowledgement reaches the requester. -/
  | registrationAck (m : Nat)
  /-- PAGE_INSTALL (R183). An arriving page is installed into its way as replica or master. -/
  | pageInstall (m : Nat)
  /-- TAKE_BACK (R182). A pool-mastered page is read from the pool and crowned at the requester. -/
  | takeBack (m : Nat)
  /-- CLIMB_TIMEOUT (R182). A climb step unanswered for 2^20 dc faults the access. -/
  | climbTimeout (c : Nat)
  /-- DIR_FULL_TIMEOUT (R179). A waiting new entry faults AM_DIR_FULL after 2^20 dc. -/
  | dirFullTimeout (m : Nat)
  /-- CROWN_TRANSACTION (R184). The home opens a crown transaction, invalidating replicas and releasing the master. -/
  | crownTransaction (m : Nat)
  /-- INVALIDATION (R184). A replica holder drops its copy and answers its lease end. -/
  | invalidation (m : Nat)
  /-- INVALIDATION_ACK (R184). The home receives an invalidation answer or master FLE. -/
  | invalidationAck (m : Nat)
  /-- CROWN_RELEASE (R184). The master stops accesses and sends a grant. -/
  | crownRelease (m : Nat)
  /-- CROWN_GRANT (R184). The grant arrives at the requester. -/
  | crownGrant (m : Nat)
  /-- CROWN_COMPLETION (R184). The completion makes the crown effective and frees the old master frame. -/
  | crownCompletion (m : Nat)
  /-- CROWN_HOLD_EXPIRE (R185). A new master's crown hold ends after 4096 dc. -/
  | crownHoldExpire (gpn : Nat)
  /-- FREE_FRAME_SUMMARY (R188). A package broadcasts its free-frame summary every 2^16 dc. -/
  | freeFrameSummary
  /-- INJECTION_OFFER (R188). A candidate accepts or refuses an offered page. -/
  | injectionOffer (m : Nat)
  /-- INJECTION_ANSWER (R188). The injector receives an offer answer and sends the page or the next offer. -/
  | injectionAnswer (m : Nat)
  /-- INJECTION_CONFIRM (R188). The home's confirmation lets the injector free its frame. -/
  | injectionConfirm (m : Nat)
  /-- POOL_INJECTION (R189). All candidates refused, the page is written to the pool. -/
  | poolInjection (gpn : Nat)
  /-- INJECTION_RETRY (R189). The injector retries the offer round every 4096 dc, faulting after 16. -/
  | injectionRetry (gpn : Nat)
  /-- TRANSIT_TIMEOUT (R189). A write waiting behind an injection or crown move faults after 2^20 dc. -/
  | transitTimeout (i : Nat)
  /-- DIRECTORY_REBUILD (R197). An uncorrectable entry error starts a recall query to every package. -/
  | directoryRebuild (gpn : Nat)
  /-- RECALL_QUERY (R197). A package answers a recall query for a page. -/
  | recallQuery (m : Nat)
  /-- REBUILD_TIMEOUT (R197). Accesses waiting on a rebuild fault after 2^22 dc. -/
  | rebuildTimeout (i : Nat)
  /-- AM_QUERY (R199). Writes the local tag and directory entry for a GPN. -/
  | amQuery
  /-- AM_STATS (R199). Writes the attraction-memory counters. -/
  | amStats
  /-- AM_PARK (R200). Parks a bank's ways and evicts or injects their pages. -/
  | amPark
  /-- AM_UNPARK (R199). Clears PARK in a bank's ways. -/
  | amUnpark
  /-- AM_RETIRE (R199). Moves a page out and retires the way. -/
  | amRetire
  /-- AM_DISCARD (R199). Removes a LOST directory entry. -/
  | amDiscard
  /-- WAIT_ENTRY_PLACE (R229). A wait-table entry is placed, waking at once if an event has already occurred. -/
  | waitEntryPlace (g : Nat)
  /-- WAKE (R229). A wake reaches a waiting core and causes a re-read. -/
  | wake (g : Nat)
  /-- WAITCMP_REPOLL (R228). A waiter re-reads after 4096 dc without a wake. -/
  | waitcmpRepoll (g : Nat)
  /-- COPY (R219). Copy-engine byte copy. -/
  | copy (g : Nat)
  /-- FILL (R219). Copy-engine pattern fill. -/
  | fill (g : Nat)
  /-- COPY2D (R219). Copy-engine strided two-dimensional copy. -/
  | copy2d (g : Nat)
  /-- BPNPREFIX (R219). Copies full-form BPN chunks to prefix form. -/
  | bpnprefix (g : Nat)
  /-- PUT (R220). Fabric put stored at the crown holder. -/
  | put (g : Nat)
  /-- GET (R220). Fabric get loaded at the nearest holder. -/
  | get (g : Nat)
  /-- ATOM (R220). Fabric 64-bit atomic at the crown holder's write queue. -/
  | atom (g : Nat)
  /-- SIGNAL (R220). Adds a count to a remote arrival counter. -/
  | signal (g : Nat)
  /-- ENGINE_CMD_COMPLETE (R222). A command completes, advancing the timeline and pushing a completion word. -/
  | engineCmdComplete (g : Nat) (n : Nat) (fab : Bool)
  /-- COMPLETION_WORD_PUSH (R217). A held completion word enters the queue when room appears. -/
  | completionWordPush (g : Nat) (fab : Bool)
  /-- FABRIC_GRANULE_ARRIVE (R305). A target checks and performs an inbound granule. -/
  | fabricGranuleArrive (m : Nat)
  /-- FABRIC_ACK (R165). A granule acknowledgement reaches the initiator. -/
  | fabricAck (m : Nat)
  /-- FABRIC_TIMEOUT (R222). A command without acknowledgement for 2^22 dc ends with status 0x03. -/
  | fabricTimeout (g : Nat) (n : Nat)
  /-- ARRIVAL_COUNT (R225). A count is added to an arrival counter or pending entry. -/
  | arrivalCount (m : Nat)
  /-- COUNT_TABLE_TIMEOUT (R226). A count waiting on a full arrival table for 2^20 dc ends with status 0x07. -/
  | countTableTimeout (m : Nat)
  /-- DBEGIN_SLOT_GRANT (R231). A waiting DBEGIN obtains a slot and opens its region. -/
  | dbeginSlotGrant (g : Nat)
  /-- DOMINO_EDGE_REQUEST (R238). The domino table records, refuses or stalls an edge. -/
  | dominoEdgeRequest (i : Nat) (k : Nat)
  /-- DOMINO_ABORT_COMPLETE (R244). An abort finishes restoring the checkpoint and frees the slot. -/
  | dominoAbortComplete (slot : Nat)
  /-- DOMINO_COMMIT_START (R241). A waiting region enters COMMITTING when its last predecessor commits. -/
  | dominoCommitStart (slot : Nat)
  /-- DOMINO_COMMIT_COMPLETE (R241). A commit completes and discharges its edges. -/
  | dominoCommitComplete (slot : Nat)
  /-- RECALL_HOLD_TIMEOUT (R240). A held recall reaching 2^14 dc aborts the marking regions with RECALL. -/
  | recallHoldTimeout (gpn : Nat)
  /-- PREEMPT_DEFER_TIMEOUT (R243). A region deferring pre-emption or parked for 2^16 dc aborts with PREEMPT. -/
  | preemptDeferTimeout (g : Nat)
  /-- LQ_BASE_WRITE (R252). Writing LQ_BASE resets HEAD, TAIL and DONE and restarts numbering. -/
  | lqBaseWrite (c : Nat) (q : Nat) (v : Word)
  /-- LAUNCH_KERNEL (R254). The CP reads and checks a kernel launch record. -/
  | launchKernel (src : Nat)
  /-- LAUNCH_RAGGED (R258). The CP reads a ragged record and makes teams per segment. -/
  | launchRagged (src : Nat)
  /-- LAUNCH_WAIT_ONLY (R255). A wait-only record retires when eligible. -/
  | launchWaitOnly (src : Nat)
  /-- TEAM_PLACE (R265). A dealt team is placed once its core has room. -/
  | teamPlace (t : Nat)
  /-- SRAM_CLEAR_DONE (R266). A freed team-SRAM allocation finishes clearing. -/
  | sramClearDone (k : Nat)
  /-- GROUP_RETIRE (R276). A group retires after SEXIT's conditions hold, leaving barrier counts. -/
  | groupRetire (g : Nat)
  /-- LAUNCH_RETIRE (R256). A launch retires with its last team, writing STATUS and LQ_DONE. -/
  | launchRetire (l : Nat)
  /-- CSL_COMMIT (R269). Requests the copy of staged slot tables into active tables. -/
  | cslCommit (v : Word)
  /-- CSL_COMMIT_APPLY (R269). Staged tables become active at the next CYCLE mod 64 = 0. -/
  | cslCommitApply
  /-- BARRIER_RELEASE (R278). A barrier level releases its members with the largest lt. -/
  | barrierRelease (l : Nat) (t : Nat) (level : Nat)
  /-- WATCHDOG (R291). The progress counter reaches 2^WDOG and the group traps. -/
  | watchdog (g : Nat)
  /-- SAFEPOINT_GAP (R292). The 4097th word without a safe point traps. -/
  | safepointGap (g : Nat)
  /-- PREEMPT_REQUEST (R343). The CP requests pre-emption of a team. -/
  | preemptRequest (t : Nat)
  /-- TEAM_SWAP_OUT (R267). The CP swaps out a team whose groups all wait. -/
  | teamSwapOut (t : Nat)
  /-- PREEMPT_SAVE_ENTRY (R343). Every group enters the save handler once all have reached the request. -/
  | preemptSaveEntry (t : Nat)
  /-- TEAM_SEAL (R345). The CP copies team SRAM, writes and seals the image, and frees the core. -/
  | teamSeal (t : Nat)
  /-- TEAM_RESUME (R346). The CP checks an image, restores the team and enters the restore handler. -/
  | teamResume (t : Nat)
  /-- TRAP_DELIVERY (R335). A trap is taken, trap registers written and handler mode entered. -/
  | trapDelivery (g : Nat)
  /-- CHECKPOINT_GO (R347). Writing CTX_CKPT.GO pre-empts and reseals the context's teams. -/
  | checkpointGo (c : Nat) (v : Word)
  /-- CHECKPOINT_HOLD_CLEAR (R347). Writing HOLD 0 resumes the held checkpointed teams. -/
  | checkpointHoldClear (c : Nat)
  /-- LAUNCH_ROLLBACK (R349). A consumed uncorrectable error stops, restores and replays a protected launch. -/
  | launchRollback (g : Nat) (cause : Cause)
  /-- STRIKE_REPORT (R350). A strike report discards and re-executes a quadrant's last 48 dc. -/
  | strikeReport (q : Nat)
  /-- PAGE_WALK (R300). A walk translates a VA or faults. -/
  | pageWalk (i : Nat)
  /-- WALK_TIMEOUT (R300). A table read unanswered for 2^20 dc faults XLATE_TIMEOUT. -/
  | walkTimeout (i : Nat)
  /-- FAULT_RECORD_WRITE (R307). A fault record is written to the ring and the vector sent. -/
  | faultRecordWrite (c : Nat)
  /-- FQ_BASE_WRITE (R295). Writing FQ_BASE resets head and tail and restarts SEQ. -/
  | fqBaseWrite (c : Nat) (v : Word)
  /-- FQ_REPLAY_SEQ (R307). Releases the issuers of one fault record. -/
  | fqReplaySeq (c : Nat) (seq : Nat)
  /-- FQ_REPLAY_ALL (R307). Releases the issuers of every fault record of the context. -/
  | fqReplayAll (c : Nat)
  /-- FQ_REPLAY_KILL (R307). Ends the released issuers instead of retrying. -/
  | fqReplayKill (c : Nat) (seq : Nat)
  /-- FAULT_RETRY (R307). A released issuer retries its access 40 dc after the release. -/
  | faultRetry (c : Nat) (k : Nat)
  /-- TLBI_GO (R303). Starts invalidation of a context's TLB range. -/
  | tlbiGo (c : Nat) (v : Word)
  /-- TLBI_DONE (R303). DONE is set once entries are dropped and old users committed. -/
  | tlbiDone (c : Nat)
  /-- HOST_APERTURE_ACCESS (R296). A host access through an aperture is translated and performed. -/
  | hostApertureAccess (off : Nat) (n : Nat) (wr : Bool) (v : Word)
  /-- HOST_ATOMIC_INBOUND (R360). An inbound AtomicOp completes with Unsupported Request. -/
  | hostAtomicInbound (off : Nat)
  /-- HOST_SNOOP (R354). A host snoop is answered. -/
  | hostSnoop (a : Nat)
  /-- EP_BIND (R318). Binds an episode and enters START. -/
  | epBind (c : Nat) (e : Nat)
  /-- EP_REBIND (R318). Rebinds a HELD or ENDED episode. -/
  | epRebind (c : Nat) (e : Nat)
  /-- EP_UNBIND (R318). Unbinds an episode, posting KILLED if owed. -/
  | epUnbind (c : Nat) (e : Nat)
  /-- MBX_GEN_WRITE (R328). A driver write of MBX_CTL.GEN sets the generation without rules. -/
  | mbxGenWrite (c : Nat) (v : Word)
  /-- MAILBOX_SEND_ACCEPT (R330). The mailbox unit takes MBSEND lanes and accepts or refuses actions. -/
  | mailboxSendAccept (i : Nat)
  /-- MBGEN_APPLY (R328). The unit applies each episode's rule for a new generation. -/
  | mbgenApply (i : Nat)
  /-- MBX_QUERY_ANSWER (R332). The unit answers a q3 query. -/
  | mbxQueryAnswer (g : Nat)
  /-- STAGE_ASSIGN (R323). The unit gives a waiting episode a stage. -/
  | stageAssign
  /-- STAGE_SAVE_DONE (R323). A stage finishes saving and becomes EMPTY. -/
  | stageSaveDone (st : Nat)
  /-- STAGE_RESTORE_DONE (R324). A stage finishes restoring and runs. -/
  | stageRestoreDone (st : Nat)
  /-- STAGE_RESET_DONE (R324). A stage finishes resetting. -/
  | stageResetDone (st : Nat)
  /-- MBX_ACT_READ (R325). A stage reads its action, moving the episode to STEPPING. -/
  | mbxActRead (st : Nat) (rd : Nat)
  /-- MBX_STEP_READ (R325). A stage reads STEP. -/
  | mbxStepRead (st : Nat) (rd : Nat)
  /-- MBX_GEN_READ (R325). A stage reads EPGEN. -/
  | mbxGenRead (st : Nat) (rd : Nat)
  /-- MBX_STAT_ACCESS (R325). A stage reads or writes USTAT, DONE and REWARD. -/
  | mbxStatAccess (st : Nat) (rd : Nat) (f : Nat) (v : Word)
  /-- MBX_OBS_WRITE (R325). A stage posts its observation once its stores are performed. -/
  | mbxObsWrite (st : Nat) (v : Word)
  /-- OBSERVATION_POST (R326). The unit changes state and writes the observation header. -/
  | observationPost (k : Nat)
  /-- OBSERVATION_COUNT (R326). After the header is performed, OBSLEN bytes are counted. -/
  | observationCount (k : Nat)
  /-- EPISODE_RUNAWAY (R327). The step watchdog reaches BUDGET, resets the stage and posts RUNAWAY. -/
  | episodeRunaway (c : Nat) (e : Nat)
  /-- EPISODE_FAULT (R314). A U-mode exception ends the episode, posting FAULT if owed. -/
  | episodeFault (st : Nat) (mc : Nat) (v : Word)
  /-- FAQ_RECORD (R351). The hub writes an AMC fault-address record. -/
  | faqRecord (kind : Nat) (a : Nat) (gpn : Nat)
  /-- RING_BASE_WRITE (R358). Writing a ring base register clears a held ring. -/
  | ringBaseWrite (off : Nat) (v : Word)
  /-- BANK_TEST_GO (R353). Starts a March C- test of a parked bank. -/
  | bankTestGo (v : Word)
  /-- BANK_TEST_DONE (R353). The bank test finishes and writes its results. -/
  | bankTestDone (v : Word)
  /-- TMC_BADFRAME_APPEND (R352). The TMC appends a retired frame to the bad-frame list. -/
  | tmcBadframeAppend (v : Word)
  /-- SELF_REFRESH_ENTRY (R355). An idle pseudo-channel enters self-refresh after 2^16 dc. -/
  | selfRefreshEntry (stack : Nat) (pc : Nat)
  /-- POWER_ON (R367). Power applied starts the bring-up sequence: the host link trains coherent or not, the TMC gives AID and pod size and
reads the fuses. -/
  | powerOn (coh : Bool) (pod : BitVec 21) (h0 h1 : BitVec 36)
  /-- MODULE_RESET (R367). Module reset returns state to reset values; the host link trains anew. -/
  | moduleReset (coh : Bool)
  /-- STATION_STATE_CHANGE (R363). A UALink station trains or goes down. -/
  | stationStateChange (k : Nat) (up : Bool)
  /-- POD_LOST (R365). A POD_LOST write declares packages lost. -/
  | podLost (k : Nat) (v : Word)
  /-- DIE_GATE (R368). A die with no resident team for 2^20 dc is power-gated. -/
  | dieGate (d : Nat)
  /-- DIE_UNGATE (R368). A gated die finishes ungating after 40 us. -/
  | dieUngate (d : Nat)
  /-- PM_GATE_WRITE (R370). Writing PM_GATE.EN 0 ungates a gated die. -/
  | pmGateWrite (v : Word)
  /-- D3HOT_ENTRY (R368). The host places the module in D3hot. -/
  | d3hotEntry
  /-- D3COLD_ENTRY (R368). The host removes main power for D3cold. -/
  | d3coldEntry
  /-- THERMAL_EVAL (R370). The power controller evaluates limits and sets DUTY every 2^14 dc. -/
  | thermalEval (w : Nat) (tj : Nat) (th : Nat)
  /-- THERMAL_SHUTDOWN (R369). A junction at 110 C shuts the module down. -/
  | thermalShutdown (tj : Nat)
  /-- GET_VERSION (R372). SPDM version request answered. -/
  | getVersion
  /-- GET_CAPABILITIES (R372). SPDM capabilities request answered. -/
  | getCapabilities
  /-- NEGOTIATE_ALGORITHMS (R372). SPDM algorithm negotiation. -/
  | negotiateAlgorithms
  /-- GET_DIGESTS (R372). SPDM certificate digests returned. -/
  | getDigests
  /-- GET_CERTIFICATE (R372). SPDM certificate chain returned. -/
  | getCertificate
  /-- CHALLENGE (R372). SPDM challenge answered with signatures. -/
  | challenge
  /-- GET_MEASUREMENTS (R372). SPDM measurement blocks returned. -/
  | getMeasurements
  /-- REGISTER_WRITE (R357). A write to a hub register with no behaviour of its own. -/
  | registerWrite (off : Nat) (v : Word)
  /-- STAGE_INSTRUCTION_ISSUE (R313). In each hc a marionette core issues one U-mode instruction from a RUNNING stage, round-robin, including its loads, stores, AMOs, LR/SC and fetches. -/
  | stageInstructionIssue (k : Nat)
  /-- POOL_PORT_STATE_CHANGE (R362). The pool port trains, or goes down or is absent, changing whether injections and take-backs can use the pool. -/
  | poolPortStateChange (up : Bool)
  /-- D3COLD_EXIT (R368). Main power returns after D3cold and the module comes back up from step 2 of the bring-up sequence. -/
  | d3coldExit (coh : Bool) (pod : BitVec 21)
  /-- D3HOT_EXIT (R368). The host returns the module from D3hot to D0, bringing HBM out of self-refresh. -/
  | d3hotExit
  deriving DecidableEq, Repr, Inhabited

end Sys2Proof
end

