-- ==== Sys2Proof/Machine/Fields.lean ====
section
/-! DEFINITION. How each lane major uses its word (R50 to R52, R57, R89 to R98, R101, R203, R136, R247, R280, R309, R329,
R340, R341): the row of every major, and the checks of R63 that depend on the word alone (steps 4 to 6). -/

namespace Sys2Proof

/-! ## Codes of R50 and R51 -/

/-- The TYPE code of R51. -/
def tyCode : Ty → BitVec 5
  | .b32 => 0 | .b64 => 1 | .i8 => 2 | .i16 => 3 | .i32 => 4 | .i64 => 5 | .n8 => 6 | .n16 => 7 | .n32 => 8 | .n64 => 9
  | .f32 => 10 | .f64 => 11 | .bf16 => 12 | .e4m3 => 13 | .e5m2 => 14 | .e2m1 => 15 | .e8m0 => 16
  | .bpn k => BitVec.ofNat 5 (18 + k.val)

/-- The type a TYPE code names; none for a reserved code (R51). -/
def tyOf (c : BitVec 5) : Option Ty :=
  match c.toNat with
  | 0 => some .b32 | 1 => some .b64 | 2 => some .i8 | 3 => some .i16 | 4 => some .i32 | 5 => some .i64
  | 6 => some .n8 | 7 => some .n16 | 8 => some .n32 | 9 => some .n64 | 10 => some .f32 | 11 => some .f64
  | 12 => some .bf16 | 13 => some .e4m3 | 14 => some .e5m2 | 15 => some .e2m1 | 16 => some .e8m0
  | 18 => some (.bpn 0) | 19 => some (.bpn 1) | 20 => some (.bpn 2) | 21 => some (.bpn 3) | 22 => some (.bpn 4)
  | 23 => some (.bpn 5) | 24 => some (.bpn 6)
  | _ => none

/-- The RND code of R50. -/
def rndCode : Rnd → BitVec 3
  | .dflt => 0 | .rne => 1 | .rz => 2 | .rdn => 3 | .rup => 4 | .rna => 5 | .sr => 6

def rndOf (c : BitVec 3) : Option Rnd :=
  match c.toNat with
  | 0 => some .dflt | 1 => some .rne | 2 => some .rz | 3 => some .rdn | 4 => some .rup | 5 => some .rna | 6 => some .sr
  | _ => none

/-- The SCOPE code of R50. -/
def scopeCode : Scope → BitVec 3
  | .grp => 0 | .team => 1 | .die => 2 | .pkg => 3 | .pod => 4 | .sys => 5

def scopeOf (c : BitVec 3) : Option Scope :=
  match c.toNat with
  | 0 => some .grp | 1 => some .team | 2 => some .die | 3 => some .pkg | 4 => some .pod | 5 => some .sys
  | _ => none

/-- Bits of an element of a type (R51, R71, R77). -/
def tyWidth : Ty → Nat
  | .b32 | .i32 | .n32 | .f32 => 32
  | .b64 | .i64 | .n64 | .f64 => 64
  | .i8 | .n8 | .e4m3 | .e5m2 | .e8m0 => 8
  | .i16 | .n16 | .bf16 => 16
  | .e2m1 => 4
  | .bpn k => k.val + 2

/-- A signed integer type. -/
def tySigned : Ty → Bool
  | .i8 | .i16 | .i32 | .i64 => true
  | _ => false

/-- A floating-point type with a rounding. -/
def tyFloat : Ty → Bool
  | .f32 | .f64 | .bf16 | .e4m3 | .e5m2 | .e2m1 => true
  | _ => false

/-- An integer type with a value (R72). -/
def tyInt : Ty → Bool
  | .i8 | .i16 | .i32 | .i64 | .n8 | .n16 | .n32 | .n64 => true
  | _ => false

/-! ## Rows -/

/-- What a field of a lane word holds (R89): nothing (res0); a register of the width of TYPE, of the source type of IMM[4:0],
of 32 bits, of 64 bits, a quad (R213); a predicate, a predicate with sense; an address base or an index (R203); a macro number
(R136); a uniform 32-bit source (R136, R329); a live scalar register (R115); part of JOIN (R280). -/
inductive Fk where
  | no | t | s | r32 | r64 | quad | pred | predS | base | ix | mac | uni | live | join
  deriving DecidableEq, Repr

/-- The row of a lane major. -/
structure LaneRow where
  types  : List Ty
  rndTop : Nat
  scopes : List Scope
  immFor : Option Nat
  vd     : Fk
  va     : Fk
  vb     : Fk
  vc     : Fk
  opxOk  : List Nat
  opxRes : BitVec 3
  imm    : W32
  long   : Bool
  deriving DecidableEq, Repr

def tyI : List Ty := [.i8, .i16, .i32, .i64]
def tyN : List Ty := [.n8, .n16, .n32, .n64]
def tyB : List Ty := [.b32, .b64]
def tyF : List Ty := [.f32, .f64, .bf16]
def tyIN : List Ty := tyI ++ tyN
def tyD : List Ty := [.f32, .f64]
/-- The plain set of R203. -/
def tyPlain : List Ty := tyB ++ tyIN ++ [.f32, .f64, .bf16, .e4m3, .e5m2, .e8m0]
/-- The types of R210. -/
def tyAtomic : List Ty := [.i32, .n32, .i64, .n64, .f32, .f64, .bf16, .b32, .b64]
def tyFmt : List Ty := [.f64, .f32, .bf16, .e4m3, .e5m2, .e2m1]

/-- A row with types .b32, RND 0, SCOPE .grp, no immediate and no field. -/
def rowNone : LaneRow :=
  { types := [.b32], rndTop := 0, scopes := [.grp], immFor := none, vd := .no, va := .no, vb := .no, vc := .no,
    opxOk := [0], opxRes := 7, imm := 0, long := false }

/-- `vd, va, vb` of the type, with the immediate for VB (R95, R98). -/
def rowAB (ts : List Ty) : LaneRow := { rowNone with types := ts, immFor := some 2, vd := .t, va := .t, vb := .t }
/-- `vd, va` of the type. -/
def rowA (ts : List Ty) : LaneRow := { rowNone with types := ts, vd := .t, va := .t }
/-- OPX[0] is a flag. -/
def LaneRow.flag (r : LaneRow) : LaneRow := { r with opxOk := [0, 1], opxRes := 6 }
/-- Integer and logic rows (R95). -/
def rowsInt : List (Nat × LaneRow) :=
  [(0x01, (rowAB tyIN).flag), (0x02, (rowAB tyIN).flag), (0x03, rowAB tyIN), (0x04, rowAB tyIN),
   (0x05, { (rowAB tyIN).flag with vc := .t, immFor := some 3 }),
   (0x06, { rowAB tyIN with long := true }), (0x07, { rowAB tyIN with long := true }),
   (0x08, rowAB tyB), (0x09, rowAB tyB), (0x0A, rowAB tyB), (0x0B, rowAB tyB),
   (0x0C, { rowAB tyB with vb := .r32 }), (0x0D, { rowAB tyB with vb := .r32 }), (0x0E, { rowAB tyB with vb := .r32 }),
   (0x0F, { (rowAB tyB).flag with vb := .r32 }),
   (0x10, rowAB tyIN), (0x11, rowAB tyIN), (0x12, (rowA tyI).flag), (0x13, (rowA tyI).flag),
   (0x14, { rowA tyB with vd := .r32 }), (0x15, { rowA tyB with vd := .r32 }), (0x16, rowA tyB),
   (0x17, { (rowAB tyB).flag with vb := .r32 }),
   (0x18, { rowAB tyB with vc := .r32, immFor := some 3 }),
   (0x19, { rowAB tyB with vc := .predS }),
   (0x1A, { rowA (tyPlain ++ [.e2m1]) with immFor := some 1 }),
   (0x1B, { rowAB (tyIN ++ tyB) with vd := .pred, opxOk := [0, 1, 2, 3, 4, 5], opxRes := 0 }),
   (0x1C, { rowNone with vd := .pred, va := .pred, vb := .pred, vc := .pred, imm := 0xFF }),
   (0x1D, { (rowAB [.n32, .n64]).flag with vc := .pred })]

/-- Floating rows (R98). -/
def rowsFp : List (Nat × LaneRow) :=
  [(0x30, { rowAB tyF with rndTop := 4 }), (0x31, { rowAB tyF with rndTop := 4 }), (0x32, { rowAB tyF with rndTop := 4 }),
   (0x33, { rowAB tyF with rndTop := 4, vc := .t, immFor := some 3 }),
   (0x34, { rowAB tyD with rndTop := 1, long := true }), (0x35, { rowA tyD with rndTop := 1, long := true }),
   (0x36, (rowAB tyF).flag), (0x37, (rowAB tyF).flag),
   (0x38, { rowAB tyF with vd := .pred, opxOk := [0, 1, 2, 3], opxRes := 0 }),
   (0x39, { rowA tyF with vd := .r32 }), (0x3A, { rowA tyF with rndTop := 4 }),
   (0x3B, { rowAB tyF with rndTop := 4, vb := .r32 }),
   (0x3C, { rowA tyD with rndTop := 1, long := true }), (0x3D, { rowA tyD with rndTop := 1, long := true }),
   (0x3E, { rowA tyD with rndTop := 1, long := true }), (0x3F, { rowA tyD with rndTop := 1, long := true }),
   (0x40, { rowA tyD with rndTop := 1, long := true }), (0x41, { rowA tyD with rndTop := 1, long := true })]

/-- The common part of the conversion rows (R101). -/
def rowCvt (ts : List Ty) : LaneRow := { rowNone with types := ts, rndTop := 6, imm := 0x1F }

/-- Conversion rows (R102 to R105). -/
def rowsCvt : List (Nat × LaneRow) :=
  [(0x48, { (rowCvt tyFmt).flag with vd := .t, va := .s }),
   (0x49, { (rowCvt tyIN).flag with vd := .t, va := .s, rndTop := 0 }),
   (0x4A, { (rowCvt (tyIN ++ [.bpn 6])).flag with vd := .t, va := .s }),
   (0x4B, { rowCvt [.bf16, .e4m3, .e5m2, .e2m1, .i8, .n8, .i16, .n16] with
      vd := .r32, va := .r32, vb := .r32, opxOk := [0, 1, 2, 3, 4, 5, 6, 7], opxRes := 0 }),
   (0x4C, { rowCvt [.f32, .i32] with vd := .r32, va := .r32, rndTop := 0, imm := 0xFF }),
   (0x4D, { rowCvt [.e2m1, .e4m3, .e5m2] with vd := .r32, va := .r32 }),
   (0x4E, { (rowCvt [.e2m1, .e4m3, .e5m2]).flag with vd := .t, va := .r32, vb := .r32 }),
   (0x4F, { rowCvt [.f32] with vd := .r32, va := .s, vb := .r32 }),
   (0x50, { rowCvt [.bpn 6] with vd := .r32, va := .r32, imm := 0xFF }),
   (0x51, { rowCvt [.bpn 0, .bpn 1, .bpn 2, .bpn 3, .bpn 4, .bpn 5, .bpn 6] with vd := .r32, va := .r32, imm := 0xFF })]

/-- Cross-lane rows (R108 to R115). VVOTE and VBCAST take their fields from OPX in `rowFor`. -/
def rowsXl : List (Nat × LaneRow) :=
  [(0x60, { rowAB tyB with vb := .r32, opxOk := [0, 1, 2, 3], opxRes := 0 }),
   (0x61, { rowA tyB with opxOk := [0, 1, 2, 3], opxRes := 0 }),
   (0x62, { rowNone with types := tyB, vd := .pred, va := .predS, opxOk := [0, 1, 2, 3], opxRes := 0 }),
   (0x63, { rowA tyB with vd := .r64 }),
   (0x64, { rowA (tyIN ++ tyB ++ tyD) with rndTop := 4, opxOk := [0, 1, 2, 3, 4, 5], opxRes := 0, long := true }),
   (0x65, { rowA (tyIN ++ tyB ++ tyD) with rndTop := 4, opxOk := [0, 1, 2, 3, 4, 5], opxRes := 0, long := true, imm := 1 }),
   (0x66, { rowAB tyB with vb := .r32, opxOk := [0, 1], opxRes := 0 }),
   (0x67, { rowA [.b32, .i32, .b64] with vd := .live })]

/-- Memory rows (R203). -/
def rowMem (ts : List Ty) : LaneRow :=
  { rowNone with types := ts, va := .base, vb := .ix, imm := 0xFFFFFFFF, opxOk := [0, 1, 2, 3], opxRes := 4 }

def rowsMem : List (Nat × LaneRow) :=
  [(0x70, { rowMem tyPlain with vd := .t, opxOk := [0, 1, 2, 3, 4, 5, 6, 7], opxRes := 0, long := true }),
   (0x71, { rowMem tyPlain with vc := .t, opxOk := [0, 1, 2, 3, 4, 5, 6, 7], opxRes := 0 }),
   (0x72, { rowMem tyPlain with vd := .t, opxOk := [0, 2], opxRes := 5, long := true }),
   (0x73, { rowMem tyPlain with vc := .t, opxOk := [0, 2], opxRes := 5 }),
   (0x74, { rowMem tyPlain with vd := .t, vb := .r32, opxOk := [0], opxRes := 7, long := true }),
   (0x75, { rowMem [.b32] with scopes := [.grp, .pkg, .pod] }),
   (0x76, { rowMem tyAtomic with vd := .t, vc := .t, scopes := [.grp, .team, .die, .pkg, .pod, .sys], long := true }),
   (0x77, { rowMem tyAtomic with vd := .t, vc := .t, scopes := [.grp, .team], opxOk := [0, 2], opxRes := 5, long := true }),
   (0x78, { rowMem tyAtomic with vc := .t, scopes := [.grp, .team, .die, .pkg, .pod] }),
   (0x79, { rowMem [.b64] with
      vd := .quad, vc := .quad, scopes := [.grp, .team, .die, .pkg, .pod, .sys], long := true, imm := 0xFFFFFF })]

/-- Matrix rows (R136). -/
def rowsMat : List (Nat × LaneRow) :=
  [(0x90, { rowNone with
      types := [.bf16, .e4m3, .e5m2, .e2m1, .f64, .bpn 6], vd := .mac, va := .uni, vb := .uni, immFor := some 2, imm := 0xFF0100 }),
   (0x91, { rowNone with vd := .mac, va := .r32, vb := .uni, vc := .uni, imm := 0xFF011F }),
   (0x92, { rowNone with
      types := [.b32, .f64], vd := .t, vb := .uni, immFor := some 2, opxOk := [0, 1, 2, 3, 4, 5, 6, 7], opxRes := 0, imm := 0x1F, long := true }),
   (0x93, { rowNone with
      types := [.b32, .f64], va := .t, vb := .uni, immFor := some 2, opxOk := [0, 1, 2, 3, 4, 5, 6, 7], opxRes := 0, imm := 0x1F }),
   (0x94, { rowNone with
      vd := .r32, vb := .uni, immFor := some 2, opxOk := [0, 1, 2, 3, 4, 5, 6, 7], opxRes := 0, imm := 0x7001F, long := true }),
   (0x95, { rowNone with
      va := .r32, vb := .uni, immFor := some 2, opxOk := [0, 1, 2, 3, 4, 5, 6, 7], opxRes := 0, imm := 0x7001F }),
   (0x96, { rowNone with vd := .r32, imm := 0x1F, long := true }),
   (0x97, { rowNone with vd := .mac }),
   (0x98, { rowNone with vd := .mac, imm := 0x1F, opxOk := [0, 1], opxRes := 6 })]

/-- Domino and mailbox rows (R247, R329). -/
def rowsDom : List (Nat × LaneRow) :=
  [(0xA0, { rowNone with imm := 0xFFFFFF }), (0xA1, rowNone), (0xA2, { rowNone with imm := 0xFF }),
   (0xA3, { rowNone with types := [.b64], vd := .r64, opxOk := [0, 1, 2, 3], opxRes := 4 }),
   (0xA8, { rowNone with vd := .r32, va := .r32, vb := .r32, opxOk := [0, 1, 2, 3], opxRes := 4, imm := 0x1FFFFF }),
   (0xA9, { rowNone with va := .uni, immFor := some 1 })]

/-- Control and special rows (R280, R309, R116, R340, R341). -/
def rowsCtl : List (Nat × LaneRow) :=
  [(0xB0, { rowNone with va := .join, vb := .join, vc := .join, imm := 0xFFFFFF }), (0xB1, { rowNone with imm := 0xFFFFFF }),
   (0xB2, { rowNone with va := .r32, imm := 0xFFFFFF }), (0xB3, { rowNone with vd := .r32, imm := 0xFFFFFF }),
   (0xB4, { rowNone with vd := .r32, va := .r32 }), (0xB5, { rowNone with va := .r32 }),
   (0xB6, rowNone), (0xB7, rowNone), (0xB8, rowNone), (0xB9, rowNone), (0xBA, rowNone),
   (0xC0, { rowNone with types := tyB, vd := .t, imm := 0xFF }),
   (0xC1, { rowNone with types := [.b64], va := .t, immFor := some 1, opxOk := [0, 1, 2, 3], opxRes := 0 }),
   (0xC2, { rowNone with va := .r32, immFor := some 1 }),
   (0xC3, { rowNone with va := .r32, immFor := some 1, opxOk := [0, 1], opxRes := 0 }),
   (0xC4, { rowNone with va := .r32, imm := 0xFF }),
   (0xC5, { rowNone with types := tyB, vd := .t, imm := 0xFF })]

/-- Every lane major that is an instruction (R61). -/
def laneRows : List (Nat × LaneRow) :=
  rowsInt ++ rowsFp ++ rowsCvt ++ rowsXl ++ rowsMem ++ rowsMat ++ rowsDom ++ rowsCtl

/-- The row of a major, with the fields that OPX changes: VVOTE ballot writes a register (R110), VBCAST first reads no VB (R114). -/
def rowFor (maj : Nat) (opx : BitVec 3) : Option LaneRow :=
  match laneRows.lookup maj with
  | none => none
  | some r =>
    if maj = 0x62 then some (if opx = 3 then { r with vd := .t } else { r with types := [.b32] })
    else if maj = 0x66 ∧ opx = 1 then some { r with vb := .no }
    else some r

/-- The row of a major known to have one. -/
def rowD (maj : Nat) (opx : BitVec 3) : LaneRow := (rowFor maj opx).getD rowNone

/-! ## Checks on the word alone -/

/-- The IMM bits a word may set: its extra fields, and the immediate where I = 1 (R52, R87, R136). -/
def immAllowed (maj : Nat) (r : LaneRow) (i : Bool) (opx : BitVec 3) : W32 :=
  let base : W32 :=
    if maj = 0x61 then (if opx = 3 then 3 else 0)
    else if maj = 0xA8 ∧ opx &&& 1 = 0 then 0xFFF
    else r.imm
  if i && r.immFor.isSome then
    if maj = 0x90 then base ||| 0x7F
    else if maj = 0x92 ∨ maj = 0x93 then base ||| 0x3F00
    else if maj = 0x94 ∨ maj = 0x95 then base ||| 0xFF00
    else 0xFFFFFFFF
  else base

/-- Bits of a field that break R89 or R52; `pos` is 0 for VD to 3 for VC. -/
def fieldRes (r : LaneRow) (i : Bool) (opx : BitVec 3) (pos : Nat) (k : Fk) (f : LReg) : Bool :=
  if i && r.immFor == some pos then f != 0
  else match k with
    | .no => f != 0
    | .pred => f >>> 3 != 0
    | .predS => f >>> 4 != 0
    | .ix => opx &&& 2 == 0 && f != 0
    | .base => opx &&& 1 == 1 && 192 ≤ f.toNat && f.toNat < 240
    | _ => false

/-- ILLEGAL_MINOR (R62, R92, R97, R100, R108 to R114, R141, R340). -/
def minorBad (maj : Nat) (r : LaneRow) (opx : BitVec 3) (imm : W32) : Bool :=
  !(r.opxOk.contains (opx &&& ~~~ r.opxRes).toNat)
    || (maj == 0x94 && 5 ≤ ((imm >>> 16) &&& 7).toNat)
    || (maj == 0x95 && 6 ≤ ((imm >>> 16) &&& 7).toNat)
    || (maj == 0xC4 && !Tc.software (imm.setWidth 8))

/-- RES0_SET (R52). -/
def resBad (maj : Nat) (r : LaneRow) (vd va vb vc : LReg) (i : Bool) (opx : BitVec 3) (imm : W32) : Bool :=
  opx &&& r.opxRes != 0 || imm &&& ~~~ immAllowed maj r i opx != 0
    || fieldRes r i opx 0 r.vd vd || fieldRes r i opx 1 r.va va || fieldRes r i opx 2 r.vb vb || fieldRes r i opx 3 r.vc vc

/-- The type of a conversion's source (R101). -/
def srcTy (imm : W32) : Option Ty := tyOf (imm.setWidth 5)

/-- TYPE_UNSUPPORTED (R52, R101, R110, R112). -/
def typeBad (maj : Nat) (r : LaneRow) (ty : Option Ty) (opx : BitVec 3) (imm : W32) : Bool :=
  match ty with
  | none => true
  | some t =>
    !(r.types.contains t) || (0x48 ≤ maj && maj ≤ 0x51 && (srcTy imm).isNone)
      || ((maj == 0x64 || maj == 0x65) && ((tyB.contains t && opx.toNat < 3) || (tyFloat t && 3 ≤ opx.toNat)))

/-- The first failing check of steps 4 to 6 of R63. -/
def staticCheck (maj : Nat) (r : LaneRow) (vd va vb vc : LReg) (ty : Option Ty) (rnd : Option Rnd) (scope : Option Scope)
    (i : Bool) (opx : BitVec 3) (imm : W32) : Option Cause :=
  if minorBad maj r opx imm then some Tc.illegalMinor
  else if resBad maj r vd va vb vc i opx imm then some Tc.res0Set
  else if typeBad maj r ty opx imm then some Tc.typeUnsupported
  else if !(rnd.any fun m => (rndCode m).toNat ≤ r.rndTop) then some Tc.roundReserved
  else if !(scope.any fun m => r.scopes.contains m) then some Tc.scopeReserved
  else if i && r.immFor.isNone then some Tc.immNotAllowed
  else none

end Sys2Proof
end

