-- ==== Sys2Proof/Machine/Float.lean ====
section
/-! DEFINITION. Number formats and the one rounding of the machine (R70 to R81, R99): every value is read exactly, an operation
gives its exact result (or the result cut below every rounding point, with a mark for the part cut off), and `roundTo` rounds
once. -/

namespace Sys2Proof

/-- The rounding modes of R78. -/
inductive Rm where
  | rne | rz | rdn | rup | rna | sr
  deriving DecidableEq, Repr

/-- An exact value: NaN, an infinity, a signed zero, or (-1)^neg * m * 2^e with m positive. -/
inductive Fv where
  | nan
  | inf (neg : Bool)
  | zero (neg : Bool)
  | fin (neg : Bool) (m : Nat) (e : Int)
  deriving DecidableEq, Repr

/-- A floating format (R73): exponent bits, fraction bits p, bias. -/
structure Fmt where
  eb   : Nat
  p    : Nat
  bias : Nat
  deriving DecidableEq, Repr

def fmtOf : Ty → Fmt
  | .f64 => ⟨11, 52, 1023⟩
  | .bf16 => ⟨8, 7, 127⟩
  | .e5m2 => ⟨5, 2, 15⟩
  | .e4m3 => ⟨4, 3, 7⟩
  | .e2m1 => ⟨2, 1, 1⟩
  | _ => ⟨8, 23, 127⟩

/-- Width of the format with its sign. -/
def Fmt.width (f : Fmt) : Nat := f.eb + f.p + 1
/-- The sign bit in place. -/
def signAt (f : Fmt) (neg : Bool) : Nat := if neg then 2 ^ (f.eb + f.p) else 0
/-- The encoding of the largest finite magnitude (R74). -/
def maxBits (t : Ty) : Nat :=
  match t with
  | .e4m3 => 0x7E
  | .e2m1 => 0x7
  | _ => let f := fmtOf t; (2 ^ f.eb - 1) * 2 ^ f.p - 1
/-- NaNResult (R73, R80). -/
def nanBits (t : Ty) : Nat :=
  match t with
  | .f64 => 0x7FF8000000000000 | .f32 => 0x7FC00000 | .bf16 => 0x7FC0 | .e5m2 => 0x7E | .e4m3 => 0x7F | .e8m0 => 0xFF
  | _ => 0
/-- InfResult (R79). -/
def infBits (t : Ty) (neg sat : Bool) : Nat :=
  let f := fmtOf t
  match t with
  | .e2m1 => signAt f neg + maxBits t
  | .e4m3 => if sat then signAt f neg + maxBits t else 0x7F
  | _ => if sat then signAt f neg + maxBits t else signAt f neg + (2 ^ f.eb - 1) * 2 ^ f.p

/-- The value of an encoding (R73). -/
def valueOf (t : Ty) (bits : Nat) : Fv :=
  match t with
  | .e8m0 => let e := bits % 256; if e = 255 then .nan else .fin false 1 ((e : Int) - 127)
  | _ =>
    let f := fmtOf t
    let neg := bits / 2 ^ (f.eb + f.p) % 2 = 1
    let e := bits / 2 ^ f.p % 2 ^ f.eb
    let m := bits % 2 ^ f.p
    let special : Bool := match t with
      | .e4m3 => e = 15 ∧ m = 7
      | .e2m1 => false
      | _ => e = 2 ^ f.eb - 1
    if special then (if m = 0 then .inf neg else .nan)
    else if e = 0 then (if m = 0 then .zero neg else .fin neg m (1 - (f.bias : Int) - f.p))
    else .fin neg (2 ^ f.p + m) ((e : Int) - f.bias - f.p)

/-- An integer as an exact value; integer zero is +0. -/
def ofInt (n : Int) : Fv := if n = 0 then .zero false else .fin (n < 0) n.natAbs 0

/-! ## Rounding -/

/-- Increment of R78: `r` of `2^sh` is the fraction, `h` the SR hash. -/
def increment (mode : Rm) (neg : Bool) (n r sh h : Nat) : Bool :=
  match mode with
  | .rne => 2 ^ sh < 2 * r || (2 * r == 2 ^ sh && r != 0 && n % 2 == 1)
  | .rz => false
  | .rdn => r != 0 && neg
  | .rup => r != 0 && !neg
  | .rna => r != 0 && 2 ^ sh ≤ 2 * r
  | .sr => 2 ^ 32 ≤ r * 2 ^ 32 / 2 ^ sh + h

/-- The integer nearest m * 2^(e - u) under the mode, with `u` the unit exponent. -/
def roundUnits (mode : Rm) (neg : Bool) (m : Nat) (e u : Int) (h : Nat) : Nat :=
  if u ≤ e then m * 2 ^ (e - u).toNat
  else
    let sh := (u - e).toNat
    let n := m / 2 ^ sh
    let r := m % 2 ^ sh
    if increment mode neg n r sh h then n + 1 else n

/-- Overflow (R79). -/
def overflowBits (t : Ty) (mode : Rm) (neg sat : Bool) : Nat :=
  let f := fmtOf t
  let big := signAt f neg + maxBits t
  if sat || t = .e2m1 then big
  else match mode with
    | .rne | .rna | .sr => infBits t neg false
    | .rz => big
    | .rdn => if neg then infBits t neg false else big
    | .rup => if neg then big else infBits t neg false

/-- RoundToFormat for a floating destination (R78 to R80). -/
def roundTo (t : Ty) (mode : Rm) (sat : Bool) (h : Nat) (x : Fv) : Nat :=
  let f := fmtOf t
  match x with
  | .nan => nanBits t
  | .inf neg => infBits t neg sat
  | .zero neg => signAt f neg
  | .fin neg m e =>
    let top : Int := (Nat.log2 m : Int) + e
    let emin : Int := 1 - (f.bias : Int)
    let u : Int := (if emin ≤ top then top else emin) - f.p
    let n := roundUnits mode neg m e u h
    let bits := (u + f.p + f.bias - 1).toNat * 2 ^ f.p + n
    if n = 0 then signAt f neg
    else if maxBits t < bits then overflowBits t mode neg sat
    else signAt f neg + bits

/-- The range of an integer type. -/
def intMin (t : Ty) : Int := if tySigned t then -(2 ^ (tyWidth t - 1) : Nat) else 0
def intMax (t : Ty) : Int := if tySigned t then (2 ^ (tyWidth t - 1) : Nat) - 1 else (2 ^ tyWidth t : Nat) - 1

/-- The w-bit pattern of an integer. -/
def wrapInt (w : Nat) (n : Int) : Nat := (n % (2 ^ w : Nat)).toNat

/-- INDEF (R81). -/
def indef (t : Ty) : Int := if tySigned t then intMin t else intMax t

/-- RoundToFormat for an integer destination (R81), as the bits of the type. -/
def roundToInt (t : Ty) (mode : Rm) (sat : Bool) (h : Nat) (x : Fv) : Nat :=
  let w := tyWidth t
  match x with
  | .nan => wrapInt w (if sat then 0 else indef t)
  | .inf neg => wrapInt w (if sat then (if neg then intMin t else intMax t) else indef t)
  | .zero _ => 0
  | .fin neg m e =>
    let n : Int := (roundUnits mode neg m e 0 h : Nat)
    let v : Int := if neg then -n else n
    if v < intMin t then wrapInt w (if sat then intMin t else indef t)
    else if intMax t < v then wrapInt w (if sat then intMax t else indef t)
    else wrapInt w v

/-! ## Exact operations (R98, R99) -/

def Fv.neg : Fv → Fv
  | .nan => .nan
  | .inf s => .inf (!s)
  | .zero s => .zero (!s)
  | .fin s m e => .fin (!s) m e

def Fv.isNan : Fv → Bool
  | .nan => true
  | _ => false

/-- The signed integer m * 2^(e - lo). -/
def scaled (neg : Bool) (m : Nat) (e lo : Int) : Int :=
  let v : Int := (m * 2 ^ (e - lo).toNat : Nat)
  if neg then -v else v

/-- Exact sum, with the sign of an exact zero (R99). -/
def fvAdd (mode : Rm) (x y : Fv) : Fv :=
  match x, y with
  | .nan, _ => .nan
  | _, .nan => .nan
  | .inf a, .inf b => if a = b then .inf a else .nan
  | .inf a, _ => .inf a
  | _, .inf b => .inf b
  | .zero a, .zero b => if a = b then .zero a else .zero (mode = .rdn)
  | .zero _, y => y
  | x, .zero _ => x
  | .fin a m e, .fin b n k =>
    let lo := if e ≤ k then e else k
    let v := scaled a m e lo + scaled b n k lo
    if v = 0 then .zero (mode = .rdn) else .fin (v < 0) v.natAbs lo

/-- Exact product. -/
def fvMul (x y : Fv) : Fv :=
  match x, y with
  | .nan, _ => .nan
  | _, .nan => .nan
  | .inf _, .zero _ => .nan
  | .zero _, .inf _ => .nan
  | .inf a, .inf b => .inf (a ^^ b)
  | .inf a, .fin b _ _ => .inf (a ^^ b)
  | .fin a _ _, .inf b => .inf (a ^^ b)
  | .zero a, .zero b => .zero (a ^^ b)
  | .zero a, .fin b _ _ => .zero (a ^^ b)
  | .fin a _ _, .zero b => .zero (a ^^ b)
  | .fin a m e, .fin b n k => .fin (a ^^ b) (m * n) (e + k)

/-- A value cut to `q` units of 2^e, with a lowest bit that says whether something was cut off. -/
def cut (neg : Bool) (q : Nat) (rest : Bool) (e : Int) : Fv := .fin neg (2 * q + (if rest then 1 else 0)) (e - 1)

/-- Quotient, cut at least 60 bits below its leading bit. -/
def fvDiv (x y : Fv) : Fv :=
  match x, y with
  | .nan, _ => .nan
  | _, .nan => .nan
  | .inf _, .inf _ => .nan
  | .zero _, .zero _ => .nan
  | .inf a, .zero b => .inf (a ^^ b)
  | .inf a, .fin b _ _ => .inf (a ^^ b)
  | .zero a, .inf b => .zero (a ^^ b)
  | .zero a, .fin b _ _ => .zero (a ^^ b)
  | .fin a _ _, .inf b => .zero (a ^^ b)
  | .fin a _ _, .zero b => .inf (a ^^ b)
  | .fin a m e, .fin b n k =>
    let sh := 64 + Nat.log2 n
    let p := m * 2 ^ sh
    cut (a ^^ b) (p / n) (p % n != 0) (e - k - sh)

/-- Square root, cut far below its leading bit. -/
def fvSqrt (x : Fv) : Fv :=
  match x with
  | .nan => .nan
  | .inf s => if s then .nan else .inf false
  | .zero s => .zero s
  | .fin true _ _ => .nan
  | .fin false m e =>
    let sh : Nat := if e % 2 = 0 then 130 else 131
    let p := m * 2 ^ sh
    let q := Nat.sqrt p
    cut false q (q * q != p) ((e - sh) / 2)

/-- 1 / sqrt a. -/
def fvRsqrt (x : Fv) : Fv :=
  match x with
  | .nan => .nan
  | .inf s => if s then .nan else .zero false
  | .zero s => .inf s
  | .fin true _ _ => .nan
  | .fin false m e =>
    -- 1 / sqrt (m 2^e) = sqrt (2^(2k) / m') 2^-(k + e'/2), with m' 2^e' = m 2^e and e' even
    let odd : Bool := e % 2 == 1
    let m' := if odd then 2 * m else m
    let e' : Int := if odd then e - 1 else e
    let k := 130 + Nat.log2 m'
    let q := Nat.sqrt (2 ^ (2 * k) / m')
    cut false q (q * q * m' != 2 ^ (2 * k)) (-(k : Int) - e' / 2)

/-- Round to an integer in the mode (FRND); a zero keeps the sign of the operand. -/
def fvRint (mode : Rm) (x : Fv) : Fv :=
  match x with
  | .fin s m e => let n := roundUnits mode s m e 0 0; if n = 0 then .zero s else .fin s n 0
  | x => x

/-- a * 2^b; exponents beyond 8192 stand for 8192, past every format's range. -/
def fvScale (x : Fv) (b : Int) : Fv :=
  match x with
  | .fin s m e => .fin s m (e + (if b < -8192 then -8192 else if 8192 < b then 8192 else b))
  | x => x

/-- x < y on values that are not NaN, with -0 below +0 when `signed0`. -/
def fvLt (signed0 : Bool) (x y : Fv) : Bool :=
  match x, y with
  | .nan, _ => false
  | _, .nan => false
  | .inf a, .inf b => a && !b
  | .inf a, _ => a
  | _, .inf b => !b
  | .zero a, .zero b => signed0 && a && !b
  | .zero _, .fin b _ _ => !b
  | .fin a _ _, .zero _ => a
  | .fin a m e, .fin b n k =>
    let lo := if e ≤ k then e else k
    scaled a m e lo < scaled b n k lo

/-- Numerical equality; +0 equals -0. -/
def fvEq (x y : Fv) : Bool := !x.isNan && !y.isNan && !fvLt false x y && !fvLt false y x

/-- FMIN and FMAX (R100). -/
def fvMinMax (isMax num : Bool) (x y : Fv) : Fv :=
  match x, y with
  | .nan, y => if num then y else .nan
  | x, .nan => if num then x else .nan
  | x, y => if fvLt true x y then (if isMax then y else x) else (if isMax then x else y)

/-- The FCLASS mask (R100). -/
def fclassBits (t : Ty) (bits : Nat) : Nat :=
  let f := fmtOf t
  match valueOf t bits with
  | .nan => if bits / 2 ^ (f.p - 1) % 2 = 0 then 1 else 2
  | .inf s => if s then 4 else 512
  | .zero s => if s then 32 else 64
  | .fin s m e =>
    let normal : Bool := 2 ^ f.p ≤ m ∨ 1 - (f.bias : Int) - f.p < e
    if normal then (if s then 8 else 256) else (if s then 16 else 128)

/-! ## Exponent, logarithm and trigonometric functions (R98, R99)

Each is computed in fixed point with P fraction bits, bounded by an error of 2^12 units; when both ends of the bound agree far
below the last bit of the format the value is cut there, and P is doubled otherwise. The functions are irrational wherever this
is used, so the cut value rounds as the exact one. -/

/-- atanh(1/k)-like series: sum of x^(2i+1)/(2i+1), with `x` and `x2 = x^2` in fixed point. -/
def atanhSum (P x2 : Nat) : Nat → Nat → Nat → Nat → Nat
  | 0, _, _, acc => acc
  | fuel + 1, term, i, acc => if term = 0 then acc else atanhSum P x2 fuel (term * x2 / 2 ^ P) (i + 2) (acc + term / i)

/-- atanh of x in fixed point, 0 ≤ x ≤ 1/3. -/
def fixAtanh (P x : Nat) : Nat := atanhSum P (x * x / 2 ^ P) (P + 8) x 1 0

/-- Alternating series of atan(1/k) in fixed point. -/
def atanSum (k2 : Nat) : Nat → Nat → Nat → Bool → Int → Int
  | 0, _, _, _, acc => acc
  | fuel + 1, term, i, minus, acc =>
    if term = 0 then acc
    else
      let v : Int := (term / i : Nat)
      atanSum k2 fuel (term / k2) (i + 2) (!minus) (if minus then acc - v else acc + v)

def fixAtanInv (P k : Nat) : Int := atanSum (k * k) (P + 8) (2 ^ P / k) 1 false 0
/-- pi in fixed point (Machin). -/
def fixPi (P : Nat) : Nat := (4 * (4 * fixAtanInv (P + 16) 5 - fixAtanInv (P + 16) 239)).toNat / 2 ^ 16
/-- ln 2 in fixed point. -/
def fixLn2 (P : Nat) : Nat := 2 * fixAtanh (P + 16) (2 ^ (P + 16) / 3) / 2 ^ 16

/-- exp of t in fixed point, 0 ≤ t < 1: sum of t^i / i!. -/
def expSum (P t : Nat) : Nat → Nat → Nat → Nat → Nat
  | 0, _, _, acc => acc
  | fuel + 1, term, i, acc => if term = 0 then acc else expSum P t fuel (term * t / 2 ^ P / i) (i + 1) (acc + term)

/-- sin of t in fixed point, 0 ≤ t < 2: alternating sum of t^i / i!. -/
def sinSum (P t2 : Nat) : Nat → Nat → Nat → Bool → Int → Int
  | 0, _, _, _, acc => acc
  | fuel + 1, term, i, minus, acc =>
    if term = 0 then acc
    else
      let next := term * t2 / 2 ^ P / ((i + 1) * (i + 2))
      sinSum P t2 fuel next (i + 2) (!minus) (if minus then acc - (term : Nat) else acc + (term : Nat))

/-- Cut a fixed-point value of error at most 2^12 units at 64 bits below its leading bit, when the bound settles those bits. -/
def settle (neg : Bool) (v P : Nat) (e : Int) : Option Fv :=
  let lg := Nat.log2 v
  if lg < 90 then none
  else
    let sh := lg - 64
    if (v - 4096) / 2 ^ sh = (v + 4096) / 2 ^ sh then some (cut neg (v / 2 ^ sh) true (e + sh - P)) else none

/-- The first precision that settles the value. -/
def refine (f : Nat → Option Fv) : Nat → Nat → Fv
  | 0, _ => .nan
  | fuel + 1, P => match f P with
    | some v => v
    | none => refine f fuel (2 * P)

/-- The fixed-point image of m * 2^e with P fraction bits (rounded down). -/
def toFix (m : Nat) (e : Int) (P : Nat) : Nat :=
  let k := e + P
  if 0 ≤ k then m * 2 ^ k.toNat else m / 2 ^ (-k).toNat

/-- 2^a. -/
def fvExp2 (x : Fv) : Fv :=
  match x with
  | .nan => .nan
  | .inf s => if s then .zero false else .inf false
  | .zero _ => .fin false 1 0
  | .fin s m e =>
    if (Nat.log2 m : Int) + e < -64 then (if s then cut false (2 ^ 70 - 1) true (-70) else cut false (2 ^ 70) true (-70))
    else if 20 < (Nat.log2 m : Int) + e then .fin false 1 (if s then -8192 else 8192)
    else
      -- x = n + f with f in [0, 1), both exact
      let k := (-e).toNat
      let v : Int := scaled s m e (if e ≤ 0 then e else 0)
      let n : Int := v / (2 ^ k : Nat)
      let fr : Nat := (v % (2 ^ k : Nat)).toNat
      if fr = 0 then .fin false 1 n
      else refine (fun P =>
        let t := toFix fr (-(k : Int)) P * fixLn2 P / 2 ^ P
        settle false (expSum P t (P + 8) (2 ^ P) 1 0) P n) 6 192

/-- log2 a. -/
def fvLog2 (x : Fv) : Fv :=
  match x with
  | .nan => .nan
  | .inf s => if s then .nan else .inf false
  | .zero _ => .inf true
  | .fin true _ _ => .nan
  | .fin false m e =>
    let lg := Nat.log2 m
    let n : Int := (lg : Int) + e
    if m = 2 ^ lg then ofInt n
    else refine (fun P =>
      -- y in (1, 2), log2 y = 2 atanh((y - 1)/(y + 1)) / ln 2
      let z := (m - 2 ^ lg) * 2 ^ P / (m + 2 ^ lg)
      let f : Nat := 2 * fixAtanh P z * 2 ^ P / fixLn2 P
      let v : Int := n * (2 ^ P : Nat) + (f : Nat)
      settle (v < 0) v.natAbs P 0) 6 256

/-- sin(pi y) for y = m * 2^e in (0, 1/2]. -/
def sinHalf (neg : Bool) (m : Nat) (e : Int) : Fv :=
  if toFix m e 1 = 1 then .fin neg 1 0
  else refine (fun P0 =>
    let P := P0 + (if 0 < -((Nat.log2 m : Int) + e) then (-((Nat.log2 m : Int) + e)).toNat else 0)
    let t := toFix m e P * fixPi P / 2 ^ P
    settle neg (sinSum P (t * t / 2 ^ P) (P + 8) t 1 false 0).toNat P 0) 6 256

/-- sin(pi r / 2^k) for r in [0, 2^(k+1)), by symmetry about 1/2, 1 and 3/2; `zneg` is the sign of an exact zero. -/
def sinTurn (neg zneg : Bool) (r k : Nat) : Fv :=
  let half := 2 ^ k
  let (neg, r) := if half ≤ r then (!neg, r - half) else (neg, r)
  if r = 0 then .zero zneg
  else
    let r := if half < 2 * r then half - r else r
    sinHalf neg r (-(k : Int))

/-- sin(pi a). -/
def fvSinpi (x : Fv) : Fv :=
  match x with
  | .nan => .nan
  | .inf _ => .nan
  | .zero s => .zero s
  | .fin s m e =>
    let k := (-e).toNat
    let v : Nat := m * 2 ^ e.toNat
    sinTurn s s (v % 2 ^ (k + 1)) k

/-- cos(pi a): sin(pi (1/2 + |a|)). -/
def fvCospi (x : Fv) : Fv :=
  match x with
  | .nan => .nan
  | .inf _ => .nan
  | .zero _ => .fin false 1 0
  | .fin _ m e =>
    if (Nat.log2 m : Int) + e < -64 then cut false (2 ^ 70 - 1) true (-70)
    else
      let k := (-e).toNat + 1
      let v : Nat := m * 2 ^ (e + k).toNat
      sinTurn false false ((v + 2 ^ (k - 1)) % 2 ^ (k + 1)) k

end Sys2Proof
end

