-- ==== Sys2Proof/WellFormed.lean ====
section
/-! DEFINITION. Which instructions have a word: the static checks of R63 hold of every field. Rows without an encoding are
steps of other units and carry any argument. -/

namespace Sys2Proof

/-- A lane word of major `maj` passes steps 4 to 6 of R63. -/
def laneWf (maj : Nat) (w : LaneW) : Bool :=
  match rowFor maj w.opx with
  | none => false
  | some r =>
    (staticCheck maj r w.vd w.va w.vb w.vc (some w.ty) (some w.rnd) (some w.scope) w.i w.opx w.imm).isNone

/-- Well-formedness of an instruction. -/
def Instr.wf (i : Instr) : Bool :=
  match i with
  | .sbar l => l != 3
  | .strap _ c => Tc.software c
  | .vadd w => laneWf 0x01 w
  | .vsub w => laneWf 0x02 w
  | .vmul w => laneWf 0x03 w
  | .vmulh w => laneWf 0x04 w
  | .vmad w => laneWf 0x05 w
  | .vdiv w => laneWf 0x06 w
  | .vrem w => laneWf 0x07 w
  | .vand w => laneWf 0x08 w
  | .vor w => laneWf 0x09 w
  | .vxor w => laneWf 0x0A w
  | .vandn w => laneWf 0x0B w
  | .vshl w => laneWf 0x0C w
  | .vshr w => laneWf 0x0D w
  | .vsra w => laneWf 0x0E w
  | .vrot w => laneWf 0x0F w
  | .vmin w => laneWf 0x10 w
  | .vmax w => laneWf 0x11 w
  | .vabs w => laneWf 0x12 w
  | .vneg w => laneWf 0x13 w
  | .vclz w => laneWf 0x14 w
  | .vpopc w => laneWf 0x15 w
  | .vbrev w => laneWf 0x16 w
  | .vbfe w => laneWf 0x17 w
  | .vbfi w => laneWf 0x18 w
  | .vsel w => laneWf 0x19 w
  | .vmov w => laneWf 0x1A w
  | .vcmp w => laneWf 0x1B w
  | .vplog w => laneWf 0x1C w
  | .vaddc w => laneWf 0x1D w
  | .fadd w => laneWf 0x30 w
  | .fsub w => laneWf 0x31 w
  | .fmul w => laneWf 0x32 w
  | .ffma w => laneWf 0x33 w
  | .fdiv w => laneWf 0x34 w
  | .fsqrt w => laneWf 0x35 w
  | .fmin w => laneWf 0x36 w
  | .fmax w => laneWf 0x37 w
  | .fcmp w => laneWf 0x38 w
  | .fclass w => laneWf 0x39 w
  | .frnd w => laneWf 0x3A w
  | .fscale w => laneWf 0x3B w
  | .frcp w => laneWf 0x3C w
  | .frsq w => laneWf 0x3D w
  | .fexp2 w => laneWf 0x3E w
  | .flog2 w => laneWf 0x3F w
  | .fsinpi w => laneWf 0x40 w
  | .fcospi w => laneWf 0x41 w
  | .cvtf w => laneWf 0x48 w
  | .cvti w => laneWf 0x49 w
  | .cvtfi w => laneWf 0x4A w
  | .cvtn w => laneWf 0x4B w
  | .cvtw w => laneWf 0x4C w
  | .mxscale w => laneWf 0x4D w
  | .mxpack w => laneWf 0x4E w
  | .mxunpack w => laneWf 0x4F w
  | .bpnsplit w => laneWf 0x50 w
  | .bpnjoin w => laneWf 0x51 w
  | .vshfl w => laneWf 0x60 w
  | .qxch w => laneWf 0x61 w
  | .vvote w => laneWf 0x62 w
  | .vmatch w => laneWf 0x63 w
  | .vred w => laneWf 0x64 w
  | .vscan w => laneWf 0x65 w
  | .vbcast w => laneWf 0x66 w
  | .vtos w => laneWf 0x67 w
  | .ldg w => laneWf 0x70 w
  | .stg w => laneWf 0x71 w
  | .lds w => laneWf 0x72 w
  | .sts w => laneWf 0x73 w
  | .ldx w => laneWf 0x74 w
  | .pref w => laneWf 0x75 w
  | .atomg w => laneWf 0x76 w
  | .atoms w => laneWf 0x77 w
  | .redg w => laneWf 0x78 w
  | .cas128 w => laneWf 0x79 w
  | .mldb w => laneWf 0x90 w
  | .mma w => laneWf 0x91 w
  | .mdrain w => laneWf 0x92 w
  | .mfill w => laneWf 0x93 w
  | .mdrainb w => laneWf 0x94 w
  | .mfillb w => laneWf 0x95 w
  | .mstat w => laneWf 0x96 w
  | .mresume w => laneWf 0x97 w
  | .mclr w => laneWf 0x98 w
  | .dbegin w => laneWf 0xA0 w
  | .dcommit w => laneWf 0xA1 w
  | .dabort w => laneWf 0xA2 w
  | .dstat w => laneWf 0xA3 w
  | .mbsend w => laneWf 0xA8 w
  | .mbgen w => laneWf 0xA9 w
  | .vbr w => laneWf 0xB0 w
  | .vjmp w => laneWf 0xB1 w
  | .vjmpi w => laneWf 0xB2 w
  | .vcall w => laneWf 0xB3 w
  | .vcalli w => laneWf 0xB4 w
  | .vret w => laneWf 0xB5 w
  | .vjoin w => laneWf 0xB6 w
  | .vland w => laneWf 0xB7 w
  | .vexit w => laneWf 0xB8 w
  | .lend w => laneWf 0xB9 w
  | .vnop w => laneWf 0xBA w
  | .vgets w => laneWf 0xC0 w
  | .setexec w => laneWf 0xC1 w
  | .setpart w => laneWf 0xC2 w
  | .setcvm w => laneWf 0xC3 w
  | .vtrap w => laneWf 0xC4 w
  | .vgett w => laneWf 0xC5 w
  | .saddReg _ _ _ => true
  | .ssub _ _ _ => true
  | .smulReg _ _ _ => true
  | .smulh _ _ _ _ => true
  | .sdivReg _ _ _ _ => true
  | .sremReg _ _ _ _ => true
  | .sandReg _ _ _ => true
  | .sorReg _ _ _ => true
  | .sxorReg _ _ _ => true
  | .sshlReg _ _ _ => true
  | .sshrReg _ _ _ => true
  | .ssraReg _ _ _ => true
  | .sminReg _ _ _ _ => true
  | .smaxReg _ _ _ _ => true
  | .scmp _ _ _ _ => true
  | .ssel _ _ _ => true
  | .smovReg _ _ => true
  | .saddImm _ _ _ => true
  | .smulImm _ _ _ => true
  | .sdivImm _ _ _ => true
  | .sremImm _ _ _ => true
  | .sandImm _ _ _ => true
  | .sorImm _ _ _ => true
  | .sxorImm _ _ _ => true
  | .sshlImm _ _ _ => true
  | .sshrImm _ _ _ => true
  | .ssraImm _ _ _ => true
  | .sminImm _ _ _ => true
  | .smaxImm _ _ _ => true
  | .smovImm _ _ => true
  | .sld64 _ _ _ => true
  | .sldN32 _ _ _ => true
  | .sldI32 _ _ _ => true
  | .sst64 _ _ _ => true
  | .sstN32 _ _ _ => true
  | .sldw _ _ _ => true
  | .sbr _ _ _ _ => true
  | .sjmp _ => true
  | .sjmpi _ => true
  | .scall _ => true
  | .sret _ => true
  | .lrun _ => true
  | .lsync => true
  | .waittl _ _ => true
  | .arma _ _ _ _ => true
  | .waita _ => true
  | .waitcmp _ _ _ _ _ _ => true
  | .waitif _ _ => true
  | .sfence _ _ => true
  | .sget _ _ => true
  | .sset _ _ => true
  | .sexit => true
  | .eret => true
  | .snop => true
  | .limm _ => true
  | .pairWord _ => true
  | .laneBlockStart _ => true
  | .matrixCmdAccept _ => true
  | .mldbComplete _ => true
  | .mmaComplete _ => true
  | .mclrComplete _ => true
  | .matrixEventPush _ => true
  | .matrixStop _ => true
  | .storeSetLeave _ => true
  | .loadSetCommit _ => true
  | .storeSetCommit _ => true
  | .homeSliceLoad _ _ => true
  | .homeSliceStore _ _ => true
  | .homeSliceAtomic _ _ => true
  | .writeQueueApply _ => true
  | .publish _ => true
  | .amcTagLookup _ => true
  | .tagScrub _ => true
  | .hintLookup _ => true
  | .directoryLookup _ => true
  | .registration _ => true
  | .holderRead _ => true
  | .notHeldAnswer _ => true
  | .staleAnswer _ => true
  | .registrationAck _ => true
  | .pageInstall _ => true
  | .takeBack _ => true
  | .climbTimeout _ => true
  | .dirFullTimeout _ => true
  | .crownTransaction _ => true
  | .invalidation _ => true
  | .invalidationAck _ => true
  | .crownRelease _ => true
  | .crownGrant _ => true
  | .crownCompletion _ => true
  | .crownHoldExpire _ => true
  | .freeFrameSummary => true
  | .injectionOffer _ => true
  | .injectionAnswer _ => true
  | .injectionConfirm _ => true
  | .poolInjection _ => true
  | .injectionRetry _ => true
  | .transitTimeout _ => true
  | .directoryRebuild _ => true
  | .recallQuery _ => true
  | .rebuildTimeout _ => true
  | .amQuery => true
  | .amStats => true
  | .amPark => true
  | .amUnpark => true
  | .amRetire => true
  | .amDiscard => true
  | .waitEntryPlace _ => true
  | .wake _ => true
  | .waitcmpRepoll _ => true
  | .copy _ => true
  | .fill _ => true
  | .copy2d _ => true
  | .bpnprefix _ => true
  | .put _ => true
  | .get _ => true
  | .atom _ => true
  | .signal _ => true
  | .engineCmdComplete _ _ _ => true
  | .completionWordPush _ _ => true
  | .fabricGranuleArrive _ => true
  | .fabricAck _ => true
  | .fabricTimeout _ _ => true
  | .arrivalCount _ => true
  | .countTableTimeout _ => true
  | .dbeginSlotGrant _ => true
  | .dominoEdgeRequest _ _ => true
  | .dominoAbortComplete _ => true
  | .dominoCommitStart _ => true
  | .dominoCommitComplete _ => true
  | .recallHoldTimeout _ => true
  | .preemptDeferTimeout _ => true
  | .lqBaseWrite _ _ _ => true
  | .launchKernel _ => true
  | .launchRagged _ => true
  | .launchWaitOnly _ => true
  | .teamPlace _ => true
  | .sramClearDone _ => true
  | .groupRetire _ => true
  | .launchRetire _ => true
  | .cslCommit _ => true
  | .cslCommitApply => true
  | .barrierRelease _ _ _ => true
  | .watchdog _ => true
  | .safepointGap _ => true
  | .preemptRequest _ => true
  | .teamSwapOut _ => true
  | .preemptSaveEntry _ => true
  | .teamSeal _ => true
  | .teamResume _ => true
  | .trapDelivery _ => true
  | .checkpointGo _ _ => true
  | .checkpointHoldClear _ => true
  | .launchRollback _ _ => true
  | .strikeReport _ => true
  | .pageWalk _ => true
  | .walkTimeout _ => true
  | .faultRecordWrite _ => true
  | .fqBaseWrite _ _ => true
  | .fqReplaySeq _ _ => true
  | .fqReplayAll _ => true
  | .fqReplayKill _ _ => true
  | .faultRetry _ _ => true
  | .tlbiGo _ _ => true
  | .tlbiDone _ => true
  | .hostApertureAccess _ _ _ _ => true
  | .hostAtomicInbound _ => true
  | .hostSnoop _ => true
  | .epBind _ _ => true
  | .epRebind _ _ => true
  | .epUnbind _ _ => true
  | .mbxGenWrite _ _ => true
  | .mailboxSendAccept _ => true
  | .mbgenApply _ => true
  | .mbxQueryAnswer _ => true
  | .stageAssign => true
  | .stageSaveDone _ => true
  | .stageRestoreDone _ => true
  | .stageResetDone _ => true
  | .mbxActRead _ _ => true
  | .mbxStepRead _ _ => true
  | .mbxGenRead _ _ => true
  | .mbxStatAccess _ _ _ _ => true
  | .mbxObsWrite _ _ => true
  | .observationPost _ => true
  | .observationCount _ => true
  | .episodeRunaway _ _ => true
  | .episodeFault _ _ _ => true
  | .faqRecord _ _ _ => true
  | .ringBaseWrite _ _ => true
  | .bankTestGo _ => true
  | .bankTestDone _ => true
  | .tmcBadframeAppend _ => true
  | .selfRefreshEntry _ _ => true
  | .powerOn _ _ _ _ => true
  | .moduleReset _ => true
  | .stationStateChange _ _ => true
  | .podLost _ _ => true
  | .dieGate _ => true
  | .dieUngate _ => true
  | .pmGateWrite _ => true
  | .d3hotEntry => true
  | .d3coldEntry => true
  | .thermalEval _ _ _ => true
  | .thermalShutdown _ => true
  | .getVersion => true
  | .getCapabilities => true
  | .negotiateAlgorithms => true
  | .getDigests => true
  | .getCertificate => true
  | .challenge => true
  | .getMeasurements => true
  | .registerWrite _ _ => true
  | .stageInstructionIssue _ => true
  | .poolPortStateChange _ => true
  | .d3coldExit _ _ => true
  | .d3hotExit => true

end Sys2Proof
end

