-- ==== Sys2Proof/Decode.lean ====
section
/-! DEFINITION. The decoder of scalar words (R44 to R48, R60, R92) and lane words (R49 to R54, R61, R62): total on any bits,
rejecting by the cause of R63, and after it the encoder of every row that has an encoding. A row without an encoding has no
word. Scalar words keep an unchecked condition, level, scope or software code in their fields: the instruction itself raises
the cause it deserves. -/

namespace Sys2Proof

/-! ## Scalar words -/

/-- An instruction, or RES0_SET when an unused bit is set (R44). -/
def orRes (bad : Bool) (i : Instr) : Except Cause Instr := if bad then .error Tc.res0Set else .ok i

/-- Major 0x01 by fn (R92). -/
def decodeFn (d a b : SReg) (fn : BitVec 8) : Except Cause Instr :=
  match (fn &&& 0x1F).toNat with
  | 0x00 => orRes (fn &&& 0xE0 != 0) (.saddReg d a b)
  | 0x01 => orRes (fn &&& 0xE0 != 0) (.ssub d a b)
  | 0x02 => orRes (fn &&& 0xE0 != 0) (.smulReg d a b)
  | 0x03 => orRes (fn &&& 0xC0 != 0) (.smulh d a b (fn.extractLsb' 5 1))
  | 0x04 => orRes (fn &&& 0xC0 != 0) (.sdivReg d a b (fn.extractLsb' 5 1))
  | 0x05 => orRes (fn &&& 0xC0 != 0) (.sremReg d a b (fn.extractLsb' 5 1))
  | 0x06 => orRes (fn &&& 0xE0 != 0) (.sandReg d a b)
  | 0x07 => orRes (fn &&& 0xE0 != 0) (.sorReg d a b)
  | 0x08 => orRes (fn &&& 0xE0 != 0) (.sxorReg d a b)
  | 0x09 => orRes (fn &&& 0xE0 != 0) (.sshlReg d a b)
  | 0x0A => orRes (fn &&& 0xE0 != 0) (.sshrReg d a b)
  | 0x0B => orRes (fn &&& 0xE0 != 0) (.ssraReg d a b)
  | 0x0C => orRes (fn &&& 0xC0 != 0) (.sminReg d a b (fn.extractLsb' 5 1))
  | 0x0D => orRes (fn &&& 0xC0 != 0) (.smaxReg d a b (fn.extractLsb' 5 1))
  | 0x0E => .ok (.scmp d a b (fn.extractLsb' 5 3))
  | 0x0F => orRes (fn &&& 0xE0 != 0) (.ssel d a b)
  | 0x10 => orRes (fn &&& 0xE0 != 0 || b != 0) (.smovReg d a)
  | _ => .error Tc.illegalMinor

/-- A scalar word (R44, R60). -/
def decodeScalar (w : W32) : Except Cause Instr :=
  let d : SReg := w.extractLsb' 20 6
  let a : SReg := w.extractLsb' 14 6
  let b : SReg := w.extractLsb' 8 6
  let fn : BitVec 8 := w.extractLsb' 0 8
  let imm : BitVec 14 := w.extractLsb' 0 14
  if w = 0 then .error Tc.zeroWord
  else match (w.extractLsb' 26 6).toNat with
  | 0x01 => decodeFn d a b fn
  | 0x02 => .ok (.saddImm d a imm)
  | 0x03 => .ok (.smulImm d a imm)
  | 0x04 => .ok (.sdivImm d a imm)
  | 0x05 => .ok (.sremImm d a imm)
  | 0x06 => .ok (.sandImm d a imm)
  | 0x07 => .ok (.sorImm d a imm)
  | 0x08 => .ok (.sxorImm d a imm)
  | 0x09 => .ok (.sshlImm d a imm)
  | 0x0A => .ok (.sshrImm d a imm)
  | 0x0B => .ok (.ssraImm d a imm)
  | 0x0C => .ok (.sminImm d a imm)
  | 0x0D => .ok (.smaxImm d a imm)
  | 0x0E => orRes (a != 0) (.smovImm d imm)
  | 0x10 => .ok (.sld64 d a imm)
  | 0x11 => .ok (.sldN32 d a imm)
  | 0x12 => .ok (.sldI32 d a imm)
  | 0x13 => .ok (.sst64 d a imm)
  | 0x14 => .ok (.sstN32 d a imm)
  | 0x15 => orRes (w &&& 0x000E0000 != 0) (.sldw d (w.extractLsb' 14 3) imm)
  | 0x18 => .ok (.sbr (w.extractLsb' 23 3) (w.extractLsb' 17 6) (w.extractLsb' 11 6) (w.extractLsb' 0 11))
  | 0x19 => .ok (.sjmp (w.extractLsb' 0 26))
  | 0x1A => orRes (w &&& 0x03F03FFF != 0) (.sjmpi a)
  | 0x1B => .ok (.scall (w.extractLsb' 0 26))
  | 0x1C => orRes (w &&& 0x03F03FFF != 0) (.sret a)
  | 0x20 => orRes (w &&& 0x03000000 != 0) (.lrun (w.extractLsb' 0 24))
  | 0x21 => orRes (w &&& 0x03FFFFFF != 0) .lsync
  | 0x28 =>
    if fn &&& 3 = 3 ∧ w &&& 0x03FFFFFC ≠ 0 then .error Tc.illegalMinor
    else orRes (w &&& 0x03FFFFFC != 0) (.sbar (w.extractLsb' 0 2))
  | 0x29 => orRes (w &&& 0x03F03FFE != 0) (.waittl a (w.extractLsb' 0 1))
  | 0x2A => orRes (w &&& 0xFE != 0) (.arma d a b (w.extractLsb' 0 1))
  | 0x2B => orRes (w &&& 0x03F03FFF != 0) (.waita a)
  | 0x2C => orRes (w &&& 0x80 != 0) (.waitcmp d a b (w.extractLsb' 4 3) (w.extractLsb' 3 1) (w.extractLsb' 0 3))
  | 0x2D => orRes (w &&& 0x03F03FFC != 0) (.waitif a (w.extractLsb' 0 2))
  | 0x2E => orRes (w &&& 0x03FFFFF0 != 0) (.sfence (w.extractLsb' 3 1) (w.extractLsb' 0 3))
  | 0x30 => orRes (w &&& 0x000FFF00 != 0) (.sget d fn)
  | 0x31 => orRes (w &&& 0x03F03F00 != 0) (.sset a fn)
  | 0x32 =>
    if !Tc.software fn ∧ w &&& 0x03F03F00 ≠ 0 then .error Tc.illegalMinor
    else orRes (w &&& 0x03F03F00 != 0) (.strap a fn)
  | 0x33 => orRes (w &&& 0x03FFFFFF != 0) .sexit
  | 0x34 => orRes (w &&& 0x03FFFFFF != 0) .eret
  | 0x35 => orRes (w &&& 0x03FFFFFF != 0) .snop
  | 0x3F => .ok (.limm (w.extractLsb' 0 26))
  | _ => .error Tc.illegalOpcode

/-- Whether a word has SI format (R44, R60): what a LIMM may precede. -/
def isSi (w : W32) : Bool :=
  let op := (w.extractLsb' 26 6).toNat
  (0x02 ≤ op && op ≤ 0x0E) || (0x10 ≤ op && op ≤ 0x15)

/-! ## Lane words -/

/-- The instruction of a lane major (R61). -/
def laneCtor (maj : Nat) : Option (LaneW → Instr) :=
  match maj with
  | 0x01 => some .vadd
  | 0x02 => some .vsub
  | 0x03 => some .vmul
  | 0x04 => some .vmulh
  | 0x05 => some .vmad
  | 0x06 => some .vdiv
  | 0x07 => some .vrem
  | 0x08 => some .vand
  | 0x09 => some .vor
  | 0x0A => some .vxor
  | 0x0B => some .vandn
  | 0x0C => some .vshl
  | 0x0D => some .vshr
  | 0x0E => some .vsra
  | 0x0F => some .vrot
  | 0x10 => some .vmin
  | 0x11 => some .vmax
  | 0x12 => some .vabs
  | 0x13 => some .vneg
  | 0x14 => some .vclz
  | 0x15 => some .vpopc
  | 0x16 => some .vbrev
  | 0x17 => some .vbfe
  | 0x18 => some .vbfi
  | 0x19 => some .vsel
  | 0x1A => some .vmov
  | 0x1B => some .vcmp
  | 0x1C => some .vplog
  | 0x1D => some .vaddc
  | 0x30 => some .fadd
  | 0x31 => some .fsub
  | 0x32 => some .fmul
  | 0x33 => some .ffma
  | 0x34 => some .fdiv
  | 0x35 => some .fsqrt
  | 0x36 => some .fmin
  | 0x37 => some .fmax
  | 0x38 => some .fcmp
  | 0x39 => some .fclass
  | 0x3A => some .frnd
  | 0x3B => some .fscale
  | 0x3C => some .frcp
  | 0x3D => some .frsq
  | 0x3E => some .fexp2
  | 0x3F => some .flog2
  | 0x40 => some .fsinpi
  | 0x41 => some .fcospi
  | 0x48 => some .cvtf
  | 0x49 => some .cvti
  | 0x4A => some .cvtfi
  | 0x4B => some .cvtn
  | 0x4C => some .cvtw
  | 0x4D => some .mxscale
  | 0x4E => some .mxpack
  | 0x4F => some .mxunpack
  | 0x50 => some .bpnsplit
  | 0x51 => some .bpnjoin
  | 0x60 => some .vshfl
  | 0x61 => some .qxch
  | 0x62 => some .vvote
  | 0x63 => some .vmatch
  | 0x64 => some .vred
  | 0x65 => some .vscan
  | 0x66 => some .vbcast
  | 0x67 => some .vtos
  | 0x70 => some .ldg
  | 0x71 => some .stg
  | 0x72 => some .lds
  | 0x73 => some .sts
  | 0x74 => some .ldx
  | 0x75 => some .pref
  | 0x76 => some .atomg
  | 0x77 => some .atoms
  | 0x78 => some .redg
  | 0x79 => some .cas128
  | 0x90 => some .mldb
  | 0x91 => some .mma
  | 0x92 => some .mdrain
  | 0x93 => some .mfill
  | 0x94 => some .mdrainb
  | 0x95 => some .mfillb
  | 0x96 => some .mstat
  | 0x97 => some .mresume
  | 0x98 => some .mclr
  | 0xA0 => some .dbegin
  | 0xA1 => some .dcommit
  | 0xA2 => some .dabort
  | 0xA3 => some .dstat
  | 0xA8 => some .mbsend
  | 0xA9 => some .mbgen
  | 0xB0 => some .vbr
  | 0xB1 => some .vjmp
  | 0xB2 => some .vjmpi
  | 0xB3 => some .vcall
  | 0xB4 => some .vcalli
  | 0xB5 => some .vret
  | 0xB6 => some .vjoin
  | 0xB7 => some .vland
  | 0xB8 => some .vexit
  | 0xB9 => some .lend
  | 0xBA => some .vnop
  | 0xC0 => some .vgets
  | 0xC1 => some .setexec
  | 0xC2 => some .setpart
  | 0xC3 => some .setcvm
  | 0xC4 => some .vtrap
  | 0xC5 => some .vgett
  | _ => none

/-- The fields of R49 and R50 that the checks of R63 read. -/
def decodeLaneRow (maj : Nat) (r : LaneRow) (k : LaneW → Instr) (w : BitVec 96) : Except Cause Instr :=
  let ty := tyOf (w.extractLsb' 42 5)
  let rnd := rndOf (w.extractLsb' 39 3)
  let scope := scopeOf (w.extractLsb' 36 3)
  let i := w.getLsbD 35
  let opx : BitVec 3 := w.extractLsb' 32 3
  let imm : W32 := w.extractLsb' 0 32
  let vd : LReg := w.extractLsb' 71 8
  let va : LReg := w.extractLsb' 63 8
  let vb : LReg := w.extractLsb' 55 8
  let vc : LReg := w.extractLsb' 47 8
  match staticCheck maj r vd va vb vc ty rnd scope i opx imm with
  | some c => .error c
  | none =>
    .ok (k { safe := w.getLsbD 87, look := w.extractLsb' 83 4, g := w.extractLsb' 80 3, n := w.getLsbD 79,
              vd := vd, va := va, vb := vb, vc := vc, ty := ty.getD .b32, rnd := rnd.getD .dflt,
              scope := scope.getD .grp, i := i, opx := opx, imm := imm })

/-- A sub-op of a pair word (R53). -/
def decodeSub (x : BitVec 44) : SubOp :=
  { op := x.extractLsb' 36 8, vd := x.extractLsb' 28 8, va := x.extractLsb' 20 8, vb := x.extractLsb' 12 8,
    g := x.extractLsb' 9 3, n := x.getLsbD 8, cls := x.extractLsb' 6 2, sgn := x.getLsbD 5, res0 := x.extractLsb' 0 5 }

/-- A lane word (R49 to R54, R61, R62). -/
def decodeLane (w : BitVec 96) : Except Cause Instr :=
  let m : BitVec 8 := w.extractLsb' 88 8
  if w = 0 then .error Tc.zeroWord
  else if m.toNat = 0xFE then .error Tc.maskWord
  else if m &&& 0xF8 = 0xF0 then
    .ok (.pairWord { sat := w.getLsbD 90, rnd := w.extractLsb' 88 2, a := decodeSub (w.extractLsb' 44 44),
                      b := decodeSub (w.extractLsb' 0 44) })
  else match laneCtor m.toNat, rowFor m.toNat (w.extractLsb' 32 3) with
    | some k, some r => decodeLaneRow m.toNat r k w
    | _, _ => .error Tc.illegalOpcode

/-! ## The encoder -/

def encSr (op : BitVec 6) (d a b : SReg) (fn : BitVec 8) : W32 := op ++ d ++ a ++ b ++ fn
def encSi (op : BitVec 6) (d a : SReg) (imm : BitVec 14) : W32 := op ++ d ++ a ++ imm

/-- The 32-bit word of a scalar instruction (R44, R60, R92). -/
def encodeScalar (i : Instr) : Option W32 :=
  match i with
  | .saddReg d a b => some (encSr 0x01 d a b 0x00)
  | .ssub d a b => some (encSr 0x01 d a b 0x01)
  | .smulReg d a b => some (encSr 0x01 d a b 0x02)
  | .smulh d a b u => some (encSr 0x01 d a b (0x03 ||| ((u.setWidth 8) <<< 5)))
  | .sdivReg d a b u => some (encSr 0x01 d a b (0x04 ||| ((u.setWidth 8) <<< 5)))
  | .sremReg d a b u => some (encSr 0x01 d a b (0x05 ||| ((u.setWidth 8) <<< 5)))
  | .sandReg d a b => some (encSr 0x01 d a b 0x06)
  | .sorReg d a b => some (encSr 0x01 d a b 0x07)
  | .sxorReg d a b => some (encSr 0x01 d a b 0x08)
  | .sshlReg d a b => some (encSr 0x01 d a b 0x09)
  | .sshrReg d a b => some (encSr 0x01 d a b 0x0A)
  | .ssraReg d a b => some (encSr 0x01 d a b 0x0B)
  | .sminReg d a b u => some (encSr 0x01 d a b (0x0C ||| ((u.setWidth 8) <<< 5)))
  | .smaxReg d a b u => some (encSr 0x01 d a b (0x0D ||| ((u.setWidth 8) <<< 5)))
  | .scmp d a b c => some (encSr 0x01 d a b (0x0E ||| ((c.setWidth 8) <<< 5)))
  | .ssel d a b => some (encSr 0x01 d a b 0x0F)
  | .smovReg d a => some (encSr 0x01 d a 0 0x10)
  | .saddImm d a imm => some (encSi 0x02 d a imm)
  | .smulImm d a imm => some (encSi 0x03 d a imm)
  | .sdivImm d a imm => some (encSi 0x04 d a imm)
  | .sremImm d a imm => some (encSi 0x05 d a imm)
  | .sandImm d a imm => some (encSi 0x06 d a imm)
  | .sorImm d a imm => some (encSi 0x07 d a imm)
  | .sxorImm d a imm => some (encSi 0x08 d a imm)
  | .sshlImm d a imm => some (encSi 0x09 d a imm)
  | .sshrImm d a imm => some (encSi 0x0A d a imm)
  | .ssraImm d a imm => some (encSi 0x0B d a imm)
  | .sminImm d a imm => some (encSi 0x0C d a imm)
  | .smaxImm d a imm => some (encSi 0x0D d a imm)
  | .sld64 d a imm => some (encSi 0x10 d a imm)
  | .sldN32 d a imm => some (encSi 0x11 d a imm)
  | .sldI32 d a imm => some (encSi 0x12 d a imm)
  | .sst64 d a imm => some (encSi 0x13 d a imm)
  | .sstN32 d a imm => some (encSi 0x14 d a imm)
  | .smovImm d imm => some (encSi 0x0E d 0 imm)
  | .sldw d w imm => some (encSi 0x15 d (w.setWidth 6) imm)
  | .sbr c a b o => some (0x18#6 ++ c ++ a ++ b ++ o)
  | .sjmp o => some (0x19#6 ++ o)
  | .sjmpi a => some (encSr 0x1A 0 a 0 0)
  | .scall o => some (0x1B#6 ++ o)
  | .sret a => some (encSr 0x1C 0 a 0 0)
  | .lrun o => some (0x80#8 ++ o)
  | .lsync => some 0x84000000
  | .sbar l => some (encSr 0x28 0 0 0 (l.setWidth 8))
  | .waittl a f => some (encSr 0x29 0 a 0 (f.setWidth 8))
  | .arma d a b c => some (encSr 0x2A d a b (c.setWidth 8))
  | .waita a => some (encSr 0x2B 0 a 0 0)
  | .waitcmp d a b sc w c => some (encSr 0x2C d a b (0#1 ++ sc ++ w ++ c))
  | .waitif a n => some (encSr 0x2D 0 a 0 (n.setWidth 8))
  | .sfence f sc => some (encSr 0x2E 0 0 0 (0#4 ++ f ++ sc))
  | .sget d ix => some (encSr 0x30 d 0 0 ix)
  | .sset a ix => some (encSr 0x31 0 a 0 ix)
  | .strap a c => some (encSr 0x32 0 a 0 c)
  | .sexit => some 0xCC000000
  | .eret => some 0xD0000000
  | .snop => some 0xD4000000
  | .limm imm => some (0x3F#6 ++ imm)
  | .vadd _ => none
  | .vsub _ => none
  | .vmul _ => none
  | .vmulh _ => none
  | .vmad _ => none
  | .vdiv _ => none
  | .vrem _ => none
  | .vand _ => none
  | .vor _ => none
  | .vxor _ => none
  | .vandn _ => none
  | .vshl _ => none
  | .vshr _ => none
  | .vsra _ => none
  | .vrot _ => none
  | .vmin _ => none
  | .vmax _ => none
  | .vabs _ => none
  | .vneg _ => none
  | .vclz _ => none
  | .vpopc _ => none
  | .vbrev _ => none
  | .vbfe _ => none
  | .vbfi _ => none
  | .vsel _ => none
  | .vmov _ => none
  | .vcmp _ => none
  | .vplog _ => none
  | .vaddc _ => none
  | .fadd _ => none
  | .fsub _ => none
  | .fmul _ => none
  | .ffma _ => none
  | .fdiv _ => none
  | .fsqrt _ => none
  | .fmin _ => none
  | .fmax _ => none
  | .fcmp _ => none
  | .fclass _ => none
  | .frnd _ => none
  | .fscale _ => none
  | .frcp _ => none
  | .frsq _ => none
  | .fexp2 _ => none
  | .flog2 _ => none
  | .fsinpi _ => none
  | .fcospi _ => none
  | .cvtf _ => none
  | .cvti _ => none
  | .cvtfi _ => none
  | .cvtn _ => none
  | .cvtw _ => none
  | .mxscale _ => none
  | .mxpack _ => none
  | .mxunpack _ => none
  | .bpnsplit _ => none
  | .bpnjoin _ => none
  | .vshfl _ => none
  | .qxch _ => none
  | .vvote _ => none
  | .vmatch _ => none
  | .vred _ => none
  | .vscan _ => none
  | .vbcast _ => none
  | .vtos _ => none
  | .pairWord _ => none
  | .ldg _ => none
  | .stg _ => none
  | .lds _ => none
  | .sts _ => none
  | .ldx _ => none
  | .pref _ => none
  | .atomg _ => none
  | .atoms _ => none
  | .redg _ => none
  | .cas128 _ => none
  | .mldb _ => none
  | .mma _ => none
  | .mdrain _ => none
  | .mfill _ => none
  | .mdrainb _ => none
  | .mfillb _ => none
  | .mstat _ => none
  | .mresume _ => none
  | .mclr _ => none
  | .dbegin _ => none
  | .dcommit _ => none
  | .dabort _ => none
  | .dstat _ => none
  | .mbsend _ => none
  | .mbgen _ => none
  | .vbr _ => none
  | .vjmp _ => none
  | .vjmpi _ => none
  | .vcall _ => none
  | .vcalli _ => none
  | .vret _ => none
  | .vjoin _ => none
  | .vland _ => none
  | .vexit _ => none
  | .lend _ => none
  | .vnop _ => none
  | .vgets _ => none
  | .setexec _ => none
  | .setpart _ => none
  | .setcvm _ => none
  | .vtrap _ => none
  | .vgett _ => none
  | .laneBlockStart _ => none
  | .matrixCmdAccept _ => none
  | .mldbComplete _ => none
  | .mmaComplete _ => none
  | .mclrComplete _ => none
  | .matrixEventPush _ => none
  | .matrixStop _ => none
  | .storeSetLeave _ => none
  | .loadSetCommit _ => none
  | .storeSetCommit _ => none
  | .homeSliceLoad _ _ => none
  | .homeSliceStore _ _ => none
  | .homeSliceAtomic _ _ => none
  | .writeQueueApply _ => none
  | .publish _ => none
  | .amcTagLookup _ => none
  | .tagScrub _ => none
  | .hintLookup _ => none
  | .directoryLookup _ => none
  | .registration _ => none
  | .holderRead _ => none
  | .notHeldAnswer _ => none
  | .staleAnswer _ => none
  | .registrationAck _ => none
  | .pageInstall _ => none
  | .takeBack _ => none
  | .climbTimeout _ => none
  | .dirFullTimeout _ => none
  | .crownTransaction _ => none
  | .invalidation _ => none
  | .invalidationAck _ => none
  | .crownRelease _ => none
  | .crownGrant _ => none
  | .crownCompletion _ => none
  | .crownHoldExpire _ => none
  | .freeFrameSummary => none
  | .injectionOffer _ => none
  | .injectionAnswer _ => none
  | .injectionConfirm _ => none
  | .poolInjection _ => none
  | .injectionRetry _ => none
  | .transitTimeout _ => none
  | .directoryRebuild _ => none
  | .recallQuery _ => none
  | .rebuildTimeout _ => none
  | .amQuery => none
  | .amStats => none
  | .amPark => none
  | .amUnpark => none
  | .amRetire => none
  | .amDiscard => none
  | .waitEntryPlace _ => none
  | .wake _ => none
  | .waitcmpRepoll _ => none
  | .copy _ => none
  | .fill _ => none
  | .copy2d _ => none
  | .bpnprefix _ => none
  | .put _ => none
  | .get _ => none
  | .atom _ => none
  | .signal _ => none
  | .engineCmdComplete _ _ _ => none
  | .completionWordPush _ _ => none
  | .fabricGranuleArrive _ => none
  | .fabricAck _ => none
  | .fabricTimeout _ _ => none
  | .arrivalCount _ => none
  | .countTableTimeout _ => none
  | .dbeginSlotGrant _ => none
  | .dominoEdgeRequest _ _ => none
  | .dominoAbortComplete _ => none
  | .dominoCommitStart _ => none
  | .dominoCommitComplete _ => none
  | .recallHoldTimeout _ => none
  | .preemptDeferTimeout _ => none
  | .lqBaseWrite _ _ _ => none
  | .launchKernel _ => none
  | .launchRagged _ => none
  | .launchWaitOnly _ => none
  | .teamPlace _ => none
  | .sramClearDone _ => none
  | .groupRetire _ => none
  | .launchRetire _ => none
  | .cslCommit _ => none
  | .cslCommitApply => none
  | .barrierRelease _ _ _ => none
  | .watchdog _ => none
  | .safepointGap _ => none
  | .preemptRequest _ => none
  | .teamSwapOut _ => none
  | .preemptSaveEntry _ => none
  | .teamSeal _ => none
  | .teamResume _ => none
  | .trapDelivery _ => none
  | .checkpointGo _ _ => none
  | .checkpointHoldClear _ => none
  | .launchRollback _ _ => none
  | .strikeReport _ => none
  | .pageWalk _ => none
  | .walkTimeout _ => none
  | .faultRecordWrite _ => none
  | .fqBaseWrite _ _ => none
  | .fqReplaySeq _ _ => none
  | .fqReplayAll _ => none
  | .fqReplayKill _ _ => none
  | .faultRetry _ _ => none
  | .tlbiGo _ _ => none
  | .tlbiDone _ => none
  | .hostApertureAccess _ _ _ _ => none
  | .hostAtomicInbound _ => none
  | .hostSnoop _ => none
  | .epBind _ _ => none
  | .epRebind _ _ => none
  | .epUnbind _ _ => none
  | .mbxGenWrite _ _ => none
  | .mailboxSendAccept _ => none
  | .mbgenApply _ => none
  | .mbxQueryAnswer _ => none
  | .stageAssign => none
  | .stageSaveDone _ => none
  | .stageRestoreDone _ => none
  | .stageResetDone _ => none
  | .mbxActRead _ _ => none
  | .mbxStepRead _ _ => none
  | .mbxGenRead _ _ => none
  | .mbxStatAccess _ _ _ _ => none
  | .mbxObsWrite _ _ => none
  | .observationPost _ => none
  | .observationCount _ => none
  | .episodeRunaway _ _ => none
  | .episodeFault _ _ _ => none
  | .faqRecord _ _ _ => none
  | .ringBaseWrite _ _ => none
  | .bankTestGo _ => none
  | .bankTestDone _ => none
  | .tmcBadframeAppend _ => none
  | .selfRefreshEntry _ _ => none
  | .powerOn _ _ _ _ => none
  | .moduleReset _ => none
  | .stationStateChange _ _ => none
  | .podLost _ _ => none
  | .dieGate _ => none
  | .dieUngate _ => none
  | .pmGateWrite _ => none
  | .d3hotEntry => none
  | .d3coldEntry => none
  | .thermalEval _ _ _ => none
  | .thermalShutdown _ => none
  | .getVersion => none
  | .getCapabilities => none
  | .negotiateAlgorithms => none
  | .getDigests => none
  | .getCertificate => none
  | .challenge => none
  | .getMeasurements => none
  | .registerWrite _ _ => none
  | .stageInstructionIssue _ => none
  | .poolPortStateChange _ => none
  | .d3coldExit _ _ => none
  | .d3hotExit => none

/-- The major and fields of a lane instruction; none for every other row. -/
def laneOf (i : Instr) : Option (Nat × LaneW) :=
  match i with
  | .vadd w => some (0x01, w)
  | .vsub w => some (0x02, w)
  | .vmul w => some (0x03, w)
  | .vmulh w => some (0x04, w)
  | .vmad w => some (0x05, w)
  | .vdiv w => some (0x06, w)
  | .vrem w => some (0x07, w)
  | .vand w => some (0x08, w)
  | .vor w => some (0x09, w)
  | .vxor w => some (0x0A, w)
  | .vandn w => some (0x0B, w)
  | .vshl w => some (0x0C, w)
  | .vshr w => some (0x0D, w)
  | .vsra w => some (0x0E, w)
  | .vrot w => some (0x0F, w)
  | .vmin w => some (0x10, w)
  | .vmax w => some (0x11, w)
  | .vabs w => some (0x12, w)
  | .vneg w => some (0x13, w)
  | .vclz w => some (0x14, w)
  | .vpopc w => some (0x15, w)
  | .vbrev w => some (0x16, w)
  | .vbfe w => some (0x17, w)
  | .vbfi w => some (0x18, w)
  | .vsel w => some (0x19, w)
  | .vmov w => some (0x1A, w)
  | .vcmp w => some (0x1B, w)
  | .vplog w => some (0x1C, w)
  | .vaddc w => some (0x1D, w)
  | .fadd w => some (0x30, w)
  | .fsub w => some (0x31, w)
  | .fmul w => some (0x32, w)
  | .ffma w => some (0x33, w)
  | .fdiv w => some (0x34, w)
  | .fsqrt w => some (0x35, w)
  | .fmin w => some (0x36, w)
  | .fmax w => some (0x37, w)
  | .fcmp w => some (0x38, w)
  | .fclass w => some (0x39, w)
  | .frnd w => some (0x3A, w)
  | .fscale w => some (0x3B, w)
  | .frcp w => some (0x3C, w)
  | .frsq w => some (0x3D, w)
  | .fexp2 w => some (0x3E, w)
  | .flog2 w => some (0x3F, w)
  | .fsinpi w => some (0x40, w)
  | .fcospi w => some (0x41, w)
  | .cvtf w => some (0x48, w)
  | .cvti w => some (0x49, w)
  | .cvtfi w => some (0x4A, w)
  | .cvtn w => some (0x4B, w)
  | .cvtw w => some (0x4C, w)
  | .mxscale w => some (0x4D, w)
  | .mxpack w => some (0x4E, w)
  | .mxunpack w => some (0x4F, w)
  | .bpnsplit w => some (0x50, w)
  | .bpnjoin w => some (0x51, w)
  | .vshfl w => some (0x60, w)
  | .qxch w => some (0x61, w)
  | .vvote w => some (0x62, w)
  | .vmatch w => some (0x63, w)
  | .vred w => some (0x64, w)
  | .vscan w => some (0x65, w)
  | .vbcast w => some (0x66, w)
  | .vtos w => some (0x67, w)
  | .ldg w => some (0x70, w)
  | .stg w => some (0x71, w)
  | .lds w => some (0x72, w)
  | .sts w => some (0x73, w)
  | .ldx w => some (0x74, w)
  | .pref w => some (0x75, w)
  | .atomg w => some (0x76, w)
  | .atoms w => some (0x77, w)
  | .redg w => some (0x78, w)
  | .cas128 w => some (0x79, w)
  | .mldb w => some (0x90, w)
  | .mma w => some (0x91, w)
  | .mdrain w => some (0x92, w)
  | .mfill w => some (0x93, w)
  | .mdrainb w => some (0x94, w)
  | .mfillb w => some (0x95, w)
  | .mstat w => some (0x96, w)
  | .mresume w => some (0x97, w)
  | .mclr w => some (0x98, w)
  | .dbegin w => some (0xA0, w)
  | .dcommit w => some (0xA1, w)
  | .dabort w => some (0xA2, w)
  | .dstat w => some (0xA3, w)
  | .mbsend w => some (0xA8, w)
  | .mbgen w => some (0xA9, w)
  | .vbr w => some (0xB0, w)
  | .vjmp w => some (0xB1, w)
  | .vjmpi w => some (0xB2, w)
  | .vcall w => some (0xB3, w)
  | .vcalli w => some (0xB4, w)
  | .vret w => some (0xB5, w)
  | .vjoin w => some (0xB6, w)
  | .vland w => some (0xB7, w)
  | .vexit w => some (0xB8, w)
  | .lend w => some (0xB9, w)
  | .vnop w => some (0xBA, w)
  | .vgets w => some (0xC0, w)
  | .setexec w => some (0xC1, w)
  | .setpart w => some (0xC2, w)
  | .setcvm w => some (0xC3, w)
  | .vtrap w => some (0xC4, w)
  | .vgett w => some (0xC5, w)
  | .saddReg _ _ _ => none
  | .ssub _ _ _ => none
  | .smulReg _ _ _ => none
  | .smulh _ _ _ _ => none
  | .sdivReg _ _ _ _ => none
  | .sremReg _ _ _ _ => none
  | .sandReg _ _ _ => none
  | .sorReg _ _ _ => none
  | .sxorReg _ _ _ => none
  | .sshlReg _ _ _ => none
  | .sshrReg _ _ _ => none
  | .ssraReg _ _ _ => none
  | .sminReg _ _ _ _ => none
  | .smaxReg _ _ _ _ => none
  | .scmp _ _ _ _ => none
  | .ssel _ _ _ => none
  | .smovReg _ _ => none
  | .saddImm _ _ _ => none
  | .smulImm _ _ _ => none
  | .sdivImm _ _ _ => none
  | .sremImm _ _ _ => none
  | .sandImm _ _ _ => none
  | .sorImm _ _ _ => none
  | .sxorImm _ _ _ => none
  | .sshlImm _ _ _ => none
  | .sshrImm _ _ _ => none
  | .ssraImm _ _ _ => none
  | .sminImm _ _ _ => none
  | .smaxImm _ _ _ => none
  | .smovImm _ _ => none
  | .sld64 _ _ _ => none
  | .sldN32 _ _ _ => none
  | .sldI32 _ _ _ => none
  | .sst64 _ _ _ => none
  | .sstN32 _ _ _ => none
  | .sldw _ _ _ => none
  | .sbr _ _ _ _ => none
  | .sjmp _ => none
  | .sjmpi _ => none
  | .scall _ => none
  | .sret _ => none
  | .lrun _ => none
  | .lsync => none
  | .sbar _ => none
  | .waittl _ _ => none
  | .arma _ _ _ _ => none
  | .waita _ => none
  | .waitcmp _ _ _ _ _ _ => none
  | .waitif _ _ => none
  | .sfence _ _ => none
  | .sget _ _ => none
  | .sset _ _ => none
  | .strap _ _ => none
  | .sexit => none
  | .eret => none
  | .snop => none
  | .limm _ => none
  | .pairWord _ => none
  | .laneBlockStart _ => none
  | .matrixCmdAccept _ => none
  | .mldbComplete _ => none
  | .mmaComplete _ => none
  | .mclrComplete _ => none
  | .matrixEventPush _ => none
  | .matrixStop _ => none
  | .storeSetLeave _ => none
  | .loadSetCommit _ => none
  | .storeSetCommit _ => none
  | .homeSliceLoad _ _ => none
  | .homeSliceStore _ _ => none
  | .homeSliceAtomic _ _ => none
  | .writeQueueApply _ => none
  | .publish _ => none
  | .amcTagLookup _ => none
  | .tagScrub _ => none
  | .hintLookup _ => none
  | .directoryLookup _ => none
  | .registration _ => none
  | .holderRead _ => none
  | .notHeldAnswer _ => none
  | .staleAnswer _ => none
  | .registrationAck _ => none
  | .pageInstall _ => none
  | .takeBack _ => none
  | .climbTimeout _ => none
  | .dirFullTimeout _ => none
  | .crownTransaction _ => none
  | .invalidation _ => none
  | .invalidationAck _ => none
  | .crownRelease _ => none
  | .crownGrant _ => none
  | .crownCompletion _ => none
  | .crownHoldExpire _ => none
  | .freeFrameSummary => none
  | .injectionOffer _ => none
  | .injectionAnswer _ => none
  | .injectionConfirm _ => none
  | .poolInjection _ => none
  | .injectionRetry _ => none
  | .transitTimeout _ => none
  | .directoryRebuild _ => none
  | .recallQuery _ => none
  | .rebuildTimeout _ => none
  | .amQuery => none
  | .amStats => none
  | .amPark => none
  | .amUnpark => none
  | .amRetire => none
  | .amDiscard => none
  | .waitEntryPlace _ => none
  | .wake _ => none
  | .waitcmpRepoll _ => none
  | .copy _ => none
  | .fill _ => none
  | .copy2d _ => none
  | .bpnprefix _ => none
  | .put _ => none
  | .get _ => none
  | .atom _ => none
  | .signal _ => none
  | .engineCmdComplete _ _ _ => none
  | .completionWordPush _ _ => none
  | .fabricGranuleArrive _ => none
  | .fabricAck _ => none
  | .fabricTimeout _ _ => none
  | .arrivalCount _ => none
  | .countTableTimeout _ => none
  | .dbeginSlotGrant _ => none
  | .dominoEdgeRequest _ _ => none
  | .dominoAbortComplete _ => none
  | .dominoCommitStart _ => none
  | .dominoCommitComplete _ => none
  | .recallHoldTimeout _ => none
  | .preemptDeferTimeout _ => none
  | .lqBaseWrite _ _ _ => none
  | .launchKernel _ => none
  | .launchRagged _ => none
  | .launchWaitOnly _ => none
  | .teamPlace _ => none
  | .sramClearDone _ => none
  | .groupRetire _ => none
  | .launchRetire _ => none
  | .cslCommit _ => none
  | .cslCommitApply => none
  | .barrierRelease _ _ _ => none
  | .watchdog _ => none
  | .safepointGap _ => none
  | .preemptRequest _ => none
  | .teamSwapOut _ => none
  | .preemptSaveEntry _ => none
  | .teamSeal _ => none
  | .teamResume _ => none
  | .trapDelivery _ => none
  | .checkpointGo _ _ => none
  | .checkpointHoldClear _ => none
  | .launchRollback _ _ => none
  | .strikeReport _ => none
  | .pageWalk _ => none
  | .walkTimeout _ => none
  | .faultRecordWrite _ => none
  | .fqBaseWrite _ _ => none
  | .fqReplaySeq _ _ => none
  | .fqReplayAll _ => none
  | .fqReplayKill _ _ => none
  | .faultRetry _ _ => none
  | .tlbiGo _ _ => none
  | .tlbiDone _ => none
  | .hostApertureAccess _ _ _ _ => none
  | .hostAtomicInbound _ => none
  | .hostSnoop _ => none
  | .epBind _ _ => none
  | .epRebind _ _ => none
  | .epUnbind _ _ => none
  | .mbxGenWrite _ _ => none
  | .mailboxSendAccept _ => none
  | .mbgenApply _ => none
  | .mbxQueryAnswer _ => none
  | .stageAssign => none
  | .stageSaveDone _ => none
  | .stageRestoreDone _ => none
  | .stageResetDone _ => none
  | .mbxActRead _ _ => none
  | .mbxStepRead _ _ => none
  | .mbxGenRead _ _ => none
  | .mbxStatAccess _ _ _ _ => none
  | .mbxObsWrite _ _ => none
  | .observationPost _ => none
  | .observationCount _ => none
  | .episodeRunaway _ _ => none
  | .episodeFault _ _ _ => none
  | .faqRecord _ _ _ => none
  | .ringBaseWrite _ _ => none
  | .bankTestGo _ => none
  | .bankTestDone _ => none
  | .tmcBadframeAppend _ => none
  | .selfRefreshEntry _ _ => none
  | .powerOn _ _ _ _ => none
  | .moduleReset _ => none
  | .stationStateChange _ _ => none
  | .podLost _ _ => none
  | .dieGate _ => none
  | .dieUngate _ => none
  | .pmGateWrite _ => none
  | .d3hotEntry => none
  | .d3coldEntry => none
  | .thermalEval _ _ _ => none
  | .thermalShutdown _ => none
  | .getVersion => none
  | .getCapabilities => none
  | .negotiateAlgorithms => none
  | .getDigests => none
  | .getCertificate => none
  | .challenge => none
  | .getMeasurements => none
  | .registerWrite _ _ => none
  | .stageInstructionIssue _ => none
  | .poolPortStateChange _ => none
  | .d3coldExit _ _ => none
  | .d3hotExit => none

/-- The 96 bits of a lane word (R49, R50). -/
def packLane (maj : BitVec 8) (w : LaneW) : BitVec 96 :=
  maj ++ BitVec.ofBool w.safe ++ w.look ++ w.g ++ BitVec.ofBool w.n ++ w.vd ++ w.va ++ w.vb ++ w.vc ++ tyCode w.ty ++
    rndCode w.rnd ++ scopeCode w.scope ++ BitVec.ofBool w.i ++ w.opx ++ w.imm

/-- The 44 bits of a sub-op (R53). -/
def packSub (x : SubOp) : BitVec 44 :=
  x.op ++ x.vd ++ x.va ++ x.vb ++ x.g ++ BitVec.ofBool x.n ++ x.cls ++ BitVec.ofBool x.sgn ++ x.res0

/-- The 96 bits of a pair word (R53). -/
def packPair (w : PairW) : BitVec 96 :=
  0x1E#5 ++ BitVec.ofBool w.sat ++ w.rnd ++ packSub w.a ++ packSub w.b

/-- The 96-bit word of a lane instruction. -/
def encodeLane (i : Instr) : Option (BitVec 96) :=
  match i with
  | .pairWord w => some (packPair w)
  | _ => match laneOf i with
    | some (m, w) => some (packLane (BitVec.ofNat 8 m) w)
    | none => none

/-! ## Bytes -/

/-- The little-endian value of a list of bytes (R4). -/
def leNat : List Byte → Nat
  | [] => 0
  | b :: r => b.toNat + 256 * leNat r

/-- The `n` little-endian bytes of a value (R4). -/
def leBytes : Nat → Nat → List Byte
  | 0, _ => []
  | n + 1, v => BitVec.ofNat 8 v :: leBytes n (v / 256)

/-- The scalar word in four bytes of memory. -/
def decodeScalarBytes (bs : List Byte) : Except Cause Instr := decodeScalar (BitVec.ofNat 32 (leNat (bs.take 4)))

/-- The lane word in twelve bytes of memory. -/
def decodeLaneBytes (bs : List Byte) : Except Cause Instr := decodeLane (BitVec.ofNat 96 (leNat (bs.take 12)))

/-- What the decoder reads from `nbits` bits numbered as the opcode table numbers them: up to 32 a scalar word, else a lane
word, laid out as little-endian bytes. -/
def decodeTableWord (nbits w : Nat) : Option Instr :=
  if nbits ≤ 32 then (decodeScalarBytes (leBytes 4 (w % 2 ^ nbits))).toOption
  else (decodeLaneBytes (leBytes 12 (w % 2 ^ nbits))).toOption

end Sys2Proof
end

