-- ==== Sys2Proof/Config.lean ====
section
/-! DEFINITION. What the manual leaves open and the model leaves free: constants with no body. -/

namespace Sys2Proof.Config

/-- R219: where a destination byte of a global COPY overlaps a source byte of the same command, it ends holding either the
old source value or one the command wrote. `overlapPick n` is that choice for the `n`-th draw (notes/assumptions/5.md). -/
opaque overlapPick : Nat → Bool

/-- R372: the payload of an SPDM answer (certificates, digests, signatures over SHA-384) is not given by the manual; the
`n`-th answer of request code `req` carries this value (notes/assumptions/6.md). -/
opaque spdmPayload : Nat → Nat → Word

/-- R312: before FENCE.I a stage's fetch may give a byte as an earlier fetch found it or as memory holds it now; the `n`-th draw
(notes/assumptions/27.md). -/
opaque stalePick : Nat → Bool

/-- R344, R347: bytes of a team image and of a launch table whose layout the manual does not give (engine contexts, the barrier words of the
header, launch-table entries); the `n`-th draw (notes/assumptions/28.md). -/
opaque imageByte : Nat → Byte

/-- R146: which line a cache replaces is not given by the manual; the `n`-th choice (notes/assumptions/10.md). -/
opaque victim : Nat → Nat

/-- R192: the check bits of a block's metadata and how many slots its compressed form takes depend on an algorithm and a code that are not
architected; the `n`-th draw for a block of CRC `c` (notes/assumptions/26.md). -/
opaque blockForm : Nat → Nat → BitVec 9

end Sys2Proof.Config
end

