-- ==== Sys2Proof/Machine/State.lean ====
section
/-! DEFINITION. The state of the machine as plain data: the groups, teams and launches of one KX9 package, its caches,
attraction memory, directory, engines, domino table, contexts, mailboxes and stages, recovery and boundary registers, the
messages between hubs, and the schedule that says which unit moves next. Every sparse table lists only entries that differ
from its default. -/

namespace Sys2Proof.Machine

open Sys2Proof

/-- A sparse table: keys strictly rising, no entry equal to the table's default. -/
abbrev Tab (β : Type) := List (Nat × β)

/-- Device, pool and host memory by pod address (R299): a list of cells in canonical form; an unlisted byte reads 0. -/
abbrev Memory := List Host.Cell

/-! ## Parties and access sets (06) -/

/-- A party of R151. -/
inductive Party where
  | scalar (g : Nat)
  | lane (g : Nat)
  | copy (g : Nat)
  | fabric (g : Nat)
  | stage (st : Nat)
  | walker (die : Nat)
  | cp
  | host
  deriving DecidableEq, Repr, Inhabited

/-- What an access set does (R156, R207, R210, R330). `redg` and `atom` carry the R210 code and the type; `gather` is LDX (R208); `push` is
a word on its way to a queue port (R34, R156). -/
inductive SetKind where
  | load
  | gather
  | store
  | atom (op : BitVec 8) (ty : Ty)
  | redg (op : BitVec 8) (ty : Ty)
  | cas128
  | mbsend (cid : BitVec 12) (note : Bool) (alen : Nat)
  | mbgen (v : W32)
  | push (q : Nat) (x : Word)
  deriving DecidableEq, Repr, Inhabited

/-- One lane's access: the lane, its VA (or team-SRAM offset), its pod address once translated, its bytes, the store value or
operand, the compare value of a CAS, the value obtained, the PTE of its page, and whether its lane is a helper (R23, R204). -/
structure Acc where
  lane : Nat
  va   : Nat
  pa   : Nat
  n    : Nat
  data : Nat
  cmp  : Nat
  got  : Nat
  done : Bool
  pte  : Word := 0
  help : Bool := false
  deriving DecidableEq, Repr, Inhabited

/-- A span (R149): a 128-byte line by index (pod address / 128, or team-SRAM row), its first word and word count, whether it
has been sent or performed, the times it returned, the answers or stores it awaits, the number of its request and whether that has come to
its home slice (R16). -/
structure Span where
  line  : Nat
  first : Nat
  count : Nat
  sent  : Bool
  done  : Bool
  wts   : Nat
  rts   : Nat
  owe   : Nat := 0
  seq   : Nat := 0
  arrived : Bool := false
  deriving DecidableEq, Repr, Inhabited

/-- Where the result of a set goes: nowhere, a scalar register (with the width and signedness of the load), lane registers (type, first
register), the word a WAITCMP waits for, or s44 to s47 at the return from a handler (R342). -/
inductive Dest where
  | none
  | sreg (d : SReg) (n : Nat) (signed : Bool)
  | lane (ty : Ty) (vd : LReg)
  | quad (vd : LReg)
  | status (vd : LReg)
  | waitcmp
  | reload
  deriving DecidableEq, Repr, Inhabited

/-- What a set is for: the accesses of a word, the translation a scalar word waits for before it issues, or a fetch that has
faulted (R304). -/
inductive SetRole where
  | access | probe | fetch
  deriving DecidableEq, Repr, Inhabited

/-- The phase of an access set: waiting for translation, parked on a fault (its own faulting address and lanes, R307, and the CYCLE of the
park, R243), ready to be sent or to leave, left its quadrant. -/
inductive Phase where
  | xlate
  | parked (addr : Nat) (lanes : Mask) (since : Nat)
  | ready
  | gone
  deriving DecidableEq, Repr, Inhabited

/-- An access set (R156): a number, its party and kind, whether it addresses team SRAM, its scope, the address of its word
(SPC or LPC) and the path it came from, its accesses and spans, its destination, its in-flight counter (0 to 3, 4 for none),
the CYCLE of its issue, its floor, its phase, whether it belongs to a live domino region or to handler entry, the bytes a load takes from
earlier uncommitted stores of its party (by address, with the store's number), and, of a scalar load into a port, the source fields it reads
when it commits and the length of its word (R9, R34). -/
structure ASet where
  id     : Nat
  party  : Party
  kind   : SetKind
  sram   : Bool
  scope  : Scope
  pc     : Nat
  path1  : Bool
  accs   : List Acc
  spans  : List Span
  dest   : Dest
  ifc    : Nat
  issued : Nat
  floor  : Nat
  phase  : Phase
  region : Option Nat
  entry  : Bool
  fwd    : Tab (Nat × Byte) := []
  role   : SetRole := .access
  pops   : List SReg := []
  len    : Nat := 0
  deriving DecidableEq, Repr, Inhabited

/-! ## Groups (02 R30, 10, 13) -/

/-- One lane of a group: v0 to v191, 32 bits each (R30, reset 0, R31); p0 to p6, 1 bit each (p7 reads 1, R37; reset 0, R31);
the 32-bit SR counter (R86, reset 0); launched, helper (R23) and exited (R288) marks. -/
structure Lane where
  v        : Tab W32
  p        : BitVec 8
  sr       : W32
  launched : Bool
  helper   : Bool
  exited   : Bool
  deriving DecidableEq, Repr, Inhabited

/-- An entry of a path stack (R281). -/
inductive Entry where
  | join (j : Nat) (mask : Mask)
  | arm (lpc : Nat) (mask : Mask) (j : Nat)
  deriving DecidableEq, Repr, Inhabited

/-- An open lookahead window (R58): the LPC of X, the words left, the words completed (k of R59), the v-registers X writes,
and X's access set while it is uncommitted. -/
structure Look where
  lpc   : Nat
  left  : Nat
  done  : Nat
  dests : List Nat
  set   : Option Nat
  deriving DecidableEq, Repr, Inhabited

/-- A path of the lane stream: LPC (24 bits), EXEC and LaneSet (64 bits, R38, R116), its stack (K0 or K1, R281), open
windows, whether it waits at the dual-path join or has ended (R281, R288), and the window words that ERET has it step over after the
word at LPC (R59). -/
structure Path where
  lpc     : Nat
  exec    : Mask
  laneSet : Mask
  stack   : List Entry
  look    : List Look
  arrived : Bool
  skip    : Nat := 0
  deriving DecidableEq, Repr, Inhabited

/-- A lane block (R24, R25): its offset, its scalar snapshot (48 x 64 bits), the lt its LRUN carried. -/
structure Block where
  lofs : Nat
  snap : List Word
  lt   : Nat
  deriving DecidableEq, Repr, Inhabited

/-- The trap registers (R42, indexes 0x30 to 0x36; reset 0). -/
structure TrapRegs where
  tcause : BitVec 8
  tspc   : Word
  tlpc0  : BitVec 24
  tlpc1  : BitVec 24
  tlanes : Word
  taddr  : Word
  tinfo  : Word
  deriving DecidableEq, Repr, Inhabited

/-- A trap raised and not yet delivered: it waits for the earlier words of both streams (R335). -/
structure Pending where
  cause  : Cause
  lane   : Bool
  path1  : Bool
  spc    : Word
  lpc    : Nat
  lanes  : Mask
  addr   : Word
  info   : Word
  deriving DecidableEq, Repr, Inhabited

/-- One engine command (R218 to R222): its number, words, the lt of its push, progress in bytes or chunks, whether it has
started, granules unacknowledged, the largest time of its accesses, its status, whether all its accesses are done, the bytes of the piece that
has been read and not yet written, the CYCLE of its last push or granule, the bytes that its writes replaced (by VA, R219), and the
granules that are not answered, by VA with the CYCLE of sending (R305). -/
structure EngCmd where
  num   : Nat
  words : List Word
  lt    : Nat
  prog  : Nat
  began : Bool
  acks  : Nat
  time  : Nat
  stat  : BitVec 8
  fin   : Bool
  buf   : Option (List Byte) := none
  olds  : List (Nat × Byte) := []
  since : Nat := 0
  outs  : List (Nat × Nat) := []
  deriving DecidableEq, Repr, Inhabited

/-- A copy or fabric engine context (R217): words of the command being pushed, commands not complete, completion words
(16), completion words held back with their command numbers and times (16), the number of the next command, the timeline (TLC or TLF,
64 bits, reset 0) with the time of each completed command, halted, and the context's own lt (R151). -/
structure Engine where
  partWords : List Word
  cmds   : List EngCmd
  words  : List Word
  held   : List (Nat × Nat × Word)
  next   : Nat
  time   : Nat
  times  : List (Nat × Nat)
  halted : Bool
  lt     : Nat := 0
  deriving DecidableEq, Repr, Inhabited

/-- What DBEGIN's checkpoint restores (R244): the lanes (registers of the masked quads and predicates are taken back from
it), EXEC, LaneSet, K0, PART, CVMODE, CVSEED. -/
structure Ckpt where
  mask   : BitVec 88
  lanes  : List Lane
  exec   : Mask
  laneSet : Mask
  stack  : List Entry
  part   : BitVec 3
  cvmode : W32
  cvseed : W32
  deriving DecidableEq, Repr, Inhabited

/-- The domino values DSTAT reads after a region has ended (R250; reset 0). -/
structure DomStat where
  slot      : Nat
  stamp     : Word
  cts       : Word
  cause     : BitVec 4
  causeSlot : BitVec 8
  trapCause : BitVec 8
  userCode  : BitVec 8
  aborts    : BitVec 16
  deriving DecidableEq, Repr, Inhabited

/-- The memory word a WAITCMP waits for (R228): its VA, width in bytes, expected value and mask, condition and scope; once read, its
pod address and load time; whether its wait-table entry is placed (R229), whether a wake has come, the CYCLE of the last read. -/
structure WordWait where
  va     : Nat
  n      : Nat
  want   : Word
  mask   : Word
  c      : BitVec 3
  sc     : BitVec 3
  pa     : Nat
  t      : Nat
  placed : Bool
  woken  : Bool
  at_    : Nat
  deriving DecidableEq, Repr, Inhabited

/-- What a group's scalar stream waits for while it is in a blocking wait (R267): a wait of its word, the release of a barrier
level past a generation (R277), or a memory word. -/
inductive Wait where
  | none
  | scalar
  | barrier (level : Nat) (gen : Nat)
  | word (w : WordWait)
  deriving DecidableEq, Repr, Inhabited

/-- The state held aside while a handler runs, or while the group is out (the trap frame of R338 and control frame of R344), with the
wait of the word at TSPC, and the parked access sets that a save keeps with those behind them (R308). -/
structure Frame where
  p0      : Path
  p1      : Option Path
  dualJ   : Nat
  block   : Option Block
  queue   : List Block
  part    : BitVec 3
  cvmode  : W32
  cvseed  : W32
  sr      : List W32
  prog    : Nat
  gap     : Nat
  image   : Nat
  area    : Nat
  swap    : Bool
  cause   : Cause
  wait    : Wait
  spc     : Word
  sets    : List ASet := []
  deriving DecidableEq, Repr, Inhabited

/-- A group (R30, R31): its team and number, quadrant (0 to 287) and position; s0 to s47 and SPC; lanes; mode registers;
paths and lane blocks; in-flight counters; special and trap registers; queue ports it owns; engine contexts; logical times;
domino state; wait of each stream and recovery state; and, while it stands at the abort LPC of a region, the mask of the checkpoint (R245). -/
structure Group where
  team    : Nat
  gid     : Nat
  quad    : Nat
  pos     : Nat
  s       : List Word
  spc     : Word
  lanes   : List Lane
  part    : BitVec 3
  cvmode  : W32
  cvseed  : W32
  ifc     : List Nat
  pwstat  : BitVec 8
  trap    : TrapRegs
  p0      : Path
  p1      : Option Path
  dualJ   : Nat
  last1   : Bool
  block   : Option Block
  queue   : List Block
  lastExec : Option Mask
  slt     : Nat
  llt     : Nat
  endLt   : Nat
  copy    : Engine
  fabric  : Engine
  q3      : List Word
  q3owed  : List Word
  q3asked : List Word
  q3loss  : Bool
  q4      : List Word
  q5      : List (Word × Nat)
  region  : Option Nat
  retry   : Option Nat
  dstat   : DomStat
  wait    : Wait
  prog    : Nat
  gap     : Nat
  pend    : Option Pending
  frame   : Option Frame
  image   : Nat
  reached : Bool
  saved   : Bool
  exiting : Bool
  retired : Bool
  lwait   : Bool := false
  atAbort : Option (BitVec 88) := none
  deriving DecidableEq, Repr, Inhabited

/-! ## Matrix arrays (05) -/

/-- The state of a compute-in-memory array (R134). -/
inductive CimState where
  | empty | loaded | busy | stopped
  deriving DecidableEq, Repr, Inhabited

/-- A compute-in-memory array (R119; all 0 at the grant, R120): 256 x 64 cells of 20 bits (key 64*row+column); exponent
slots, +Inf and -Inf masks and NaN flags by 64*block+column; 64 x 64 accumulator words of 32 bits; the status words of R134. -/
structure Cim where
  cells : Tab (BitVec 20)
  expo  : Tab (BitVec 16)
  pinf  : Tab W32
  ninf  : Tab W32
  nan   : Tab (BitVec 1)
  acc   : Tab W32
  state : CimState
  bfmt  : BitVec 4
  ncols : BitVec 7
  m     : BitVec 7
  next  : BitVec 7
  fmtw  : BitVec 15
  aaddr : BitVec 19
  tag   : BitVec 8
  evt   : Bool
  count : BitVec 5
  first : BitVec 5
  deriving DecidableEq, Repr, Inhabited

/-- The kinds of matrix command (R121). -/
inductive MatKind where
  | mldb | mma | mclr
  deriving DecidableEq, Repr, Inhabited

/-- A running matrix command: its kind, its group, its first array and count, TAG and EVT, the CYCLE of acceptance, the first
row of this run, its row or column count, format code, source offset in team SRAM and format word; the rows or 512-byte pieces read so
far, those read and not yet used, the rows started; the time its completion carries (R160); the numbers of the next access set and of the
last copy command at acceptance (R132); whether it has been frozen (R143) or waits for room in q5 (R133). -/
structure MatCmd where
  kind   : MatKind
  g      : Nat
  first  : Nat
  count  : Nat
  tag    : BitVec 8
  evt    : Bool
  t0     : Nat
  row0   : Nat
  n      : Nat
  fmt    : Nat
  src    : Nat
  fmtw   : Nat
  read   : Nat
  buf    : List (List Byte)
  begun  : Nat
  lt     : Nat
  set0   : Nat
  eng0   : Nat
  frozen : Option Nat
  waiting : Bool
  deriving DecidableEq, Repr, Inhabited

/-- A matrix unit (R121): the running command and the groups (with the path) waiting for acceptance, in order. -/
structure MatUnit where
  run  : Option MatCmd
  fifo : List (Nat × Bool)
  deriving DecidableEq, Repr, Inhabited

/-! ## Teams and launches (10) -/

/-- A barrier level (R278): its generation, the groups that have arrived since the last release, the largest lt they carried, and the lt
of the last release. -/
structure Barrier where
  gen     : Nat
  arrived : List Nat
  lt      : Nat
  rel     : Nat := 0
  deriving DecidableEq, Repr, Inhabited

/-- Where a team stands (R265, R267, R343 to R346). -/
inductive TeamState where
  | dealt | resident | saving | out | retired
  deriving DecidableEq, Repr, Inhabited

/-- A team: its TEAMID, launch, dealt and present logical core, state, segment values (R258), window 0 base, team SRAM with
its rows' times (R158), channels q8 to q15 (R33), array share and arrays by quadrant (R120), barrier, pre-emption request,
save slot and its generation. -/
structure Team where
  tid     : W32
  launch  : Nat
  dealt   : Nat
  core    : Nat
  state   : TeamState
  segid   : W32
  segrow0 : W32
  segrows : W32
  win0    : Word
  groups  : List Nat
  sram    : Memory
  rows    : Tab (Nat × Nat)
  chans   : List (List (Word × Nat × Nat))
  cims    : List (List Cim)
  frozen  : Bool
  bar     : Barrier
  request : Option Nat
  slot    : Nat
  slotGen : Nat
  counts  : List (Nat × Nat × Nat)
  placed  : Nat
  deriving DecidableEq, Repr, Inhabited

/-- The header of a kernel image (R68) as the CP or the trap hardware has read it, with its device VA. -/
structure Image where
  va      : Nat
  width   : Nat
  regs    : Nat
  cims    : Nat
  wins    : BitVec 8
  sram    : Nat
  sofs    : Nat
  slen    : Nat
  lofs    : Nat
  lwords  : Nat
  dofs    : Nat
  dlen    : Nat
  total   : Nat
  vtos    : BitVec 48
  deriving DecidableEq, Repr, Inhabited

/-- A parsed launch record (R254). -/
structure Record where
  kind    : BitVec 8
  width   : BitVec 8
  regs    : BitVec 8
  cims    : BitVec 8
  groups  : BitVec 8
  flags   : BitVec 8
  status  : BitVec 8
  waitq   : BitVec 8
  entry   : Word
  teams   : W32
  lanes   : W32
  sram    : W32
  tilerows : BitVec 16
  wdog    : BitVec 8
  res0    : BitVec 8
  wintab  : Word
  snaptab : Word
  waitval : Word
  segtab  : Word
  deriving DecidableEq, Repr, Inhabited

/-- A launch (R253 to R261): its record and where it came from, LAUNCHID, launch time, image, windows (base and size),
build depth and builder run, the records it has built, the trap cause of a bad image, teams not retired, crew and launch barriers, replay count,
protection (R348), and whether it is being stopped for a rollback (R349). -/
structure Launch where
  ctx     : Nat
  queue   : Option (Nat × Nat)
  recVa   : Nat
  record  : Record
  lid     : W32
  lambda  : Nat
  image   : Nat
  wins    : List (Word × Word)
  depth   : Nat
  builder : Option (Nat × Nat)
  order   : Nat
  bad     : Option Cause
  left    : Nat
  crew    : List Barrier
  bar     : Barrier
  replays : Nat
  protect : Bool
  pri     : Nat
  maxLt   : Nat
  retired : Bool
  snaps   : List (Nat × Nat) := []
  stopping : Bool := false
  built   : Nat := 0
  deriving DecidableEq, Repr, Inhabited

/-- A device-built record waiting in the CP (R260, R261). -/
structure Built where
  ctx    : Nat
  launch : Nat
  order  : Nat
  words  : List Word
  lt     : Nat
  g      : Nat := 0
  run    : Nat := 0
  deriving DecidableEq, Repr, Inhabited

/-! ## Caches, translation and attraction memory (06, 07, 11) -/

/-- An L1 line of one core (R150, R162): line number, valid words, bytes, per-sector wts and rts, and the group or team that
holds it narrow. -/
structure L1Line where
  core   : Nat
  line   : Nat
  valid  : W32
  bytes  : Tab Byte
  wts    : List Nat
  rts    : List Nat
  narrow : Option (Scope × Nat)
  deriving DecidableEq, Repr, Inhabited

/-- A TLB entry (R301): context, VPN and PTE. -/
structure TlbEntry where
  ctx : Nat
  vpn : Nat
  pte : Word
  deriving DecidableEq, Repr, Inhabited

/-- A page walk that waits for a table page (R302): its die (2 for the hub), context and VPN, and the CYCLE and level of the read that is
unanswered. -/
structure Walk where
  die   : Nat
  ctx   : Nat
  vpn   : Nat
  since : Nat
  level : Nat
  deriving DecidableEq, Repr, Inhabited

/-- A wait-table entry (R229): word address, group, load time of the read that was not satisfied, AID of the waiter. -/
structure WaitEntry where
  pa   : Nat
  g    : Nat
  time : Nat
  src  : Nat
  deriving DecidableEq, Repr, Inhabited

/-- One lane's part of a span (R149): the access it belongs to, its pod address, bytes, value or operand, and the compare value of a CAS. -/
structure Part where
  acc  : Nat
  pa   : Nat
  n    : Nat
  data : Nat
  cmp  : Nat
  deriving DecidableEq, Repr, Inhabited

/-- Who awaits an entry of a write queue: the span of an access set of the package `src`, or its granule of an engine's atomic, by VA. -/
structure Asker where
  src : Nat
  id  : Nat
  k   : Nat
  gran : Option Nat := none
  deriving DecidableEq, Repr, Inhabited

/-- A write-queue entry of a home slice (R163): line, operation (R210's code, 0xF2 for CAS128) and type, whether it returns values, its
time, its parts, oldest first, and who awaits it. -/
structure WqEntry where
  slice : Nat
  line  : Nat
  op    : BitVec 8
  ty    : Ty
  ret   : Bool
  t     : Nat
  parts : List Part
  who   : List Asker
  deriving DecidableEq, Repr, Inhabited

/-- A page or line with PTE home 0b11 or 0b10 (R146, R147): the core that accessed it, its page, its line (0 for a page), the context and
VPN whose PTE names it, and whether it is held in its pinned place or as home 0b00. -/
structure Pin where
  core : Nat
  gpn  : Nat
  line : Nat
  ctx  : Nat
  vpn  : Nat
  held : Bool
  deriving DecidableEq, Repr, Inhabited

/-- Tag states (R174). -/
inductive TagState where
  | invalid | replica | master | mirrored | shadow | retired
  deriving DecidableEq, Repr, Inhabited

/-- A frame tag (R174; reset INVALID, all fields 0). PARK of a way is kept with its bank (R200). -/
structure Tag where
  set     : Nat
  way     : Nat
  gpn     : Nat
  state   : TagState
  heat    : BitVec 8
  epoch   : BitVec 4
  pin     : Bool
  comp    : Bool
  transit : Bool
  shared  : Bool
  fwt     : Nat
  fle     : Nat
  deriving DecidableEq, Repr, Inhabited

/-- Directory modes (R177). -/
inductive DirMode where
  | precise | coarse | rebuilding | lost
  deriving DecidableEq, Repr, Inhabited

/-- A crown transaction or other transaction in progress on an entry (R180, R184): the requester, acknowledgements awaited,
the largest lease end so far. -/
structure DirTx where
  req   : Nat
  acks  : Nat
  floor : Nat
  since : Nat
  old   : Nat
  deriving DecidableEq, Repr, Inhabited

/-- A directory entry (R177; reset 0). -/
structure DirEntry where
  gpn    : Nat
  mode   : DirMode
  crown  : Nat
  mirror : Option Nat
  pool   : Option Nat
  reps   : List Nat
  groups : BitVec 32
  floor  : Nat
  tx     : Option DirTx
  spill  : Bool
  deriving DecidableEq, Repr, Inhabited

/-- The issuer parked by a fault record (R304), or waiting for a page; all but a set and a ring carry the VA they access. The rings are
that of AM commands (64), the fault-address queue (65), and the fault ring of each context (R358); a prefetch holds nothing (R209). -/
inductive Issuer where
  | set (id : Nat)
  | engine (g : Nat) (fab : Bool) (num va : Nat)
  | granule (src cmd g va : Nat)
  | stage (st va : Nat)
  | cpRead (src va : Nat)
  | epCmd (c e va : Nat)
  | post (k va : Nat)
  | ring (k : Nat)
  | host (off va : Nat) (write : Bool)
  | pref (core c va : Nat) (sc : Scope)
  deriving DecidableEq, Repr, Inhabited

/-- The stages of a climb (R181, R182). -/
inductive ClimbStage where
  | amc | hint | sent | hinted
  deriving DecidableEq, Repr, Inhabited

/-- A climb for a page (R182): number, GPN, stage, the frame chosen, whether data and acknowledgement have come on a hint, the
CYCLE of the present step, the page's mirror and compression attributes, the line that missed and the accesses that joined, whether the access
pins the page (R194), and the way chosen for a page that must wait for its master to leave (R183). -/
structure Climb where
  id    : Nat
  gpn   : Nat
  stage : ClimbStage
  set   : Nat
  way   : Nat
  since : Nat
  acked : Bool
  held  : Option (Memory × Nat × Nat × Bool × Nat)
  mirr  : Bool
  comp  : Bool
  line  : Nat := 0
  who   : List Issuer := []
  hs    : Bool := true
  pin   : Bool := false
  pick  : Option Nat := none
  deriving DecidableEq, Repr, Inhabited

/-- A crown request of this package for a store (R184): the page, when the crown became effective (R185), the accesses that wait for it,
whether the page is to be pinned (R194), and the way chosen for it (R183). -/
structure CrownReq where
  gpn     : Nat
  granted : Bool
  done    : Bool
  floor   : Nat
  since   : Nat
  who     : List Issuer := []
  pin     : Bool := false
  comp    : Bool := false
  mirr    : Bool := false
  pick    : Option Nat := none
  deriving DecidableEq, Repr, Inhabited

/-- An injection in progress (R188, R189), or the placement of a mirror for the package whose first touch waits (R178, R195). -/
structure Inject where
  gpn    : Nat
  offers : List Nat
  rounds : Nat
  since  : Nat
  sentTo : Option Nat
  refused : Bool
  mirror : Option Nat := none
  deriving DecidableEq, Repr, Inhabited

/-- Messages between hubs (07, 08 R220, R229, 11 R305). Page data is a Memory keyed by byte offset in the page. -/
inductive Msg where
  | read (gpn req : Nat) (hinted pin : Bool)
  | homeRead (gpn req : Nat) (notHeld : Option Nat) (mirr pin : Bool)
  | register (gpn req holder : Nat) (mirr pin : Bool)
  | regAck (gpn : Nat)
  | stale (gpn : Nat)
  | notHeld (gpn holder : Nat) (hinted : Bool)
  | page (gpn : Nat) (data : Memory) (fwt fle : Nat) (server : Nat) (poison first hinted : Bool)
  | takeBack (gpn pool floor owner : Nat)
  | poolFree (pool : Nat)
  | taken (gpn who : Nat)
  | crownReq (gpn req : Nat) (replica mirr : Bool) (fle : Nat)
  | inval (gpn : Nat)
  | invalAck (gpn holder : Nat) (fle : Option Nat)
  | release (gpn req : Nat) (replica : Bool)
  | grant (gpn fle : Nat) (data : Option Memory) (fwt : Nat) (poison : Bool)
  | complete (gpn floor crown : Nat) (mirror : Option Nat)
  | freed (gpn : Nat)
  | offer (gpn : Nat) (hasData : Bool)
  | offerAns (gpn who : Nat) (yes replica : Bool)
  | inject (gpn : Nat) (data : Option Memory) (fwt fle : Nat) (shared mirror poison : Bool)
  | setCrown (gpn who injector : Nat) (mirror : Bool)
  | injOk (gpn who : Nat)
  | summary (who : Nat) (mask : Word) (count : BitVec 16)
  | recall (gpn home : Nat)
  | recallAns (gpn who : Nat) (st : TagState) (pool : Option Nat)
  | reported (who : Nat)
  | poolSet (gpn who pool floor : Nat)
  | granule (src cmd g : Nat) (space : Nat) (va pa : Nat) (op : BitVec 8) (data : List Byte) (n : Nat) (cnt : Option (Nat × Nat)) (floor : Nat) (parked mirr : Bool)
  | granAck (g cmd : Nat) (fab : Bool) (stat : BitVec 8) (time : Nat) (dst : Nat) (data : List Byte)
  | count (ctxSpace cid bytes time src g cmd : Nat) (fab : Bool) (va : Nat)
  | waitPlace (line time g src : Nat)
  | wake (g : Nat)
  | remote (id k : Nat) (op : BitVec 8) (ty : Ty) (parts : List Part) (floor : Nat) (write never mirr : Bool)
  | remoteAns (id k pa : Nat) (got : List Nat) (time lease : Nat) (stat : BitVec 8)
  | crownNo (gpn : Nat)
  | amFault (gpn : Nat) (cause : Cause)
  deriving DecidableEq, Repr, Inhabited

/-- A message with its source and destination AID, the CYCLE in which it was sent or arrived, the station it came by (R180), and whether
the home has passed it on. -/
structure Env where
  src : Nat
  dst : Nat
  msg : Msg
  at_ : Nat := 0
  stn : Nat := 0
  passed : Bool := false
  deriving DecidableEq, Repr, Inhabited

/-- Attraction memory of the package and its directory (07): among the rest the pages whose crown a master elsewhere keeps (R194), the pages
whose crown is leaving (R184), the pages whose second crowned copy this is (R195), the parked banks by stack and bank (R200), whether the
command at the ring's head has begun, the writes that the mirror of a page here has not answered (asker's number, span, line, R195), the
lines that L2 holds wholly overwritten (R193), the metadata of the blocks of compressed frames (R192), the accesses that wait behind a page in
transit, with the CYCLE since when (R189), the pages whose entry is being rebuilt elsewhere, with the CYCLE of the recall (R197), the packages
that have reported their pages since the last loss (R196), the pages whose second crowned copy lies in this package's pool partition
(R178), the package of the other crowned copy of each mirrored page here (R188), and the frame that AM_RETIRE empties (R199). -/
structure Am where
  tags    : List Tag
  samples : Tab (BitVec 6)
  hint    : List (Nat × Nat)
  dir     : List DirEntry
  climbs  : List Climb
  nextId  : Nat
  crowns  : List CrownReq
  injects : List Inject
  sums    : List (Nat × Word × Nat)
  poolFree : List Nat
  shadows : List (Nat × Nat × Memory)
  poison  : List (Nat × Cause)
  stats   : List Nat
  lost    : List Nat
  poolPg  : Tab Nat
  foreign : List Nat := []
  released : List Nat := []
  seconds : List Nat := []
  parked  : List (Nat × Nat) := []
  busy    : Bool := false
  mirs    : List (Nat × Nat × Nat) := []
  whole   : List Nat := []
  blocks  : Tab W32 := []
  behind  : List (Issuer × Nat × Nat) := []
  recalls : Tab Nat := []
  reports : List Nat := []
  poolMirs : List Nat := []
  others  : Tab Nat := []
  retiring : List (Nat × Nat) := []
  deriving DecidableEq, Repr, Inhabited

/-! ## Domino table (09) -/

/-- Slot states (R233). -/
inductive DomState where
  | free | live | waiting | committing | aborting
  deriving DecidableEq, Repr, Inhabited

/-- A slot of the domino table in use (R231 to R244): number, stamp, group and core, state, nest count, depth, abort LPC,
checkpoint, speculative bytes, written spans, words read, commit time floor from predecessors, commit time, abort cause, store sets that IFC1
still counts, and, while it aborts, the words it had marked (R240). -/
structure DomSlot where
  slot   : Nat
  stamp  : Nat
  g      : Nat
  core   : Nat
  state  : DomState
  nest   : Nat
  depth  : Nat
  abort  : Nat
  ckpt   : Ckpt
  lines  : Nat
  wr     : Tab Byte
  wspans : List Nat
  rd     : List Nat
  minTs  : Nat
  cts    : Nat
  cause  : BitVec 4
  by_    : Nat
  since  : Nat
  stores : Nat := 0
  hit    : List Nat := []
  deriving DecidableEq, Repr, Inhabited

/-- The domino table of the package (R231, R238; reset: stamp counter 0, every slot FREE): the next stamp, slots in use, the
reachability pairs, the writer marks (word to slot), DBEGINs waiting in order, recall messages held (R240), the forwards recorded (from slot,
to slot), and the accesses that wait until a slot has ended (set, span, slot, R238). -/
structure Domino where
  stamp : Nat
  slots : List DomSlot
  reach : List (Nat × Nat)
  marks : Tab Nat
  fifo  : List Nat
  holds : List (Nat × Nat × Env)
  fwds  : List (Nat × Nat) := []
  stalls : List (Nat × Nat × Nat) := []
  deriving DecidableEq, Repr, Inhabited

/-! ## Contexts (11, 13), launch queues (10) and mailboxes (12) -/

/-- A launch queue's registers (R252; reset 0), with the number of the next record and retired record numbers above
DONE. -/
structure LaunchQ where
  base  : Word
  ctl   : Word
  tail  : BitVec 12
  head  : BitVec 12
  done  : Word
  next  : Nat
  fin   : List Nat
  deriving DecidableEq, Repr, Inhabited

/-- A fault record (R306) and the issuers it parks (R307), whether it is written, and whether a write of FQ_REPLAY has released its issuers
or killed them. -/
structure FaultRec where
  cause  : BitVec 8
  engine : BitVec 8
  access : BitVec 8
  level  : BitVec 8
  seq    : Nat
  va     : Word
  entry  : Word
  count  : Nat
  who    : BitVec 8
  where_ : BitVec 8
  pcOrIx : W32
  tlanes : Word
  lid    : W32
  space  : W32
  cyc    : Word
  status : Word
  at_    : Nat
  written : Bool
  issuers : List Issuer
  released : Bool
  kill    : Bool := false
  deriving DecidableEq, Repr, Inhabited

/-- Mailbox states (R321). -/
inductive EpState where
  | unbound | start | idle | action | stepping | held | ended
  deriving DecidableEq, Repr, Inhabited

/-- The mark of R321 on a pending post. -/
inductive EpMark where
  | none | truncate | hold
  deriving DecidableEq, Repr, Inhabited

/-- An episode (R315 to R332): state, windows (base, size, rights), ENTRY, BUDGET, RULE, STEP, EPGEN, CID, NOTE with the group
to notify, ALEN and action bytes, mbx_stat, ERRS, LASTST, MCAUSE, MEPC, mark, stage, the lt its action carried, whether its
registers stand in its record, watchdog count, the CYCLE of entry into its state, whether status words are still to be written, its place in the
order of entries into START and ACTION, and the stage being saved to make room for it (R323). -/
structure Episode where
  ix     : Nat
  state  : EpState
  wins   : List (Nat × Nat × BitVec 3)
  entry  : Word
  budget : Nat
  rule   : Nat
  step   : W32
  gen    : W32
  cid    : BitVec 12
  note   : Option Nat
  alen   : Nat
  act    : List Byte
  stat   : Word
  errs   : W32
  lastst : BitVec 8
  lastDone : Bool
  mcause : Word
  mepc   : Word
  mark   : EpMark
  stage  : Option Nat
  lt     : Nat
  saved  : Bool
  dog    : Nat
  dogOn  : Bool
  since  : Nat
  dirty  : Bool := false
  seq    : Nat := 0
  claim  : Option Nat := none
  deriving DecidableEq, Repr, Inhabited

/-- A post under way (R320, R326): its number, context, episode, the VA and words of its header, counter, bytes and CYCLE, whether the header
is written, its time, and the group and word of its notice (R332). -/
structure Post where
  num    : Nat
  ctx    : Nat
  ep     : Nat
  va     : Nat
  hdr    : List Word
  cid    : BitVec 12
  bytes  : Nat
  at_    : Nat
  written : Bool
  time   : Nat
  note   : Option (Nat × Word)
  deriving DecidableEq, Repr, Inhabited

/-- A tenant context (R294): the registers of R295 and R336 as 64-bit images, launch queues, the mailbox registers of R317,
the fault records not yet released, the next SEQ, the image-check memory of R337, the seal generation counter. -/
structure Ctx where
  ctl    : Word
  ptroot : Word
  msix   : Word
  fqBase : Word
  fqCtl  : Word
  fqTail : BitVec 12
  fqHead : BitVec 12
  tlbiVa : Word
  tlbiCtl : Word
  wins   : List Word
  tvec   : Word
  harea  : Word
  save   : Word
  savesz : Word
  rb     : Word
  ckpt   : Word
  ckgen  : Word
  fatal  : Word
  queues : List LaunchQ
  mbxBase : Word
  mbxCtl : Word
  epCmd  : Word
  epRes  : Word
  eps    : List Episode
  faults : List FaultRec
  seq    : Nat
  checked : List (Nat × Word × Word)
  sealGen : Nat
  held   : Bool
  arrivals : List (Nat × Option (Nat × Nat) × Nat × Nat)
  waitFaults : List FaultRec := []
  tlbiAt : Nat := 0
  tlbiGo : Nat := 0
  tlbiRange : Word × Word := (0, 0)
  fqHold : Bool := false
  deriving DecidableEq, Repr, Inhabited

/-- Stage states (R324). -/
inductive StState where
  | empty | restoring | running | waiting | parked | saving | resetting
  deriving DecidableEq, Repr, Inhabited

/-- A stage of a marionette core (R313): the context and episode it runs, its state, x1 to x31 and f0 to f31 (64 bits each), fcsr
(32 bits), pc (64 bits), its LR reservation (line), its lt, the CYCLE its present state began, and the bytes of the word it fetched last. -/
structure Stage where
  st     : Nat
  ctx    : Nat
  ep     : Nat
  state  : StState
  x      : Tab Word
  f      : Tab Word
  fcsr   : W32
  pc     : Word
  resv   : Option Nat
  lt     : Nat
  since  : Nat
  fetchBuf : Tab Byte
  deriving DecidableEq, Repr, Inhabited

/-! ## Boundaries (13, 14) -/

/-- The power states of the module (R368). -/
inductive Power where
  | off | d0 | d3hot | d3cold
  deriving DecidableEq, Repr, Inhabited

/-- Hub registers outside the contexts: AM, RAS, LINK and PM blocks (R198, R351, R353, R361, R370), space enables (R298), slot
tables (R268), with the state their steps act on: among it the CYCLE a bank test began, the pseudo-channels in self-refresh and the CYCLE
each was last used (R355), the CYCLE each die last had a resident team (R368), the CYCLE of the last evaluation
of the limits (R370), and whether a switch reported another package with this AID (R364). -/
structure Hub where
  amqBase : Word
  amqSize : Word
  amqTail : BitVec 12
  amqHead : BitVec 12
  amqHold : Bool
  faqBase : Word
  faqSize : Word
  faqTail : BitVec 12
  faqHead : BitVec 12
  faqHold : Bool
  faq     : List (List Word)
  faqLost : Nat
  btCtl   : Word
  btRes   : Word
  btAt    : Nat := 0
  badFrames : List Word
  hostCtl : Word
  poolBase : Word
  poolPart : Word
  podId   : Word
  stnUp   : BitVec 16
  podLost : List Word
  pmLimit : Word
  pmPower : Word
  pmTemp  : Word
  pmThrot : Word
  pmOffdc : Nat
  pmGate  : Word
  pmAt    : Nat := 0
  gateAt  : List (Option Nat)
  spaces  : List Word
  staged  : Tab (BitVec 8)
  active  : Tab (BitVec 8)
  cslReq  : List Nat
  selfRef : List Nat
  chanUse : Tab Nat := []
  busyAt  : List Nat := [0, 0]
  power   : Power
  aidClash : Bool
  poolUp  : Bool
  vectors : List Nat
  spdm    : List (Nat × Word)
  hostOut : List (Nat × Word)
  hostLines : List Nat
  hostDirty : List Nat := []
  strikes : List (Nat × Nat) := []
  draws   : Nat
  harvest0 : BitVec 36
  harvest1 : BitVec 36
  deriving DecidableEq, Repr, Inhabited

/-! ## The whole machine -/

/-- A move of the schedule: a step of the opcode table without an encoding, the next word of a group's scalar or lane stream, a
carousel slot of a quadrant (R270), a message arriving from another package, bytes that the host or another package writes to host or pool
memory, a read of the register BAR by the host (R357), a line of host or pool memory that from now on answers normally (0), with an error (1)
or with poison (2) (R193, R214, R362), or nothing. -/
inductive Act where
  | event (i : Instr)
  | scalar (g : Nat)
  | lane (g : Nat) (path1 : Bool)
  | slot (q : Nat) (lane : Bool)
  | inbound (e : Env)
  | outside (pa : Nat) (bs : List Byte)
  | hostRead (off n : Nat)
  | outsideLine (line stat : Nat)
  | idle
  deriving DecidableEq, Repr, Inhabited

/-- One turn: the dc that pass before it, and the move. -/
structure Turn where
  dc  : Nat
  act : Act
  deriving DecidableEq, Repr, Inhabited

/-- The carousel's round-robin memory of a quadrant (R270): the context last served in a shared slot, and for each context the
position that issued last, for lane and for scalar words. -/
structure Rr where
  lastCtx : Nat
  lastPos : Tab Nat
  deriving DecidableEq, Repr, Inhabited

/-- The machine: one KX9 package, its share of the pod's messages, and the schedule. Of the L2 slices it holds the sectors' times and the
lines written since they came; `ibuf` holds never-cached pages whose instruction bytes the word now issuing has fetched; `nextSend` numbers requests to home slices (R16), `served` says which requester each shared resource has
served last in the present dc (R34, R121, R154, R231). -/
structure State where
  cycle   : Nat
  sched   : List Turn
  cur     : Nat
  path1   : Bool
  mem     : Memory
  sectors : Tab (Nat × Nat)
  dirty   : List Nat
  ibuf    : List (Nat × Memory)
  pins    : List Pin
  l2pins  : List Pin
  l1      : List L1Line
  l1tlb   : List (Nat × TlbEntry)
  dieTlb  : List (Nat × TlbEntry)
  hubTlb  : List TlbEntry
  walks   : List Walk
  wq      : List WqEntry
  waits   : List WaitEntry
  sets    : List ASet
  nextSet : Nat
  nextSend : Nat
  served  : List ((Nat × Nat) × Nat)
  groups  : List Group
  teams   : List Team
  launches : List Launch
  images  : List Image
  built   : List Built
  units   : List (Nat × MatUnit)
  clears  : List (Nat × Nat × Nat)
  nextLid : W32
  am      : Am
  net     : List Env
  dom     : Domino
  ctxs    : List Ctx
  stages  : List Stage
  coreRr  : Tab Nat
  posts   : List Post
  hub     : Hub
  rrLane  : List (Nat × Rr)
  rrScalar : List (Nat × Rr)
  cpLt    : Nat
  cpLast  : List (Nat × Nat)
  hostLt  : Nat
  walkLt  : List Nat
  deriving DecidableEq, Repr, Inhabited

/-- Why the machine stops with a fault. -/
inductive Fault where
  /-- Raised by the step when the module is not powered and nothing in the schedule powers it (R367): no unit moves. Safe: the
  manual gives no step of an unpowered module but power-on. -/
  | unpowered
  deriving DecidableEq, Repr

/-- Why an instruction has no meaning. -/
inductive Refusal where
  /-- Raised by an arm of `exec` that has no meaning yet, by its mnemonic. Safe: nothing can be proved of such a step. -/
  | notModelled (mnemonic : String)
  deriving DecidableEq, Repr

/-! ## Reset -/

/-- A launch queue after module reset (R252); record numbering starts at 1. -/
def LaunchQ.reset : LaunchQ :=
  { base := 0, ctl := 0, tail := 0, head := 0, done := 0, next := 1, fin := [] }

/-- A context after module reset (R295, R317, R336): every field 0 but TLBI_CTL.DONE, CTX_CKPT.DONE and EP_RES.DONE, which are 1. -/
def Ctx.reset : Ctx :=
  { ctl := 0, ptroot := 0, msix := 0, fqBase := 0, fqCtl := 0, fqTail := 0, fqHead := 0, tlbiVa := 0, tlbiCtl := 0x40000,
    wins := List.replicate 4 0, tvec := 0, harea := 0, save := 0, savesz := 0, rb := 0, ckpt := 4, ckgen := 0, fatal := 0,
    queues := List.replicate 16 LaunchQ.reset, mbxBase := 0, mbxCtl := 0, epCmd := 0, epRes := 1, eps := [], faults := [],
    seq := 1, checked := [], sealGen := 0, held := false, arrivals := [] }

/-- The hub registers after module reset (R198, R268, R298, R351, R353, R361, R370); HARVEST0, HARVEST1, AID and pod size stand
at the values of notes/assumptions/1.md. -/
def Hub.reset : Hub :=
  { amqBase := 0, amqSize := 0, amqTail := 0, amqHead := 0, amqHold := false, faqBase := 0, faqSize := 0, faqTail := 0,
    faqHead := 0, faqHold := false, faq := [], faqLost := 0, btCtl := 0x20000, btRes := 0, badFrames := [], hostCtl := 0,
    poolBase := 0, poolPart := 0, podId := 0x400, stnUp := 0, podLost := List.replicate 16 0, pmLimit := 2100, pmPower := 0,
    pmTemp := 0, pmThrot := 0, pmOffdc := 0, pmGate := 0x100, gateAt := [none, none], spaces := List.replicate 64 0,
    staged := [], active := [], cslReq := [], selfRef := [], power := .d0, aidClash := false, poolUp := false, vectors := [],
    spdm := [], hostOut := [], hostLines := [], draws := 0, harvest0 := 0, harvest1 := 0 }

/-- Attraction memory after module reset: every tag INVALID, counters 0 (R173, R190, R198). -/
def Am.reset : Am :=
  { tags := [], samples := [], hint := [], dir := [], climbs := [], nextId := 0, crowns := [], injects := [], sums := [],
    poolFree := [], shadows := [], poison := [], stats := List.replicate 13 0, lost := [], poolPg := [] }

/-- The domino table after module reset (R231). -/
def Domino.reset : Domino :=
  { stamp := 0, slots := [], reach := [], marks := [], fifo := [], holds := [] }

/-- The machine right after module reset and bring-up (R367): no launch, no group, memory with nothing listed, every register
at its reset value. -/
def State.reset : State :=
  { cycle := 0, sched := [], cur := 0, path1 := false, mem := [], sectors := [], dirty := [], ibuf := [], pins := [], l2pins := [], l1 := [], l1tlb := [], dieTlb := [],
    hubTlb := [], walks := [], wq := [], waits := [], sets := [], nextSet := 0, nextSend := 0, served := [], groups := [], teams := [], launches := [], images := [],
    built := [], units := [], clears := [], nextLid := 0, am := Am.reset, net := [], dom := Domino.reset,
    ctxs := List.replicate 64 Ctx.reset, stages := [], coreRr := [], posts := [], hub := Hub.reset, rrLane := [],
    rrScalar := [], cpLt := 0, cpLast := [], hostLt := 0, walkLt := [0, 0, 0] }

end Sys2Proof.Machine
end

