-- ==== Sys2Proof/Machine/Sparse.lean ====
section
/-! DEFINITION. Sparse tables in canonical form (keys strictly rising, no entry at the default), memory as bytes in one (R4,
R178), and small list and bit helpers. -/

namespace Sys2Proof.Machine

open Sys2Proof

/-- The dc that latencies and deadlines count: those that were not off dc (R369). CYCLE counts every dc. -/
def State.now (s : State) : Nat := s.cycle - s.hub.pmOffdc

/-! ## Sparse tables -/

/-- The entry of key `k`, or the default. -/
def tget {β : Type} (d : β) : List (Nat × β) → Nat → β
  | [], _ => d
  | (a, v) :: r, k => if a = k then v else tget d r k

/-- Insert or replace the entry of `k`. -/
def tput {β : Type} (k : Nat) (v : β) : List (Nat × β) → List (Nat × β)
  | [] => [(k, v)]
  | (a, x) :: r => if k < a then (k, v) :: (a, x) :: r else if a = k then (k, v) :: r else (a, x) :: tput k v r

/-- Remove the entry of `k`. -/
def tdel {β : Type} (k : Nat) : List (Nat × β) → List (Nat × β)
  | [] => []
  | (a, x) :: r => if a = k then tdel k r else (a, x) :: tdel k r

/-- Write `v` at `k`, keeping the canonical form. -/
def tset {β : Type} [DecidableEq β] (d : β) (t : List (Nat × β)) (k : Nat) (v : β) : List (Nat × β) :=
  if v = d then tdel k t else tput k v t

/-- Every key of the table is above `k`. -/
def keysAbove {β : Type} (k : Nat) : List (Nat × β) → Bool
  | [] => true
  | (a, _) :: r => k < a && keysAbove k r

/-- The canonical form: keys strictly rising and no entry at the default. -/
def tabWf {β : Type} [DecidableEq β] (d : β) : List (Nat × β) → Bool
  | [] => true
  | (a, v) :: r => v != d && keysAbove a r && tabWf d r

/-! ## Memory -/

/-- Memory in canonical form: an unlisted byte reads 0 (R178). -/
def Memory.wf (m : Memory) : Bool := tabWf (0 : Byte) m

/-- One byte of memory. -/
def byteAt (m : Memory) (a : Nat) : Byte := tget 0 m a
/-- Write one byte. -/
def setByte (m : Memory) (a : Nat) (b : Byte) : Memory := tset 0 m a b

/-- `n` bytes from `a`. -/
def bytesAt (m : Memory) (a : Nat) : Nat → List Byte
  | 0 => []
  | n + 1 => byteAt m a :: bytesAt m (a + 1) n

/-- Write bytes from `a` upwards. -/
def setBytes (m : Memory) (a : Nat) : List Byte → Memory
  | [] => m
  | b :: r => setBytes (setByte m a b) (a + 1) r

/-- The little-endian value of `n` bytes (R4). -/
def loadLe (m : Memory) (a n : Nat) : Nat := leNat (bytesAt m a n)
/-- Store the `n` low bytes of `v` (R4). -/
def storeLe (m : Memory) (a n v : Nat) : Memory := setBytes m a (leBytes n v)

/-- The cells of one range, keyed from its start. -/
def cellsIn (m : Memory) (a n : Nat) : Memory :=
  (m.filter fun c => a ≤ c.1 && c.1 < a + n).map fun c => (c.1 - a, c.2)
/-- Memory without the cells of one range. -/
def clearRange (m : Memory) (a n : Nat) : Memory := m.filter fun c => !(a ≤ c.1 && c.1 < a + n)
/-- Put the cells of a page image at `a`. -/
def putCells (m : Memory) (a : Nat) (cells : Memory) : Memory :=
  cells.foldl (fun m c => setByte m (a + c.1) c.2) m

/-! ## Bits and lists -/

/-- Bits `hi` down to `lo` of a number. -/
def bits (v hi lo : Nat) : Nat := v / 2 ^ lo % 2 ^ (hi + 1 - lo)
/-- Bit `i` of a number. -/
def bit (v i : Nat) : Bool := v / 2 ^ i % 2 == 1
/-- The 64-bit register value of a number. -/
def w64 (n : Nat) : Word := BitVec.ofNat 64 n
/-- Value of `w` low bits read as a two's-complement integer. -/
def signedOf (w v : Nat) : Int := if v % 2 ^ w < 2 ^ (w - 1) then (v % 2 ^ w : Nat) else ((v % 2 ^ w : Nat) : Int) - (2 ^ w : Nat)
/-- Sign extension of a `w`-bit value to 64 bits. -/
def sext64 (w v : Nat) : Word := BitVec.ofInt 64 (signedOf w v)
/-- Round up division. -/
def ceilDiv (a b : Nat) : Nat := (a + b - 1) / b
/-- The mask with one bit for every listed lane. -/
def maskOf (ls : List Nat) : Mask := ls.foldl (fun m i => m ||| (1#64 <<< i)) 0
/-- The lanes of a mask, ascending. -/
def lanesOf (m : Mask) : List Nat := (List.range 64).filter fun i => m.getLsbD i
/-- Insert by a key, behind equal keys. -/
def insertOn {α : Type} (key : α → Nat) (x : α) : List α → List α
  | [] => [x]
  | y :: r => if key x < key y then x :: y :: r else y :: insertOn key x r
/-- A list in rising order of a key; equal keys keep their order. -/
def sortOn {α : Type} (key : α → Nat) (l : List α) : List α := l.foldl (fun a x => insertOn key x a) []
/-- Change the first element that meets a test. -/
def modFirst {α : Type} (p : α → Bool) (f : α → α) : List α → List α
  | [] => []
  | x :: r => if p x then f x :: r else x :: modFirst p f r

end Sys2Proof.Machine
end

