-- ==== Sys2Proof/Machine/Flags.lean ====
section
/-! DEFINITION. Conditions, comparisons, carries and predicate results (R46, R92, R97, R100). The machine keeps no status flags
(R70): a comparison writes a scalar 0 or 1, or a predicate of each lane. -/

namespace Sys2Proof.Machine

open Sys2Proof

/-- The condition codes of R46; the two reserved codes name none. -/
def condOf (c : BitVec 3) : Option Cond :=
  match c.toNat with
  | 0 => some .eq | 1 => some .ne | 2 => some .lt | 3 => some .ge | 4 => some .ltn | 5 => some .gen
  | _ => none

/-- A comparison of two 64-bit values (R46). -/
def condHolds (c : Cond) (a b : Word) : Bool :=
  match c with
  | .eq => a == b
  | .ne => a != b
  | .lt => a.slt b
  | .ge => !a.slt b
  | .ltn => a.ult b
  | .gen => !a.ult b

/-- A reserved code holds nowhere; the instruction has trapped COND_RESERVED before. -/
def condCode (c : BitVec 3) (a b : Word) : Bool :=
  match condOf c with
  | some k => condHolds k a b
  | none => false

/-- An operand extended to 64 bits by its type (R97). -/
def extTy (t : Ty) (v : Nat) : Word := if tySigned t then sext64 (tyWidth t) v else w64 (v % 2 ^ tyWidth t)

/-- VCMP (R97). -/
def vcmpBit (t : Ty) (opx : BitVec 3) (a b : Nat) : Bool := condCode opx (extTy t a) (extTy t b)

/-- VPLOG: bit pa*4 + pb*2 + pc of the table (R97). -/
def plogBit (table : Nat) (a b c : Bool) : Bool :=
  bit table (4 * a.toNat + 2 * b.toNat + c.toNat)

/-- VADDC: the sum or difference with the carry predicate, and the carry or borrow out (R97). -/
def addCarry (w : Nat) (sub : Bool) (a b : Nat) (c : Bool) : Nat × Bool :=
  if sub then
    let d : Int := (a : Int) - b - c.toNat
    (wrapInt w d, d < 0)
  else
    let d := a + b + c.toNat
    (d % 2 ^ w, 2 ^ w ≤ d)

end Sys2Proof.Machine
end

