-- ==== Sys2Proof/Machine/Walk.lean ====
section
/-! DEFINITION. What every access rests on: lookups and registers; cores (R15, R263); pages, translation and walks (R174, R299 to R302); home
slices, heat, blocks, times and leases (R16, R152, R153, R190 to R192); pins (R147). -/

namespace Sys2Proof.Machine

open Sys2Proof

/-- What a step answers. -/
abbrev Out := Host.Outcome State Fault Refusal

/-! ## Lookups and updates by index -/

def State.setGroup (s : State) (i : Nat) (g : Group) : State := { s with groups := s.groups.set i g }
def State.modGroup (s : State) (i : Nat) (f : Group → Group) : State := { s with groups := s.groups.modify i f }
def State.modTeam (s : State) (i : Nat) (f : Team → Team) : State := { s with teams := s.teams.modify i f }
def State.modLaunch (s : State) (i : Nat) (f : Launch → Launch) : State := { s with launches := s.launches.modify i f }
def State.modCtx (s : State) (i : Nat) (f : Ctx → Ctx) : State := { s with ctxs := s.ctxs.modify i f }
def State.modHub (s : State) (f : Hub → Hub) : State := { s with hub := f s.hub }
def State.modDom (s : State) (f : Domino → Domino) : State := { s with dom := f s.dom }
def State.modAm (s : State) (f : Am → Am) : State := { s with am := f s.am }

def teamOf (s : State) (g : Group) : Team := s.teams.getD g.team default
def launchIx (s : State) (g : Group) : Nat := (teamOf s g).launch
def launchOf (s : State) (g : Group) : Launch := s.launches.getD (launchIx s g) default
def ctxIx (s : State) (g : Group) : Nat := (launchOf s g).ctx
def ctxAt (s : State) (c : Nat) : Ctx := s.ctxs.getD c Ctx.reset
def ctxOf (s : State) (g : Group) : Ctx := ctxAt s (ctxIx s g)
/-- The image the group runs: its launch's, or a handler's (R338). -/
def imageOf (s : State) (g : Group) : Image := s.images.getD g.image default
/-- The launch's own image, which keeps ruling `.regs` and width in a handler (R337). -/
def baseImage (s : State) (g : Group) : Image := s.images.getD (launchOf s g).image default
/-- Registers per lane (R35). -/
def regsOf (s : State) (g : Group) : Nat := (baseImage s g).regs
/-- The width of a group (R22). -/
def widthOf (g : Group) : Nat := g.lanes.length

/-! ## Scalar and lane registers (R30, R36, R71) -/

def sreg (g : Group) (r : Nat) : Word := g.s.getD r 0
def setSreg (g : Group) (r : Nat) (v : Word) : Group := { g with s := g.s.set r v }
def laneAt (g : Group) (i : Nat) : Lane := g.lanes.getD i default
def Lane.vreg (l : Lane) (r : Nat) : W32 := tget 0 l.v r
def Lane.setV (l : Lane) (r : Nat) (v : W32) : Lane := { l with v := tset 0 l.v r v }
/-- A v-register or an even-odd pair (R36). -/
def Lane.vwide (l : Lane) (w r : Nat) : Nat :=
  if w = 64 then (l.vreg r).toNat + 2 ^ 32 * (l.vreg (r + 1)).toNat else (l.vreg r).toNat % 2 ^ w
def Lane.setWide (l : Lane) (w r v : Nat) : Lane :=
  if w = 64 then (l.setV r (BitVec.ofNat 32 v)).setV (r + 1) (BitVec.ofNat 32 (v / 2 ^ 32))
  else l.setV r (BitVec.ofNat 32 v)
/-- A predicate; p7 reads 1 (R37). -/
def Lane.pred (l : Lane) (k : Nat) : Bool := k == 7 || l.p.getLsbD k
/-- Write a predicate; p7 discards (R37). -/
def Lane.setP (l : Lane) (k : Nat) (b : Bool) : Lane :=
  if k = 7 then l else { l with p := if b then l.p ||| (1#8 <<< k) else l.p &&& ~~~(1#8 <<< k) }

/-- The path that issues: the taken arm or single path, or the fall-through arm (R281). -/
def pathOf (g : Group) (path1 : Bool) : Path := if path1 then g.p1.getD g.p0 else g.p0
def setPath (g : Group) (path1 : Bool) (p : Path) : Group := if path1 then { g with p1 := some p } else { g with p0 := p }
def modPath (g : Group) (path1 : Bool) (f : Path → Path) : Group := setPath g path1 (f (pathOf g path1))
def dual (g : Group) : Bool := g.p1.isSome

/-- The next lane offset after the word at `lpc` (R55), in the 24 bits of LPC (R30; notes/assumptions/81.md). -/
def nextLpc (lpc : Nat) (safe : Bool) : Nat := (if safe then lpc + 2 else lpc + 1) % 2 ^ 24

/-! ## Turns at a shared resource within one dc (R34, R121, R154, R231) -/

/-- No requester of a higher key has been served at the resource in this dc: those of one dc are served in ascending key. -/
def inTurn (s : State) (r : Nat × Nat) (key : Nat) : Bool := s.served.all fun x => x.1 != r || x.2 ≤ key
/-- A requester has been served. -/
def serve (s : State) (r : Nat × Nat) (key : Nat) : State := { s with served := (r, key) :: s.served }

/-! ## Cores (R15, R263) -/

/-- Physical cores not fused, as 36 * die + core, ascending. -/
def enabledCores (s : State) : List Nat :=
  (List.range 72).filter fun p => if p < 36 then !s.hub.harvest0.getLsbD p else !s.hub.harvest1.getLsbD (p - 36)
def coreCount (s : State) : Nat := (enabledCores s).length
/-- The physical core (36 * die + core) of a logical core. -/
def physOf (s : State) (core : Nat) : Nat := (enabledCores s).getD core 0
/-- Byte `o` of LPTAB's page (R263): VALID [7], DIE [6], PCORE [5:0] of each logical core from offset 0x100. -/
def lptabByte (s : State) (o : Nat) : Byte :=
  if 0x100 ≤ o ∧ o < 0x148 then
    match (enabledCores s)[o - 0x100]? with
    | some p => BitVec.ofNat 8 (0x80 + 64 * (p / 36) + p % 36)
    | none => 0
  else 0
/-- The die of a logical core. -/
def dieOf (s : State) (core : Nat) : Nat := physOf s core / 36
def aid (s : State) : Nat := s.hub.podId.toNat % 1024
def podSize (s : State) : Nat := s.hub.podId.toNat / 1024 % 2048

/-! ## Pages held here (R174) -/

def gpnSpace (gpn : Nat) : Nat := gpn / 2 ^ 36 % 4096
def pageOf (pa : Nat) : Nat := pa / 65536
/-- A page of device memory; the others are hub, pool and host pages. -/
def devicePage (gpn : Nat) : Bool := gpnSpace gpn < 0xFFD
/-- The frame of a page (R174). -/
def holdsPage (gpn : Nat) (t : Tag) : Bool :=
  t.gpn == gpn && (t.state == .replica || t.state == .master || t.state == .mirrored)
def tagOf (s : State) (gpn : Nat) : Option Tag := s.am.tags.find? (holdsPage gpn)
def crowned (t : Tag) : Bool := t.state == .master || t.state == .mirrored
/-- A master of this package is being injected elsewhere (R188). -/
def injecting (s : State) (gpn : Nat) : Bool := s.am.injects.any fun x => x.gpn == gpn && x.mirror.isNone
/-- The page can be read here: a frame in TRANSIT is still filling, but for a master that is being injected (R188). -/
def readableHere (s : State) (gpn : Nat) : Bool :=
  !s.am.released.contains gpn && (tagOf s gpn).any fun t => !t.transit || (crowned t && injecting s gpn)
/-- The bytes of a page stand in this package's memory. -/
def pageHere (s : State) (gpn : Nat) : Bool := !devicePage gpn || readableHere s gpn

/-! ## Translation (R299, R300) -/

/-- The kind of an access for R300. -/
inductive Xk where
  | read | write | fetch
  deriving DecidableEq, Repr

/-- A translation or attraction fault: cause, level, entry read. -/
structure XFault where
  cause : Cause
  level : Nat
  entry : Word
  deriving DecidableEq, Repr, Inhabited

def pteGpn (e : Word) : Nat := e.toNat / 2 ^ 16
def pteHome (e : Word) : Nat := bits e.toNat 4 3
/-- The GPN of the page that holds LPTAB (R359). -/
def lptabGpn (s : State) : Nat := 0xFFD000000000 + 0x100 * aid s

/-- The checks of R300 on a level-1 entry. -/
def checkPte (s : State) (c : Nat) (e : Word) (k : Xk) : Option Cause :=
  let n := e.toNat
  let sp := bits n 63 52
  let home := bits n 4 3
  if bits n 15 9 ≠ 0 then some Tc.pteReserved
  else if sp ≠ bits (ctxAt s c).ctl.toNat 27 16 ∧ sp ≠ 0xFFD ∧ sp ≠ 0xFFE ∧ sp ≠ 0xFFF then some Tc.spaceMismatch
  else if (sp = 0xFFE ∨ sp = 0xFFF) ∧ (bits n 8 5 ≠ 0 ∨ (sp = 0xFFE ∧ home ≠ 1)) then some Tc.pteReserved
  else if sp = 0xFFD ∧ (pteGpn e ≠ lptabGpn s ∨ bit n 1 ∨ home ≠ 1 ∨ bits n 8 5 ≠ 0) then some Tc.pteReserved
  else if sp = 0xFFF ∧ home ≠ 1 ∧ bit s.hub.hostCtl.toNat 0 = false then some Tc.hostCached
  else if k = .write ∧ bit n 1 = false then some Tc.xlateWrite
  else if k = .fetch ∧ bit n 2 = false then some Tc.xlateExec
  else none

/-- The four table reads of R300, from level `n` down, with table at pod address `t`. -/
def walk (s : State) (c va : Nat) (k : Xk) : Nat → Nat → Except XFault Word
  | 0, _ => .error ⟨Tc.xlateInvalid, 1, 0⟩
  | n + 1, t =>
    let lvl := n + 1
    let pa := t + 8 * bits va (8 * lvl + 15) (8 * lvl + 8)
    let e := w64 (loadLe s.mem pa 8)
    if s.am.poison.any (fun p => p.1 == pa / 128) then .error ⟨Tc.walkPoison, lvl, e⟩
    else if bit e.toNat 0 = false then .error ⟨Tc.xlateInvalid, lvl, e⟩
    else if n = 0 then
      match checkPte s c e k with
      | some cause => .error ⟨cause, 1, e⟩
      | none => .ok e
    else if bits e.toNat 10 1 ≠ 0 then .error ⟨Tc.pteReserved, lvl, e⟩
    else walk s c va k n (e.toNat / 2 ^ 11 * 2 ^ 11)

/-- Translate by walking the tables as they stand. -/
def translate (s : State) (c va : Nat) (k : Xk) : Except XFault Word :=
  walk s c va k 4 ((ctxAt s c).ptroot.toNat / 2 ^ 11 * 2 ^ 11)

/-- The pod address of a VA through a PTE. -/
def podAddr (e : Word) (va : Nat) : Nat := pteGpn e * 65536 + va % 65536

/-- The pod addresses a walk reads, from level `n` down. -/
def walkReads (s : State) (va : Nat) : Nat → Nat → List Nat
  | 0, _ => []
  | n + 1, t =>
    let pa := t + 8 * bits va (8 * (n + 1) + 15) (8 * (n + 1) + 8)
    let e := loadLe s.mem pa 8
    pa :: (if bit e 0 ∧ bits e 10 1 = 0 then walkReads s va n (e / 2 ^ 11 * 2 ^ 11) else [])

/-- The first table entry of a translation whose page is not here. -/
def tableAway (s : State) (c va : Nat) : Option Nat :=
  (walkReads s va 4 ((ctxAt s c).ptroot.toNat / 2 ^ 11 * 2 ^ 11)).find? fun pa => !pageHere s (pageOf pa)
/-! ## Home slices and pages (R16, R146, R174) -/

def homeFold (pa : Nat) : Nat := bits pa 22 7 ^^^ bits pa 38 23 ^^^ bits pa 54 39 ^^^ bits pa 63 55
/-- The home slice of a line (R16). -/
def homeSlice (pa : Nat) : Nat := homeFold pa % 96

/-- Attributes of a PTE (R299). -/
def neverCached (pte : Word) : Bool := pteHome pte == 1
def pteComp (pte : Word) : Bool := bit pte.toNat 5
def pteSnap (pte : Word) : Bool := bit pte.toNat 6
def pteMirr (pte : Word) : Bool := bit pte.toNat 8

def modTag (s : State) (gpn : Nat) (f : Tag → Tag) : State :=
  s.modAm fun a => { a with tags := modFirst (holdsPage gpn) f a.tags }
/-- This package holds the crown of a page: the frame at CROWN, not the one at MIRROR (R195). -/
def crownHere (s : State) (gpn : Nat) : Bool := !s.am.seconds.contains gpn && (tagOf s gpn).any crowned
/-- A store can be performed here: the crown is effective and no replica is known (R184). -/
def writableHere (s : State) (gpn : Nat) : Bool :=
  crownHere s gpn && !s.am.released.contains gpn && (tagOf s gpn).any fun t => !t.transit && !t.shared

/-! ## Heat (R171, R190, R191, R355) -/

/-- The set of a page (R171). -/
def setIndex (gpn : Nat) : Nat := (gpn % 2 ^ 19) ^^^ (gpn / 2 ^ 19 % 2 ^ 19) ^^^ (gpn / 2 ^ 38 % 2 ^ 10)
/-- The package epoch (R191). -/
def epochOf (s : State) : Nat := s.cycle / 2 ^ 22 % 16
/-- Decay (R191). -/
def decay (e : Nat) (t : Tag) : Tag :=
  let n := (e + 16 - t.epoch.toNat) % 16
  { t with heat := t.heat >>> n, epoch := BitVec.ofNat 4 e }
/-- The pseudo-channel of a line, as 32 * stack + channel. -/
def channelOf (gpn line : Nat) : Nat := 32 * (setIndex gpn % 8) + ((line % 512 % 32) ^^^ (setIndex gpn / 8 % 32))
/-- A pseudo-channel serves an access: it leaves self-refresh (R355). -/
def useChannel (s : State) (key : Nat) : State :=
  s.modHub fun h =>
    { h with selfRef := if h.power = .d3hot then h.selfRef else h.selfRef.filter (· != key), chanUse := tset 0 h.chanUse key s.cycle }
/-- One line read or written for L2 samples HEAT (R190); a PTE with HS 0 lets the sample pass. -/
def sampleLine (s : State) (gpn line : Nat) (hs : Bool) : State :=
  let key := channelOf gpn line
  let n := tget 0 s.am.samples key
  let s := (useChannel s key).modAm fun a => { a with samples := tset 0 a.samples key (n + 1) }
  if n.toNat = 63 ∧ hs then
    modTag s gpn fun t => let t := decay (epochOf s) t; { t with heat := if t.heat = 255 then 255 else t.heat + 1 }
  else s

/-! ## Blocks of compressed frames (R192) -/

/-- One bit step of the CRC-16 of polynomial 0x1021, and its value over bytes from 0xFFFF. -/
def crc16Bit (c : Nat) : Nat := if c / 2 ^ 15 % 2 = 1 then (2 * c % 2 ^ 16) ^^^ 0x1021 else 2 * c % 2 ^ 16
def crc16 (bs : List Byte) : Nat :=
  bs.foldl (fun c b => (List.range 8).foldl (fun x _ => crc16Bit x) (c ^^^ (b.toNat * 256))) 0xFFFF
/-- The metadata that a write of a block leaves: CRC, POISON, and CMP, NSEC and CHK as the part's own code gives them; it counts as a raw
or a compressed block (R192, R199). -/
def writeBlock (s : State) (block : Nat) : State :=
  let crc := crc16 (bytesAt s.mem (512 * block) 512)
  let form := (Config.blockForm s.hub.draws crc).toNat
  let poison := s.am.poison.any fun p => p.1 / 4 == block
  let w := BitVec.ofNat 32 (form / 8 * 2 ^ 20 + crc * 16 + poison.toNat * 8 + form % 8)
  (s.modHub fun h => { h with draws := h.draws + 1 }).modAm fun a =>
    { a with blocks := tput block w a.blocks, stats := a.stats.modify (if form / 4 % 2 = 1 then 8 else 7) (· + 1) }
/-- A line goes back to its frame: in a compressed one its block is written anew. -/
def writeBack (s : State) (line : Nat) : State :=
  let s := sampleLine s (line / 512) line true
  if (tagOf s (line / 512)).any (·.comp) then writeBlock s (line / 4) else s

/-! ## Sector times (R152 to R154) -/

def sectorsOf (lo n : Nat) : List Nat := (List.range ((lo + n - 1) / 32 + 1 - lo / 32)).map (lo / 32 + ·)

/-- wts and rts of a sector: the home slice's, or the frame's where L2 does not hold the line (R152). -/
def sectorTimes (s : State) (sec : Nat) : Nat × Nat :=
  match s.sectors.lookup sec with
  | some t => t
  | none => match tagOf s (sec / 2048) with
    | some t => (t.fwt, t.fle)
    | none => (0, 0)
/-- L2 holds the line. -/
def inL2 (s : State) (line : Nat) : Bool := (List.range 4).any fun k => (s.sectors.lookup (4 * line + k)).isSome
/-- Give a sector its times: at its slice, or in the frame of a device page whose line L2 does not hold (R146, R152). -/
def setSector (s : State) (sec : Nat) (t : Nat × Nat) : State :=
  if !devicePage (sec / 2048) || inL2 s (sec / 4) then { s with sectors := tput sec t s.sectors }
  else modTag s (sec / 2048) fun g => { g with fwt := max g.fwt t.1, fle := max g.fle t.2 }

/-! ## Pins (R146, R147) -/

/-- The core that holds a page in a pinned frame. -/
def pinCoreOf (s : State) (gpn : Nat) : Option Nat := (s.pins.find? fun p => p.held && p.gpn == gpn).map (·.core)
/-- A page with PTE home 0b10 or 0b11 here. -/
def pinnedHere (s : State) (gpn : Nat) : Bool := (s.pins ++ s.l2pins).any fun p => p.gpn == gpn
def linePinned (s : State) (line : Nat) : Bool := s.l2pins.any fun p => p.held && p.line == line
def countFallback (s : State) : State := s.modAm fun a => { a with stats := a.stats.modify 6 (· + 1) }

/-- The first access to a pinned page pins it in its core, or its line in the slice, within R147's bounds; past them it is held as home 0b00
until its PTE is invalidated, and counted. -/
def pinFor (s : State) (core line c va : Nat) (pte : Word) : State :=
  let gpn := pteGpn pte
  let pin (held : Bool) (line : Nat) : Pin := { core := core, gpn := gpn, line := line, ctx := c, vpn := va / 65536, held := held }
  if pteHome pte = 3 then
    if s.pins.any fun p => p.gpn == gpn then s
    else
      let held := decide ((s.pins.filter fun p => p.held && p.core == core).length < 8)
      modTag { (if held then s else countFallback s) with pins := s.pins ++ [pin held 0] } gpn fun t => { t with pin := true }
  else if pteHome pte = 2 then
    if s.l2pins.any fun p => p.line == line then s
    else
      let held := decide ((s.l2pins.filter fun p => p.held && homeSlice (128 * p.line) == homeSlice (128 * line)).length < 8192)
      modTag { (if held then s else countFallback s) with l2pins := pin held line :: s.l2pins } gpn fun t => { t with pin := true }
  else s

/-! ## Where a line's accesses are performed, and leases (R147, R153, R162) -/

def wordsOf (lo n : Nat) : List Nat := (List.range ((lo + n - 1) / 4 + 1 - lo / 4)).map (lo / 4 + ·)

def l1Find (s : State) (core line : Nat) : Option L1Line := s.l1.find? fun l => l.core == core && l.line == line
def l1Put (s : State) (l : L1Line) : State :=
  { s with l1 := l :: s.l1.filter fun o => !(o.core == l.core && o.line == l.line) }
/-- The L1 line where every access to a line is performed: a narrow one (R162), or one of a pinned frame (R147). -/
def heldLine (s : State) (line : Nat) : Option L1Line :=
  s.l1.find? fun l => l.line == line && (l.narrow.isSome || pinCoreOf s (line / 512) == some l.core)
/-- The times of a sector where the party performs: in that L1 line, or at the slice. -/
def timesAt (s : State) (sec : Nat) : Nat × Nat :=
  match heldLine s (sec / 4) with
  | some l => (l.wts.getD (sec % 4) 0, l.rts.getD (sec % 4) 0)
  | none => sectorTimes s sec
def setTimesAt (s : State) (sec : Nat) (t : Nat × Nat) : State :=
  match heldLine s (sec / 4) with
  | some l => l1Put s { l with wts := l.wts.set (sec % 4) t.1, rts := l.rts.set (sec % 4) t.2 }
  | none => setSector s sec t

/-- Largest wts and rts over the sectors of a range, where they are performed. -/
def rangeTimes (s : State) (lo n : Nat) : Nat × Nat :=
  (sectorsOf lo n).foldl (fun m sec => let t := timesAt s sec; (max m.1 t.1, max m.2 t.2)) (0, 0)

/-- A read with floor `f` where the line is held: rts ← max(rts, f + 64); the largest wts and smallest rts (R153). -/
def grantLease (s : State) (lo n f : Nat) : State × Nat × Nat :=
  let secs := sectorsOf lo n
  let s := secs.foldl (fun s sec => let t := timesAt s sec; setTimesAt s sec (t.1, max t.2 (f + 64))) s
  (s, (rangeTimes s lo n).1, secs.foldl (fun m sec => min m (timesAt s sec).2) (f + 2 ^ 80))

/-- wts ← rts ← ts on the sectors of a range. -/
def stampRange (s : State) (lo n ts : Nat) : State := (sectorsOf lo n).foldl (fun s sec => setTimesAt s sec (ts, ts)) s


/-! ## Regions that commit (R240) -/

/-- A word lies in a sector that a COMMITTING region wrote. -/
def commitWrote (s : State) (word : Nat) : Bool :=
  s.dom.slots.any fun x => x.state == .committing && x.wr.any fun b => b.1 / 32 == word / 8
/-- A plain read must wait (R240). -/
def plainReadHeld (s : State) (lo n : Nat) : Bool := (wordsOf lo n).any (commitWrote s)

/-! ## Translation lookaside buffers (R301) -/

def tlbGet (l : List (Nat × TlbEntry)) (key c vpn : Nat) : Option Word :=
  (l.find? fun e => e.1 == key && e.2.ctx == c && e.2.vpn == vpn).map (·.2.pte)
/-- Enter a translation as the most recent of its set in buffer `key`; the least recent beyond the ways leaves. The set is the VPN modulo
the number of sets (notes/assumptions/10.md). -/
def tlbPut (sets ways : Nat) (l : List (Nat × TlbEntry)) (key c vpn : Nat) (pte : Word) : List (Nat × TlbEntry) :=
  let l := (key, { ctx := c, vpn := vpn, pte := pte }) :: l.filter fun e => !(e.1 == key && e.2.ctx == c && e.2.vpn == vpn)
  let mine (e : Nat × TlbEntry) : Bool := e.1 == key && e.2.vpn % sets == vpn % sets
  (l.filter mine).take ways ++ l.filter fun e => !mine e
/-- A translation is used: the core's TLB, of 64 sets of 8, takes it, and its die's, of 1024 sets of 16, where the core's missed. -/
def tlbFill (s : State) (core c va : Nat) (pte : Word) : State :=
  let vpn := va / 65536
  { s with
    l1tlb := tlbPut 64 8 s.l1tlb core c vpn pte
    dieTlb := if (tlbGet s.l1tlb core c vpn).isSome then s.dieTlb else tlbPut 1024 16 s.dieTlb (core / 36) c vpn pte }
/-- A translation that the core's or the die's TLB gives and that allows the access. -/
def tlbLook (s : State) (core c va : Nat) (k : Xk) : Option Word :=
  ((tlbGet s.l1tlb core c (va / 65536)).or (tlbGet s.dieTlb (core / 36) c (va / 65536))).filter
    fun e => (checkPte s c e k).isNone

/-! ## Walks in progress (R299, R302) -/

/-- The walks of a die that wait for a table page; one whose tables are all here has ended. -/
def walksOf (s : State) (die : Nat) : List Walk :=
  s.walks.filter fun w => w.die == die && (tableAway s w.ctx (65536 * w.vpn)).isSome
/-- The level of the first table read that is away. -/
def awayLevel (s : State) (c va : Nat) : Nat :=
  4 - (walkReads s va 4 ((ctxAt s c).ptroot.toNat / 2 ^ 11 * 2 ^ 11)).findIdx fun pa => !pageHere s (pageOf pa)
/-- A walk for a page whose tables are away: it joins the one of its context and VPN, or starts, or waits its turn behind 512 of its die
(64 of the hub), then at level 0. Answers whether it runs. -/
def joinWalk (s : State) (die c va : Nat) : State × Bool :=
  let same (w : Walk) : Bool := w.die == die && w.ctx == c && w.vpn == va / 65536
  let here := walksOf s die
  let runs := decide (here.findIdx same < (if die = 2 then 64 else 512))
  let lvl := if runs then awayLevel s c va else 0
  let at_ (w : Walk) : Walk := if same w && w.level != lvl then { w with level := lvl, since := s.now } else w
  let mine := if here.any same then here.map at_
    else here ++ [{ die := die, ctx := c, vpn := va / 65536, since := s.now, level := lvl }]
  ({ s with walks := (s.walks.filter fun w => w.die != die) ++ mine }, runs)
/-- A walk's read has gone unanswered for 2^20 dc (R300): its level. -/
def walkLate (s : State) (die c va : Nat) : Option Nat :=
  (s.walks.find? fun w => w.die == die && w.ctx == c && w.vpn == va / 65536 && w.level != 0 && w.since + 2 ^ 20 ≤ s.now &&
    (tableAway s c va).isSome).map (·.level)
def dropWalk (s : State) (die c va : Nat) : State :=
  { s with walks := s.walks.filter fun w => !(w.die == die && w.ctx == c && w.vpn == va / 65536) }
/-- A table entry that a walk reads lies in a sector that a COMMITTING region wrote, or in a line whose write queue is not empty: the walk
waits (R163, R240). -/
def walkHeld (s : State) (c va : Nat) : Bool :=
  (walkReads s va 4 ((ctxAt s c).ptroot.toNat / 2 ^ 11 * 2 ^ 11)).any fun pa => plainReadHeld s pa 8 || s.wq.any fun e => e.line == pa / 128

/-- The walker party reads the tables: leases at its time, its time then covering what it read (R151, R299). -/
def walkTimes (s : State) (d c va : Nat) : State :=
  let lt := s.walkLt.getD d 0
  let reads := walkReads s va 4 ((ctxAt s c).ptroot.toNat / 2 ^ 11 * 2 ^ 11)
  let r := reads.foldl (fun (acc : State × Nat) pa =>
    let g := grantLease acc.1 pa 8 lt
    (g.1, max acc.2 g.2.1)) (s, lt)
  { r.1 with walkLt := r.1.walkLt.set d r.2 }

/-- A poisoned line under a span (R193): one that L2 holds wholly overwritten gives its own bytes. -/
def poisonAt (s : State) (line : Nat) : Option Cause :=
  if s.am.whole.contains line && inL2 s line then none else s.am.poison.lookup line


/-! ## Reads of a core by device VA outside access sets (R68, R337; notes/assumptions/14.md) -/

/-- A core's translation: from its TLBs, or by a walk. -/
def corePte (s : State) (core c va : Nat) (k : Xk) : Except XFault Word :=
  match tlbLook s core c va k with
  | some e => .ok e
  | none => translate s c va k
/-- A page's translation is entered, walked where the TLBs missed. -/
def enterPage (s : State) (core c : Nat) (k : Xk) (va : Nat) : State :=
  match tlbLook s core c va k with
  | some e => tlbFill s core c va e
  | none =>
    let s := walkTimes (dropWalk s (core / 36) c va) (core / 36) c va
    match translate s c va k with
    | .ok e => tlbFill s core c va e
    | .error _ => s
/-- The first VAs of the pages of a range. -/
def pageVas (va n : Nat) : List Nat := (List.range ((va % 65536 + n + 65535) / 65536)).map fun j => va / 65536 * 65536 + 65536 * j
def enterRange (s : State) (core c va n : Nat) (k : Xk) : State := (pageVas va n).foldl (fun s a => enterPage s core c k a) s

/-- The bytes of a page stand here, or have been fetched from the master of a page that is never cached. -/
def readHere (s : State) (gpn : Nat) : Bool := pageHere s gpn || s.ibuf.any fun p => p.1 == gpn
/-- What a read of a page meets first: a table or the page itself that is away, with the PTE of the page. -/
def pageAway (s : State) (core c va : Nat) (k : Xk) : Option (Nat × Word) :=
  match (if (tlbLook s core c va k).isSome then none else tableAway s c va) with
  | some pa => some (pa, 0)
  | none => match corePte s core c va k with
    | .ok e => if readHere s (pteGpn e) then none else some (podAddr e va, e)
    | .error _ => none
/-- The first page of a range that is away, by its VA. -/
def rangeAway (s : State) (core c va n : Nat) (k : Xk) : Option (Nat × Nat × Word) :=
  (pageVas va n).findSome? fun a => (pageAway s core c a k).map fun p => (a, p)
/-- A walk that a range needs is held. -/
def rangeHeld (s : State) (core c va n : Nat) (k : Xk) : Bool :=
  (pageVas va n).any fun a => (tlbLook s core c a k).isNone && walkHeld s c a

/-- Bytes at a pod address, of a page fetched from its master where it is not here. -/
def readBytes (s : State) (pa n : Nat) : List Byte :=
  match (if pageHere s (pageOf pa) then none else s.ibuf.find? fun p => p.1 == pageOf pa) with
  | some p => bytesAt p.2 pa n
  | none => bytesAt s.mem pa n
/-- The bytes of a VA range, page by page; `fuel` bounds the pages. -/
def readVa (s : State) (look : Nat → Except XFault Word) : Nat → Nat → Nat → Except XFault (List Byte)
  | 0, _, _ => .ok []
  | fuel + 1, va, n =>
    if n = 0 then .ok []
    else match look va with
      | .error f => .error f
      | .ok e =>
        let here := min n (65536 - va % 65536)
        match readVa s look fuel (va + here) (n - here) with
        | .error f => .error f
        | .ok r => .ok (readBytes s (podAddr e va) here ++ r)
/-- Bytes of a VA range as a core reads them. -/
def coreRead (s : State) (core c va n : Nat) (k : Xk) : Except XFault (List Byte) :=
  readVa s (fun a => corePte s core c a k) (n / 65536 + 2) va n
/-- A poisoned line under a range that a core reads. -/
def rangePoison (s : State) (core c va n : Nat) (k : Xk) : Option Cause :=
  if s.am.poison.isEmpty then none
  else (List.range n).findSome? fun i => match corePte s core c (va + i) k with
    | .ok e => poisonAt s (podAddr e (va + i) / 128)
    | .error _ => none

end Sys2Proof.Machine
end

