-- ==== Sys2Proof/Machine/Ops.lean ====
section
/-! DEFINITION. The named operations shared by every meaning: the chain group, team, launch, context; registers; cores;
translation (R299, R300) and reads and writes of the CP (R151, R358); kernel image checks (R68, R69); fatal errors (R347);
the abort of a domino region (R239, R244); taking a trap (R335 to R339) and returning from one (R342). -/

namespace Sys2Proof.Machine

open Sys2Proof

/-! ## Interrupts (R297) -/

/-- Send the vector at `off` in the range of context `c`; an offset beyond COUNT sets DROP. -/
def sendVector (s : State) (c off : Nat) : State :=
  let m := (ctxAt s c).msix.toNat
  if off < bits m 27 16 then s.modHub fun h => { h with vectors := h.vectors ++ [(bits m 10 0 + off) % 2048] }
  else s.modCtx c fun x => { x with msix := x.msix ||| 0x8000000000000000 }

/-- Send the management vector MVEC (R361). -/
def sendMvec (s : State) : State :=
  s.modHub fun h => { h with vectors := h.vectors ++ [bits h.hostCtl.toNat 14 4] }

/-! ## Kernel images (R68, R69) -/

/-- One bit step of the reflected CRC32C polynomial. -/
def crcBit (c : Nat) : Nat := if c % 2 = 1 then (c / 2) ^^^ 0x82F63B78 else c / 2
def crcByte (c : Nat) (b : Byte) : Nat := (List.range 8).foldl (fun x _ => crcBit x) (c ^^^ b.toNat)
/-- CRC32C (Castagnoli) of a list of bytes. -/
def crc32c (bs : List Byte) : Nat := (bs.foldl crcByte 0xFFFFFFFF) ^^^ 0xFFFFFFFF
/-- The `n`-byte field at `o`. -/
def field (bs : List Byte) (o n : Nat) : Nat := leNat ((bs.drop o).take n)
/-- The CRC with the four bytes at `o` taken as 0. -/
def crcOmit (bs : List Byte) (o : Nat) : Nat := crc32c (bs.take o ++ [0, 0, 0, 0] ++ bs.drop (o + 4))

/-- The header as a record. -/
def parseImage (va : Nat) (b : List Byte) : Image :=
  { va := va, width := field b 8 1, regs := field b 9 1, cims := field b 10 1, wins := BitVec.ofNat 8 (field b 11 1),
    sram := field b 12 4, sofs := field b 0x10 4, slen := field b 0x14 4, lofs := field b 0x18 4, lwords := field b 0x1C 4,
    dofs := field b 0x20 4, dlen := field b 0x24 4, total := field b 0x28 4, vtos := BitVec.ofNat 48 (field b 0x50 8) }

/-- Two byte ranges meet; an empty range meets nothing. -/
def rangesMeet (a n b m : Nat) : Bool := n != 0 && m != 0 && a < b + m && b < a + n

/-- The layout check of R69. -/
def layoutBad (i : Image) (b : List Byte) : Bool :=
  i.sofs % 4 != 0 || i.lofs % 16 != 0 || i.dofs % 256 != 0 ||
  i.total < i.sofs + i.slen || i.total < i.lofs + 12 * i.lwords || i.total < i.dofs + i.dlen ||
  rangesMeet i.sofs i.slen i.lofs (12 * i.lwords) || rangesMeet i.sofs i.slen i.dofs i.dlen ||
  rangesMeet i.lofs (12 * i.lwords) i.dofs i.dlen ||
  field b 6 2 != 0 || field b 0x2C 4 != 0 || field b 0x58 36 != 0 || field b 0x56 2 != 0

/-- Magic and version, CRC, layout, in that order (R69). -/
def checkImage (va : Nat) (b : List Byte) : Except Cause Image :=
  let i := parseImage va b
  if field b 0 4 ≠ 0x494D4E4C ∨ field b 4 2 ≠ 1 then .error Tc.imageMagic
  else if i.total < 128 ∨ crcOmit (b.take i.total) 0x7C ≠ field b 0x7C 4 then .error Tc.imageCrc
  else if layoutBad i b then .error Tc.imageLayout
  else .ok i

/-- The bytes of the image at a VA: its header, then its total length. -/
def readImage (s : State) (core c va : Nat) : Except XFault (List Byte) :=
  match coreRead s core c va 128 .fetch with
  | .error f => .error f
  | .ok h => if field h 0x28 4 ≤ 128 then .ok h else coreRead s core c va (field h 0x28 4) .fetch

/-! ## Removing groups, fatal errors (R347) -/

/-- The sets of a group's parties. -/
def ofGroup (gi : Nat) (a : ASet) : Bool := a.party == .scalar gi || a.party == .lane gi
/-- Drop every access set of a group that has not been performed. -/
def dropSets (s : State) (gi : Nat) : State := { s with sets := s.sets.filter fun a => !ofGroup gi a }

/-- Free the domino slot a group holds, with its marks and edges (R231, R244). -/
def freeSlot (d : Domino) (n : Nat) : Domino :=
  { d with
    slots := d.slots.filter fun x => x.slot != n
    reach := d.reach.filter fun r => r.1 != n && r.2 != n
    fwds := d.fwds.filter fun r => r.1 != n && r.2 != n
    stalls := d.stalls.filter fun r => r.2.2 != n
    marks := d.marks.filter fun m => m.2 != n }

/-- Remove a group without a handler: its sets, region and waits go. -/
def removeGroup (s : State) (gi : Nat) : State :=
  let s := dropSets s gi
  let s := match (s.groups.getD gi default).region with
    | some n => s.modDom fun d => freeSlot d n
    | none => s
  let s := { s with
    waits := s.waits.filter fun w => w.g != gi || w.src != aid s
    dom := { s.dom with fifo := s.dom.fifo.filter (· != gi) }
    units := s.units.map fun (u : Nat × MatUnit) => (u.1, { u.2 with fifo := u.2.fifo.filter (·.1 != gi) }) }
  s.modGroup gi fun g => { g with retired := true, pend := none, wait := .none, region := none }

/-- Remove a team: every group, its SRAM and its matrix work. -/
def removeTeam (s : State) (ti : Nat) : State :=
  let t := s.teams.getD ti default
  let s := t.groups.foldl removeGroup s
  let s := { s with units := s.units.map fun (u : Nat × MatUnit) =>
    (u.1, { run := u.2.run.filter fun c => !t.groups.contains c.g, fifo := u.2.fifo.filter fun e => !t.groups.contains e.1 }) }
  s.modTeam ti fun t => { t with state := .retired, sram := [], rows := [] }

/-- The teams of a context that have not retired. -/
def teamsOfCtx (s : State) (c : Nat) : List Nat :=
  (List.range s.teams.length).filter fun i =>
    let t := s.teams.getD i default
    t.state != .retired && (s.launches.getD t.launch default).ctx == c

/-- A fatal error ends the context (R347). -/
def fatal (s : State) (c : Nat) (cause : Cause) (lid : W32) : State :=
  let s := s.modCtx c fun x =>
    { x with fatal := w64 (cause.toNat + 256 + 2 ^ 32 * lid.toNat), ctl := x.ctl &&& ~~~1#64, held := false }
  let s := (teamsOfCtx s c).foldl removeTeam s
  sendVector s c (bits (ctxAt s c).fqCtl.toNat 26 16)

/-! ## Domino aborts (R239, R243, R244) -/

def slotAt (s : State) (n : Nat) : Option DomSlot := s.dom.slots.find? fun x => x.slot == n
def modSlot (s : State) (n : Nat) (f : DomSlot → DomSlot) : State :=
  s.modDom fun d => { d with slots := modFirst (fun x => x.slot == n) f d.slots }

/-- A region in LIVE or WAITING may be aborted (R233). -/
def abortable (x : DomSlot) : Bool := x.state == .live || x.state == .waiting

/-- One slot enters ABORTING: its spans and marks go, what its group still owed is dropped, its DSTAT values are kept. -/
def abortOne (s : State) (n : Nat) (cause : BitVec 4) (by_ : Nat) : State :=
  match slotAt s n with
  | none => s
  | some x =>
    if !abortable x then s
    else
      let dropped := s.sets.filter fun a => a.region == some n
      let s := { s with sets := s.sets.filter fun a => a.region != some n }
      let s := modSlot s n fun y =>
        { y with state := .aborting, cause := cause, by_ := by_, wr := [], wspans := [], rd := [], since := s.now
                 hit := x.rd ++ (x.wr.map (·.1 / 4)).dedup }
      let s := s.modDom fun d => { d with marks := d.marks.filter fun m => m.2 != n }
      s.modGroup x.g fun g =>
        { g with
          ifc := (List.range 4).map fun k =>
            g.ifc.getD k 0 - (dropped.filter fun a => a.ifc == k).length - (if k = 1 then x.stores else 0)
          retry := some x.stamp
          dstat := { g.dstat with
            slot := n, stamp := w64 x.stamp, cause := cause, causeSlot := if cause = 1 ∨ cause = 2 then BitVec.ofNat 8 by_ else 0,
            aborts := if g.dstat.aborts == 0xFFFF then 0xFFFF else g.dstat.aborts + 1 } }

/-- Abort regions, each with every live region it reaches (R239, R240), as one step of the table. -/
def abortRegions (s : State) (ns : List Nat) (cause : BitVec 4) (by_ : Nat → Nat) : State :=
  let can := ns.filter fun n => (slotAt s n).any abortable
  let reached (n : Nat) : List Nat := (s.dom.reach.filter fun r => r.1 == n).map (·.2)
  can.foldl (fun s n => (reached n).foldl (fun s y => abortOne s y 2 n) s) (can.foldl (fun s n => abortOne s n cause (by_ n)) s)
/-- Abort a region and every live region it reaches (R239). -/
def abortRegion (s : State) (n : Nat) (cause : BitVec 4) (by_ : Nat) : State := abortRegions s [n] cause fun _ => by_

/-! ## Access sets -/

/-- Add an access set at the end of the list, with the next number. -/
def addSet (s : State) (a : ASet) : State :=
  { s with sets := s.sets ++ [{ a with id := s.nextSet }], nextSet := s.nextSet + 1 }
/-- The uncommitted sets of a party, oldest first. -/
def setsOf (s : State) (p : Party) : List ASet := s.sets.filter fun a => a.party == p
def modSet (s : State) (id : Nat) (f : ASet → ASet) : State := { s with sets := modFirst (fun a => a.id == id) f s.sets }

/-! ## Traps (R335 to R339) -/

/-- The vector table entry of a cause (R337). -/
def vectorOf (c : Cause) : Nat :=
  let n := c.toNat
  if n = 0xB7 then 10 else if n = 0xB8 then 11
  else if n < 0x20 then 0 else if n < 0x30 then 1 else if n < 0x40 then 2 else if n < 0x60 then 3 else if n < 0x70 then 4
  else if n < 0x80 then 5 else if n < 0x90 then 6 else if n < 0xA0 then 7 else if n < 0xB0 then 8 else 9

/-- The handler an entry names: the index of its image and the SPC of the entry word, with the state that remembers the
check; none where R337 makes the trap fatal. -/
def handlerFor (s : State) (core c : Nat) (cause : Cause) : Option (State × Nat × Word) :=
  let x := ctxAt s c
  let ix := vectorOf cause
  if bit x.tvec.toNat 0 = false then none
  else match coreRead s core c (x.tvec.toNat / 4096 * 4096 + 16 * ix) 16 .read with
    | .error _ => none
    | .ok b =>
      let va := field b 0 8
      let sofs := field b 8 4
      if va = 0 ∨ va % 256 ≠ 0 ∨ field b 12 4 ≠ 0 ∨ sofs % 4 ≠ 0 then none
      else
        let key := (ix, w64 va, w64 sofs)
        let found := (List.range s.images.length).reverse.find? fun i => (s.images.getD i default).va == va
        match (if x.checked.contains key then found else none) with
        | some i =>
          let im := s.images.getD i default
          if im.slen ≤ sofs then none else some (s, i, w64 (va + im.sofs + sofs))
        | none =>
          match readImage s core c va with
          | .error _ => none
          | .ok bytes => match checkImage va bytes with
            | .error _ => none
            | .ok im =>
              if im.slen ≤ sofs then none
              else
                let s := { s with images := s.images ++ [im] }
                let s := s.modCtx c fun y => { y with checked := key :: y.checked.filter fun k => k.1 != ix }
                some (s, s.images.length - 1, w64 (va + im.sofs + sofs))

/-- The ranges that are read to find the handler of a cause, as far as they are known: the vector, the image's header, the image. -/
def handlerRanges (s : State) (core c : Nat) (cause : Cause) : List (Nat × Nat × Xk) :=
  let x := ctxAt s c
  let at_ := x.tvec.toNat / 4096 * 4096 + 16 * vectorOf cause
  if bit x.tvec.toNat 0 = false then []
  else (at_, 16, .read) :: match (if (rangeAway s core c at_ 16 .read).isSome then .error default else coreRead s core c at_ 16 .read) with
    | .error _ => []
    | .ok b =>
      let va := field b 0 8
      (va, 128, .fetch) :: match (if (rangeAway s core c va 128 .fetch).isSome then .error default else coreRead s core c va 128 .fetch) with
        | .error _ => []
        | .ok h => [(va, field h 0x28 4, .fetch)]
/-- What must come here before the handler of a cause can be found. -/
def handlerAway (s : State) (core c : Nat) (cause : Cause) : Option (Nat × Nat × Word) :=
  (handlerRanges s core c cause).findSome? fun r => rangeAway s core c r.1 r.2.1 r.2.2
/-- The handler of a cause can be read here. -/
def handlerReady (s : State) (core c : Nat) (cause : Cause) : Bool :=
  (handlerAway s core c cause).isNone && (handlerRanges s core c cause).all fun r => !rangeHeld s core c r.1 r.2.1 r.2.2
/-- The translations of the handler's ranges are entered. -/
def handlerWalks (s : State) (core c : Nat) (cause : Cause) : State :=
  (handlerRanges s core c cause).foldl (fun s r => enterRange s core c r.1 r.2.1 r.2.2) s

/-- Group position p of R336. -/
def posIx (g : Group) : Nat := g.quad * 16 + g.pos
/-- The save slot of the group's team (R344). -/
def slotBase (s : State) (g : Group) : Nat :=
  let x := ctxOf s g
  x.save.toNat / 65536 * 65536 + (teamOf s g).slot * (bits x.savesz.toNat 15 0) * 65536
/-- The frame area of R338. -/
def frameArea (s : State) (g : Group) (cause : Cause) : Nat :=
  if cause = Tc.preemptSave ∨ cause = Tc.resumeRestore then slotBase s g + 0x1000 + 0x2000 * g.gid
  else (ctxOf s g).harea.toNat / 4096 * 4096 + 4096 * posIx g

/-- The store set of the scalar party that writes s44 to s47 at handler entry (R338). -/
def entryStore (s : State) (gi : Nat) (g : Group) (area : Nat) : ASet :=
  { id := 0, party := .scalar gi, kind := .store, sram := false, scope := .grp, pc := g.spc.toNat, path1 := false,
    accs := (List.range 4).map fun k =>
      { lane := 0, va := area + 8 * k, pa := 0, n := 8, data := (sreg g (44 + k)).toNat, cmp := 0, got := 0, done := false },
    spans := [], dest := .none, ifc := 4, issued := s.now, floor := 0, phase := .xlate, region := none, entry := true }

/-- LaneSet of the group: launched and helper lanes that have not exited (R116, R288). -/
def liveLanes (g : Group) : Mask :=
  maskOf ((List.range g.lanes.length).filter fun i => let l := laneAt g i; (l.launched || l.helper) && !l.exited)

/-- TINFO of R339. -/
def tinfoOf (g : Group) (p : Pending) : Word :=
  w64 (p.info.toNat % 2 ^ 56 + (if p.lane then 2 ^ 63 else 0) + (if dual g then 2 ^ 62 else 0))

/-- The trap registers a trap writes (R335). The trapping path comes first: for a trap of the fall-through arm TLPC0 is its
LPC and TLPC1 the taken arm's. -/
def trapRegs (g : Group) (p : Pending) : TrapRegs :=
  let own := if p.lane then p.lpc else g.p0.lpc
  let other := match g.p1 with
    | none => 0
    | some q => if p.lane && p.path1 then g.p0.lpc else q.lpc
  { tcause := p.cause, tspc := p.spc, tlpc0 := BitVec.ofNat 24 own, tlpc1 := BitVec.ofNat 24 other, tlanes := p.lanes,
    taddr := p.addr, tinfo := tinfoOf g p }

/-- The trapped state the hardware keeps aside (R338). -/
def trapFrame (g : Group) (p : Pending) (area : Nat) : Frame :=
  { p0 := g.p0, p1 := g.p1, dualJ := g.dualJ, block := g.block, queue := g.queue, part := g.part, cvmode := g.cvmode,
    cvseed := g.cvseed, sr := g.lanes.map (·.sr), prog := g.prog, gap := g.gap, image := g.image, area := area,
    swap := p.lane && p.path1, cause := p.cause, wait := g.wait, spc := p.spc }

/-- The group in handler mode (R338). -/
def inHandler (g : Group) (p : Pending) (area img : Nat) (spc : Word) : Group :=
  { g with
    trap := trapRegs g p
    frame := some (trapFrame g p area)
    s := (((g.s.set 47 (w64 area)).set 46 (p.cause.setWidth 64)).set 45 0).set 44 0
    spc := spc, image := img, pend := none, wait := .none, lwait := false
    p0 := { lpc := 0, exec := liveLanes g, laneSet := liveLanes g, stack := [], look := [], arrived := false }
    p1 := none, block := none, queue := [], part := 0, cvmode := 0, cvseed := 0
    lanes := g.lanes.map fun l => { l with sr := 0 }
    prog := 0, gap := 0, saved := false, atAbort := none }

/-- Taking a trap: the one operation every exception goes through. A trap in handler mode is fatal HANDLER_TRAP; a missing or
failing vector is fatal VECTOR_INVALID (R337, R338). -/
def takeTrap (s : State) (gi : Nat) (p : Pending) : State :=
  match s.groups[gi]? with
  | none => s
  | some g =>
    let c := ctxIx s g
    let lid := (launchOf s g).lid
    if g.frame.isSome then fatal s c Tc.handlerTrap lid
    else match handlerFor (handlerWalks s (g.quad / 4) c p.cause) (g.quad / 4) c p.cause with
      | none => fatal s c Tc.vectorInvalid lid
      | some (s, img, spc) =>
        let area := frameArea s g p.cause
        let s := { s with
          sets := s.sets.filter fun a => !(ofGroup gi a && a.role != .access)
          units := s.units.map fun (u : Nat × MatUnit) => (u.1, { u.2 with fifo := u.2.fifo.filter (·.1 != gi) })
          dom := { s.dom with fifo := s.dom.fifo.filter (· != gi) } }
        let s := if p.cause = Tc.resumeRestore then s else addSet s (entryStore s gi g area)
        s.setGroup gi (inHandler g p area img spc)

/-- Every earlier word of both streams has completed: no access set is uncommitted and no region is ending. -/
def quiescent (s : State) (gi : Nat) : Bool :=
  !(s.sets.any fun a => ofGroup gi a && !a.entry && a.role == .access) && (s.groups.getD gi default).region.isNone

/-- Raise a trap (R335, R245): a live region aborts first, with TLPC0 at the abort LPC and TINFO[23:0] the trapping LPC;
the trap is delivered at once when every earlier word has completed and the handler can be read here, and by TRAP_DELIVERY otherwise. -/
def raiseTrap (s : State) (gi : Nat) (p : Pending) : State :=
  match s.groups[gi]? with
  | none => s
  | some g =>
    match g.region.bind (slotAt s) with
    | some x =>
      if !abortable x then s.modGroup gi fun g => { g with pend := some p }
      else
        let p' := if p.lane then { p with lpc := x.abort, path1 := false, info := w64 p.lpc } else p
        (abortRegion s x.slot 8 x.slot).modGroup gi fun g => { g with pend := some p', dstat := { g.dstat with trapCause := p.cause } }
    | none =>
      if quiescent s gi ∧ handlerReady s (g.quad / 4) (ctxIx s g) p.cause then takeTrap s gi p
      else s.modGroup gi fun g => { g with pend := some p }

/-- A scalar trap at the word the group stands at. -/
def scalarTrap (s : State) (gi : Nat) (g : Group) (cause : Cause) (addr : Word := 0) (info : Word := 0) : State :=
  raiseTrap s gi { cause := cause, lane := false, path1 := false, spc := g.spc, lpc := 0, lanes := 0, addr := addr,
                   info := info }

/-- A lane trap at the word the path stands at. -/
def laneTrap (s : State) (gi : Nat) (g : Group) (path1 : Bool) (cause : Cause) (lanes : Mask := 0) (addr : Word := 0)
    (info : Word := 0) : State :=
  raiseTrap s gi { cause := cause, lane := true, path1 := path1, spc := g.spc, lpc := (pathOf g path1).lpc, lanes := lanes,
                   addr := addr, info := info }

/-! ## Return from a handler (R342) -/

/-- A set that a save kept is of a stream, and stands at an address (R308). -/
def keptIn (lane path1 : Bool) (pc : Nat) (a : ASet) : Bool :=
  a.pc == pc && (match a.party with | .lane _ => lane && a.path1 == path1 | _ => !lane)
/-- A parked access that a save kept stands at the word a stream resumes at. -/
def keptAt (f : Frame) (lane path1 : Bool) (pc : Nat) : Bool := f.sets.any fun a => a.role == .access && keptIn lane path1 pc a
/-- A path resumes at an LPC: behind the parked word that stands there, or at it, stepping over `k` window words. -/
def resumePath (f : Frame) (path1 : Bool) (lpc k : Nat) (q : Path) : Path :=
  if keptAt f true path1 lpc then q else { q with lpc := lpc, skip := k }
/-- The kept sets whose words their streams still stand at. -/
def keptSets (g : Group) (f : Frame) : List ASet :=
  let l0 := if f.swap then g.trap.tlpc1.toNat else g.trap.tlpc0.toNat
  let l1 := if f.swap then g.trap.tlpc0.toNat else g.trap.tlpc1.toNat
  f.sets.filter fun a =>
    let pc := match a.party with | .lane _ => if a.path1 then l1 else l0 | _ => g.trap.tspc.toNat
    let lane := match a.party with | .lane _ => true | _ => false
    if a.role = .fetch then keptIn lane a.path1 pc a else keptAt f lane a.path1 pc

/-- The trapped lane state back from the frame, with the streams at TSPC, TLPC0 and TLPC1; the trapping path steps over the k window
words that had completed (R59). -/
def leaveHandler (g : Group) (f : Frame) : Group :=
  let l0 := g.trap.tlpc0.toNat
  let l1 := g.trap.tlpc1.toNat
  let k := bits g.trap.tinfo.toNat 55 48
  let p0 := resumePath f false (if f.swap then l1 else l0) (if f.swap then 0 else k) f.p0
  let p1 := f.p1.map (resumePath f true (if f.swap then l0 else l1) (if f.swap then k else 0))
  { g with
    frame := none, p0 := p0, p1 := p1, dualJ := f.dualJ, block := f.block, queue := f.queue, part := f.part,
    cvmode := f.cvmode, cvseed := f.cvseed, prog := f.prog, gap := f.gap, image := f.image
    spc := if keptAt f false false g.trap.tspc.toNat then f.spc else g.trap.tspc
    wait := if g.trap.tspc = f.spc then f.wait else .none
    lanes := (List.range g.lanes.length).map fun i => { laneAt g i with sr := f.sr.getD i 0 } }

/-- s44 to s47 from the 32 bytes at the head of the frame area. -/
def reloadFrame (v : Nat) (g : Group) : Group :=
  { g with s := (List.range 4).foldl (fun l k => l.set (44 + k) (w64 (v / 2 ^ (64 * k)))) g.s }

/-- The return from a handler, once its reload has the value `v` of the frame area's 32 bytes: s44 to s47, the trap frame and the program
counters (R342). -/
def returnFromTrap (s : State) (gi v : Nat) : State :=
  let g := s.groups.getD gi default
  match g.frame with
  | none => s
  | some f => { s with sets := keptSets g f ++ s.sets }.setGroup gi (leaveHandler (reloadFrame v g) f)

end Sys2Proof.Machine
end

