-- ==== Sys2Proof/Machine/Operands.lean ====
section
/-! DEFINITION. The frame of a lane instruction: which lanes act and vote (R37, R88), what its fields name (R35, R36, R71, R87,
R89), the checks of R63 that depend on the group (steps 7 to 13), the interlock and lookahead windows (R57, R58), and how the
path moves on. Every lane meaning is `laneExec` with its own checks, waits and effect. -/

namespace Sys2Proof.Machine

open Sys2Proof

/-- What a lane meaning sees: the state, the group and path that issue, the row of the major and the word. -/
structure LaneIn where
  s     : State
  gi    : Nat
  g     : Group
  path1 : Bool
  p     : Path
  maj   : Nat
  row   : LaneRow
  w     : LaneW

/-- A trap of a lane meaning's own checks: cause, lanes, address, TINFO[55:0]. -/
structure LTrap where
  cause : Cause
  lanes : Mask := 0
  addr  : Word := 0
  info  : Word := 0
  deriving DecidableEq, Repr

/-! ## Acting and voting lanes -/

/-- The guard of a lane (R37). -/
def guardHolds (l : Lane) (k : BitVec 3) (n : Bool) : Bool := l.pred k.toNat ^^ n

/-- The lanes in which an instruction with this guard acts (R37). -/
def actingBy (g : Group) (exec : Mask) (k : BitVec 3) (n : Bool) : List Nat :=
  (List.range g.lanes.length).filter fun i => exec.getLsbD i && guardHolds (laneAt g i) k n

def acting (x : LaneIn) : List Nat := actingBy x.g x.p.exec x.w.g x.w.n

/-- A lane that was launched, is no helper and has not exited (R88). -/
def voter (l : Lane) : Bool := l.launched && !l.helper && !l.exited
/-- The voting lanes of an instruction (R88). -/
def voting (x : LaneIn) : List Nat := (acting x).filter fun i => voter (laneAt x.g i)
/-- The voting lanes of the path, whatever the guard. -/
def pathVoters (x : LaneIn) : List Nat :=
  (List.range x.g.lanes.length).filter fun i => x.p.exec.getLsbD i && voter (laneAt x.g i)

/-! ## Fields -/

def fieldOf (w : LaneW) : Nat → LReg
  | 0 => w.vd | 1 => w.va | 2 => w.vb | _ => w.vc
def kindOf (r : LaneRow) : Nat → Fk
  | 0 => r.vd | 1 => r.va | 2 => r.vb | _ => r.vc

/-- IMM stands for the field (R52). -/
def replaced (x : LaneIn) (pos : Nat) : Bool := x.w.i && x.row.immFor == some pos

/-- Registers a field names from its own number on: none where it is no operand field. -/
def spanOf (w : LaneW) (k : Fk) : Nat :=
  match k with
  | .t => if tyWidth w.ty = 64 then 2 else 1
  | .s => if (srcTy w.imm).any fun t => tyWidth t == 64 then 2 else 1
  | .r64 => 2
  | .quad => 4
  | .base => if w.opx &&& 1 = 1 then 2 else 1
  | .ix => if w.opx &&& 2 = 2 then 1 else 0
  | .r32 | .uni | .live => 1
  | .no | .pred | .predS | .mac | .join => 0

/-- Step 7 of R63 for one field (R35, R36): a quad is checked for alignment by its own rule (R213). -/
def fieldCheck (regs : Nat) (pos : Nat) (k : Fk) (n : Nat) (f : LReg) : Option Cause :=
  let v := f.toNat
  if n = 0 then none
  else if 240 ≤ v then some Tc.illegalOperand
  else if 192 ≤ v then (if pos = 0 ∧ k ≠ .live then some Tc.snapshotWrite else none)
  else if regs ≤ v then some Tc.regRange
  else if n = 2 ∧ v % 2 = 1 then some Tc.oddPair
  else none

/-- Every field, from VD to VC. -/
def fieldsCheck (x : LaneIn) (regs : Nat) : Option Cause :=
  [0, 1, 2, 3].findSome? fun pos =>
    if replaced x pos then none
    else fieldCheck regs pos (kindOf x.row pos) (spanOf x.w (kindOf x.row pos)) (fieldOf x.w pos)

/-- The v-registers a word names in any operand field. -/
def namedRegs (x : LaneIn) : List Nat :=
  [0, 1, 2, 3].flatMap fun pos =>
    let k := kindOf x.row pos
    let v := (fieldOf x.w pos).toNat
    if replaced x pos ∨ 192 ≤ v ∨ k = .live then [] else (List.range (spanOf x.w k)).map (v + ·)

/-- The v-registers a word writes. -/
def destRegs (x : LaneIn) : List Nat :=
  let v := x.w.vd.toNat
  if 192 ≤ v ∨ x.row.vd = .live then [] else (List.range (spanOf x.w x.row.vd)).map (v + ·)

/-! ## Values -/

/-- A snapshot register of the running block (R25). -/
def snapReg (g : Group) (f : LReg) : Word :=
  match g.block with
  | some b => b.snap.getD (f.toNat - 192) 0
  | none => 0

/-- A register field read in a lane with a width (R36, R71). -/
def readReg (g : Group) (l : Lane) (f : LReg) (w : Nat) : Nat :=
  if 192 ≤ f.toNat then (snapReg g f).toNat % 2 ^ w else l.vwide w f.toNat

/-- The binary64 bits of a binary32 immediate (R87). -/
def widenImm (b : Nat) : Nat :=
  let neg := b / 2 ^ 31 % 2 * 2 ^ 63
  match valueOf .f32 b with
  | .nan => neg + 0x7FF0000000000000 + (b % 2 ^ 23 * 2 ^ 29 ||| 2 ^ 51)
  | v => roundTo .f64 .rne false 0 v

/-- IMM extended for an operation type (R87). -/
def immValue (t : Ty) (imm : W32) : Nat :=
  let b := imm.toNat
  match t with
  | .i64 => (sext64 32 b).toNat
  | .f64 => widenImm b
  | .bf16 => b / 2 ^ 16
  | .b64 | .n64 => b
  | _ => b % 2 ^ tyWidth t

/-- The width a field is read with. -/
def fieldWidth (w : LaneW) (k : Fk) : Nat :=
  match k with
  | .t => tyWidth w.ty
  | .s => (srcTy w.imm).elim 32 tyWidth
  | .r64 | .uni => 64
  | _ => 32

/-- A source operand in a lane: the immediate, the snapshot, or the lane's register. -/
def source (x : LaneIn) (l : Lane) (pos : Nat) : Nat :=
  let k := kindOf x.row pos
  if replaced x pos then (match k with | .t => immValue x.w.ty x.w.imm | _ => x.w.imm.toNat)
  else readReg x.g l (fieldOf x.w pos) (fieldWidth x.w k)

/-- A predicate source with its sense bit (R89). -/
def predSource (l : Lane) (f : LReg) : Bool := l.pred (f.toNat % 8) ^^ f.getLsbD 3

/-- A result placed as R71 gives: sign-extended for .i8 and .i16, zero-extended otherwise, a pair for 64 bits. -/
def writeTy (t : Ty) (l : Lane) (r v : Nat) : Lane :=
  match t with
  | .i8 | .i16 => l.setWide 32 r ((sext64 (tyWidth t) v).toNat % 2 ^ 32)
  | _ => l.setWide (tyWidth t) r (v % 2 ^ tyWidth t)

/-! ## Waiting -/

/-- Whether a word may issue on a path at all: the group runs a block, is not stopped, trapped or retired, and its region (if
any) is LIVE. -/
def laneMayRun (s : State) (g : Group) (path1 : Bool) : Bool :=
  !g.retired && g.pend.isNone && g.block.isSome && (!path1 || g.p1.isSome) && !(pathOf g path1).arrived && !g.saved &&
    !(g.reached && g.frame.isNone) && (g.region.all fun n => (slotAt s n).all fun x => x.state == .live)

/-- Registers owed by uncommitted sets of the lane stream. -/
def owedBy (a : ASet) : List Nat :=
  match a.dest with
  | .lane ty vd => if tyWidth ty = 64 then [vd.toNat, vd.toNat + 1] else [vd.toNat]
  | .quad vd => (List.range 4).map (vd.toNat + ·)
  | .status vd => [vd.toNat]
  | _ => []
def owed (s : State) (gi : Nat) : List Nat := (setsOf s (.lane gi)).flatMap owedBy

/-- A word that closes lookahead windows: a control major, a safe point (R58). -/
def closes (maj : Nat) (w : LaneW) : Bool := (0xB0 ≤ maj && maj ≤ 0xBF) || w.safe

/-- A set that a trap or a park may still stop: later words of its stream wait, but for the words of its window (R59, R304). -/
def unsettled (a : ASet) : Bool := match a.phase with | .xlate | .parked _ _ _ => true | _ => false

/-- The word must wait: a register it names is owed (R91), it closes windows or is a safe point while sets of its stream are
uncommitted (R56, R58), or an earlier set of its path is unsettled and the word lies outside its window or behind a later set. -/
def interlocked (x : LaneIn) : Bool :=
  let late := owed x.s x.gi
  let mine := setsOf x.s (.lane x.gi)
  (namedRegs x).any (fun r => late.contains r) ||
    (closes x.maj x.w && (x.w.safe || x.p.look.any fun k => k.set.isSome) && !mine.isEmpty) ||
    (mine.any fun a => unsettled a && a.path1 == x.path1 &&
      (!(x.p.look.any fun k => k.set == some a.id && 0 < k.left) || mine.any fun b => a.id < b.id))

/-! ## Fetching lane words -/

/-- The VA of a lane word of the running image (R49). -/
def laneVa (s : State) (g : Group) (lpc : Nat) : Nat := (imageOf s g).va + (imageOf s g).lofs + 12 * lpc

/-- A lane word of the running image; none outside `.lane` or where it cannot be fetched. -/
def laneWordAt (s : State) (g : Group) (lpc : Nat) : Option (BitVec 96) :=
  if (imageOf s g).lwords ≤ lpc then none
  else match coreRead s (g.quad / 4) (ctxIx s g) (laneVa s g lpc) 12 .fetch with
    | .ok b => some (BitVec.ofNat 96 (leNat b))
    | .error _ => none

/-- A word is a mask word (R55). -/
def isMask (w : BitVec 96) : Bool := w.extractLsb' 88 8 == 0xFE#8

/-- The mask word after a safe point. -/
def maskAfter (x : LaneIn) : BitVec 96 := (laneWordAt x.s x.g (x.p.lpc + 1)).getD 0

/-- MASK_RANGE (R55): a quad at or above `.regs`. -/
def maskRangeBad (x : LaneIn) (regs : Nat) : Bool :=
  x.w.safe && (maskAfter x).toNat / 2 ^ 24 % 2 ^ 64 / 2 ^ (regs / 4) != 0

/-- The checks of steps 3 and 7 to 13 of R63. -/
def laneChecks (x : LaneIn) : Option Cause :=
  let regs := regsOf x.s x.g
  if x.w.safe && !isMask (maskAfter x) then some Tc.maskWord
  else match fieldsCheck x regs with
  | some c => some c
  | none =>
    if x.w.look ≠ 0 ∧ !x.row.long then some Tc.lookaheadIllegal
    else if maskRangeBad x regs then some Tc.maskRange
    else if (x.maj = 0xC0 ∧ !([0x00, 0x01, 0x02, 0x03, 0x04, 0x05, 0x06, 0x07, 0x08, 0x09, 0x0A, 0x0B, 0x0C, 0x0D, 0x0E, 0x0F,
        0x10, 0x11, 0x12, 0x13, 0x14, 0x15, 0x16, 0x20, 0x21, 0x22, 0x23].contains (x.w.imm.toNat % 256))) ∨
        (x.maj = 0xC5 ∧ ¬(0x30 ≤ x.w.imm.toNat % 256 ∧ x.w.imm.toNat % 256 ≤ 0x36)) then some Tc.specialUndefined
    else if x.p.look.any (fun k => 0 < k.left && k.dests.any fun r => (namedRegs x).contains r) && !closes x.maj x.w then
      some Tc.lookaheadDep
    else none

/-! ## Moving on -/

/-- Windows after one more word of the path has issued (R58). -/
def stepLook (ks : List Look) : List Look :=
  (ks.map fun k => { k with left := k.left - 1, done := k.done + 1 }).filter fun k => 0 < k.left || k.set.isSome

/-- The window that a word with L > 0 opens (R58), over the registers it writes; a word issued again after a trap in its window
steps over the `skip` words that had completed (R59). -/
def openLook (x : LaneIn) (set : Option Nat) : List Look :=
  if x.w.look = 0 then []
  else [{ lpc := x.p.lpc, left := x.w.look.toNat - x.p.skip, done := x.p.skip, dests := destRegs x, set := set }]

/-- The path after the word: windows, LPC at the next word (R55), the safe-point count (R292), which path issued last. -/
def advance (x : LaneIn) (set : Option Nat) (g : Group) : Group :=
  let g := modPath g x.path1 fun p =>
    { p with lpc := nextLpc p.lpc x.w.safe + p.skip, skip := 0,
             look := (if closes x.maj x.w then [] else stepLook p.look) ++ openLook x set }
  { g with gap := if x.w.safe then 0 else g.gap + 1, last1 := x.path1, lwait := false, atAbort := none }

/-- Write every listed lane. -/
def mapLanes (g : Group) (ls : List Nat) (f : Nat → Lane → Lane) : Group :=
  { g with lanes := ls.foldl (fun ll i => ll.modify i (f i)) g.lanes }

/-- A lane instruction: stopped where the path may not run, trapped by R63, R292 or its own checks, held by its interlock or
its own waits, and otherwise performed. A word that waits leaves the state as it is. -/
def laneExec (maj : Nat) (w : LaneW) (s : State) (own : LaneIn → Option LTrap) (wait : LaneIn → Bool)
    (eff : LaneIn → State) : Out :=
  match s.groups[s.cur]? with
  | none => .next s
  | some g =>
    if !laneMayRun s g s.path1 then .next s
    else
      let x : LaneIn := { s := s, gi := s.cur, g := g, path1 := s.path1, p := pathOf g s.path1, maj := maj,
                          row := rowD maj w.opx, w := w }
      if g.frame.isNone && 4096 ≤ g.gap then .next (laneTrap s s.cur g s.path1 Tc.safepointGap)
      else match laneChecks x with
        | some c => .next (laneTrap s s.cur g s.path1 c)
        | none =>
          if interlocked x then .next s
          else match own x with
            | some t => .next (laneTrap s s.cur g s.path1 t.cause t.lanes t.addr t.info)
            | none => if wait x then .next s else .next (eff x)

def noTrap (_ : LaneIn) : Option LTrap := none
def noWait (_ : LaneIn) : Bool := false

/-- A word that only changes the group. -/
def groupEff (f : LaneIn → Group) (x : LaneIn) : State := x.s.setGroup x.gi (advance x none (f x))

/-- A per-lane word: `f` maps each acting lane (R88). -/
def laneMap (maj : Nat) (w : LaneW) (s : State) (f : LaneIn → Nat → Lane → Lane) : Out :=
  laneExec maj w s noTrap noWait (groupEff fun x => mapLanes x.g (acting x) (f x))

/-- A per-lane word whose result has the width of TYPE. -/
def laneValue (maj : Nat) (w : LaneW) (s : State) (f : LaneIn → Lane → Nat) : Out :=
  laneMap maj w s fun x _ l => writeTy x.w.ty l x.w.vd.toNat (f x l)

/-- A per-lane word whose result is one 32-bit register. -/
def laneWord32 (maj : Nat) (w : LaneW) (s : State) (f : LaneIn → Lane → Nat) : Out :=
  laneMap maj w s fun x _ l => l.setV x.w.vd.toNat (BitVec.ofNat 32 (f x l))

/-- A per-lane word whose result is a predicate. -/
def lanePred (maj : Nat) (w : LaneW) (s : State) (f : LaneIn → Lane → Bool) : Out :=
  laneMap maj w s fun x _ l => l.setP (x.w.vd.toNat % 8) (f x l)

end Sys2Proof.Machine
end

