-- ==== Sys2Proof/Machine/LaneInt.lean ====
section
/-! DEFINITION. Lane integer and logic instructions, majors 0x01 to 0x1D (R95 to R97). -/

namespace Sys2Proof.Machine

open Sys2Proof

/-! ## Operations on operand bits -/

/-- An operand as the integer of its type (R72). -/
def asInt (t : Ty) (v : Nat) : Int := if tySigned t then signedOf (tyWidth t) v else (v % 2 ^ tyWidth t : Nat)

/-- An exact result wrapped, or clamped to the type with SAT (R95). -/
def wrapSat (t : Ty) (sat : Bool) (n : Int) : Nat :=
  wrapInt (tyWidth t) (if sat then (if n < intMin t then intMin t else if intMax t < n then intMax t else n) else n)

/-- IntDiv (R92): quotient and remainder of w-bit operands. -/
def intDiv (w : Nat) (signed : Bool) (a b : Nat) : Nat × Nat :=
  if b = 0 then (2 ^ w - 1, a)
  else if signed then
    let x := signedOf w a
    let y := signedOf w b
    (wrapInt w (x.tdiv y), wrapInt w (x.tmod y))
  else (a / b, a % b)

/-- Leading zeros of a w-bit value (R95). -/
def clz (w v : Nat) : Nat := if v = 0 then w else w - 1 - Nat.log2 v
/-- Number of 1 bits. -/
def popc (w v : Nat) : Nat := ((List.range w).filter fun i => bit v i).length
/-- Bit reverse of a w-bit value. -/
def brev (w v : Nat) : Nat := (List.range w).foldl (fun r i => r + (if bit v i then 2 ^ (w - 1 - i) else 0)) 0
/-- Left rotation by n. -/
def rotl (w v n : Nat) : Nat := (v * 2 ^ (n % w)) % 2 ^ w + v / 2 ^ (w - n % w)
/-- Arithmetic shift right. -/
def sra (w v n : Nat) : Nat := wrapInt w (signedOf w v / (2 ^ n : Nat))

/-- VBFE (R96). -/
def bfe (w : Nat) (sign : Bool) (a ctl : Nat) : Nat :=
  let pos := ctl % 256
  let len := min (ctl / 256 % 256) w
  let f := a / 2 ^ pos % 2 ^ len
  if sign && 0 < len && bit f (len - 1) then (f + (2 ^ w - 2 ^ len)) % 2 ^ w else f

/-- VBFI (R96). -/
def bfi (w a b ctl : Nat) : Nat :=
  let pos := ctl % 256
  let len := min (ctl / 256 % 256) w
  let m := (2 ^ len - 1) * 2 ^ pos % 2 ^ w
  (a &&& (2 ^ w - 1 - m)) ||| (b * 2 ^ pos &&& m)

/-- The flag in OPX[0]. -/
def flag0 (w : LaneW) : Bool := w.opx.getLsbD 0

/-! ## Meanings -/

def execVadd (w : LaneW) (s : State) : Out :=
  laneValue 0x01 w s fun x l => wrapSat w.ty (flag0 w) (asInt w.ty (source x l 1) + asInt w.ty (source x l 2))

def execVsub (w : LaneW) (s : State) : Out :=
  laneValue 0x02 w s fun x l => wrapSat w.ty (flag0 w) (asInt w.ty (source x l 1) - asInt w.ty (source x l 2))

def execVmul (w : LaneW) (s : State) : Out :=
  laneValue 0x03 w s fun x l => source x l 1 * source x l 2

def execVmulh (w : LaneW) (s : State) : Out :=
  laneValue 0x04 w s fun x l =>
    wrapInt (tyWidth w.ty) (asInt w.ty (source x l 1) * asInt w.ty (source x l 2) / (2 ^ tyWidth w.ty : Nat))

def execVmad (w : LaneW) (s : State) : Out :=
  laneValue 0x05 w s fun x l =>
    wrapSat w.ty (flag0 w) (asInt w.ty (source x l 1) * asInt w.ty (source x l 2) + asInt w.ty (source x l 3))

def execVdiv (w : LaneW) (s : State) : Out :=
  laneValue 0x06 w s fun x l => (intDiv (tyWidth w.ty) (tySigned w.ty) (source x l 1) (source x l 2)).1

def execVrem (w : LaneW) (s : State) : Out :=
  laneValue 0x07 w s fun x l => (intDiv (tyWidth w.ty) (tySigned w.ty) (source x l 1) (source x l 2)).2

def execVand (w : LaneW) (s : State) : Out := laneValue 0x08 w s fun x l => source x l 1 &&& source x l 2
def execVor (w : LaneW) (s : State) : Out := laneValue 0x09 w s fun x l => source x l 1 ||| source x l 2
def execVxor (w : LaneW) (s : State) : Out := laneValue 0x0A w s fun x l => source x l 1 ^^^ source x l 2

def execVandn (w : LaneW) (s : State) : Out :=
  laneValue 0x0B w s fun x l => source x l 1 &&& (2 ^ tyWidth w.ty - 1 - source x l 2)

def execVshl (w : LaneW) (s : State) : Out :=
  laneValue 0x0C w s fun x l => source x l 1 * 2 ^ (source x l 2 % tyWidth w.ty)

def execVshr (w : LaneW) (s : State) : Out :=
  laneValue 0x0D w s fun x l => source x l 1 / 2 ^ (source x l 2 % tyWidth w.ty)

def execVsra (w : LaneW) (s : State) : Out :=
  laneValue 0x0E w s fun x l => sra (tyWidth w.ty) (source x l 1) (source x l 2 % tyWidth w.ty)

def execVrot (w : LaneW) (s : State) : Out :=
  laneValue 0x0F w s fun x l =>
    let n := source x l 2 % tyWidth w.ty
    rotl (tyWidth w.ty) (source x l 1) (if flag0 w then tyWidth w.ty - n else n)

def execVmin (w : LaneW) (s : State) : Out :=
  laneValue 0x10 w s fun x l =>
    if asInt w.ty (source x l 2) < asInt w.ty (source x l 1) then source x l 2 else source x l 1

def execVmax (w : LaneW) (s : State) : Out :=
  laneValue 0x11 w s fun x l =>
    if asInt w.ty (source x l 1) < asInt w.ty (source x l 2) then source x l 2 else source x l 1

def execVabs (w : LaneW) (s : State) : Out :=
  laneValue 0x12 w s fun x l => wrapSat w.ty (flag0 w) ((asInt w.ty (source x l 1)).natAbs : Nat)

def execVneg (w : LaneW) (s : State) : Out :=
  laneValue 0x13 w s fun x l => wrapSat w.ty (flag0 w) (-(asInt w.ty (source x l 1)))

def execVclz (w : LaneW) (s : State) : Out := laneWord32 0x14 w s fun x l => clz (tyWidth w.ty) (source x l 1)
def execVpopc (w : LaneW) (s : State) : Out := laneWord32 0x15 w s fun x l => popc (tyWidth w.ty) (source x l 1)
def execVbrev (w : LaneW) (s : State) : Out := laneValue 0x16 w s fun x l => brev (tyWidth w.ty) (source x l 1)

def execVbfe (w : LaneW) (s : State) : Out :=
  laneValue 0x17 w s fun x l => bfe (tyWidth w.ty) (flag0 w) (source x l 1) (source x l 2)

def execVbfi (w : LaneW) (s : State) : Out :=
  laneValue 0x18 w s fun x l => bfi (tyWidth w.ty) (source x l 1) (source x l 2) (source x l 3)

def execVsel (w : LaneW) (s : State) : Out :=
  laneValue 0x19 w s fun x l => if predSource l w.vc then source x l 1 else source x l 2

def execVmov (w : LaneW) (s : State) : Out := laneValue 0x1A w s fun x l => source x l 1

def execVcmp (w : LaneW) (s : State) : Out :=
  lanePred 0x1B w s fun x l => vcmpBit w.ty w.opx (source x l 1) (source x l 2)

def execVplog (w : LaneW) (s : State) : Out :=
  lanePred 0x1C w s fun _ l =>
    plogBit (w.imm.toNat % 256) (l.pred (w.va.toNat % 8)) (l.pred (w.vb.toNat % 8)) (l.pred (w.vc.toNat % 8))

def execVaddc (w : LaneW) (s : State) : Out :=
  laneMap 0x1D w s fun x _ l =>
    let r := addCarry (tyWidth w.ty) (flag0 w) (source x l 1) (source x l 2) (l.pred (w.vc.toNat % 8))
    (writeTy w.ty l w.vd.toNat r.1).setP (w.vc.toNat % 8) r.2

end Sys2Proof.Machine
end

