-- ==== Sys2Proof/Machine/LaneFp.lean ====
section
/-! DEFINITION. Lane floating-point instructions, majors 0x30 to 0x41 (R98 to R100), and conversions, majors 0x48 to 0x51
(R82 to R86, R101 to R105). -/

namespace Sys2Proof.Machine

open Sys2Proof

/-- The rounding of the arithmetic majors (R84, R98). -/
def rmArith : Rnd → Rm
  | .rz => .rz
  | .rdn => .rdn
  | .rup => .rup
  | _ => .rne

/-- A source operand as an exact value. -/
def fsrc (x : LaneIn) (l : Lane) (pos : Nat) : Fv := valueOf x.w.ty (source x l pos)

/-- A floating instruction: the exact value, rounded once with SAT = 0 (R98). -/
def laneFp (maj : Nat) (w : LaneW) (s : State) (f : LaneIn → Lane → Fv) : Out :=
  laneValue maj w s fun x l => roundTo w.ty (rmArith w.rnd) false 0 (f x l)

def execFadd (w : LaneW) (s : State) : Out :=
  laneFp 0x30 w s fun x l => fvAdd (rmArith w.rnd) (fsrc x l 1) (fsrc x l 2)
def execFsub (w : LaneW) (s : State) : Out :=
  laneFp 0x31 w s fun x l => fvAdd (rmArith w.rnd) (fsrc x l 1) (fsrc x l 2).neg
def execFmul (w : LaneW) (s : State) : Out :=
  laneFp 0x32 w s fun x l => fvMul (fsrc x l 1) (fsrc x l 2)
def execFfma (w : LaneW) (s : State) : Out :=
  laneFp 0x33 w s fun x l => fvAdd (rmArith w.rnd) (fvMul (fsrc x l 1) (fsrc x l 2)) (fsrc x l 3)
def execFdiv (w : LaneW) (s : State) : Out := laneFp 0x34 w s fun x l => fvDiv (fsrc x l 1) (fsrc x l 2)
def execFsqrt (w : LaneW) (s : State) : Out := laneFp 0x35 w s fun x l => fvSqrt (fsrc x l 1)
def execFmin (w : LaneW) (s : State) : Out :=
  laneFp 0x36 w s fun x l => fvMinMax false (flag0 w) (fsrc x l 1) (fsrc x l 2)
def execFmax (w : LaneW) (s : State) : Out :=
  laneFp 0x37 w s fun x l => fvMinMax true (flag0 w) (fsrc x l 1) (fsrc x l 2)

/-- The FCMP conditions (R100): with a NaN only .ne holds. -/
def fcmpBit (opx : BitVec 3) (a b : Fv) : Bool :=
  match opx.toNat with
  | 0 => fvEq a b
  | 1 => !fvEq a b
  | 2 => fvLt false a b
  | _ => !a.isNan && !b.isNan && !fvLt false a b

def execFcmp (w : LaneW) (s : State) : Out :=
  lanePred 0x38 w s fun x l => fcmpBit w.opx (fsrc x l 1) (fsrc x l 2)
def execFclass (w : LaneW) (s : State) : Out := laneWord32 0x39 w s fun x l => fclassBits w.ty (source x l 1)
def execFrnd (w : LaneW) (s : State) : Out := laneFp 0x3A w s fun x l => fvRint (rmArith w.rnd) (fsrc x l 1)
def execFscale (w : LaneW) (s : State) : Out :=
  laneFp 0x3B w s fun x l => fvScale (fsrc x l 1) (signedOf 32 (source x l 2))
def execFrcp (w : LaneW) (s : State) : Out := laneFp 0x3C w s fun x l => fvDiv (.fin false 1 0) (fsrc x l 1)
def execFrsq (w : LaneW) (s : State) : Out := laneFp 0x3D w s fun x l => fvRsqrt (fsrc x l 1)
def execFexp2 (w : LaneW) (s : State) : Out := laneFp 0x3E w s fun x l => fvExp2 (fsrc x l 1)
def execFlog2 (w : LaneW) (s : State) : Out := laneFp 0x3F w s fun x l => fvLog2 (fsrc x l 1)
def execFsinpi (w : LaneW) (s : State) : Out := laneFp 0x40 w s fun x l => fvSinpi (fsrc x l 1)
def execFcospi (w : LaneW) (s : State) : Out := laneFp 0x41 w s fun x l => fvCospi (fsrc x l 1)

/-! ## Conversion modes (R82 to R86) -/

/-- The low bit of the CVMODE nibble a destination uses (R83): none for the destinations that take RNE with SAT = 0. -/
def nibbleOf (d : Ty) (fromFloat : Bool) : Option Nat :=
  match d with
  | .bf16 => some 0 | .e4m3 => some 4 | .e5m2 => some 8 | .e2m1 => some 12
  | .i8 | .n8 | .bpn _ => some 16
  | .i16 | .n16 => some 20
  | .f32 => some 24
  | .i32 | .n32 => if fromFloat then some 28 else none
  | _ => none

/-- The mode an RM code of a nibble names (R82). -/
def rmNibble (c : Nat) : Rm :=
  match c % 8 with
  | 0 => .rne | 1 => .rz | 2 => .rdn | 3 => .rup | 4 => .rna | _ => .sr

/-- A CVMODE value no nibble of which holds a reserved RM (R82). -/
def cvmodeOk (v : Nat) : Bool := (List.range 8).all fun k => v / 2 ^ (4 * k) % 8 < 6

/-- The rounding of a conversion (R83): RND, or the nibble. -/
def cvtRm (g : Group) (d : Ty) (fromFloat : Bool) (rnd : Rnd) : Rm :=
  match rnd with
  | .rne => .rne | .rz => .rz | .rdn => .rdn | .rup => .rup | .rna => .rna | .sr => .sr
  | .dflt => match nibbleOf d fromFloat with
    | some k => rmNibble (g.cvmode.toNat / 2 ^ k)
    | none => .rne

/-- The saturation of a conversion: SATF forces it, the nibble gives it otherwise (R101). -/
def cvtSat (g : Group) (d : Ty) (fromFloat satf : Bool) : Bool :=
  satf || (match nibbleOf d fromFloat with | some k => bit g.cvmode.toNat (k + 3) | none => false)

/-- SrHash of R85 for a counter value. -/
def srHash (s : State) (g : Group) (lane : Nat) (c : W32) : Nat :=
  let t := teamOf s g
  let G : W32 := BitVec.ofNat 32 ((t.tid.toNat * t.groups.length + g.gid) * 64 + lane)
  let h := g.cvseed ^^^ ((launchOf s g).lid * 0x9E3779B9)
  let h := h ^^^ (G * 0x85EBCA6B)
  let h := h ^^^ (c * 0xC2B2AE35)
  let h := h ^^^ (h >>> 16)
  let h := h * 0x7FEB352D
  let h := h ^^^ (h >>> 15)
  let h := h * 0x846CA68B
  (h ^^^ (h >>> 16)).toNat

/-- Round one element into `d` (a floating or integer format), taking one counter value when the mode is SR (R85, R86). -/
def cvtElem (x : LaneIn) (i : Nat) (l : Lane) (d : Ty) (fromFloat satf : Bool) (v : Fv) : Nat × Lane :=
  let rm := cvtRm x.g d fromFloat x.w.rnd
  let sat := cvtSat x.g d fromFloat satf
  let h := srHash x.s x.g i l.sr
  let l := if rm = .sr then { l with sr := l.sr + 1 } else l
  (if tyFloat d then roundTo d rm sat h v else roundToInt (match d with | .bpn _ => .i8 | t => t) rm sat h v, l)

/-- The source type of a conversion. -/
def stype (w : LaneW) : Ty := (srcTy w.imm).getD .b32

/-- The exact value of a source of any listed type. -/
def valueAny (t : Ty) (v : Nat) : Fv := if tyInt t then ofInt (asInt t v) else valueOf t v

/-- CVT_PAIR when the pair is not listed (R101, R102). -/
def pairTrap (ok : Bool) (_ : LaneIn) : Option LTrap := if ok then none else some { cause := Tc.cvtPair }

/-- A conversion with its own checks. -/
def laneCvt (maj : Nat) (w : LaneW) (s : State) (own : LaneIn → Option LTrap) (f : LaneIn → Nat → Lane → Lane) : Out :=
  laneExec maj w s own noWait (groupEff fun x => mapLanes x.g (acting x) (f x))

def execCvtf (w : LaneW) (s : State) : Out :=
  laneCvt 0x48 w s (pairTrap ((tyFloat (stype w) || tyInt (stype w)) && stype w != w.ty)) fun x i l =>
    let r := cvtElem x i l w.ty (tyFloat (stype w)) (flag0 w) (valueAny (stype w) (source x l 1))
    writeTy w.ty r.2 w.vd.toNat r.1

/-- CVTI keeps the low bits, or clamps with SAT (R102). -/
def execCvti (w : LaneW) (s : State) : Out :=
  laneCvt 0x49 w s (pairTrap (tyInt (stype w) && stype w != w.ty)) fun x _ l =>
    writeTy w.ty l w.vd.toNat (wrapSat w.ty (cvtSat x.g w.ty false (flag0 w)) (asInt (stype w) (source x l 1)))

/-- The integer type a .bpn8 destination acts as (R102). -/
def bpnAsI8 (t : Ty) : Ty := match t with | .bpn _ => .i8 | t => t

def execCvtfi (w : LaneW) (s : State) : Out :=
  laneCvt 0x4A w s (pairTrap (tyFloat (stype w))) fun x i l =>
    let r := cvtElem x i l w.ty true (flag0 w) (valueOf (stype w) (source x l 1))
    writeTy (bpnAsI8 w.ty) r.2 w.vd.toNat r.1

/-- Replace `e` bits at `lo` of a register. -/
def putBits (v e lo x : Nat) : Nat := v - bits v (lo + e - 1) lo * 2 ^ lo + (x % 2 ^ e) * 2 ^ lo

/-- CVTN packs two values into slot OPX[2:1] (R103). -/
def execCvtn (w : LaneW) (s : State) : Out :=
  let e := tyWidth w.ty
  let slot := w.opx.toNat / 2
  laneCvt 0x4B w s
    (fun x => match pairTrap (stype w == .f32) x with
      | some t => some t
      | none => if 32 < 2 * e * (slot + 1) then some { cause := Tc.elementSlot } else none)
    fun x i l =>
      let a := cvtElem x i l w.ty true (flag0 w) (valueOf .f32 (source x l 1))
      let b := cvtElem x i a.2 w.ty true (flag0 w) (valueOf .f32 (source x l 2))
      let old := (l.vreg w.vd.toNat).toNat
      b.2.setV w.vd.toNat (BitVec.ofNat 32 (putBits (putBits old e (2 * e * slot) a.1) e (2 * e * slot + e) b.1))

/-- The element index or plane of IMM[7:5] (R101). -/
def elemIx (w : LaneW) : Nat := bits w.imm.toNat 7 5

/-- CVTW widens one packed element (R103). -/
def execCvtw (w : LaneW) (s : State) : Out :=
  let t := stype w
  let e := tyWidth t
  let fl := [Ty.bf16, .e4m3, .e5m2, .e2m1].contains t
  let int := [Ty.i8, .n8, .i16, .n16].contains t
  laneCvt 0x4C w s
    (fun x => match pairTrap ((fl && w.ty == .f32) || (int && w.ty == .i32)) x with
      | some t => some t
      | none => if 32 < e * (elemIx w + 1) then some { cause := Tc.elementSlot } else none)
    fun x _ l =>
      let v := source x l 1 / 2 ^ (e * elemIx w) % 2 ^ e
      l.setV w.vd.toNat (BitVec.ofNat 32 (if fl then roundTo .f32 .rne false 0 (valueOf t v) else wrapInt 32 (asInt t v)))

/-! ## MX blocks (R75, R104) and bit planes (R76, R105) -/

/-- The width of a tile (R106). -/
def tileWidth (g : Group) : Nat :=
  let t := match g.part.toNat with | 1 => 4 | 2 => 8 | 3 => 16 | 4 => 32 | _ => 64
  min t g.lanes.length

/-- BLOCK_WIDTH (R104). -/
def blockBad (g : Group) : Bool := g.lanes.length < 32 || [1, 2, 3].contains g.part.toNat

/-- Emax of R104. -/
def emaxOf : Ty → Int
  | .e2m1 => 2
  | .e4m3 => 8
  | _ => 15

/-- Floor of log2 of a nonzero magnitude. -/
def fvLog (v : Fv) : Option Int := match v with | .fin _ m e => some ((Nat.log2 m : Int) + e) | _ => none

/-- The block scale of MXSCALE over the listed values (R104). -/
def mxScale (d : Ty) (vs : List Fv) : Nat :=
  if vs.any fun v => match v with | .nan => true | .inf _ => true | _ => false then 0xFF
  else match (vs.filterMap fvLog).max? with
    | none => 0
    | some lg =>
      let e := lg - emaxOf d
      ((if e < -127 then -127 else if 127 < e then 127 else e) + 127).toNat

def execMxscale (w : LaneW) (s : State) : Out :=
  laneCvt 0x4D w s
    (fun x => match pairTrap (stype w == .f32) x with
      | some t => some t
      | none => if blockBad x.g then some { cause := Tc.blockWidth } else none)
    fun x i l =>
      let blk := (voting x).filter fun j => j / 32 == i / 32
      l.setV w.vd.toNat (BitVec.ofNat 32 (mxScale w.ty (blk.map fun j => valueOf .f32 (source x (laneAt x.g j) 1))))

/-- MXPACK (R104). The quotient by a power of two is exact. -/
def execMxpack (w : LaneW) (s : State) : Out :=
  laneCvt 0x4E w s (pairTrap (stype w == .f32)) fun x i l =>
    let a := valueOf .f32 (source x l 1)
    let X := source x l 2 % 256
    let v := if X = 255 then .nan else fvScale a (127 - (X : Int))
    let r := cvtElem x i l w.ty true (flag0 w) v
    writeTy w.ty r.2 w.vd.toNat r.1

def execMxunpack (w : LaneW) (s : State) : Out :=
  laneCvt 0x4F w s (pairTrap ([Ty.e2m1, .e4m3, .e5m2].contains (stype w))) fun x i l =>
    let X := source x l 2 % 256
    let v := if X = 255 then .nan else fvScale (valueOf (stype w) (source x l 1)) ((X : Int) - 127)
    let r := cvtElem x i l .f32 true false v
    r.2.setV w.vd.toNat (BitVec.ofNat 32 r.1)

/-- BPNSPLIT gathers bit k over the voting lanes of the block (R105). -/
def execBpnsplit (w : LaneW) (s : State) : Out :=
  laneCvt 0x50 w s
    (fun x => match pairTrap (stype w == .i8) x with
      | some t => some t
      | none => if blockBad x.g then some { cause := Tc.blockWidth } else none)
    fun x i l =>
      let blk := (voting x).filter fun j => j / 32 == i / 32
      let v := blk.foldl (fun acc j => acc + (if bit (source x (laneAt x.g j) 1) (elemIx w) then 2 ^ (j % 32) else 0)) 0
      l.setV w.vd.toNat (BitVec.ofNat 32 v)

/-- BPNJOIN places one plane bit (R105). -/
def execBpnjoin (w : LaneW) (s : State) : Out :=
  laneCvt 0x51 w s (pairTrap (stype w == .b32)) fun x i l =>
    let p := tyWidth w.ty
    let k := elemIx w
    if k < 8 - p then l
    else
      let t := bit (source x l 1) (i % 32)
      let old := (l.vreg w.vd.toNat).toNat
      let one := putBits old 1 (k - (8 - p)) t.toNat
      l.setV w.vd.toNat (BitVec.ofNat 32 (if k = 7 then putBits one (32 - p) p (if t then 2 ^ (32 - p) - 1 else 0) else one))

end Sys2Proof.Machine
end

