-- ==== Sys2Proof/Machine/Special.lean ====
section
/-! DEFINITION. Special registers (R38 to R43, R309, R310) and the lane instructions that move them: VGETS, SETEXEC, SETPART,
SETCVM (R116, R117), VTRAP and VGETT (R340, R341). -/

namespace Sys2Proof.Machine

open Sys2Proof

/-- The physical core (36 * die + core) a group runs on. -/
def physOfGroup (g : Group) : Nat := g.quad / 4

/-- A trap register (R42). -/
def trapReg (t : TrapRegs) (ix : Nat) : Word :=
  match ix with
  | 0x30 => t.tcause.setWidth 64
  | 0x31 => t.tspc
  | 0x32 => t.tlpc0.setWidth 64
  | 0x33 => t.tlpc1.setWidth 64
  | 0x34 => t.tlanes
  | 0x35 => t.taddr
  | _ => t.tinfo

/-- Write a trap register (R42). -/
def setTrapReg (t : TrapRegs) (ix : Nat) (v : Word) : TrapRegs :=
  match ix with
  | 0x30 => { t with tcause := v.setWidth 8 }
  | 0x31 => { t with tspc := v }
  | 0x32 => { t with tlpc0 := v.setWidth 24 }
  | 0x33 => { t with tlpc1 := v.setWidth 24 }
  | 0x34 => { t with tlanes := v }
  | 0x35 => { t with taddr := v }
  | _ => { t with tinfo := v }

/-- The value of a special register that is the same in every lane (R42); EXEC is given by the reader. -/
def specialValue (s : State) (g : Group) (exec : Mask) (ix : Nat) : Option Word :=
  let t := teamOf s g
  match ix with
  | 0x01 => some (w64 g.gid)
  | 0x02 => some (t.tid.setWidth 64)
  | 0x03 => some (w64 (dieOf s t.dealt))
  | 0x04 => some ((launchOf s g).lid.setWidth 64)
  | 0x05 => some (w64 t.core)
  | 0x06 => some (w64 (physOfGroup g % 36))
  | 0x07 => some (w64 (physOfGroup g / 36))
  | 0x08 => some (w64 (physOfGroup g / 4))
  | 0x09 => some (w64 (aid s))
  | 0x0A => some (w64 s.cycle)
  | 0x0B => some (t.segid.setWidth 64)
  | 0x0C => some (t.segrow0.setWidth 64)
  | 0x0D => some (t.segrows.setWidth 64)
  | 0x0E => some (w64 (g.ifc.getD 0 0 % 4096))
  | 0x0F => some (w64 (g.ifc.getD 1 0 % 4096))
  | 0x10 => some (w64 (g.ifc.getD 2 0 % 4096))
  | 0x11 => some (w64 (g.ifc.getD 3 0 % 4096))
  | 0x12 => some (w64 g.copy.time)
  | 0x13 => some (w64 g.fabric.time)
  | 0x14 => some (g.pwstat.setWidth 64)
  | 0x15 => some (s.hub.harvest0.setWidth 64)
  | 0x16 => some (s.hub.harvest1.setWidth 64)
  | 0x20 => some exec
  | 0x21 => some (g.part.setWidth 64)
  | 0x22 => some (g.cvmode.setWidth 64)
  | 0x23 => some (g.cvseed.setWidth 64)
  | _ => none

/-- Whether a read of a special register is forbidden by CTX_CTL (R310). -/
def privBad (s : State) (g : Group) (ix : Nat) : Bool :=
  let ctl := (ctxOf s g).ctl.toNat
  ([0x03, 0x06, 0x07, 0x08, 0x15, 0x16].contains ix && !bit ctl 1) || (ix == 0x0A && !bit ctl 2)

/-- CVSEED with every SR counter of the group at 0 (R86). -/
def writeSeed (g : Group) (v : W32) : Group :=
  { g with cvseed := v, lanes := g.lanes.map fun l => { l with sr := 0 } }

/-- VGETS (R309). -/
def execVgets (w : LaneW) (s : State) : Out :=
  let ix := w.imm.toNat % 256
  laneExec 0xC0 w s (fun x => if privBad x.s x.g ix then some { cause := Tc.privSpecial } else none) noWait
    (groupEff fun x => mapLanes x.g (acting x) fun i l =>
      writeTy w.ty l w.vd.toNat (if ix = 0 then i else ((specialValue x.s x.g x.p.exec ix).getD 0).toNat))

/-- The source of a special move names a v-register (R116). -/
def notUniform (x : LaneIn) : Bool := !x.w.i && x.w.va.toNat < 192

/-- The checks of the special moves (R116, R118). -/
def moveChecks (value : LaneIn → Option LTrap) (x : LaneIn) : Option LTrap :=
  if notUniform x then some { cause := Tc.uniformSource }
  else if x.w.g ≠ 7 ∨ x.w.n then some { cause := Tc.guardFixed }
  else value x

/-- The uniform source: the immediate, zero-extended, or the snapshot. -/
def uniformValue (x : LaneIn) : Word := if x.w.i then x.w.imm.setWidth 64 else snapReg x.g x.w.va

def execSetexec (w : LaneW) (s : State) : Out :=
  laneExec 0xC1 w s (moveChecks noTrap) noWait (groupEff fun x =>
    modPath x.g x.path1 fun p =>
      let v := uniformValue x
      let e := match w.opx.toNat with
        | 0 => v
        | 1 => p.exec &&& v
        | 2 => p.exec ||| v
        | _ => p.exec &&& ~~~v
      { p with exec := e &&& p.laneSet })

def execSetpart (w : LaneW) (s : State) : Out :=
  laneExec 0xC2 w s
    (moveChecks fun x => if 5 ≤ (uniformValue x).toNat % 8 then some { cause := Tc.partReserved } else none) noWait
    (groupEff fun x => { x.g with part := (uniformValue x).setWidth 3 })

def execSetcvm (w : LaneW) (s : State) : Out :=
  laneExec 0xC3 w s
    (moveChecks fun x => if w.opx = 0 ∧ !cvmodeOk ((uniformValue x).toNat % 2 ^ 32) then some { cause := Tc.roundReserved }
      else none) noWait
    (groupEff fun x =>
      if w.opx = 0 then { x.g with cvmode := (uniformValue x).setWidth 32 }
      else writeSeed x.g ((uniformValue x).setWidth 32))

/-- VTRAP (R340): a trap with the lanes that act, resuming at the next lane word; no lane acting, a VNOP. In a region it is the
word at which the region aborts (R245). -/
def execVtrap (w : LaneW) (s : State) : Out :=
  laneExec 0xC4 w s noTrap noWait fun x =>
    match acting x with
    | [] => groupEff (·.g) x
    | i :: r =>
      let v := source x (laneAt x.g i) 1
      let g := if x.g.region.isSome then x.g else advance x none x.g
      laneTrap (x.s.setGroup x.gi g) x.gi g x.path1 (w.imm.setWidth 8) (maskOf (i :: r)) 0 (w64 v)

def execVgett (w : LaneW) (s : State) : Out :=
  laneMap 0xC5 w s fun x _ l => writeTy w.ty l w.vd.toNat (trapReg x.g.trap (w.imm.toNat % 256)).toNat

end Sys2Proof.Machine
end

