-- ==== Sys2Proof/Machine/Cross.lean ====
section
/-! DEFINITION. Cross-lane instructions, majors 0x60 to 0x67 (R106 to R115). -/

namespace Sys2Proof.Machine

open Sys2Proof

/-- The first lane of the tile of lane `i` (R106). -/
def tileBase (g : Group) (i : Nat) : Nat := i - i % tileWidth g

/-- A lane supplies its register, or 0 when exited or never launched (R107). -/
def supplies (l : Lane) : Bool := (l.launched || l.helper) && !l.exited
def supply (x : LaneIn) (i : Nat) : Nat :=
  let l := laneAt x.g i
  if i < x.g.lanes.length && supplies l then source x l 1 else 0

/-- The tile lane VSHFL reads (R108). -/
def shuffleFrom (mode T j b : Nat) : Nat :=
  match mode with
  | 0 => b % T
  | 1 => if j < b then j else j - b
  | 2 => if T ≤ j + b then j else j + b
  | _ => j ^^^ (b % T)

def execVshfl (w : LaneW) (s : State) : Out :=
  laneMap 0x60 w s fun x i l =>
    let T := tileWidth x.g
    let j := i % T
    let k := shuffleFrom w.opx.toNat T j (source x l 2)
    writeTy w.ty l w.vd.toNat (if k = j then source x l 1 else supply x (tileBase x.g i + k))

/-- The quad lane QXCH reads (R109). -/
def quadFrom (w : LaneW) (i : Nat) : Nat :=
  match w.opx.toNat with
  | 0 => (i % 4) ^^^ 1
  | 1 => (i % 4) ^^^ 2
  | 2 => (i % 4) ^^^ 3
  | _ => w.imm.toNat % 4

def execQxch (w : LaneW) (s : State) : Out :=
  laneMap 0x61 w s fun x i l => writeTy w.ty l w.vd.toNat (supply x (i - i % 4 + quadFrom w i))

/-- The voting lanes of a tile, with their tile indexes. -/
def tileVotes (x : LaneIn) (i : Nat) : List Nat := (voting x).filter fun j => tileBase x.g j == tileBase x.g i

def votePred (x : LaneIn) (j : Nat) : Bool := predSource (laneAt x.g j) x.w.va

def execVvote (w : LaneW) (s : State) : Out :=
  laneMap 0x62 w s fun x i l =>
    let vs := (tileVotes x i).map fun j => (j - tileBase x.g i, votePred x j)
    let ones := vs.filter (·.2)
    match w.opx.toNat with
    | 0 => l.setP (w.vd.toNat % 8) (ones.length == vs.length)
    | 1 => l.setP (w.vd.toNat % 8) (ones.length != 0)
    | 2 => l.setP (w.vd.toNat % 8) (ones.length == 0 || ones.length == vs.length)
    | _ => writeTy w.ty l w.vd.toNat (ones.foldl (fun a v => a + 2 ^ v.1) 0)

def execVmatch (w : LaneW) (s : State) : Out :=
  laneMap 0x63 w s fun x i l =>
    let mine := source x l 1
    let hits := (tileVotes x i).filter fun j => source x (laneAt x.g j) 1 == mine
    l.setWide 64 w.vd.toNat (hits.foldl (fun a j => a + 2 ^ (j - tileBase x.g i)) 0)

/-- The identity of a reduction (R112). -/
def redIdentity (t : Ty) (op : Nat) : Nat :=
  let w := tyWidth t
  if tyFloat t then
    match op with
    | 0 => roundTo t .rne false 0 (.zero true)
    | 1 => infBits t false false
    | _ => infBits t true false
  else match op with
    | 1 => wrapInt w (intMax t)
    | 2 => wrapInt w (intMin t)
    | 3 => 2 ^ w - 1
    | _ => 0

/-- One node of a tree (R112). -/
def redOp (t : Ty) (rnd : Rnd) (op a b : Nat) : Nat :=
  if tyFloat t then
    let x := valueOf t a
    let y := valueOf t b
    match op with
    | 0 => roundTo t (rmArith rnd) false 0 (fvAdd (rmArith rnd) x y)
    | 1 => roundTo t .rne false 0 (fvMinMax false false x y)
    | _ => roundTo t .rne false 0 (fvMinMax true false x y)
  else match op with
    | 0 => (a + b) % 2 ^ tyWidth t
    | 1 => if asInt t b < asInt t a then b else a
    | 2 => if asInt t a < asInt t b then b else a
    | 3 => a &&& b
    | 4 => a ||| b
    | _ => a ^^^ b

/-- The leaves of a tile: voting lanes' values, the identity elsewhere. -/
def leaves (x : LaneIn) (base : Nat) : List Nat :=
  (List.range (tileWidth x.g)).map fun j =>
    if (voting x).contains (base + j) then source x (laneAt x.g (base + j)) 1 else redIdentity x.w.ty x.w.opx.toNat

/-- Combine neighbours, the lower lane on the left: one level of the tree. -/
def pairUp (f : Nat → Nat → Nat) : List Nat → List Nat
  | a :: b :: r => f a b :: pairUp f r
  | r => r
/-- The fixed tree of R112 over a power-of-two number of leaves. -/
def treeReduce (f : Nat → Nat → Nat) : Nat → List Nat → Nat
  | _, [] => 0
  | _, [a] => a
  | 0, a :: _ => a
  | n + 1, r => treeReduce f n (pairUp f r)

def execVred (w : LaneW) (s : State) : Out :=
  laneMap 0x64 w s fun x i l =>
    writeTy w.ty l w.vd.toNat (treeReduce (redOp w.ty w.rnd w.opx.toNat) 7 (leaves x (tileBase x.g i)))

/-- One step of the scan at distance d (R113). -/
def scanStep (f : Nat → Nat → Nat) (d : Nat) (y : List Nat) : List Nat :=
  (List.range y.length).map fun j => if d ≤ j then f (y.getD (j - d) 0) (y.getD j 0) else y.getD j 0
/-- The scan of R113 with distances 1, 2, 4, ... below the tile width. -/
def scanTree (f : Nat → Nat → Nat) : Nat → Nat → List Nat → List Nat
  | 0, _, y => y
  | n + 1, d, y => if y.length ≤ d then y else scanTree f n (2 * d) (scanStep f d y)

/-- A value that the scan passes on without an operation: a NaN becomes the canonical one (R70). -/
def passed (t : Ty) (v : Nat) : Nat := if tyFloat t ∧ valueOf t v = .nan then nanBits t else v

def execVscan (w : LaneW) (s : State) : Out :=
  laneMap 0x65 w s fun x i l =>
    let y := scanTree (redOp w.ty w.rnd w.opx.toNat) 7 1 (leaves x (tileBase x.g i))
    let j := i % tileWidth x.g
    let v := if bit w.imm.toNat 0 then (if j = 0 then redIdentity w.ty w.opx.toNat else y.getD (j - 1) 0) else y.getD j 0
    writeTy w.ty l w.vd.toNat (passed w.ty v)

/-- VBCAST (R114). -/
def execVbcast (w : LaneW) (s : State) : Out :=
  laneExec 0x66 w s
    (fun x => if w.opx = 0 ∧ !x.w.i ∧ w.vb.toNat < 192 then some { cause := Tc.uniformSource } else none) noWait
    (groupEff fun x => mapLanes x.g (acting x) fun i l =>
      let base := tileBase x.g i
      let v :=
        if w.opx = 0 then supply x (base + source x l 2 % tileWidth x.g)
        else match tileVotes x i with
          | [] => 0
          | j :: _ => supply x j
      writeTy w.ty l w.vd.toNat v)

/-- Whether a region of the group is live (R234). -/
def inRegion (g : Group) : Bool := g.region.isSome

/-- DOMINO_FORBIDDEN (R235). -/
def forbidden (x : LaneIn) : Option LTrap := if inRegion x.g then some { cause := Tc.dominoForbidden } else none

/-- VTOS writes the live scalar register from the lowest voting lane of the path (R115). -/
def execVtos (w : LaneW) (s : State) : Out :=
  let r := w.vd.toNat - 192
  laneExec 0x67 w s
    (fun x =>
      if w.vd.toNat < 192 ∨ !(imageOf x.s x.g).vtos.getLsbD r then some { cause := Tc.vtosTarget }
      else match forbidden x with
        | some t => some t
        | none => if (voting x).isEmpty then some { cause := Tc.vtosEmpty } else none) noWait
    (groupEff fun x =>
      match voting x with
      | [] => x.g
      | i :: _ => setSreg x.g r (if w.ty = .i32 then sext64 32 (source x (laneAt x.g i) 1) else w64 (source x (laneAt x.g i) 1)))

end Sys2Proof.Machine
end

