-- ==== Sys2Proof/Machine/Faults.lean ====
section
/-! DEFINITION. Fault records (R304, R306, R307): making one, merging it into an unwritten one, and the record's bytes. -/

namespace Sys2Proof.Machine

open Sys2Proof

/-- The ACCESS byte of R306: write, fetch, atomic. -/
def accessByte (write fetch atomic : Bool) : BitVec 8 :=
  BitVec.ofNat 8 (write.toNat + 2 * fetch.toNat + 4 * atomic.toNat)

/-- A new record of a fault of this CYCLE, of no engine yet. -/
def newFault (s : State) (cause : Cause) (va : Nat) : FaultRec :=
  { cause := cause, engine := 0, access := 0, level := 0, seq := 0, va := w64 va, entry := 0, count := 1, who := 0, where_ := 0,
    pcOrIx := 0, tlanes := 0, lid := 0, space := 0, cyc := w64 s.cycle, status := 0, at_ := s.now, written := false,
    issuers := [], released := false }

/-- A refusal record (R306): never merged, parks nothing. -/
def refusalFault (s : State) (va queue status : Nat) : FaultRec :=
  { newFault s 0 va with engine := 7, pcOrIx := BitVec.ofNat 32 queue, status := w64 status }

/-- Whether a fault merges into an unwritten record (R307). -/
def mergeable (old new : FaultRec) : Bool :=
  !old.written && !old.released && old.status == 0 && new.status == 0 && old.cause == new.cause && old.engine == new.engine &&
    old.va.toNat / 65536 == new.va.toNat / 65536

/-- The merged record. -/
def mergeFault (new old : FaultRec) : FaultRec :=
  { old with
    count := min (old.count + new.count) 65535
    tlanes := old.tlanes ||| new.tlanes
    issuers := old.issuers ++ new.issuers }

/-- The records of a context that wait to be written. -/
def unwritten (x : Ctx) : List FaultRec := x.faults.filter fun r => !r.written

/-- A fault enters the hub's buffer: merged, appended with the next SEQ, or held while 64 records are unwritten (R307). -/
def bufferFault (x : Ctx) (r : FaultRec) : Ctx :=
  if x.faults.any (mergeable · r) then { x with faults := modFirst (mergeable · r) (mergeFault r) x.faults }
  else if 64 ≤ (unwritten x).length then { x with waitFaults := x.waitFaults ++ [r] }
  else { x with faults := x.faults ++ [{ r with seq := x.seq }], seq := (x.seq + 1) % 2 ^ 32 }

/-- Record a fault in context `c`. -/
def recordFault (s : State) (c : Nat) (r : FaultRec) : State := s.modCtx c fun x => bufferFault x r

/-- The 64 bytes of a record (R306). -/
def faultBytes (r : FaultRec) : List Byte :=
  [r.cause, r.engine, r.access, r.level] ++ leBytes 4 r.seq ++ leBytes 8 r.va.toNat ++ leBytes 8 r.entry.toNat ++
    leBytes 2 r.count ++ [r.who, r.where_] ++ leBytes 4 r.pcOrIx.toNat ++ leBytes 8 r.tlanes.toNat ++ leBytes 4 r.lid.toNat ++
    leBytes 4 r.space.toNat ++ leBytes 8 r.cyc.toNat ++ leBytes 8 r.status.toNat

/-- A fault of a group's stream or engine: where it runs and what it was doing. -/
def groupFault (s : State) (gi : Nat) (r : FaultRec) : State :=
  let g := s.groups.getD gi default
  recordFault s (ctxIx s g)
    { r with
      who := BitVec.ofNat 8 (teamOf s g).core
      where_ := BitVec.ofNat 8 (g.quad % 4 + 4 * g.pos)
      lid := (launchOf s g).lid }
/-- A fault of a group's stream: its park is a blocking wait (R292, R304). -/
def streamFault (s : State) (gi : Nat) (r : FaultRec) : State := groupFault (s.modGroup gi fun g => { g with gap := 0 }) gi r

end Sys2Proof.Machine
end

