-- ==== Sys2Proof/Machine/Mem.lean ====
section
/-! DEFINITION. The memory hierarchy under every access (06, 07 R174 to R185, 09 R237, R240): logical times of parties, home
slices and their sector times, L1 lines and narrow lines, write queues, page residence, wait entries, shadows, domino marks, and
the reads and writes that every party performs through them. -/

namespace Sys2Proof.Machine

open Sys2Proof

/-! ## Logical time of a party (R151) -/

def groupAt (s : State) (i : Nat) : Group := s.groups.getD i default
def stageIx (s : State) (st : Nat) : Nat := s.stages.findIdx fun x => x.st == st
def stageAt (s : State) (st : Nat) : Stage := s.stages.getD (stageIx s st) default
def modStage (s : State) (st : Nat) (f : Stage → Stage) : State := { s with stages := s.stages.modify (stageIx s st) f }

/-- The logical time of a party. The accesses of an engine context raise its own, but take the lt of their command's push as floor (R164). -/
def partyLt (s : State) : Party → Nat
  | .scalar g => (groupAt s g).slt
  | .lane g => (groupAt s g).llt
  | .copy g => (groupAt s g).copy.lt
  | .fabric g => (groupAt s g).fabric.lt
  | .stage st => (stageAt s st).lt
  | .walker d => s.walkLt.getD d 0
  | .cp => s.cpLt
  | .host => s.hostLt

/-- lt ← max(lt, v). -/
def raiseLt (s : State) (p : Party) (v : Nat) : State :=
  match p with
  | .scalar g => s.modGroup g fun x => { x with slt := max x.slt v }
  | .lane g => s.modGroup g fun x => { x with llt := max x.llt v }
  | .copy g => s.modGroup g fun x => { x with copy := { x.copy with lt := max x.copy.lt v } }
  | .fabric g => s.modGroup g fun x => { x with fabric := { x.fabric with lt := max x.fabric.lt v } }
  | .stage st => modStage s st fun x => { x with lt := max x.lt v }
  | .walker d => { s with walkLt := s.walkLt.modify d (max v) }
  | .cp => { s with cpLt := max s.cpLt v }
  | .host => { s with hostLt := max s.hostLt v }

/-- The group a party belongs to. -/
def partyGroup : Party → Option Nat
  | .scalar g | .lane g | .copy g | .fabric g => some g
  | _ => none

/-- The party key of R159: groups by logical core, group number, scalar before lane; then engine contexts, stages, walkers, CP, host. -/
def partyKey (s : State) : Party → Nat
  | .scalar g => 2 * (32 * (teamOf s (groupAt s g)).core + (groupAt s g).gid)
  | .lane g => 2 * (32 * (teamOf s (groupAt s g)).core + (groupAt s g).gid) + 1
  | .copy g => 2 ^ 16 + 2 * (32 * (teamOf s (groupAt s g)).core + (groupAt s g).gid)
  | .fabric g => 2 ^ 16 + 2 * (32 * (teamOf s (groupAt s g)).core + (groupAt s g).gid) + 1
  | .stage st => 2 ^ 17 + st
  | .walker d => 2 ^ 18 + d
  | .cp => 2 ^ 19
  | .host => 2 ^ 19 + 1

/-! ## Waited words (R229) -/

/-- A wait whose entry has been taken by a wake. -/
def wokenWait (at_ : Nat) (w : Wait) : Wait :=
  match w with
  | .word k => .word { k with placed := false, woken := true, at_ := at_ }
  | o => o

/-- A write on a line, or the loss of the local copy, wakes its waiters. -/
def wakeWhere (s : State) (p : WaitEntry → Bool) : State :=
  let hit := s.waits.filter p
  let s := { s with waits := s.waits.filter fun w => !p w }
  hit.foldl (fun s w =>
    if w.src = aid s then
      s.modGroup w.g fun g =>
        { g with wait := wokenWait s.now g.wait, frame := g.frame.map fun f => { f with wait := wokenWait s.now f.wait } }
    else { s with net := s.net ++ [{ src := aid s, dst := w.src, msg := .wake w.g, at_ := s.now }] }) s
/-- Stages lose their reservations on written lines (R312). -/
def dropResv (s : State) (p : Nat → Bool) : State :=
  { s with stages := s.stages.map fun x => if x.resv.any p then { x with resv := none } else x }
def wakeLine (s : State) (line : Nat) : State := wakeWhere (dropResv s (· == line)) fun w => w.pa / 128 == line
def wakePage (s : State) (gpn : Nat) : State := wakeWhere (dropResv s fun l => l / 512 == gpn) fun w => w.pa / 65536 == gpn

/-! ## Write queues (R163) -/

/-- An entry holds some byte of a range. -/
def entryMeets (lo n : Nat) (e : WqEntry) : Bool := e.line == lo / 128 && e.parts.any fun i => i.pa < lo + n && lo < i.pa + i.n
/-- The queue of the line's slice holds an entry for some word of the range. -/
def queued (s : State) (lo n : Nat) : Bool := s.wq.any (entryMeets lo n)

/-! ## L1 lines (R150, R162) -/

/-- The mask of words of a byte range of a line. -/
def wordMask (lo n : Nat) : W32 :=
  let a := lo % 128 / 4
  let b := (lo % 128 + n - 1) / 4
  BitVec.ofNat 32 (2 ^ (b + 1) - 2 ^ a)

/-- The narrow holder of a line: core, scope and group or team (R162). -/
def narrowOf (s : State) (line : Nat) : Option (Nat × Scope × Nat) :=
  s.l1.findSome? fun l => if l.line == line then l.narrow.map fun n => (l.core, n.1, n.2) else none
/-- A group stands inside the holder's scope. -/
def insideNarrow (s : State) (gi : Option Nat) (n : Scope × Nat) : Bool :=
  match gi with
  | none => false
  | some g => match n.1 with | .grp => n.2 == g | _ => n.2 == (groupAt s g).team
/-- A line is held narrow by a holder that does not take in this party. -/
def narrowOutside (s : State) (gi : Option Nat) (line : Nat) : Bool :=
  (narrowOf s line).any fun h => !insideNarrow s gi h.2

/-- An L1 line's times go back to the slice. -/
def giveTimes (s : State) (l : L1Line) : State :=
  (List.range 4).foldl (fun s k =>
    let t := sectorTimes s (4 * l.line + k)
    setSector s (4 * l.line + k) (max t.1 (l.wts.getD k 0), max t.2 (l.rts.getD k 0))) s
/-- Publish a line: its holder's times go back to the slice, and it leaves narrow mode (R162). -/
def publishLine (s : State) (line : Nat) : State :=
  match s.l1.find? fun l => l.line == line && l.narrow.isSome with
  | none => s
  | some l => l1Put (giveTimes s l) { l with narrow := none }
/-- A page leaves its pinned frame: its lines are written back to L2 (R147). -/
def unpinPage (s : State) (gpn : Nat) : State :=
  let mine := s.l1.filter fun l => l.line / 512 == gpn && pinCoreOf s gpn == some l.core
  let s := mine.foldl giveTimes s
  { s with l1 := s.l1.filter fun l => !mine.contains l, pins := s.pins.filter fun p => p.gpn != gpn }

/-- The number of a marionette core's data cache, and of its instruction cache, among the L1 (R312, R403). -/
def dataCache (st : Nat) : Nat := 128 + st / 4
def codeCache (st : Nat) : Nat := 256 + st / 4
/-- The lines that an L1 has for other than pinned pages: 6144, less 512 for each pinned frame (R14, R147); a marionette core's cache has 512
(R312). -/
def l1Room (s : State) (core : Nat) : Nat :=
  if 128 ≤ core then 512 else 6144 - 512 * (s.pins.filter fun p => p.held && p.core == core).length
/-- A line that comes new into a full L1 replaces another, narrow ones being published first (R146, R162; notes/assumptions/10.md). -/
def l1Evict (s : State) (core line : Nat) : State :=
  let mine := s.l1.filter fun l => l.core == core && pinCoreOf s (l.line / 512) != some core
  if mine.length < l1Room s core ∨ (l1Find s core line).isSome then s
  else match mine[Config.victim s.hub.draws % mine.length]? with
    | none => s
    | some v =>
      let s := publishLine (s.modHub fun h => { h with draws := h.draws + 1 }) v.line
      { s with l1 := s.l1.filter fun l => !(l.core == core && l.line == v.line) }

/-- The words of an L1 line that are still current in the sectors `secs`: where the write time recorded is `was`, the slice's, and no queued
entry names them (notes/assumptions/22.md). -/
def currentWords (s : State) (l : L1Line) (secs : List Nat) (was : Nat → Nat × Nat) : W32 :=
  let lost (w : Nat) : Bool :=
    secs.contains (4 * l.line + w / 8) &&
      (l.wts.getD (w / 8) 0 != (was (4 * l.line + w / 8)).1 || queued s (128 * l.line + 4 * w) 4)
  BitVec.ofNat 32 ((List.range 32).foldl (fun m w => if lost w then m else m + 2 ^ w) 0)
/-- An L1 line's sectors take the slice's times. -/
def withTimes (s : State) (l : L1Line) (secs : List Nat) : L1Line :=
  let upd (f : Nat × Nat → Nat) (o : List Nat) := secs.foldl (fun o sec => o.set (sec % 4) (f (sectorTimes s sec))) o
  { l with wts := upd (·.1) l.wts, rts := upd (·.2) l.rts }

/-- An empty L1 line. -/
def emptyLine (core line : Nat) : L1Line :=
  { core := core, line := line, valid := 0, bytes := [], wts := List.replicate 4 0, rts := List.replicate 4 0, narrow := none }
/-- The words of a span come into an L1 with the times of their sectors (R150, R153). -/
def l1Install (s : State) (core lo n : Nat) (narrow : Option (Scope × Nat)) : State :=
  let line := lo / 128
  let s := l1Evict s core line
  let old := (l1Find s core line).getD (emptyLine core line)
  let secs := sectorsOf lo n
  let words := wordsOf lo n
  let bytes := words.foldl (fun b w => (List.range 4).foldl (fun b k => setByte b (4 * w % 128 + k) (byteAt s.mem (4 * w + k))) b) old.bytes
  let valid := (old.valid &&& currentWords s old secs (sectorTimes s)) ||| wordMask lo n
  l1Put s { withTimes s old secs with valid := valid, bytes := bytes, narrow := narrow.or old.narrow }

/-- A store's words and times reach the L1 of its core: the words it holds take the bytes written (R154); `was` are the times before. -/
def l1Update (s : State) (core lo n : Nat) (was : Nat → Nat × Nat) (writes : List (Nat × List Byte)) : State :=
  match l1Find s core (lo / 128) with
  | none => s
  | some l =>
    if (heldLine s (lo / 128)).any fun h => h.core != core then s
    else
    let secs := sectorsOf lo n
    let at_ (pa : Nat) : Bool := writes.any fun w => w.1 ≤ pa && pa < w.1 + w.2.length
    let full (w : Nat) : Bool := (List.range 4).all fun k => at_ (128 * l.line + 4 * w + k)
    let written := BitVec.ofNat 32 ((List.range 32).foldl (fun m w => if full w then m + 2 ^ w else m) 0)
    let here := writes.flatMap fun w => (List.range w.2.length).filterMap fun k =>
      if (w.1 + k) / 128 = l.line then some ((w.1 + k) % 128, w.2.getD k 0) else none
    let l' := if l.narrow.isSome || pinCoreOf s (l.line / 512) == some core then l else withTimes s l secs
    let keep := if l.narrow.isSome || pinCoreOf s (l.line / 512) == some core then BitVec.allOnes 32 else currentWords s l secs was ||| written
    l1Put s { l' with valid := l.valid &&& keep, bytes := here.foldl (fun b w => setByte b w.1 w.2) l.bytes }

/-- The line of a pinned page comes whole into its frame. -/
def pinFill (s : State) (line : Nat) : State :=
  match pinCoreOf s (line / 512) with
  | some c => if (l1Find s c line).isSome then s else l1Install s c (128 * line) 128 none
  | none => s

/-- A load hits: every word valid, the lease runs at lt (R153), and the line is not held narrow by others. -/
def l1Hit (s : State) (gi : Option Nat) (core lo n lt : Nat) : Option L1Line :=
  if narrowOutside s gi (lo / 128) then none
  else (l1Find s core (lo / 128)).filter fun l =>
    l.valid &&& wordMask lo n == wordMask lo n &&
      ((sectorsOf lo n).all fun sec => lt ≤ l.rts.getD (sec % 4) 0)

/-! ## Lines of L2 (R14, R146, R152, R193, R243) -/

/-- The regions in LIVE or WAITING that mark a word of a line. -/
def lineMarkers (s : State) (line : Nat) : List Nat :=
  (s.dom.slots.filter fun x => abortable x &&
    (x.rd.any (fun w => w / 32 == line) || x.wr.any fun b => b.1 / 128 == line)).map (·.slot)

/-- A line leaves L2: its regions abort for capacity, its times are folded into its frame, a line written is written back, and a block
wholly overwritten is poisoned no more. -/
def evictLine (s : State) (line : Nat) : State :=
  let s := (lineMarkers s line).foldl (fun s x => abortRegion s x 3 x) s
  let t := (List.range 4).foldl (fun (m : Nat × Nat) k =>
    let t := sectorTimes s (4 * line + k); (max m.1 t.1, max m.2 t.2)) (0, 0)
  let block := List.map (4 * (line / 4) + ·) (List.range 4)
  let clean := block.all fun l => s.am.whole.contains l && inL2 s l
  let s := { s with sectors := s.sectors.filter fun e => e.1 / 4 != line }
  let s := modTag s (line / 512) fun g => { g with fwt := max g.fwt t.1, fle := max g.fle t.2 }
  let s := s.modAm fun a =>
    { a with whole := a.whole.filter (· != line), poison := if clean then a.poison.filter fun p => p.1 / 4 != line / 4 else a.poison }
  let s := if s.dirty.contains line then writeBack s line else s
  { s with dirty := s.dirty.filter (· != line) }

/-- The lines of device pages that a slice holds and may replace. -/
def sliceLines (s : State) (slice : Nat) : List Nat :=
  ((s.sectors.map (·.1 / 4)).dedup).filter fun l => devicePage (l / 512) && homeSlice (128 * l) == slice
def replaceable (s : State) (line : Nat) : Bool :=
  !linePinned s line && (narrowOf s line).isNone && !s.wq.any (·.line == line) &&
    !s.dom.slots.any fun x => x.state == .committing && (x.rd.any (fun w => w / 32 == line) || x.wr.any fun b => b.1 / 128 == line)
/-- Room for a line in its slice of 16384 lines (2 MiB): another leaves (notes/assumptions/10.md). -/
def l2Room (s : State) (line : Nat) : State :=
  if s.sectors.length < 16384 ∨ inL2 s line then s
  else
    let mine := sliceLines s (homeSlice (128 * line))
    let can := mine.filter (replaceable s)
    if mine.length < 16384 then s
    else match can[Config.victim s.hub.draws % can.length]? with
      | some v => evictLine (s.modHub fun h => { h with draws := h.draws + 1 }) v
      | none => s
/-- A line comes into its home slice with its frame's times (R152). -/
def fillL2 (s : State) (line : Nat) : State :=
  let s := l2Room s line
  let times := (List.range 4).map fun k => (4 * line + k, sectorTimes s (4 * line + k))
  { s with sectors := times.foldl (fun t e => tput e.1 e.2 t) s.sectors }

/-! ## The times and lines of a page -/

/-- Sectors of a page that L2 holds. -/
def pageSectors (s : State) (gpn : Nat) : List (Nat × (Nat × Nat)) := s.sectors.filter fun e => e.1 / 2048 == gpn
/-- The largest wts and lease end of a page: its frame's, its lines', and those of L1 lines that perform its accesses (R152, R157). -/
def pageTimes (s : State) (gpn : Nat) : Nat × Nat :=
  let t0 := match tagOf s gpn with | some t => (t.fwt, t.fle) | none => (0, 0)
  let t1 := (pageSectors s gpn).foldl (fun m e => (max m.1 e.2.1, max m.2 e.2.2)) t0
  let held := s.l1.filter fun l => l.line / 512 == gpn && (l.narrow.isSome || pinCoreOf s gpn == some l.core)
  held.foldl (fun m l => (l.wts.foldl max m.1, l.rts.foldl max m.2)) t1
/-- Lines of a page that an L1 holds narrow go back to their slices (R162). -/
def publishPage (s : State) (gpn : Nat) : State :=
  (s.l1.filter fun l => l.line / 512 == gpn && l.narrow.isSome).foldl (fun s l => publishLine s l.line) s
/-- A write queue still holds an entry for the page (R163). -/
def queuedPage (s : State) (gpn : Nat) : Bool := s.wq.any fun e => e.line / 512 == gpn
/-- The bytes of a page. -/
def pageCells (s : State) (gpn : Nat) : Memory := cellsIn s.mem (65536 * gpn) 65536

/-! ## Domino marks (R234, R237, R240) -/

def liveOrWaiting (s : State) (n : Nat) : Bool := (slotAt s n).any abortable
def committing (s : State) (n : Nat) : Bool := (slotAt s n).any fun x => x.state == .committing
/-- A group's region is live until it ends or begins to abort (R234). -/
def regionLive (s : State) (g : Group) : Bool := (g.region.bind (slotAt s)).any fun x => x.state != .aborting
/-- The region whose write mark a word carries. -/
def writerOf (s : State) (word : Nat) : Option Nat := s.dom.marks.lookup word
/-- Regions in a state that read a word. -/
def readersOf (s : State) (word : Nat) (p : DomSlot → Bool) : List Nat :=
  (s.dom.slots.filter fun x => p x && x.rd.contains word).map (·.slot)
/-- A region has written a word. -/
def slotWrote (word : Nat) (x : DomSlot) : Bool := (x.wr.lookup (4 * word)).isSome
/-- A region that marked a word is still aborting, or one of its cascade is. -/
def abortingAt (s : State) (word : Nat) : Bool :=
  let hit (x : DomSlot) : Bool := x.state == .aborting && x.hit.contains word
  s.dom.slots.any fun x => hit x || (x.state == .aborting && x.cause == 2 && s.dom.slots.any fun y => hit y && y.slot == x.by_)
/-- A COMMITTING region read the word. -/
def commitRead (s : State) (word : Nat) : Bool := !(readersOf s word fun x => x.state == .committing).isEmpty

/-- A plain write must wait for a region that commits, or whose abort has not completed (R240). -/
def plainWriteHeld (s : State) (lo n : Nat) : Bool :=
  (wordsOf lo n).any fun w => commitWrote s w || commitRead s w || abortingAt s w
/-- Regions a plain write aborts: those in LIVE or WAITING that read or wrote a word of it (R240). -/
def plainVictims (s : State) (lo n : Nat) : List Nat :=
  (s.dom.slots.filter fun x => abortable x && (wordsOf lo n).any fun w => x.rd.contains w || slotWrote w x).map (·.slot)
/-- The write aborts them, and is performed once the aborts have completed. -/
def abortVictims (s : State) (lo n : Nat) : State := abortRegions s (plainVictims s lo n) 4 id

/-! ## Climbs (R181, R182) and crown requests (R184) -/

/-- A miss begins a climb, or joins one for its page (R182). -/
def startClimb (s : State) (gpn line : Nat) (pte : Word) (who : Issuer) : State :=
  let same (c : Climb) : Bool := c.gpn == gpn && (c.line == line || c.stage != .amc)
  if s.am.climbs.any same then
    s.modAm fun a =>
      { a with climbs := modFirst same (fun c => if c.who.contains who then c else { c with who := c.who ++ [who] }) a.climbs }
  else
    s.modAm fun a =>
      { a with
        nextId := a.nextId + 1
        climbs := a.climbs ++ [{ id := a.nextId, gpn := gpn, stage := .amc, set := 0, way := 0, since := s.now, acked := false,
                                 held := none, mirr := pteMirr pte, comp := pteComp pte, line := line, who := [who], hs := bit pte.toNat 7,
                                 pin := 2 ≤ pteHome pte }] }

/-- HomeHash and HomeAid (R176). -/
def homeHash (gpn : Nat) : Nat :=
  let h := (gpn % 2 ^ 32) ^^^ (gpn / 2 ^ 32 % 2 ^ 16 * 256)
  let h := h * 0x85EBCA6B % 2 ^ 32
  h ^^^ (h / 2 ^ 16)
/-- The first AID from `a` on, wrapping, that is not lost; `fuel` bounds the search. -/
def notLostFrom (s : State) : Nat → Nat → Nat
  | 0, a => a
  | fuel + 1, a => if s.am.lost.contains a then notLostFrom s fuel ((a + 1) % podSize s) else a
def homeAid (s : State) (gpn : Nat) : Nat :=
  if podSize s = 0 then aid s else notLostFrom s (podSize s) (homeHash gpn % podSize s)

/-- Send a message to a package. -/
def send (s : State) (dst : Nat) (m : Msg) : State :=
  { s with net := s.net ++ [{ src := aid s, dst := dst, msg := m, at_ := s.now }] }

/-- The space of a page is enabled for requests of other packages (R298). -/
def spaceOpen (s : State) (gpn src : Nat) : Bool :=
  src == aid s || (s.hub.spaces.getD (gpnSpace gpn / 64) 0).getLsbD (gpnSpace gpn % 64)

/-- The crown of a request is effective here (R184). -/
def CrownReq.effective (r : CrownReq) : Bool := r.granted && r.done

/-- The home is asked for the crown once; the request states whether a settled replica is held (R184). -/
def askCrown (s : State) (gpn : Nat) (pte : Word) (who : List Issuer) : State :=
  if s.am.crowns.any fun r => r.gpn == gpn && !r.effective then
    let join (r : CrownReq) : CrownReq := { r with who := r.who ++ who.filter fun w => !r.who.contains w }
    s.modAm fun a => { a with crowns := modFirst (fun r => r.gpn == gpn) join a.crowns }
  else
    let r : CrownReq :=
      { gpn := gpn, granted := crownHere s gpn && !s.am.released.contains gpn, done := false, floor := 0, since := s.now, who := who, pin := 2 ≤ pteHome pte,
        comp := pteComp pte, mirr := pteMirr pte }
    let s := s.modAm fun a => { a with crowns := a.crowns.filter (fun r => r.gpn != gpn) ++ [r] }
    let own := if crownHere s gpn then (pageTimes s gpn).2 else 0
    send s (homeAid s gpn) (.crownReq gpn (aid s) ((tagOf s gpn).any fun t => t.state == .replica) (pteMirr pte) own)
/-- A store asks for the crown of its page. -/
def requestCrown (s : State) (gpn : Nat) (pte : Word) (who : Issuer) : State := askCrown s gpn pte [who]

/-! ## Pages in transit (R189) -/

/-- A page of zeros granted to this package on its first touch has not been installed yet (R178). -/
def firstComing (s : State) (gpn : Nat) : Bool :=
  s.net.any fun e => e.dst == aid s && (match e.msg with | .page g _ _ _ _ _ first _ => first && g == gpn | _ => false)
/-- An access waits behind a page in transit, from the dc it first meets it. -/
def waitBehind (s : State) (gpn : Nat) (who : Issuer) : State :=
  if s.am.behind.any fun b => b.1 == who && b.2.1 == gpn then s
  else s.modAm fun a => { a with behind := a.behind ++ [(who, gpn, s.now)] }
/-- A page is in transit, or being rebuilt elsewhere, no longer. -/
def endTransit (s : State) (gpn : Nat) : State :=
  s.modAm fun a => { a with behind := a.behind.filter fun b => b.2.1 != gpn, recalls := tdel gpn a.recalls }
/-- A crowned page, or one that is coming here crowned, is in transit; a fill of a read miss is not. -/
def inTransit (s : State) (gpn : Nat) : Bool :=
  firstComing s gpn || (tagOf s gpn).any fun t => t.transit && crowned t

/-! ## Readiness of a place -/

/-- What a span access meets: it may be performed here, it must wait (with what it set going), or it goes to the master's
package. -/
inductive Place where
  | here
  | wait (s : State)
  | remote
  deriving DecidableEq, Repr

/-- A write at the mirror has not been answered: its line waits (R195). -/
def mirrorLocked (s : State) (lo : Nat) : Bool := s.am.mirs.any fun m => m.2.2 == lo / 128
/-- Waits common to reads and writes once the page is usable: narrow lines held by others (R162), write-queue entries (R163), writes that a
mirror has not answered (R195). -/
def sliceBusy (s : State) (gi : Option Nat) (lo n : Nat) : Bool :=
  narrowOutside s gi (lo / 128) || queued s lo n || mirrorLocked s lo
/-- A line of a device page that must first come into L2: neither L2 nor an L1 that performs its accesses holds it. -/
def lineAway (s : State) (line : Nat) : Bool := !inL2 s line && (heldLine s line).isNone

/-- Where a plain read is performed (R153, R181, R194, R240). -/
def readPlace (s : State) (gi : Option Nat) (pte : Word) (lo n : Nat) (who : Issuer) : Place :=
  let gpn := pageOf lo
  if !devicePage gpn then (if sliceBusy s gi lo n then .wait s else .here)
  else if !readableHere s gpn || (neverCached pte && !crownHere s gpn) then
    (if inTransit s gpn then .wait (waitBehind s gpn who)
     else if neverCached pte then .remote
     else .wait (startClimb s gpn (lo / 128) pte who))
  else if !neverCached pte && lineAway s (lo / 128) then .wait (startClimb s gpn (lo / 128) pte who)
  else if sliceBusy s gi lo n || plainReadHeld s lo n then .wait s
  else .here

/-- Where a store-class access is performed; `pod` keeps the crown where it is (R154, R157, R161, R184, R240). -/
def writePlace (s : State) (gi : Option Nat) (pte : Word) (pod : Bool) (lo n : Nat) (who : Issuer) : Place :=
  let gpn := pageOf lo
  if !devicePage gpn then (if sliceBusy s gi lo n then .wait s else .here)
  else if !writableHere s gpn then
    (if inTransit s gpn then .wait (waitBehind s gpn who)
     else if (tagOf s gpn).any fun t => t.transit then .wait s
     else if (pod || neverCached pte) && !crownHere s gpn then .remote
     else if s.am.foreign.contains gpn then .remote
     else .wait (requestCrown s gpn pte who))
  else if !neverCached pte && lineAway s (lo / 128) then .wait (startClimb s gpn (lo / 128) pte who)
  else if sliceBusy s gi lo n || plainWriteHeld s lo n then .wait s
  else if !(plainVictims s lo n).isEmpty then .wait (abortVictims s lo n)
  else .here

/-! ## Shadows (R348) -/

/-- The launch whose protection and shadows a launch shares; `fuel` bounds the chain of builders. -/
def rootLaunch (s : State) : Nat → Nat → Nat
  | 0, l => l
  | fuel + 1, l => match (s.launches.getD l default).builder with
    | some b => rootLaunch s fuel b.1
    | none => l
def shadowRoot (s : State) (l : Nat) : Nat := rootLaunch s s.launches.length l

/-- Shadow frame `x`: way 15 of the set with j = 10240 + x / 8 of stack x mod 8 (R172). -/
def shadowSet (x : Nat) : Nat := x % 8 + 24 + 32 * (10240 + x / 8)
/-- The tag of the first free shadow frame, as it takes a page (R175). -/
def shadowTag (s : State) (gpn : Nat) : Tag :=
  let used (x : Nat) : Bool := s.am.tags.any fun t => t.state == .shadow && t.set == shadowSet x
  let x := ((List.range (s.am.shadows.length + 1)).find? fun x => !used x).getD 0
  { set := shadowSet x, way := 15, gpn := gpn, state := .shadow, heat := 0, epoch := BitVec.ofNat 4 (epochOf s), pin := false, comp := false,
    transit := false, shared := false, fwt := 0, fle := 0 }
/-- Shadows are freed, with their frames. -/
def freeShadows (s : State) (p : Nat → Nat → Bool) : State :=
  let gone := (s.am.shadows.filter fun x => p x.1 x.2.1).map (·.2.1)
  let stay := (s.am.shadows.filter fun x => !p x.1 x.2.1).map (·.2.1)
  let count (l : List Nat) (g : Nat) : Nat := (l.filter (· == g)).length
  let drop (ts : List Tag) (g : Nat) : List Tag :=
    if count stay g < (ts.filter fun t => t.state == .shadow && t.gpn == g).length then
      ts.eraseP fun t => t.state == .shadow && t.gpn == g
    else ts
  s.modAm fun a => { a with shadows := a.shadows.filter fun x => !p x.1 x.2.1, tags := gone.foldl drop a.tags }

/-- The first write of a protected launch to a snapshot page copies the page into a shadow frame; with none free the launch
becomes unprotected (R348). -/
def shadowBefore (s : State) (gi : Option Nat) (pte : Word) (va pa : Nat) : State :=
  match gi with
  | none => s
  | some g =>
    let li := launchIx s (groupAt s g)
    let l := s.launches.getD li default
    let root := shadowRoot s li
    let gpn := pageOf pa
    let snap := pteSnap pte || ((s.launches.getD root default).snaps.any fun r => r.1 ≤ va && va < r.1 + r.2)
    if !l.protect || !snap || (s.am.shadows.any fun x => x.1 == root && x.2.1 == gpn) then s
    else if s.am.shadows.length < 49152 then
      s.modAm fun a => { a with shadows := a.shadows ++ [(root, gpn, cellsIn s.mem (gpn * 65536) 65536)]
                                tags := a.tags ++ [shadowTag s gpn] }
    else s.modLaunch root fun l => { l with protect := false }

/-! ## Performing -/

/-- Lines that a range lies in. -/
def linesOf (lo n : Nat) : List Nat := (List.range ((lo + n - 1) / 128 + 1 - lo / 128)).map (lo / 128 + ·)

/-- A write of a line is noted: L2 holds it dirty, and a line wholly overwritten there gives its bytes although its block is poisoned (R193). -/
def noteWrite (s : State) (lo n : Nat) : State :=
  let line := lo / 128
  if inL2 s line && devicePage (line / 512) then
    let s := { s with dirty := if s.dirty.contains line then s.dirty else line :: s.dirty }
    if n = 128 ∧ !s.am.whole.contains line ∧ (s.am.poison.any fun p => p.1 / 4 == line / 4) then
      s.modAm fun a => { a with whole := line :: a.whole }
    else s
  else s

/-- Write bytes at one place: ts = max(f, rts + 1) over the sectors (R154), memory, the copies that an L1 of `core` holds, waiters. -/
def performStore (s : State) (core : Option Nat) (lo n f : Nat) (writes : List (Nat × List Byte)) : State × Nat :=
  let s := pinFill s (lo / 128)
  let was := sectorTimes s
  let ts := max f ((rangeTimes s lo n).2 + 1)
  let s := stampRange s lo n ts
  let s := noteWrite { s with mem := writes.foldl (fun m w => setBytes m w.1 w.2) s.mem } lo n
  let cores := core.toList ++ (pinCoreOf s (lo / 512 / 128)).toList.filter fun c => core != some c
  let s := cores.foldl (fun s c => l1Update s c lo n was writes) s
  (wakeLine s (lo / 128), ts)

/-- Read where the line is held, with a floor: the lease, and the words with their times in the core's L1 where the page may be held there. -/
def performLoad (s : State) (core : Option Nat) (keep : Bool) (lo n f : Nat) : State × Nat × Nat :=
  let s := pinFill s (lo / 128)
  let r := grantLease s lo n f
  let s := match core with
    | some c => if keep && (heldLine r.1 (lo / 128)).isNone then l1Install r.1 c lo n none else r.1
    | none => r.1
  (s, r.2.1, r.2.2)

/-! ## Mirrors (R195) -/

/-- The operation byte of a write that the crown sends to the second crowned copy. -/
def mirrorOp : BitVec 8 := 0xF4
/-- A page whose stores are also performed at a second crowned copy. -/
def mirroredHere (s : State) (gpn : Nat) : Bool := crownHere s gpn && (tagOf s gpn).any fun t => t.state == .mirrored
/-- No access set waits for the answer. -/
def noSet : Nat := 2 ^ 63

/-- The answer to request `k` of asker `id`. -/
def answerTo (s : State) (id k : Nat) : Option Env :=
  s.net.find? fun e => e.dst == aid s && (match e.msg with | .remoteAns i j _ _ _ _ _ => i == id && j == k | _ => false)

/-- A write of a mirrored page is performed at the mirror first, above this copy's leases, while its line is locked here; it is then
performed here at the mirror's ts. Answers the floor to perform it with, once there is one. -/
def mirrorFirst (s : State) (id k lo n f : Nat) (writes : List (Nat × List Byte)) : State × Option Nat :=
  if !mirroredHere s (pageOf lo) then (s, some f)
  else match answerTo s id k with
    | some e =>
      let time := match e.msg with | .remoteAns _ _ _ _ t _ _ => t | _ => 0
      ({ s with net := s.net.erase e, am := { s.am with mirs := s.am.mirs.filter fun m => !(m.1 == id && m.2.1 == k) } }, some (max f time))
    | none =>
      if s.am.mirs.any fun m => m.1 == id && m.2.1 == k then (s, none)
      else
        let parts := writes.map fun w => { acc := 0, pa := w.1, n := w.2.length, data := leNat w.2, cmp := 0 : Part }
        let s := s.modAm fun a => { a with mirs := a.mirs ++ [(id, k, lo / 128)] }
        (send s (homeAid s (pageOf lo)) (.remote id k mirrorOp .b32 parts (max f ((rangeTimes s lo n).2 + 1)) true false false), none)
def mirrorBusy (s : State) (gpn : Nat) : Bool := s.am.mirs.any fun m => m.2.2 / 512 == gpn

/-! ## Atomic operations (R210, R212) -/

/-- The order of min and max, and the sum, on operand bits of a type. -/
def atomAdd (t : Ty) (a b : Nat) : Nat :=
  if tyFloat t then roundTo t .rne false 0 (fvAdd .rne (valueOf t a) (valueOf t b)) else (a + b) % 2 ^ tyWidth t
def atomMinMax (isMax : Bool) (t : Ty) (a b : Nat) : Nat :=
  if tyFloat t then roundTo t .rne false 0 (fvMinMax isMax false (valueOf t a) (valueOf t b))
  else
    let less := if tySigned t then signedOf (tyWidth t) a < signedOf (tyWidth t) b else a < b
    if isMax then (if less then b else a) else (if less then a else b)

/-- Apply of R210: the new value from the old value o, the operand b and the compare value e. -/
def atomApply (op : BitVec 8) (t : Ty) (o b e : Nat) : Nat :=
  match op.toNat with
  | 0 => atomAdd t o b
  | 1 => atomMinMax false t o b
  | 2 => atomMinMax true t o b
  | 3 => o &&& b
  | 4 => o ||| b
  | 5 => o ^^^ b
  | 6 => b
  | 7 => if o = e then b else o
  | 8 => if b ≤ o then 0 else o + 1
  | _ => if o = 0 ∨ b < o then b else o - 1

/-- One word's reduction: the exact combination of the contributions, oldest first, applied once (R212). -/
def reduceApply (op : BitVec 8) (t : Ty) (o : Nat) (bs : List Nat) : Nat :=
  match bs with
  | [] => o
  | b :: r =>
    if op = 0 ∧ tyFloat t then
      roundTo t .rne false 0 (fvAdd .rne (valueOf t o) (r.foldl (fun a x => fvAdd .rne a (valueOf t x)) (valueOf t b)))
    else atomApply op t o (r.foldl (fun a x => atomApply op t a x 0) b) 0

/-! ## Pieces of ranges -/

/-- One piece of a range, no further than its line and its page. -/
def pieceLen (pa n : Nat) : Nat := min n (128 - pa % 128)
/-- Lines a range may touch. -/
def lineFuel (n : Nat) : Nat := n / 128 + 2

end Sys2Proof.Machine
end

