-- ==== Sys2Proof/Machine/Sets.lean ====
section
/-! DEFINITION. Access sets (R149, R156, R158, R168, R204): their spans, translation at issue through the TLBs (R301), the checks
after translation (R230), parks (R304), what each kind of set does at a home slice, in team SRAM and in a domino region (R234,
R237, R238), and what a commit writes. -/

namespace Sys2Proof.Machine

open Sys2Proof

/-! ## Lookups -/

def setAt (s : State) (id : Nat) : Option ASet := s.sets.find? fun a => a.id == id
def dropSet (s : State) (id : Nat) : State := { s with sets := s.sets.filter fun a => a.id != id }
/-- The physical core of a party's group. -/
def coreOfParty (s : State) (p : Party) : Option Nat := (partyGroup p).map fun g => (groupAt s g).quad / 4
/-- Store-class sets (R156). -/
def storeClass (k : SetKind) : Bool := match k with | .load | .gather => false | _ => true
/-- The set is the oldest uncommitted set of its party. -/
def isHead (s : State) (a : ASet) : Bool :=
  (s.sets.find? fun b => b.party == a.party && b.role == .access).any fun b => b.id == a.id
/-- A further set waits to issue while 16 are uncommitted (R156). -/
def partyFull (s : State) (p : Party) : Bool := 16 ≤ (setsOf s p).length

def kindX (k : SetKind) : Xk := if storeClass k then .write else .read

/-- Every page of the accesses is in a TLB. -/
def allTranslated (s : State) (core c : Nat) (k : Xk) (accs : List Acc) : Bool :=
  accs.all fun x => x.n == 0 || (tlbLook s core c x.va k).isSome

/-! ## Accesses and spans -/

/-- Split an access at a 64 KiB page (R168). -/
def splitPage (x : Acc) : List Acc :=
  let a := 65536 - x.va % 65536
  if x.n ≤ a then [x]
  else [{ x with n := a, data := x.data % 2 ^ (8 * a) }, { x with va := x.va + a, n := x.n - a, data := x.data / 2 ^ (8 * a) }]

/-- The part of an access within a line: its first address, bytes, and offset in the access. -/
def partIn (x : Acc) (line : Nat) : Option (Nat × Nat × Nat) :=
  let lo := max x.pa (128 * line)
  let hi := min (x.pa + x.n) (128 * line + 128)
  if lo < hi then some (lo, hi - lo, lo - x.pa) else none
/-- The accesses that touch a line, with their parts, in ascending lane order. -/
def partsIn (a : ASet) (line : Nat) : List (Nat × Acc × Nat × Nat × Nat) :=
  (List.range a.accs.length).filterMap fun i =>
    let x := a.accs.getD i default
    if x.n = 0 then none else (partIn x line).map fun p => (i, x, p)

/-- One span for each line touched, from the lowest to the highest word (R149). -/
def spansOf (accs : List Acc) : List Span :=
  let live := accs.filter fun x => x.n != 0
  let lines := (live.flatMap fun x => [x.pa / 128, (x.pa + x.n - 1) / 128]).dedup
  lines.map fun line =>
    let ps := live.filterMap fun x => partIn x line
    let lo := ps.foldl (fun m p => min m (p.1 / 4 % 32)) 31
    let hi := ps.foldl (fun m p => max m ((p.1 + p.2.1 - 1) / 4 % 32)) 0
    { line := line, first := lo, count := hi + 1 - lo, sent := false, done := false, wts := 0, rts := 0 }

def spanLo (p : Span) : Nat := 128 * p.line + 4 * p.first
def spanLen (p : Span) : Nat := 4 * p.count
/-- The PTE under a span. -/
def spanPte (a : ASet) (p : Span) : Word :=
  ((a.accs.find? fun x => x.n != 0 && (partIn x p.line).isSome).map (·.pte)).getD 0

/-- Put a part of a value at a byte offset. -/
def putPart (got off n v : Nat) : Nat := got - got / 2 ^ (8 * off) % 2 ^ (8 * n) * 2 ^ (8 * off) + v % 2 ^ (8 * n) * 2 ^ (8 * off)

/-- Give the accesses of a span their bytes from a view of memory. -/
def gatherSpan (a : ASet) (line : Nat) (view : Nat → Byte) : ASet :=
  { a with accs := a.accs.map fun x =>
    if x.n = 0 then x
    else match partIn x line with
      | none => x
      | some (lo, n, off) => { x with got := putPart x.got off n (leNat ((List.range n).map fun k => view (lo + k))) } }

def setSpan (a : ASet) (k : Nat) (f : Span → Span) : ASet := { a with spans := a.spans.modify k f }
/-- A time above every floor, for words that need no lease. -/
def always : Nat := 2 ^ 80
def spanDone (a : ASet) (k wts rts : Nat) : ASet :=
  setSpan a k fun p => { p with done := true, sent := true, wts := wts, rts := rts }

/-! ## Parks and traps of a set -/

/-- The lanes of the accesses that meet a test; helper lanes are in no fault (R204). -/
def lanesWhere (a : ASet) (p : Acc → Bool) : Mask := maskOf ((a.accs.filter fun x => x.n != 0 && !x.help && p x).map (·.lane))

/-- A set parks on a replayable fault (R304): the record, and the set's own address and lanes for a KILL. The store of handler entry
does neither: its fault is fatal (R338). -/
def parkSet (s : State) (a : ASet) (cause : Cause) (level : Nat) (entry : Word) (va : Nat) (lanes : Mask) : State :=
  let lane := match a.party with | .lane _ => true | _ => false
  let atomic := match a.kind with | .load | .gather | .store => false | _ => true
  let r := { newFault s cause va with
    engine := if lane then (if a.kind = .gather then 5 else 0) else 1
    access := accessByte (storeClass a.kind) (a.role == .fetch) atomic
    level := BitVec.ofNat 8 level, entry := entry
    pcOrIx := BitVec.ofNat 32 a.pc, tlanes := if lane then lanes else 0, issuers := [.set a.id] }
  match partyGroup a.party with
  | none => s
  | some gi =>
    if a.entry then fatal s (ctxIx s (groupAt s gi)) Tc.handlerTrap (launchOf s (groupAt s gi)).lid
    else streamFault (modSet s a.id fun b => { b with phase := .parked va lanes s.now }) gi r

/-- The accesses of a set that meet a test fault (R304): the set parks at the lowest lane's address. Where only helper lanes do, their loads
give 0 and nothing is recorded (R23, R204). -/
def faultAccs (s : State) (a : ASet) (cause : Cause) (level : Nat) (entry : Word) (p : Acc → Bool) : State :=
  match a.accs.find? fun x => x.n != 0 && !x.help && p x with
  | some x => parkSet s a cause level entry x.va (lanesWhere a p)
  | none =>
    let accs := a.accs.map fun x => if x.n != 0 && p x then { x with n := 0, got := 0 } else x
    let held (q : Span) : Bool := accs.any fun x => x.n != 0 && (partIn x q.line).isSome
    modSet s a.id fun b => { b with accs := accs, spans := b.spans.filter held }

/-- A precise trap at the word of a set: the set and the later sets of its party go, with what they counted (R307). -/
def trapOfSet (s : State) (a : ASet) (cause : Cause) (lanes : Mask) (addr : Nat) (info : Word) : State :=
  match partyGroup a.party with
  | none => dropSet s a.id
  | some gi =>
    let gone := s.sets.filter fun b => b.party == a.party && a.id ≤ b.id
    let s := { s with sets := s.sets.filter fun b => !(b.party == a.party && a.id ≤ b.id) }
    let s := s.modGroup gi fun g =>
      { g with ifc := (List.range 4).map fun k => g.ifc.getD k 0 - (gone.filter fun b => b.ifc == k).length }
    let lane := match a.party with | .lane _ => true | _ => false
    let keep (k : Look) : Bool := k.set.all fun i => i < a.id
    let unlook (p : Path) : Path := { p with look := p.look.filter keep }
    let s := if lane then s.modGroup gi fun g => { g with p0 := unlook g.p0, p1 := g.p1.map unlook } else s
    let g := groupAt s gi
    raiseTrap s gi { cause := cause, lane := lane, path1 := a.path1, spc := if lane then g.spc else w64 a.pc, lpc := a.pc,
                     lanes := lanes, addr := w64 addr, info := info }

/-- Words of the window of a set that have completed (R59), in TINFO[55:48] (R339): those before its party's next set. -/
def windowInfo (s : State) (a : ASet) : Word :=
  match a.party with
  | .lane gi =>
    match (pathOf (groupAt s gi) a.path1).look.find? fun k => k.set == some a.id with
    | some k =>
      let later := (s.sets.filter fun b => b.party == a.party && a.id < b.id).map fun b => b.pc - a.pc - 1
      w64 (later.foldl min k.done * 2 ^ 48)
    | none => 0
  | _ => 0

/-- A set waits for no page any longer. -/
def forgetWaiter (s : State) (i : Nat) : State :=
  s.modAm fun a =>
    { a with
      climbs := a.climbs.map fun c => { c with who := c.who.filter (· != .set i) }
      crowns := a.crowns.map fun r => { r with who := r.who.filter (· != .set i) }
      behind := a.behind.filter fun b => b.1 != .set i }

/-! ## Checks after translation (R214, R230, R235) -/

/-- The host link is coherent (R360). -/
def hostCoherent (s : State) : Bool := bit s.hub.hostCtl.toNat 0

/-- An AtomicOp exists for the operation (R210, R214): FetchAdd on integers, Swap, CAS. -/
def hasAtomicOp (k : SetKind) : Bool :=
  match k with
  | .cas128 => true
  | .atom op ty => (op == 0 && tyInt ty) || op == 6 || op == 7
  | .redg op ty => op == 0 && tyInt ty
  | _ => true

/-- The host lacks the AtomicOp size of an access (R361: bits [3:1] of HOST_CTL record 32, 64 and 128 bits). -/
def sizeLacking (s : State) (n : Nat) : Bool :=
  !bit s.hub.hostCtl.toNat (if n = 16 then 3 else if n = 8 then 2 else 1)

def isAtomic (k : SetKind) : Bool := match k with | .atom _ _ | .redg _ _ | .cas128 => true | _ => false

/-- The cause an access fails after translation, in the order of R230 and R251. -/
def afterCheck (s : State) (a : ASet) (x : Acc) : Option Cause :=
  let sp := gpnSpace (pteGpn x.pte)
  let host := sp = 0xFFF
  if a.region.isSome ∧ (pteHome x.pte = 1 ∨ pteHome x.pte = 3 ∨ 0xFFE ≤ sp ∨ a.scope = .sys) then some Tc.dominoSpace
  else if isAtomic a.kind ∧ host ∧ a.scope ≠ .sys ∧ !hostCoherent s ∧ !hasAtomicOp a.kind then some Tc.atomicScopeOp
  else if isAtomic a.kind ∧ a.scope = .sys ∧ ¬host then some Tc.scopeSpace
  else if a.dest = .waitcmp ∧ (pteHome x.pte = 1 ∨ 0xFFE ≤ sp) then some Tc.waitSpace
  else if isAtomic a.kind ∧ host ∧ (a.scope = .sys ∨ !hostCoherent s) ∧ sizeLacking s x.n then some Tc.hostAtomicUnsupported
  else none

/-- The first failing check over the accesses, with the lanes that fail it and the lowest one's address (R204); DOMINO_SPACE names neither (R235,
R251, R335). -/
def afterChecks (s : State) (a : ASet) : Option (Cause × Mask × Nat) :=
  let fails := a.accs.filterMap fun x => if x.n = 0 ∨ x.help then none else (afterCheck s a x).map fun c => (c, x)
  let order := [Tc.atomicScopeOp, Tc.scopeSpace, Tc.waitSpace, Tc.hostAtomicUnsupported, Tc.dominoSpace]
  match order.find? fun c => fails.any fun f => f.1 == c with
  | none => none
  | some c =>
    let hit := if c = Tc.dominoSpace then [] else (fails.filter fun f => f.1 == c).map (·.2)
    some (c, maskOf (hit.map (·.lane)), (hit.head?.map (·.va)).getD 0)

/-! ## Becoming ready -/

/-- Bytes that a load takes from earlier uncommitted stores of its party (R156): the latest for each address, with its store. -/
def forwarded (s : State) (a : ASet) : Tab (Nat × Byte) :=
  let earlier := s.sets.filter fun b => b.party == a.party && b.id < a.id && b.kind == .store && b.sram == a.sram
  earlier.foldl (fun t b => b.accs.foldl (fun t x =>
    (List.range x.n).foldl (fun t k => tput (x.pa + k) (b.id, BitVec.ofNat 8 (x.data / 2 ^ (8 * k))) t) t) t) []
/-- The stores that give a load bytes of a line. -/
def givers (a : ASet) (line : Nat) : List Nat :=
  ((a.fwd.filter fun e => e.1 / 128 == line && a.accs.any fun x => x.n != 0 && x.pa ≤ e.1 && e.1 < x.pa + x.n).map (·.2.1)).dedup
/-- A byte as a load sees it: from its party's store until that is performed, then from where the line is held (R156). -/
def seenOver (s : State) (a : ASet) (held : Nat → Byte) (pa : Nat) : Byte :=
  match a.fwd.lookup pa with
  | some (id, b) =>
    let performed := (setAt s id).all fun st => st.spans.all fun p => p.line != pa / 128 || p.done
    if performed then held pa else b
  | none => held pa
def seenByte (s : State) (a : ASet) (pa : Nat) : Byte := seenOver s a (byteAt s.mem) pa

/-- Every byte of the accesses of a line is forwarded. -/
def lineForwarded (a : ASet) (line : Nat) : Bool :=
  (partsIn a line).all fun p => (List.range p.2.2.2.1).all fun k => (a.fwd.lookup (p.2.2.1 + k)).isSome

/-- An earlier uncommitted atomic of the party touches the range: the load waits for it. -/
def behindAtomic (s : State) (a : ASet) (lo n : Nat) : Bool :=
  s.sets.any fun b => b.party == a.party && b.id < a.id && isAtomic b.kind && b.sram == a.sram &&
    b.accs.any fun x => x.n != 0 && x.pa < lo + n && lo < x.pa + x.n

/-- A WAITCMP reads its word again: its home slice is asked, so that the write that woke it is seen (R229). -/
def rereads (s : State) (a : ASet) : Bool :=
  a.dest == .waitcmp && (partyGroup a.party).any fun gi => match (groupAt s gi).wait with | .word w => w.t != 0 | _ => false

/-- A load takes what its L1 holds at issue (R153), outside a region. -/
def takeHits (s : State) (a : ASet) : ASet :=
  (List.range a.spans.length).foldl (fun a k =>
    let p := a.spans.getD k default
    if lineForwarded a p.line then
      setSpan (gatherSpan a p.line fun pa => ((a.fwd.lookup pa).map (·.2)).getD 0) k fun p =>
        { p with sent := true, wts := 0, rts := always, owe := (givers a p.line).length }
    else if a.region.isSome || a.kind != .load || rereads s a || behindAtomic s a (spanLo p) (spanLen p) ||
      !(givers a p.line).isEmpty then a
    else match coreOfParty s a.party with
      | none => a
      | some core => match l1Hit s (partyGroup a.party) core (spanLo p) (spanLen p) (partyLt s a.party) with
        | none => a
        | some l =>
          let secs := (sectorsOf (spanLo p) (spanLen p)).map (· % 4)
          let a := gatherSpan a p.line fun pa => byteAt l.bytes (pa % 128)
          spanDone a k (secs.foldl (fun m j => max m (l.wts.getD j 0)) 0)
            (secs.foldl (fun m j => min m (l.rts.getD j 0)) always)) a

/-- The spans still to be sent are numbered as requests of this moment (R16). -/
def numberSpans (s : State) (a : ASet) : ASet :=
  { a with spans := a.spans.map fun p => if p.done || p.sent then p else { p with seq := s.nextSend, arrived := false } }
/-- A set whose pages are known: its spans, the bytes it takes from earlier stores and its L1 hits. -/
def makeReady (s : State) (a : ASet) : ASet :=
  let a := { a with phase := .ready, spans := spansOf a.accs }
  if storeClass a.kind || a.sram then a
  else
    let a := { a with fwd := forwarded s a }
    numberSpans s (takeHits s a)
/-- Another request of the core that was sent before span `k` to its slice has not come there yet: the bridge keeps their order (R16). -/
def overtakes (s : State) (a : ASet) (k : Nat) : Bool :=
  let p := a.spans.getD k default
  let out (b : ASet) : Bool := b.role == .access && !b.sram && (if storeClass b.kind then b.phase == .gone else b.phase == .ready) &&
    coreOfParty s b.party == coreOfParty s a.party
  s.sets.any fun b => out b && b.spans.any fun q =>
    !q.done && !q.sent && !q.arrived && q.seq < p.seq && homeSlice (128 * q.line) == homeSlice (128 * p.line)

/-- Give every access its pod address and PTE from the TLBs. -/
def withPages (s : State) (core c : Nat) (a : ASet) : ASet :=
  { a with accs := a.accs.map fun x =>
    if x.n = 0 then x
    else match tlbLook s core c x.va (kindX a.kind) with
      | some e => { x with pa := podAddr e x.va, pte := e }
      | none => x }

/-- A set with every page in a TLB is checked and made ready; the others wait for PAGE_WALK. -/
def settle (s : State) (id : Nat) : State :=
  match setAt s id with
  | none => s
  | some a =>
    match partyGroup a.party with
    | none => s
    | some gi =>
      let core := (groupAt s gi).quad / 4
      let c := ctxIx s (groupAt s gi)
      if a.phase ≠ .xlate ∨ !allTranslated s core c (kindX a.kind) a.accs then s
      else
        let a := withPages s core c a
        let fails := afterChecks s a
        let s := a.accs.foldl (fun s x => if x.n = 0 then s else tlbFill s core c x.va x.pte) s
        match fails with
        | some (cause, lanes, va) => trapOfSet s a cause lanes va (windowInfo s a)
        | none =>
          let s := a.accs.foldl (fun s x => if x.n = 0 then s else pinFor s core (x.pa / 128) c x.va x.pte) s
          { modSet s id fun _ => makeReady s a with nextSend := s.nextSend + 1 }

/-- Issue a set: a global one goes to translation, a team-SRAM one is ready at once. -/
def issueSet (s : State) (a : ASet) : State :=
  let id := s.nextSet
  if a.sram then addSet s { a with phase := .ready, accs := a.accs.map fun x => { x with pa := x.va }, spans := spansOf (a.accs.map
    fun x => { x with pa := x.va }) }
  else settle (addSet s { a with phase := .xlate, accs := a.accs.flatMap splitPage }) id

/-! ## Domino region accesses (R234, R237, R238) -/

/-- The other live region, in LIVE or WAITING, that wrote a word: the first row of R237. -/
def otherWriter (s : State) (b w : Nat) : Option Nat := (writerOf s w).filter fun m => m != b && liveOrWaiting s m
/-- The region's view of a byte: its own value, the uncommitted value of the live writer, or memory. -/
def regionByte (s : State) (n : Nat) (pa : Nat) : Byte :=
  let own := (slotAt s n).bind fun x => x.wr.lookup pa
  let other := (otherWriter s n (pa / 4)).bind fun m => (slotAt s m).bind fun x => x.wr.lookup pa
  (own.or other).getD (byteAt s.mem pa)

/-- A word of a COMMITTING region holds an access of another region. -/
def wordHeld (s : State) (write : Bool) (w : Nat) : Bool := commitWrote s w || (write && commitRead s w)
/-- A region access waits for a COMMITTING region (R237). -/
def regionHeld (s : State) (b : Nat) (write : Bool) (lo n : Nat) : Bool :=
  (wordsOf lo n).any fun w => (otherWriter s b w).isNone && wordHeld s write w

/-- An edge A to B is recorded, as a forward where one is needed. -/
def edgeThere (s : State) (a b : Nat) (fwd : Bool) : Bool :=
  s.dom.reach.contains (a, b) && (!fwd || s.dom.fwds.contains (a, b))

/-- The edges an access of region `b` still needs, in ascending slot (R237): the other region, and whether it is a forward. -/
def edgesNeeded (s : State) (b : Nat) (read write : Bool) (lo n : Nat) : List (Nat × Bool) :=
  let ofWord (w : Nat) : List (Nat × Bool) :=
    match otherWriter s b w with
    | some m => (if read then [(m, true)] else []) ++ (if write then [(m, false)] else [])
    | none => if write && !wordHeld s write w then ((readersOf s w abortable).filter (· != b)).map (·, false) else []
  let all := ((wordsOf lo n).flatMap ofWord).dedup.filter fun e => !edgeThere s e.1 b e.2
  sortOn (·.1) all

/-- Capacity a core's live regions use: speculative spans and 8 lines for each checkpointed quad (R234, R248). -/
def specUsed (s : State) (core : Nat) : Nat :=
  (s.dom.slots.filter fun x => x.core == core && x.state != .aborting).foldl (fun m x => m + x.lines + x.wspans.length) 0

/-- Mark the words of a read; a fifth reader slot of a sector aborts the region (R243). -/
def markRead (s : State) (b lo n : Nat) : State :=
  let full := (sectorsOf lo n).any fun sec =>
    let rs := (s.dom.slots.filter fun x => x.state != .aborting && x.rd.any fun w => w / 8 == sec).map (·.slot)
    4 ≤ rs.length && !rs.contains b
  if full then abortRegion s b 3 b
  else modSlot s b fun x => { x with rd := (x.rd ++ wordsOf lo n).dedup }

/-- Write bytes of a region: whole words become its speculative values and carry its mark; without room it aborts (R234, R243). -/
def markWrite (s : State) (b line : Nat) (writes : List (Nat × Byte)) : State :=
  match slotAt s b with
  | none => s
  | some x =>
    if !x.wspans.contains line && 4096 ≤ specUsed s x.core then abortRegion s b 3 b
    else
      let words := (writes.map fun w => w.1 / 4).dedup
      let base := words.foldl (fun t w => (List.range 4).foldl (fun t k => tput (4 * w + k) (regionByte s b (4 * w + k)) t) t) x.wr
      let wr := writes.foldl (fun t w => tput w.1 w.2 t) base
      let s := modSlot s b fun y =>
        { y with wr := wr, wspans := if y.wspans.contains line then y.wspans else y.wspans ++ [line] }
      s.modDom fun d => { d with marks := words.foldl (fun m w => tput w b m) d.marks }

/-- The store bytes of a set in a line, ascending lane, so that the higher lane's byte stands (R207). -/
def storeBytes (a : ASet) (line : Nat) : List (Nat × Byte) :=
  (partsIn a line).flatMap fun p =>
    (List.range p.2.2.2.1).map fun k => (p.2.2.1 + k, BitVec.ofNat 8 (p.2.1.data / 2 ^ (8 * (p.2.2.2.2 + k))))

/-- The atomics of a set in a line, one lane after another (R211): the writes made and the old values obtained. -/
def atomicLanes (a : ASet) (line : Nat) (view : Nat → Byte) : List (Nat × Byte) × List (Nat × Nat) :=
  (partsIn a line).foldl (fun r p =>
    let x := p.2.1
    let look (pa : Nat) : Byte := (r.1.reverse.lookup pa).getD (view pa)
    let o := leNat ((List.range x.n).map fun k => look (x.pa + k))
    let v := match a.kind with
      | .cas128 => if o = x.cmp then x.data else o
      | .atom op ty => atomApply op ty o x.data x.cmp
      | _ => o
    (r.1 ++ (List.range x.n).map (fun k => (x.pa + k, BitVec.ofNat 8 (v / 2 ^ (8 * k)))), r.2 ++ [(p.1, o)])) ([], [])

/-- The old values of atomics go to their accesses. -/
def withGot (a : ASet) (got : List (Nat × Nat)) : ASet :=
  { a with accs := got.foldl (fun l g => l.modify g.1 fun x => { x with got := g.2 }) a.accs }

/-- The reductions of a set in a line, one combination for each word (R212). -/
def reduceWords (a : ASet) (op : BitVec 8) (ty : Ty) (line : Nat) (view : Nat → Byte) : List (Nat × Byte) :=
  let ps := partsIn a line
  ((ps.map fun p => p.2.1.pa).dedup).flatMap fun pa =>
    let n := tyWidth ty / 8
    let o := leNat ((List.range n).map fun k => view (pa + k))
    let v := reduceApply op ty o ((ps.filter fun p => p.2.1.pa == pa).map fun p => p.2.1.data)
    (List.range n).map fun k => (pa + k, BitVec.ofNat 8 (v / 2 ^ (8 * k)))

/-- A region access of a span, once no COMMITTING region and no edge holds it back: the marks, values and results (R234). -/
def regionSpan (s : State) (a : ASet) (k b : Nat) : State :=
  let p := a.spans.getD k default
  let lo := spanLo p
  let n := spanLen p
  match a.kind with
  | .load | .gather =>
    let a' := spanDone (gatherSpan a p.line (seenOver s a (regionByte s b))) k 0 always
    markRead (modSet s a.id fun _ => a') b lo n
  | .store =>
    markWrite (modSet s a.id fun _ => spanDone a k 0 always) b p.line (storeBytes a p.line)
  | .redg op ty =>
    let w := reduceWords a op ty p.line (regionByte s b)
    markWrite (markRead (modSet s a.id fun _ => spanDone a k 0 always) b lo n) b p.line w
  | _ =>
    let r := atomicLanes a p.line (regionByte s b)
    markWrite (markRead (modSet s a.id fun _ => spanDone (withGot a r.2) k 0 always) b lo n) b p.line r.1

/-- Reads and writes of a kind for R237. -/
def readsToo (k : SetKind) : Bool := match k with | .store => false | _ => true

/-- The shadow copies a span's pages need first (R348). -/
def shadowSpan (s : State) (a : ASet) (p : Span) : State :=
  match a.accs.find? fun x => x.n != 0 && (partIn x p.line).isSome with
  | some x => shadowBefore s (partyGroup a.party) x.pte x.va x.pa
  | none => s

/-- The victim of a cycle that an access of `b` would close is still aborting: the access is applied again afterwards (R238). -/
def cycleHeld (s : State) (b : Nat) : Bool := s.dom.slots.any fun x => x.state == .aborting && x.cause == 1 && x.by_ == b

/-- The accesses of a set that touch a line. -/
def onLine (line : Nat) (x : Acc) : Bool := (partIn x line).isSome
/-- A region load finds all its words in the spans its region has written: it sends nothing (R234). -/
def ownWords (s : State) (a : ASet) (line b : Nat) : Bool :=
  !storeClass a.kind && (slotAt s b).any fun x => (partsIn a line).all fun q => (List.range q.2.2.2.1).all fun k =>
    (x.wr.lookup (q.2.2.1 + k)).isSome || (a.fwd.lookup (q.2.2.1 + k)).isSome
/-- The page of a region access is usable here, and nothing holds its line. -/
def regionAt (s : State) (a : ASet) (p : Span) : Bool :=
  (if storeClass a.kind then writableHere s (pageOf (spanLo p)) else readableHere s (pageOf (spanLo p))) &&
    !sliceBusy s (partyGroup a.party) (spanLo p) (spanLen p)

/-- A region access at its home slice; it waits for its page or crown (R242), a COMMITTING region, or its edges. -/
def regionAccess (s : State) (a : ASet) (k b : Nat) : State :=
  let p := a.spans.getD k default
  let lo := spanLo p
  let n := spanLen p
  let write := storeClass a.kind
  let pte := spanPte a p
  let gpn := pageOf lo
  if ownWords s a p.line b then
    modSet s a.id fun _ => spanDone (gatherSpan a p.line (seenOver s a (regionByte s b))) k 0 always
  else if write && !writableHere s gpn then
    (if (tagOf s gpn).any fun t => t.transit then s else requestCrown s gpn pte (.set a.id))
  else if !readableHere s gpn || lineAway s p.line then startClimb s gpn p.line pte (.set a.id)
  else if !regionAt s a p || regionHeld s b write lo n || cycleHeld s b then s
  else if !(edgesNeeded s b (readsToo a.kind) write lo n).isEmpty then s
  else match (if readsToo a.kind then poisonAt s p.line else none) with
    | some c => faultAccs s a c 0 0 (onLine p.line)
    | none => regionSpan (if write then shadowSpan s a p else s) a k b

/-! ## Accesses that travel to another package (R161, R194) -/

/-- The operation byte of an access: R210's codes, 0xF0 load, 0xF1 store, 0xF2 CAS128. -/
def queueOp (k : SetKind) : BitVec 8 × Ty :=
  match k with
  | .load | .gather => (0xF0, .b32)
  | .cas128 => (0xF2, .b64)
  | .atom op ty | .redg op ty => (op, ty)
  | _ => (0xF1, .b32)
/-- The operation byte of a remote access: of a reduction, 0x40 above its code. -/
def remoteOp (k : SetKind) : BitVec 8 × Ty :=
  match k with
  | .redg op ty => (op + 0x40, ty)
  | k => queueOp k

/-- The parts of a span, in ascending lane. -/
def partsOf (a : ASet) (line : Nat) : List Part :=
  (partsIn a line).map fun q =>
    let (i, x, lo, n, off) := q
    { acc := i, pa := lo, n := n, data := x.data / 2 ^ (8 * off) % 2 ^ (8 * n), cmp := x.cmp }
/-- Send a span to the home of its page as one request (R149, R161, R194). -/
def sendSpan (s : State) (a : ASet) (k : Nat) : State :=
  let p := a.spans.getD k default
  let o := remoteOp a.kind
  let s := send s (homeAid s (p.line / 512))
    (.remote a.id k o.1 o.2 (partsOf a p.line) (max a.floor (partyLt s a.party)) (storeClass a.kind) (neverCached (spanPte a p)) (pteMirr (spanPte a p)))
  modSet s a.id fun _ => setSpan a k fun p => { p with sent := true, owe := 1 }

/-! ## Home slices (R153 to R155, R162, R163) -/

/-- The bytes of the hub page that holds LPTAB (R359). -/
def hubByte (s : State) (pa : Nat) : Byte := lptabByte s (pa % 65536)

/-- A gather's read of a line that L2 does not hold, at the frame (R208). -/
def frameRead (s : State) (a : ASet) (k : Nat) (t : Tag) : State :=
  let p := a.spans.getD k default
  let f := max a.floor (partyLt s a.party)
  let a := spanDone (gatherSpan a p.line (seenByte s a)) k t.fwt (max t.fle (f + 64))
  modSet (modTag s t.gpn fun t => { t with fle := max t.fle (f + 64) }) a.id fun _ => a

/-- Data of a page may be held in L1: a device page, or a host page over a coherent link, that is not never-cached (R146, R153, R214). -/
def cacheable (s : State) (pa : Nat) (pte : Word) : Bool :=
  !neverCached pte && (devicePage (pageOf pa) || (gpnSpace (pageOf pa) == 0xFFF && hostCoherent s))
/-- The 64-byte host lines that some bytes touch. -/
def hostLinesOf (lo n : Nat) : List Nat := (List.range ((lo + n - 1) / 64 + 1 - lo / 64)).map (lo / 64 + ·)
/-- Cached lines of host memory over a coherent link are then held by this device, and modified where it writes them (R214, R354). -/
def noteHost (s : State) (lo n : Nat) (pte : Word) (wr : Bool) : State :=
  if gpnSpace (pageOf lo) = 0xFFF ∧ hostCoherent s ∧ !neverCached pte then
    let join (l : List Nat) : List Nat := l ++ (hostLinesOf lo n).filter fun k => !l.contains k
    s.modHub fun h => { h with hostLines := join h.hostLines, hostDirty := if wr then join h.hostDirty else h.hostDirty }
  else s

/-- HOME_SLICE_LOAD: perform span `k` of a load set, or set going what it waits for. -/
def sliceLoad (s : State) (a : ASet) (k : Nat) : State :=
  let p := a.spans.getD k default
  let lo := spanLo p
  let n := spanLen p
  let pte := spanPte a p
  let gi := partyGroup a.party
  if a.phase ≠ .ready ∨ p.done ∨ p.sent ∨ a.spans.length ≤ k ∨ storeClass a.kind ∨ a.sram then s
  else if gpnSpace (pageOf lo) = 0xFFD then
    modSet s a.id fun _ => spanDone (gatherSpan a p.line (hubByte s)) k 0 always
  else if behindAtomic s a lo n then s
  else match a.region with
  | some b => regionAccess s a k b
  | none =>
    match (if a.kind = .gather then (tagOf s (pageOf lo)).filter fun t => (crowned t || !t.transit) && lineAway s p.line else none) with
    | some t =>
      if sliceBusy s gi lo n || plainReadHeld s lo n then s
      else match poisonAt s p.line with
        | some c => faultAccs s a c 0 0 (onLine p.line)
        | none => frameRead s a k t
    | none => match readPlace s gi pte lo n (.set a.id) with
      | .wait s => s
      | .remote => sendSpan s a k
      | .here => match poisonAt s p.line with
        | some c => faultAccs s a c 0 0 (onLine p.line)
        | none =>
          let r := performLoad (noteHost s lo n pte false) (coreOfParty s a.party) (cacheable s lo pte) lo n (max a.floor (partyLt s a.party))
          modSet r.1 a.id fun _ => spanDone (gatherSpan a p.line (seenByte s a)) k r.2.1 r.2.2

/-- Pair up the written bytes for `performStore`. -/
def asWrites (l : List (Nat × Byte)) : List (Nat × List Byte) := l.map fun w => (w.1, [w.2])

/-- Perform writes of span `k` of a set here, at the mirror first where the page has one (R195); the span is then done. -/
def writeSpan (s : State) (a : ASet) (k : Nat) (writes : List (Nat × Byte)) : State :=
  let p := a.spans.getD k default
  let lo := spanLo p
  let n := spanLen p
  let m := mirrorFirst s a.id k lo n a.floor (asWrites writes)
  match m.2 with
  | none => modSet m.1 a.id fun _ => setSpan a k fun p => { p with sent := true, owe := 1 }
  | some f =>
    let s := noteHost (shadowSpan m.1 a p) lo n (spanPte a p) true
    let r := performStore s (coreOfParty s a.party) lo n f (asWrites writes)
    modSet (serve r.1 (2, p.line) (partyKey s a.party)) a.id fun _ => spanDone a k r.2 r.2

/-- Store sets that reach a slice in one dc are taken in ascending party key (R154). -/
def storeTurn (s : State) (a : ASet) (line : Nat) : Bool := inTurn s (2, line) (partyKey s a.party)

/-- HOME_SLICE_STORE: perform span `k` of a store set that has left its quadrant. -/
def sliceStore (s : State) (a : ASet) (k : Nat) : State :=
  let p := a.spans.getD k default
  if a.phase ≠ .gone ∨ p.done ∨ p.sent ∨ a.spans.length ≤ k ∨ a.kind ≠ .store ∨ a.sram then s
  else match a.region with
  | some b => regionAccess s a k b
  | none => match writePlace s (partyGroup a.party) (spanPte a p) false (spanLo p) (spanLen p) (.set a.id) with
    | .wait s => s
    | .remote => sendSpan s a k
    | .here => if storeTurn s a p.line then writeSpan s a k (storeBytes a p.line) else s

/-- The time of a new entry: above the floor, the leases, and the entries that wait for its words (R163, R155). -/
def entryTime (s : State) (f lo n : Nat) : Nat :=
  (s.wq.filter (entryMeets lo n)).foldl (fun m e => max m (e.t + 1)) (max f ((rangeTimes s lo n).2 + 1))

/-- A reduction or atomic enters its slice's write queue (R161, R163). A reduction merges into an entry of its operation, type and line
whose time is at least its floor. Answers the state and the entry's time. -/
def enqueue (s : State) (op : BitVec 8) (ty : Ty) (ret : Bool) (line lo n f : Nat) (parts : List Part) (who : Asker) : State × Nat :=
  let asks := if ret || mirroredHere s (line / 512) then [who] else []
  let fits (e : WqEntry) : Bool := !ret && !e.ret && e.line == line && e.op == op && e.ty == ty && f ≤ e.t
  match s.wq.find? fits with
  | some e => ({ s with wq := modFirst fits (fun e => { e with parts := e.parts ++ parts, who := e.who ++ asks }) s.wq }, e.t)
  | none =>
    let t := entryTime s f lo n
    let e := { slice := homeSlice (128 * line), line := line, op := op, ty := ty, ret := ret, t := t, parts := parts, who := asks }
    ({ s with wq := s.wq ++ [e] }, t)
/-- Span `k` of a set enters the queue: a reduction commits at its entry's time, an atomic once its entry is applied. -/
def enqueueSpan (s : State) (a : ASet) (k : Nat) (op : BitVec 8) (ty : Ty) (ret : Bool) : State :=
  let p := a.spans.getD k default
  let s := noteHost (shadowSpan s a p) (spanLo p) (spanLen p) (spanPte a p) true
  let r := enqueue s op ty ret p.line (spanLo p) (spanLen p) a.floor (partsOf a p.line) { src := aid s, id := a.id, k := k }
  let s := serve r.1 (2, p.line) (partyKey s a.party)
  if ret || mirroredHere s (p.line / 512) then modSet s a.id fun _ => setSpan a k fun p => { p with sent := true, owe := 1 }
  else modSet s a.id fun _ => spanDone a k r.2 r.2

/-- The narrow holder a scope names (R162). -/
def narrowFor (s : State) (gi : Nat) (sc : Scope) : Option (Scope × Nat) :=
  match sc with
  | .grp => some (.grp, gi)
  | .team => some (.team, (groupAt s gi).team)
  | _ => none

/-- Make a line narrow in a core's L1, with the slice's times for the whole line (R162). -/
def makeNarrow (s : State) (core line : Nat) (h : Scope × Nat) : State :=
  if (narrowOf s line).isSome then s else l1Install s core (128 * line) 128 (some h)

/-- The party stands inside the narrow holder of a line: its atomics and stores are performed in that L1 (R162). -/
def inNarrow (s : State) (gi : Option Nat) (line : Nat) : Bool := (narrowOf s line).any fun h => insideNarrow s gi h.2
/-- An atomic is performed at once, not in a write queue: in L1 at .grp or .team, by a narrow holder or in a pinned frame; where a
never-cached page is mastered; at the host (R146, R161, R162, R211). -/
def atomicDirect (s : State) (a : ASet) (line : Nat) (pte : Word) : Bool :=
  a.scope == .grp || a.scope == .team || inNarrow s (partyGroup a.party) line || (pinCoreOf s (line / 512)).isSome ||
    neverCached pte || a.scope == .sys
/-- The line an atomic of narrow scope is performed in: made narrow, unless it stands in a pinned frame or is not cached. -/
def narrowed (s : State) (a : ASet) (line : Nat) (pte : Word) : State :=
  match (partyGroup a.party).bind (narrowFor s · a.scope), coreOfParty s a.party with
  | some h, some c =>
    if cacheable s (128 * line) pte && (pinCoreOf s (line / 512)).isNone then makeNarrow s c line h else s
  | _, _ => s
/-- The writes of an atomic or reduction performed at once, with the values it returns. -/
def atomicWrites (s : State) (a : ASet) (line : Nat) : ASet × List (Nat × Byte) :=
  match a.kind with
  | .redg op ty => (a, reduceWords a op ty line (byteAt s.mem))
  | _ => let v := atomicLanes a line (byteAt s.mem); (withGot a v.2, v.1)

/-- HOME_SLICE_ATOMIC: perform span `k` of an atomic, reduction or CAS128 that has left its quadrant. -/
def sliceAtomic (s : State) (a : ASet) (k : Nat) : State :=
  let p := a.spans.getD k default
  let lo := spanLo p
  let n := spanLen p
  let pte := spanPte a p
  let o := queueOp a.kind
  let ret := match a.kind with | .redg _ _ => false | _ => true
  if a.phase ≠ .gone ∨ p.done ∨ p.sent ∨ a.spans.length ≤ k ∨ !isAtomic a.kind ∨ a.sram then s
  else match a.region with
  | some b => regionAccess s a k b
  | none =>
    let gi := partyGroup a.party
    let direct := atomicDirect s a p.line pte
    match writePlace s gi pte (a.scope = .pod) lo n (.set a.id) with
    | .remote => sendSpan s a k
    | .wait s' =>
      let only := !ret && !direct && queued s lo n && !narrowOutside s gi p.line && !mirrorLocked s lo
      if only && (!devicePage (pageOf lo) || (writableHere s (pageOf lo) && !lineAway s p.line)) && !plainWriteHeld s lo n &&
          (plainVictims s lo n).isEmpty && storeTurn s a p.line then
        enqueueSpan s a k o.1 o.2 false
      else s'
    | .here => match poisonAt s p.line with
      | some c => faultAccs s a c 0 0 (onLine p.line)
      | none =>
        if !storeTurn s a p.line then s
        else if direct then
          if (narrowFor s 0 a.scope).isSome && queued s (128 * p.line) 128 then s
          else
            let s := narrowed s a p.line pte
            let w := atomicWrites s a p.line
            writeSpan s w.1 k w.2
        else enqueueSpan s a k o.1 o.2 ret

/-- What an entry writes: the new value of each part or word, and the values the parts return. -/
def entryWrites (e : WqEntry) (view : Nat → Byte) : List (Nat × Byte) × List Nat :=
  let word (pa n : Nat) (v : Nat) : List (Nat × Byte) := (List.range n).map fun k => (pa + k, BitVec.ofNat 8 (v / 2 ^ (8 * k)))
  if e.ret then
    e.parts.foldl (fun r p =>
      let look (pa : Nat) : Byte := (r.1.reverse.lookup pa).getD (view pa)
      let o := leNat ((List.range p.n).map fun k => look (p.pa + k))
      let v := if e.op = 0xF2 then (if o = p.cmp then p.data else o) else atomApply e.op e.ty o p.data p.cmp
      (r.1 ++ word p.pa p.n v, r.2 ++ [o])) ([], [])
  else
    let n := tyWidth e.ty / 8
    (((e.parts.map (·.pa)).dedup).flatMap fun pa =>
      word pa n (reduceApply e.op e.ty (leNat ((List.range n).map fun k => view (pa + k)))
        ((e.parts.filter fun p => p.pa == pa).map (·.data))), [])

/-- The old values of an entry go to whoever awaits it: a set of this package, or another package. -/
def answerAsker (s : State) (e : WqEntry) (got : List Nat) (t : Nat) (w : Asker) : State :=
  match w.gran with
  | some va => send s w.src (.granAck w.k w.id true 0 t va (leBytes 8 (got.headD 0)))
  | none =>
    if w.src = aid s ∧ w.id < noSet then
      modSet s w.id fun a => spanDone (withGot a ((e.parts.map (·.acc)).zip got)) w.k t t
    else send s w.src (.remoteAns w.id w.k (128 * e.line) got t t 0)
/-- The number under which the mirror's answer to an entry comes back. -/
def entryTok (slice : Nat) : Nat := noSet + 2 ^ 40 + slice

/-- WRITE_QUEUE_APPLY: the head entry of a slice's queue is applied (R163, R212): wts ← max(wts, T) and rts ← max(rts, T). -/
def applyQueue (s : State) (slice : Nat) : State :=
  match s.wq.find? fun e => e.slice == slice with
  | none => s
  | some e =>
    let lo := e.parts.foldl (fun m i => min m i.pa) (128 * e.line + 127)
    let n := e.parts.foldl (fun m i => max m (i.pa + i.n)) lo - lo
    if plainWriteHeld s lo n then s
    else if !(plainVictims s lo n).isEmpty then abortVictims s lo n
    else
      let w := entryWrites e (byteAt s.mem)
      let m := mirrorFirst s (entryTok slice) 0 lo n e.t (asWrites w.1)
      match m.2 with
      | none => m.1
      | some t =>
        let s := m.1
        let secs := (w.1.map (·.1 / 32)).dedup
        let s := { s with mem := w.1.foldl (fun m b => setByte m b.1 b.2) s.mem, wq := s.wq.erase e }
        let s := secs.foldl (fun s sec => let o := timesAt s sec; setTimesAt s sec (max o.1 t, max o.2 t)) s
        e.who.foldl (fun s k => answerAsker s e w.2 t k) (wakeLine (noteWrite s lo n) e.line)

/-! ## Team SRAM (R158) -/

def rowTimes (t : Team) (row : Nat) : Nat × Nat := tget (0, 0) t.rows row
def setRow (t : Team) (row : Nat) (v : Nat × Nat) : Team := { t with rows := tset (0, 0) t.rows row v }
def rowsIn (a : ASet) : List Nat := (a.spans.map (·.line)).dedup

/-- A team-SRAM load performed at its head of line: its rows' leases and its bytes (R158). -/
def sramLoad (s : State) (a : ASet) (ti : Nat) : State × ASet × Nat :=
  let t := s.teams.getD ti default
  let c := partyLt s a.party
  let a := (rowsIn a).foldl (fun a r => gatherSpan a r (byteAt t.sram)) a
  let lt := (rowsIn a).foldl (fun m r => max m (rowTimes t r).1) c
  let s := s.modTeam ti fun t => (rowsIn a).foldl (fun t r => setRow t r ((rowTimes t r).1, max (rowTimes t r).2 c)) t
  (s, a, lt)

/-- A store-class set performed in team SRAM: at each row ts = max(f, rts + 1) (R158). -/
def sramStore (s : State) (a : ASet) (ti : Nat) : State :=
  let t := s.teams.getD ti default
  let rows := rowsIn a
  let ts (row : Nat) : Nat := max a.floor ((rowTimes t row).2 + 1)
  let r : List (Nat × Byte) × ASet :=
    rows.foldl (fun acc row => match a.kind with
      | .store => (acc.1 ++ storeBytes a row, acc.2)
      | .redg op ty => (acc.1 ++ reduceWords a op ty row (byteAt t.sram), acc.2)
      | _ => let v := atomicLanes a row (byteAt t.sram); (acc.1 ++ v.1, withGot acc.2 v.2)) ([], a)
  let stamped (p : Span) : Span := { p with done := true, sent := true, wts := ts p.line, rts := ts p.line }
  let a : ASet := { r.2 with spans := r.2.spans.map stamped }
  let s := s.modTeam ti fun t =>
    { rows.foldl (fun t row => setRow t row (ts row, ts row)) t with sram := r.1.foldl (fun m w => setByte m w.1 w.2) t.sram }
  modSet s a.id fun _ => { a with phase := .gone }

/-! ## Commits (R156) -/

/-- The value an access set gives a lane: its pieces, low bytes first. -/
def laneGot (a : ASet) (lane : Nat) : Nat :=
  ((a.accs.filter fun x => x.lane == lane).foldr (fun x (r : Nat) => x.got % 2 ^ (8 * x.n) + 2 ^ (8 * x.n) * r) 0)

/-- The lanes a set answers. -/
def lanesAnswered (a : ASet) : List Nat := (a.accs.map (·.lane)).dedup

/-- The result of a lane set in its registers (R71, R211, R213). -/
def writeDest (a : ASet) (g : Group) : Group :=
  match a.dest with
  | .lane ty vd => mapLanes g (lanesAnswered a) fun i l => writeTy ty l vd.toNat (laneGot a i)
  | .quad vd => mapLanes g (lanesAnswered a) fun i l =>
      (List.range 4).foldl (fun l k => l.setV (vd.toNat + k) (BitVec.ofNat 32 (laneGot a i / 2 ^ (32 * k)))) l
  | .status vd => mapLanes g (lanesAnswered a) fun i l => l.setV vd.toNat (BitVec.ofNat 32 (laneGot a i))
  | _ => g

/-- The windows of a committed set need wait for it no longer. -/
def clearLook (id : Nat) (p : Path) : Path :=
  let ks := p.look.map fun k => if k.set == some id then { k with set := none } else k
  { p with look := ks.filter fun k => 0 < k.left || k.set.isSome }

/-- The set is committed: its counter falls (R215) unless its region still counts it (R241), and it is forgotten. -/
def retireSet (s : State) (a : ASet) : State :=
  let s := dropSet s a.id
  match partyGroup a.party with
  | none => s
  | some gi =>
    let kept := a.region.isSome && a.ifc == 1
    let s := if kept then (match a.region with | some b => modSlot s b fun x => { x with stores := x.stores + 1 } | none => s) else s
    s.modGroup gi fun g =>
      let g := { g with p0 := clearLook a.id g.p0, p1 := g.p1.map (clearLook a.id) }
      if kept ∨ 4 ≤ a.ifc then g else { g with ifc := g.ifc.modify a.ifc (· - 1) }

/-- The load commits: every lease runs at the party's time C; otherwise the spans that do not are renewed with floor C (R156). -/
def leasesRun (a : ASet) (c : Nat) : Bool := a.spans.all fun p => c ≤ p.rts
def renew (s : State) (a : ASet) (c : Nat) : ASet :=
  numberSpans s { a with
    floor := c, fwd := []
    spans := a.spans.map fun p => if p.rts < c then { p with done := false, sent := false, owe := 0 } else p }

/-- A span that takes bytes of a store takes the store's time as their version. -/
def fromStore (st a : ASet) (p : Span) : Span :=
  match st.spans.find? fun q => q.line == p.line && (givers a p.line).contains st.id with
  | some q =>
    if p.owe = 0 then p
    else { p with wts := max p.wts q.wts, rts := min p.rts q.rts, owe := p.owe - 1, done := p.owe == 1 }
  | none => p
/-- A store of a party has committed: the loads that took bytes of it learn its times (R156). -/
def giveForward (s : State) (st : ASet) : State :=
  let one (a : ASet) : ASet :=
    if a.party != st.party || a.fwd.isEmpty then a else { a with spans := a.spans.map (fromStore st a) }
  { s with sets := s.sets.map one }

/-- The largest wts of a set. -/
def setTime (a : ASet) : Nat := a.spans.foldl (fun m p => max m p.wts) 0

end Sys2Proof.Machine
end

