-- ==== Sys2Proof/Machine/LaneMem.lean ====
section
/-! DEFINITION. Lane memory instructions, majors 0x70 to 0x79 (R202 to R204, R207 to R213): addresses, checks, and the access set
each one issues. -/

namespace Sys2Proof.Machine

open Sys2Proof

/-! ## Addresses (R202) -/

/-- DISP: IMM[31:0], or IMM[23:0] where IMM[31:24] is an operation code. -/
def dispOf (maj : Nat) (w : LaneW) : Int :=
  if maj = 0x76 ∨ maj = 0x77 ∨ maj = 0x78 ∨ maj = 0x79 then signedOf 24 w.imm.toNat else signedOf 32 w.imm.toNat

/-- EffAddr in a lane. -/
def effAddr (x : LaneIn) (l : Lane) : Nat :=
  let va := x.w.va
  let base := if 192 ≤ va.toNat then (snapReg x.g va).toNat
    else if x.w.opx.getLsbD 0 && x.row.va == .base && x.maj != 0x72 && x.maj != 0x73 && x.maj != 0x77 then l.vwide 64 va.toNat
    else l.vwide 32 va.toNat
  let idx := if x.maj = 0x74 ∨ x.w.opx.getLsbD 1 then readReg x.g l x.w.vb 32 else 0
  wrapInt 64 ((base + idx : Nat) + dispOf x.maj x.w)

/-- Access width in bytes. -/
def accessBytes (x : LaneIn) : Nat := if x.maj = 0x79 then 16 else tyWidth x.w.ty / 8

/-- Team SRAM majors. -/
def isSram (maj : Nat) : Bool := maj == 0x72 || maj == 0x73 || maj == 0x77
/-- The team's SRAM allocation in bytes (R254). -/
def sramSize (s : State) (g : Group) : Nat := (launchOf s g).record.sram.toNat
/-- The lane's address fails its range check (R204). -/
def rangeFails (x : LaneIn) (va : Nat) : Option Cause :=
  if isSram x.maj then (if sramSize x.s x.g < va + accessBytes x then some Tc.sramRange else none)
  else if 2 ^ 48 ≤ va then some Tc.addrNoncanon else none

/-! ## Operations (R210) -/

def opCode (w : LaneW) : BitVec 8 := w.imm.extractLsb' 24 8

/-- The types an operation lists. -/
def opTypes (op : BitVec 8) : List Ty :=
  if op.toNat ≤ 2 then [.i32, .n32, .i64, .n64, .f32, .f64, .bf16]
  else if op.toNat ≤ 7 then tyB
  else if op.toNat ≤ 9 then [.n32, .n64]
  else []

/-- ATOMIC_OP, then ATOMIC_SCOPE_OP at .sys. -/
def opFails (maj : Nat) (w : LaneW) : Option Cause :=
  let op := opCode w
  if maj = 0x79 then none
  else if 10 ≤ op.toNat ∨ (maj = 0x78 ∧ 6 ≤ op.toNat) ∨ !(opTypes op).contains w.ty then some Tc.atomicOp
  else if w.scope = .sys ∧ !((op = 0 ∧ tyInt w.ty) ∨ op = 6 ∨ op = 7) then some Tc.atomicScopeOp
  else none

/-! ## The checks of R230 -/

/-- The checks on the word: base of LDX, operation, quads, and uses a live region forbids (R235). -/
def memWordFails (x : LaneIn) : Option Cause :=
  if x.maj = 0x74 ∧ x.w.va.toNat < 192 then some Tc.gatherBase
  else match (if x.maj = 0x76 ∨ x.maj = 0x77 ∨ x.maj = 0x78 then opFails x.maj x.w else none) with
  | some c => some c
  | none =>
    if x.maj = 0x79 ∧ (x.w.vd.toNat % 4 ≠ 0 ∨ x.w.vc.toNat % 4 ≠ 0) then some Tc.quadAlign
    else if (x.maj = 0x73 ∨ x.maj = 0x77) ∧ inRegion x.g then some Tc.dominoForbidden
    else none

/-- Acting lanes with their addresses; helper lanes are marked. -/
def laneAddrs (x : LaneIn) : List (Nat × Nat × Bool) :=
  (acting x).map fun i => (i, effAddr x (laneAt x.g i), (laneAt x.g i).helper)

/-- The per-lane checks: range, then natural alignment of atomics; every lane that fails the first failing check (R204). -/
def memChecks (x : LaneIn) : Option LTrap :=
  match memWordFails x with
  | some c => some { cause := c }
  | none =>
    let ls := (laneAddrs x).filter fun a => !a.2.2
    let atomic := x.maj = 0x76 ∨ x.maj = 0x77 ∨ x.maj = 0x78 ∨ x.maj = 0x79
    let range := ls.filter fun a => (rangeFails x a.2.1).isSome
    let align := if atomic then ls.filter fun a => a.2.1 % accessBytes x != 0 else []
    match range, align with
    | a :: r, _ =>
      some { cause := (rangeFails x a.2.1).getD 0, lanes := maskOf ((a :: r).map (·.1)), addr := w64 a.2.1 }
    | [], a :: r => some { cause := Tc.atomicAlign, lanes := maskOf ((a :: r).map (·.1)), addr := w64 a.2.1 }
    | [], [] => none

/-! ## Issue -/

/-- Four registers, or four snapshot fields, as a 128-bit number (R213). -/
def quadOf (x : LaneIn) (l : Lane) (f : LReg) : Nat :=
  (List.range 4).foldl (fun n k => n + readReg x.g l (f + BitVec.ofNat 8 k) 32 * 2 ^ (32 * k)) 0

/-- The accesses of a word: helper lanes only load, and read 0 where their address fails (R204). -/
def memAccs (x : LaneIn) (kind : SetKind) : List Acc :=
  (laneAddrs x).filterMap fun a =>
    let l := laneAt x.g a.1
    if a.2.2 ∧ storeClass kind then none
    else
      let n := if a.2.2 ∧ (rangeFails x a.2.1).isSome then 0 else accessBytes x
      let data := if x.maj = 0x79 then quadOf x l x.w.vc else if storeClass kind then source x l 3 else 0
      let cmp := if x.maj = 0x79 then quadOf x l x.w.vd
        else match kind with | .atom op ty => if op = 7 then readReg x.g l x.w.vd (tyWidth ty) else 0 | _ => 0
      some { lane := a.1, va := a.2.1, pa := 0, n := n, data := data, cmp := cmp, got := 0, done := false, help := a.2.2 }

/-- The access set of a lane word. -/
def laneSet (x : LaneIn) (kind : SetKind) (dest : Dest) (ifc : Nat) : ASet :=
  { id := 0, party := .lane x.gi, kind := kind, sram := isSram x.maj, scope := x.w.scope, pc := x.p.lpc, path1 := x.path1,
    accs := memAccs x kind, spans := [], dest := dest, ifc := ifc, issued := x.s.now, floor := 0, phase := .xlate,
    region := x.g.region, entry := false }

/-- Issue a memory word: its counter rises (R215), a store-class set resets the progress counter (R291), the window names it. -/
def memEff (kind : SetKind) (dest : Dest) (ifc : Nat) (x : LaneIn) : State :=
  let a := laneSet x kind dest ifc
  if a.accs.isEmpty then groupEff (·.g) x
  else
    let g := advance x (some x.s.nextSet) x.g
    let g := { g with ifc := g.ifc.modify ifc (· + 1), prog := if storeClass kind then 0 else g.prog }
    issueSet (x.s.setGroup x.gi g) a

/-- A memory word: the frame of a lane word, the checks above, and a wait while 16 sets are uncommitted (R156). -/
def memExec (maj : Nat) (w : LaneW) (s : State) (kind : SetKind) (dest : Dest) (ifc : Nat) : Out :=
  laneExec maj w s memChecks (fun x => partyFull x.s (.lane x.gi)) (memEff kind dest ifc)

def execLdg (w : LaneW) (s : State) : Out := memExec 0x70 w s .load (.lane w.ty w.vd) 0
def execStg (w : LaneW) (s : State) : Out := memExec 0x71 w s .store .none 1
def execLds (w : LaneW) (s : State) : Out := memExec 0x72 w s .load (.lane w.ty w.vd) 2
def execSts (w : LaneW) (s : State) : Out := memExec 0x73 w s .store .none 2
def execLdx (w : LaneW) (s : State) : Out := memExec 0x74 w s .gather (.lane w.ty w.vd) 3
def execAtomg (w : LaneW) (s : State) : Out := memExec 0x76 w s (.atom (opCode w) w.ty) (.lane w.ty w.vd) 1
def execAtoms (w : LaneW) (s : State) : Out := memExec 0x77 w s (.atom (opCode w) w.ty) (.lane w.ty w.vd) 2
def execRedg (w : LaneW) (s : State) : Out := memExec 0x78 w s (.redg (opCode w) w.ty) .none 1
def execCas128 (w : LaneW) (s : State) : Out := memExec 0x79 w s .cas128 (.quad w.vd) 1

/-! ## PREF (R209) -/

/-- A line of a page held here comes into the L1 of a core, or into its slice. -/
def prefetchLine (s : State) (core line : Nat) (hs : Bool) (sc : Scope) : State :=
  let fill (s : State) : State := if !devicePage (line / 512) || inL2 s line then s else fillL2 (sampleLine s (line / 512) line hs) line
  match sc with
  | .grp => if (heldLine s line).isSome then s else l1Install (fill s) core (128 * line) 128 none
  | .pkg => if (heldLine s line).isSome then s else fill s
  | _ => s
/-- A prefetch (R209) by a core: the page, or a table of its translation, comes here first; a translation that fails drops it, and so does a
page that is never cached. No time or lease changes. -/
def prefetch (s : State) (core c va : Nat) (sc : Scope) : State :=
  let who : Issuer := .pref core c va sc
  if 2 ^ 48 ≤ va then s
  else match (tlbLook s core c va .read).isNone, tableAway s c va with
  | true, some pa =>
    let w := joinWalk s (core / 36) c va
    if w.2 then startClimb w.1 (pageOf pa) (pa / 128) 0 who else s
  | known, _ => match (if known then (translate s c va .read).toOption else tlbLook s core c va .read) with
    | none => s
    | some e =>
      let pa := podAddr e va
      if !cacheable s pa e then s
      else if devicePage (pageOf pa) && !readableHere s (pageOf pa) then startClimb s (pageOf pa) (pa / 128) e who
      else prefetchLine (noteHost s (pa / 128 * 128) 128 e false) core (pa / 128) (bit e.toNat 7) sc

/-- PREF: no trap but its encoding traps, no counter, no lease. -/
def execPref (w : LaneW) (s : State) : Out :=
  laneExec 0x75 w s noTrap noWait fun x =>
    let s := ((laneAddrs x).filter fun a => !a.2.2).foldl (fun s a => prefetch s (x.g.quad / 4) (ctxIx s x.g) a.2.1 w.scope) x.s
    s.setGroup x.gi (advance x none x.g)

end Sys2Proof.Machine
end

