-- ==== Sys2Proof/Machine/Pair.lean ====
section
/-! DEFINITION. Pair words (R53, R54): two sub-ops with the effect of their single-word forms, reading all sources first. -/

namespace Sys2Proof.Machine

open Sys2Proof

/-- The integer and bit majors that may pair (R54). -/
def pairInt : List Nat := [0x01, 0x02, 0x03, 0x10, 0x11]
def pairBits : List Nat := [0x08, 0x09, 0x0A, 0x0B, 0x0C, 0x0D, 0x0E]
def pairFp : List Nat := [0x30, 0x31, 0x32, 0x33, 0x36, 0x37]

/-- The class is allowed for the OP, and its unused bits are 0 (R53, R54 rules 1 and 6). -/
def subOk (u : SubOp) : Bool :=
  let op := u.op.toNat
  u.res0 == 0 &&
    (if pairInt.contains op || pairBits.contains op then u.cls == 0
     else if pairFp.contains op then (u.cls == 1 || u.cls == 2) && !u.sgn
     else op == 0x1A && u.vb == 0 && u.cls != 3 && (u.cls == 0 || !u.sgn))

/-- The type of a sub-op: bit operations read raw words (R53). -/
def subTy (u : SubOp) : Ty :=
  if u.cls = 1 then .f32 else if u.cls = 2 then .bf16
  else if pairBits.contains u.op.toNat then .b32 else if u.sgn then .i32 else .n32

/-- The rounding of FP sub-ops (R53). -/
def pairRnd (r : BitVec 2) : Rnd :=
  match r.toNat with | 0 => .rne | 1 => .rz | 2 => .rdn | _ => .rup

/-- The single-word form of a sub-op; FFMA takes VD as its addend (R53). -/
def subWord (w : PairW) (u : SubOp) : LaneW :=
  { safe := false, look := 0, g := u.g, n := u.n, vd := u.vd, va := u.va, vb := u.vb,
    vc := if u.op = 0x33 then u.vd else 0, ty := subTy u, rnd := pairRnd w.rnd, scope := .grp, i := false,
    opx := if w.sat ∧ (u.op = 0x01 ∨ u.op = 0x02) ∧ u.cls = 0 then 1 else 0, imm := 0 }

/-- The v-registers a sub-op reads. -/
def subSources (u : SubOp) : List Nat :=
  let fs := if u.op = 0x1A then [u.va] else if u.op = 0x33 then [u.va, u.vb, u.vd] else [u.va, u.vb]
  (fs.map (·.toNat)).filter (· < 192)

/-- PAIR_CONFLICT (R54). -/
def pairBad (w : PairW) : Bool :=
  let sa := (subSources w.a).dedup
  let sb := (subSources w.b).dedup
  let all := (sa ++ sb).dedup
  !(subOk w.a && subOk w.b) || w.a.vd.toNat % 4 == w.b.vd.toNat % 4 ||
    ((List.range 4).any fun k => 3 < (all.filter fun r => r % 4 == k).length) ||
    1 < (sa.filter fun r => sb.contains r).length

/-- Step 7 of R63 on the fields of a sub-op. -/
def subFields (regs : Nat) (u : SubOp) : Option Cause :=
  let fs := [(0, u.vd), (1, u.va)] ++ if u.op = 0x1A then [] else [(2, u.vb)]
  fs.findSome? fun f => fieldCheck regs f.1 .r32 1 f.2

/-- What a sub-op computes in a lane, as its single-word form does (R95, R98). -/
def subValue (x : LaneIn) (op : Nat) (l : Lane) : Nat :=
  let t := x.w.ty
  let a := source x l 1
  let b := source x l 2
  let rm := rmArith x.w.rnd
  let fp (v : Fv) : Nat := roundTo t rm false 0 v
  match op with
  | 0x01 => wrapSat t (flag0 x.w) (asInt t a + asInt t b)
  | 0x02 => wrapSat t (flag0 x.w) (asInt t a - asInt t b)
  | 0x03 => a * b
  | 0x08 => a &&& b
  | 0x09 => a ||| b
  | 0x0A => a ^^^ b
  | 0x0B => a &&& (2 ^ 32 - 1 - b)
  | 0x0C => a * 2 ^ (b % 32)
  | 0x0D => a / 2 ^ (b % 32)
  | 0x0E => sra 32 a (b % 32)
  | 0x10 => if asInt t b < asInt t a then b else a
  | 0x11 => if asInt t a < asInt t b then b else a
  | 0x1A => a
  | 0x30 => fp (fvAdd rm (fsrc x l 1) (fsrc x l 2))
  | 0x31 => fp (fvAdd rm (fsrc x l 1) (fsrc x l 2).neg)
  | 0x32 => fp (fvMul (fsrc x l 1) (fsrc x l 2))
  | 0x33 => fp (fvAdd rm (fvMul (fsrc x l 1) (fsrc x l 2)) (fsrc x l 3))
  | 0x36 => fp (fvMinMax false false (fsrc x l 1) (fsrc x l 2))
  | _ => fp (fvMinMax true false (fsrc x l 1) (fsrc x l 2))

/-- One sub-op over the registers before the word: `old` is the group read, `g` the group written. -/
def subEff (x : LaneIn) (u : SubOp) (g : Group) : Group :=
  mapLanes g (actingBy x.g x.p.exec u.g u.n) fun i l =>
    writeTy x.w.ty l u.vd.toNat (subValue x u.op.toNat (laneAt x.g i))

/-- The lane view of a sub-op. -/
def subIn (s : State) (gi : Nat) (g : Group) (path1 : Bool) (w : PairW) (u : SubOp) : LaneIn :=
  { s := s, gi := gi, g := g, path1 := path1, p := pathOf g path1, maj := u.op.toNat, row := rowD u.op.toNat 0,
    w := subWord w u }

/-- A pair word (R53): interlocked on every register of both sub-ops, no safe point, no lookahead. -/
def execPairWord (w : PairW) (s : State) : Out :=
  match s.groups[s.cur]? with
  | none => .next s
  | some g =>
    if !laneMayRun s g s.path1 then .next s
    else if g.frame.isNone && 4096 ≤ g.gap then .next (laneTrap s s.cur g s.path1 Tc.safepointGap)
    else
      let regs := regsOf s g
      let xa := subIn s s.cur g s.path1 w w.a
      let xb := subIn s s.cur g s.path1 w w.b
      let names := subSources w.a ++ subSources w.b ++ [w.a.vd.toNat, w.b.vd.toNat]
      match (subFields regs w.a).or (subFields regs w.b) with
      | some c => .next (laneTrap s s.cur g s.path1 c)
      | none =>
        if pairBad w then .next (laneTrap s s.cur g s.path1 Tc.pairConflict)
        else if xa.p.look.any fun k => 0 < k.left && k.dests.any names.contains then
          .next (laneTrap s s.cur g s.path1 Tc.lookaheadDep)
        else if (owed s s.cur).any names.contains || interlocked { xa with w := { xa.w with look := 0 } } then .next s
        else .next (s.setGroup s.cur (advance { xa with w := { xa.w with look := 0 } } none (subEff xb w.b (subEff xa w.a g))))

end Sys2Proof.Machine
end

