-- ==== Sys2Proof/Machine/LaneCtl.lean ====
section
/-! DEFINITION. Lane control, majors 0xB0 to 0xBA (R280 to R289): votes, divergence, path stacks, joins, calls, exits and the end
of a lane block. -/

namespace Sys2Proof.Machine

open Sys2Proof

/-! ## Paths and joins (R281) -/

/-- The J of a stack entry. -/
def Entry.j : Entry → Nat
  | .join j _ => j
  | .arm _ _ j => j

/-- The join point of a path (R281). -/
def joinPoint (g : Group) (path1 : Bool) : Option Nat :=
  match (pathOf g path1).stack with
  | e :: _ => some e.j
  | [] => if dual g then some g.dualJ else none

/-- Whether the lane word at an offset is a safe point, which a pair word never is (R53): the word after it then lies two on (R55). -/
def safeAt (s : State) (g : Group) (lpc : Nat) : Bool := (laneWordAt s g lpc).any fun w =>
  w.getLsbD 87 && w.extractLsb' 91 5 != 0x1E#5

/-- The single path after both arms have arrived or ended (R281). -/
def mergeArms (s : State) (g : Group) : Group :=
  match g.p1 with
  | none => g
  | some q =>
    if g.p0.arrived && q.arrived then
      { g with
        p0 := { lpc := nextLpc g.dualJ (safeAt s g g.dualJ), exec := (g.p0.exec ||| q.exec) &&& liveLanes g,
                laneSet := liveLanes g, stack := [], look := g.p0.look ++ q.look, arrived := false }
        p1 := none, prog := 0 }
    else g

/-- Arrival at the path's join point; `next` is where a popped JOIN continues. A path popped with no lane in its mask ends, and
arrives at its next join point in turn, going on at J (R281, R288; notes/assumptions/18.md). `fuel` bounds the pops. -/
def arrive (s : State) : Nat → Group → Bool → Nat → Group
  | 0, g, _, _ => g
  | fuel + 1, g, path1, next =>
    let p := pathOf g path1
    match p.stack with
    | .arm lpc mask _ :: r =>
      let g := setPath g path1 { p with lpc := lpc, exec := mask, stack := r }
      if mask = 0 then arrive s fuel g path1 ((joinPoint g path1).getD lpc) else g
    | .join _ mask :: r =>
      let g := { setPath g path1 { p with lpc := next, exec := mask &&& liveLanes g, stack := r } with prog := 0 }
      if mask &&& liveLanes g = 0 then arrive s fuel g path1 ((joinPoint g path1).getD next)
      else g
    | [] => if dual g then mergeArms s (setPath g path1 { p with arrived := true }) else g

/-- A transfer of the whole path. -/
def goto (x : LaneIn) (g : Group) (lpc : Nat) : Group := modPath g x.path1 fun p => { p with lpc := lpc }

/-- The word after this one (R55). -/
def follow (x : LaneIn) : Nat := nextLpc x.p.lpc x.w.safe

/-- Push entries (the first pushed lies deepest) and run at `lpc` with `mask`. -/
def pushRun (x : LaneIn) (g : Group) (es : List Entry) (lpc : Nat) (mask : Mask) : Group :=
  modPath g x.path1 fun p => { p with lpc := lpc, exec := mask, stack := es.reverse ++ p.stack }

/-- A push past 32 entries (R282). -/
def overflows (x : LaneIn) (n : Nat) : Option LTrap :=
  if 32 < x.p.stack.length + n then some { cause := Tc.pathOverflow, lanes := x.p.exec } else none

/-! ## Masks (R23, R282) -/

/-- The lane a helper follows: the lowest-numbered launched lane of its quad in the path's mask. -/
def leadOf (x : LaneIn) (i : Nat) : Option Nat :=
  (List.range 4).map (i - i % 4 + ·) |>.find? fun j => x.p.exec.getLsbD j && voter (laneAt x.g j)

/-- The voters listed with the helpers that follow them. -/
def withHelpers (x : LaneIn) (vs : List Nat) : Mask :=
  maskOf (vs ++ (List.range x.g.lanes.length).filter fun i =>
    x.p.exec.getLsbD i && (laneAt x.g i).helper && (leadOf x i).any vs.contains)

/-- The lane words of the running image. -/
def laneWords (x : LaneIn) : Nat := (imageOf x.s x.g).lwords
/-- The JOIN field of VBR: the 24 bits VA, VB, VC (R280). -/
def joinField (w : LaneW) : Nat := w.va.toNat * 65536 + w.vb.toNat * 256 + w.vc.toNat
/-- The lane offset in IMM. -/
def immTarget (w : LaneW) : Nat := w.imm.toNat % 2 ^ 24

def ctrlGuard (x : LaneIn) : Option LTrap := if x.w.g ≠ 7 ∨ x.w.n then some { cause := Tc.ctrlGuard } else none
def rangeTrap (x : LaneIn) (t : Nat) : Option LTrap :=
  if laneWords x ≤ t then some { cause := Tc.branchRange } else none

/-- A control word: no LPC advance of its own. -/
def ctlExec (maj : Nat) (w : LaneW) (s : State) (own : LaneIn → Option LTrap) (f : LaneIn → Group) : Out :=
  laneExec maj w s own noWait fun x => x.s.setGroup x.gi (f { x with g := advance x none x.g })

/-! ## VBR (R282) -/

def execVbr (w : LaneW) (s : State) : Out :=
  let split (x : LaneIn) : Bool × Bool :=
    ((voting x).isEmpty, (voting x).length == (pathVoters x).length)
  ctlExec 0xB0 w s
    (fun x => (rangeTrap x (immTarget w)).or ((rangeTrap x (joinField w)).or
      (let (nobody, all) := split x
       if nobody || all || (!dual x.g && x.p.stack.isEmpty) then none else overflows x 2)))
    fun x =>
      let (nobody, all) := split x
      if nobody then x.g
      else if all then goto x x.g (immTarget w)
      else
        let take := withHelpers x (voting x)
        let fall := x.p.exec &&& ~~~take
        let j := joinField w
        if !dual x.g && x.p.stack.isEmpty then
          { x.g with
            p0 := { lpc := immTarget w, exec := take, laneSet := take, stack := [], look := [], arrived := false }
            p1 := some { lpc := follow x, exec := fall, laneSet := fall, stack := [], look := [], arrived := false }
            dualJ := j }
        else pushRun x x.g [.join j x.p.exec, .arm (follow x) fall j] (immTarget w) take

def execVjmp (w : LaneW) (s : State) : Out :=
  ctlExec 0xB1 w s (fun x => (ctrlGuard x).or (rangeTrap x (immTarget w))) fun x => goto x x.g (immTarget w)

/-! ## Indirect transfers (R284, R285) -/

/-- The first condition of R284 a byte offset fails: 0 beyond the section, 1 misaligned, 2 not VLAND. -/
def badTarget (x : LaneIn) (off : Nat) : Option Nat :=
  if 12 * laneWords x ≤ off then some 0
  else if off % 12 ≠ 0 then some 1
  else if (laneWordAt x.s x.g (off / 12)).any fun w => w.extractLsb' 88 8 == 0xB7#8 then none else some 2

/-- The acting voters with their byte offsets from VA. -/
def offsets (x : LaneIn) : List (Nat × Nat) := (voting x).map fun i => (i, source x (laneAt x.g i) 1)

/-- BAD_TARGET with the lanes that fail, and the first failing condition (R284). -/
def badTargetTrap (x : LaneIn) : Option LTrap :=
  let fails := (offsets x).filterMap fun o => (badTarget x o.2).map fun c => (o.1, c)
  match (fails.map (·.2)).min? with
  | none => none
  | some c => some { cause := Tc.badTarget, lanes := maskOf (fails.map (·.1)), info := w64 c }

/-- Distinct byte offsets among the acting voters, ascending. -/
def targets (x : LaneIn) : List Nat := sortOn id ((offsets x).map (·.2)).dedup
def armMask (x : LaneIn) (t : Nat) : Mask := withHelpers x (((offsets x).filter fun o => o.2 == t).map (·.1))
/-- Voting lanes of the path whose guard is false. -/
def fallers (x : LaneIn) : List Nat := (pathVoters x).filter fun i => !(voting x).contains i

/-- The arms of VJMPI: acting arms by ascending target, the fall-through arm last (R284). -/
def jmpiArms (x : LaneIn) : List (Nat × Mask) :=
  (targets x).map (fun t => (t / 12, armMask x t)) ++
    if (fallers x).isEmpty then []
    else [(follow x, withHelpers x (fallers x) |||
      maskOf ((List.range x.g.lanes.length).filter fun i =>
        x.p.exec.getLsbD i && (laneAt x.g i).helper && (leadOf x i).isNone))]

def execVjmpi (w : LaneW) (s : State) : Out :=
  ctlExec 0xB2 w s
    (fun x =>
      let n := (jmpiArms x).length
      (if 2 ≤ n then rangeTrap x (immTarget w) else none).or
        ((badTargetTrap x).or (if 2 ≤ n then overflows x n else none)))
    fun x => match jmpiArms x with
      | [] => x.g
      | [a] => goto x x.g a.1
      | a :: r =>
        let j := immTarget w
        pushRun x x.g (.join j x.p.exec :: r.reverse.map fun b => .arm b.1 b.2 j) a.1 a.2

/-- A call: links in acting lanes, then the targets in ascending order; lanes whose guard is false stay in the JOIN entry
(R285). `ts` are the distinct acting targets, `masks` the lanes of each. -/
def callTo (x : LaneIn) (ts : List (Nat × Mask)) : Group :=
  let back := follow x
  let g := mapLanes x.g (acting x) fun _ l => l.setV x.w.vd.toNat (BitVec.ofNat 32 (12 * back))
  match ts with
  | [] => g
  | [t] =>
    if (fallers x).isEmpty then goto x g t.1 else pushRun x g [.join back x.p.exec] t.1 t.2
  | t :: r => pushRun x g (.join back x.p.exec :: r.reverse.map fun b => .arm b.1 b.2 back) t.1 t.2

/-- PATH_OVERFLOW of a call. -/
def callOverflow (x : LaneIn) (n : Nat) : Option LTrap :=
  if n = 0 ∨ (n = 1 ∧ (fallers x).isEmpty) then none else overflows x n

def execVcall (w : LaneW) (s : State) : Out :=
  let arms (x : LaneIn) : List (Nat × Mask) :=
    if (voting x).isEmpty then [] else [(immTarget w, withHelpers x (voting x))]
  ctlExec 0xB3 w s (fun x => (rangeTrap x (immTarget w)).or (callOverflow x (arms x).length)) fun x => callTo x (arms x)

def execVcalli (w : LaneW) (s : State) : Out :=
  ctlExec 0xB4 w s (fun x => (badTargetTrap x).or (callOverflow x (targets x).length))
    fun x => callTo x ((targets x).map fun t => (t / 12, armMask x t))

/-! ## VRET, VJOIN, VLAND, VNOP (R286, R287) -/

/-- The checks of VRET: agreement, then range and alignment. -/
def retChecks (x : LaneIn) : Option LTrap :=
  match offsets x with
  | [] => none
  | o :: r =>
    let off := r.filter fun q => q.2 != o.2
    if !off.isEmpty then some { cause := Tc.retDivergent, lanes := maskOf (off.map (·.1)) }
    else if 12 * laneWords x ≤ o.2 ∨ o.2 % 12 ≠ 0 then some { cause := Tc.branchRange, lanes := maskOf (voting x) }
    else none

def execVret (w : LaneW) (s : State) : Out :=
  ctlExec 0xB5 w s (fun x => (ctrlGuard x).or (retChecks x)) fun x =>
    match offsets x with
    | [] => x.g
    | o :: _ =>
      let n := o.2 / 12
      if joinPoint x.g x.path1 = some n then arrive x.s 70 x.g x.path1 n else goto x x.g n

def execVjoin (w : LaneW) (s : State) : Out :=
  ctlExec 0xB6 w s ctrlGuard fun x =>
    if joinPoint x.g x.path1 = some x.p.lpc then arrive x.s 70 x.g x.path1 (follow x) else x.g

def execVland (w : LaneW) (s : State) : Out := ctlExec 0xB7 w s ctrlGuard (·.g)
def execVnop (w : LaneW) (s : State) : Out := ctlExec 0xBA w s noTrap (·.g)

/-! ## VEXIT and LEND (R276, R288, R289) -/

/-- The end of the running block: the lane lt goes to LSYNC, the next block may start (R160, R289). -/
def endBlock (g : Group) (exec : Mask) : Group :=
  { g with
    block := none, lastExec := some exec, endLt := max g.endLt g.llt, prog := 0
    p0 := { g.p0 with stack := [], look := [], arrived := false }, p1 := none }

/-- The lanes exited by a VEXIT of these lanes: with every launched lane of a quad its helpers (R288). -/
def exiting (g : Group) (ls : List Nat) : List Nat :=
  (List.range g.lanes.length).filter fun i =>
    ls.contains i ||
      ((laneAt g i).helper && (List.range 4).all fun k =>
        let l := laneAt g (i - i % 4 + k)
        !l.launched || l.helper || l.exited || ls.contains (i - i % 4 + k))

def dropMask (m : Mask) : Entry → Entry
  | .join j k => .join j (k &&& ~~~m)
  | .arm lpc k j => .arm lpc (k &&& ~~~m) j

/-- Lanes leave EXEC, LaneSet and every stack entry of both paths. -/
def exitLanes (g : Group) (ls : List Nat) : Group :=
  let m := maskOf ls
  let f (p : Path) : Path := { p with exec := p.exec &&& ~~~m, laneSet := p.laneSet &&& ~~~m, stack := p.stack.map (dropMask m) }
  { mapLanes g ls (fun _ l => { l with exited := true }) with p0 := f g.p0, p1 := g.p1.map f }

/-- The lanes this VEXIT removes. -/
def exitSet (x : LaneIn) : List Nat :=
  (exiting x.g (acting x)).filter fun i => (liveLanes x.g).getLsbD i && !(acting x).isEmpty
/-- No lane of the group would be left. -/
def lastExit (x : LaneIn) : Bool := !(exitSet x).isEmpty && (liveLanes x.g &&& ~~~(maskOf (exitSet x)) == 0)

def execVexit (w : LaneW) (s : State) : Out :=
  laneExec 0xB8 w s (fun x => if inRegion x.g && lastExit x then some { cause := Tc.dominoExit } else none)
    (fun x => lastExit x && !(setsOf x.s (.lane x.gi)).isEmpty)
    fun x =>
      let g := advance x none x.g
      let ls := exitSet x
      let g := if ls.isEmpty then g
        else
          let h := { exitLanes g ls with prog := 0 }
          if liveLanes h = 0 then endBlock h 0
          else if (pathOf h x.path1).exec = 0 then
            arrive x.s 70 h x.path1 ((joinPoint h x.path1).getD (follow x))
          else h
      x.s.setGroup x.gi g

def execLend (w : LaneW) (s : State) : Out :=
  laneExec 0xB9 w s
    (fun x => (ctrlGuard x).or
      (if dual x.g || !x.p.stack.isEmpty then some { cause := Tc.lendDiverged }
       else if inRegion x.g then some { cause := Tc.dominoExit } else none))
    (fun x => !(setsOf x.s (.lane x.gi)).isEmpty)
    fun x => x.s.setGroup x.gi (endBlock (advance x none x.g) x.p.exec)

end Sys2Proof.Machine
end

