-- ==== Sys2Proof/Machine/Queues.lean ====
section
/-! DEFINITION. The queue ports of a group (R32 to R34): team channels, engine queues with the checks of R218 to R221 and the
completion words of R217 and R222, mailbox queries (R332), launch records pushed to q4 (R254, R260, R261), matrix events. -/

namespace Sys2Proof.Machine

open Sys2Proof

/-- A trap of a scalar word: cause, address, TINFO[55:0]. -/
structure STrap where
  cause : Cause
  addr  : Word := 0
  info  : Word := 0
  deriving DecidableEq, Repr

/-- A scalar field that names a port, and its number (R32). -/
def isPort (r : SReg) : Bool := 48 ≤ r.toNat
def portOf (r : SReg) : Nat := r.toNat - 48

/-! ## Engine contexts: numbers, timelines, completion words (R217, R222) -/

def engOf (g : Group) (fab : Bool) : Engine := if fab then g.fabric else g.copy
def setEng (g : Group) (fab : Bool) (e : Engine) : Group := if fab then { g with fabric := e } else { g with copy := e }

/-- The timeline: the largest n such that every command numbered n or below has completed (R164). -/
def climbTl (times : List (Nat × Nat)) : Nat → Nat → Nat
  | 0, n => n
  | fuel + 1, n => if times.any fun t => t.1 == n + 1 then climbTl times fuel (n + 1) else n
/-- A command counts as complete from now on, with its time. -/
def markDone (e : Engine) (num time : Nat) : Engine :=
  let times := e.times ++ [(num, time)]
  { e with times := times, time := climbTl times times.length e.time }

/-- Whether a completion word is needed: CMPL, or a status other than 0 (R222). -/
def needsWord (c : EngCmd) : Bool := bit ((c.words.getD 0 0).toNat) 18 || c.stat != 0
/-- Commands with more to do than to give their completion word (R217). -/
def cmdsLeft (e : Engine) : Bool := e.cmds.any fun c => !(c.fin && c.acks == 0)
/-- The completion word (R222). -/
def completionWord (c : EngCmd) : Word :=
  w64 (c.num % 2 ^ 40 * 2 ^ 24 + c.stat.toNat * 2 ^ 16 + bits (c.words.getD 0 0).toNat 47 32)

/-- Put the oldest held completion words into the queue while it has room; their commands then count as complete. -/
def refill (e : Engine) : Nat → Engine
  | 0 => e
  | fuel + 1 => match e.held with
    | [] => e
    | (num, time, w) :: r =>
      if 16 ≤ e.words.length then e
      else refill (markDone { e with words := e.words ++ [w], held := r } num time) fuel

/-- Pop a completion word: one with a nonzero status ends the halt (R222). -/
def popEngine (e : Engine) : Option (Engine × Word) :=
  match e.words with
  | [] => none
  | w :: r =>
    let e := { e with words := r, halted := e.halted && bits w.toNat 23 16 == 0 }
    some (refill e 16, w)

/-! ## Engine command words (R218 to R221) -/

/-- Argument words of an opcode of a queue. -/
def engineNw (fab : Bool) (opc : Nat) : Option Nat :=
  if fab then (match opc with | 0x11 => some 4 | 0x12 => some 3 | 0x13 => some 5 | 0x14 => some 1 | _ => none)
  else (match opc with | 0x01 => some 3 | 0x02 => some 3 | 0x03 => some 4 | 0x04 => some 4 | _ => none)

def hdrSsram (h : Nat) : Bool := bit h 16
def hdrDsram (h : Nat) : Bool := bit h 17
def hdrCnt (h : Nat) : Bool := bit h 19

/-- ENGINE_FIELD of a header (notes/assumptions/24.md: CNT is refused for GET and ATOM). -/
def headerBad (opc h nw : Nat) : Bool :=
  bits h 63 48 != 0 || bits h 15 11 != 0 || bits h 10 8 != nw || (!hdrCnt h && bits h 31 20 != 0) ||
    (opc == 0x02 && hdrSsram h) || (opc == 0x14 && !hdrCnt h) || ((opc == 0x12 || opc == 0x13) && hdrCnt h)

/-- ENGINE_FIELD of argument word `k`. -/
def argField (opc h k x : Nat) (ws : List Nat) : Bool :=
  (opc == 0x04 && ((k == 3 && bits x 63 32 != 0) || (k == 4 && bits x 63 4 != 0))) ||
    (opc == 0x11 && k == 4 && (if hdrCnt h then bits x 63 10 != 0 else x != 0)) ||
    (opc == 0x13 && k == 5 && (bits x 63 9 != 0 || 10 ≤ x % 256 || (x % 256 != 7 && ws.getD 4 0 != 0))) ||
    (opc == 0x14 && k == 1 && bits x 31 10 != 0)

/-- What argument word `k` names: an address with its alignment and whether it is a team-SRAM offset. -/
def argAddr (opc h k : Nat) : Option (Nat × Bool) :=
  match opc, k with
  | 0x01, 1 | 0x03, 1 => some (1, hdrSsram h)
  | 0x01, 2 | 0x03, 2 => some (1, hdrDsram h)
  | 0x02, 2 => some (8, hdrDsram h)
  | 0x04, 1 => some (32, hdrSsram h)
  | 0x04, 2 => some (32, hdrDsram h)
  | 0x11, 1 => some (1, hdrSsram h)
  | 0x11, 2 | 0x12, 1 => some (1, false)
  | 0x12, 2 => some (1, hdrDsram h)
  | 0x13, 1 => some (8, false)
  | 0x13, 2 => some (8, hdrDsram h)
  | _, _ => none

/-- ENGINE_LENGTH of argument word `k`; `ws` are the words before it. -/
def argLength (opc k x : Nat) (ws : List Nat) : Bool :=
  let low := x % 2 ^ 32
  match opc, k with
  | 0x01, 3 | 0x11, 3 | 0x12, 3 => x == 0 || 2 ^ 32 < x
  | 0x02, 3 => x < 8 || 2 ^ 32 < x || x % 8 != 0
  | 0x03, 3 => low == 0 || 2 ^ 24 < low || x / 2 ^ 32 == 0 || 2 ^ 20 < x / 2 ^ 32
  | 0x03, 4 => low < ws.getD 3 0 % 2 ^ 32 || x / 2 ^ 32 < ws.getD 3 0 % 2 ^ 32
  | 0x04, 3 => low == 0 || 2 ^ 24 < low
  | _, _ => false

/-- The last byte plus one of the team-SRAM ranges that are complete with word `k` (R219, R221). -/
def argRanges (opc h k : Nat) (ws : List Nat) : List Nat :=
  let w (i : Nat) : Nat := ws.getD i 0
  let rb := w 3 % 2 ^ 32
  let rows := w 3 / 2 ^ 32
  let when (c : Bool) (e : Nat) : List Nat := if c then [e] else []
  match opc, k with
  | 0x01, 3 => when (hdrSsram h) (w 1 + w 3) ++ when (hdrDsram h) (w 2 + w 3)
  | 0x02, 3 => when (hdrDsram h) (w 2 + w 3)
  | 0x03, 4 => when (hdrSsram h) (w 1 + (rows - 1) * (w 4 % 2 ^ 32) + rb) ++
      when (hdrDsram h) (w 2 + (rows - 1) * (w 4 / 2 ^ 32) + rb)
  | 0x04, 3 => when (hdrSsram h) (w 1 + 256 * rb)
  | 0x04, 4 => when (hdrDsram h && 2 ≤ w 4 && w 4 ≤ 8) (w 2 + 32 * w 4 * rb)
  | 0x11, 3 => when (hdrSsram h) (w 1 + w 3)
  | 0x12, 3 => when (hdrDsram h) (w 2 + w 3)
  | 0x13, 2 => when (hdrDsram h) (w 2 + 8)
  | _, _ => []

/-- ENGINE_OVERLAP: team-SRAM source and destination rows that share a byte (R219). -/
def argOverlap (opc h k : Nat) (ws : List Nat) : Bool :=
  let w (i : Nat) : Nat := ws.getD i 0
  if !(hdrSsram h && hdrDsram h) then false
  else match opc, k with
  | 0x01, 3 => w 1 < w 2 + w 3 && w 2 < w 1 + w 3
  | 0x03, 4 =>
    let rb := w 3 % 2 ^ 32
    let rows := List.range (w 3 / 2 ^ 32)
    rows.any fun i => rows.any fun j =>
      let a := w 1 + i * (w 4 % 2 ^ 32)
      let b := w 2 + j * (w 4 / 2 ^ 32)
      a < b + rb && b < a + rb
  | _, _ => false

/-- The checks of R221 on the next word of an engine context, in order. -/
def engineCheck (s : State) (g : Group) (fab : Bool) (x : Word) : Option Cause :=
  let e := engOf g fab
  let v := x.toNat
  if e.halted then some Tc.engineHalted
  else if fab ∧ s.hub.stnUp = 0 then some Tc.fabricAbsent
  else match e.partWords with
  | [] => match engineNw fab (v % 256) with
    | none => some Tc.engineOpcode
    | some nw => if headerBad (v % 256) v nw then some Tc.engineField else none
  | hd :: _ =>
    let h := hd.toNat
    let opc := h % 256
    let k := e.partWords.length
    let ws := e.partWords.map (·.toNat) ++ [v]
    let align := (argAddr opc h k).any fun a => v % a.1 != 0 || (!a.2 && 2 ^ 48 ≤ v)
    let aidBad := if (opc == 0x11 && k == 4 && hdrCnt h) || (opc == 0x14 && k == 1)
      then podSize s ≤ v % 1024 || s.am.lost.contains (v % 1024) else false
    if argField opc h k v ws then some Tc.engineField
    else if align then some Tc.engineAlign
    else if argLength opc k v ws then some Tc.engineLength
    else if (argRanges opc h k ws).any fun r => (launchOf s g).record.sram.toNat < r then some Tc.engineSram
    else if argOverlap opc h k ws then some Tc.engineOverlap
    else if aidBad then some Tc.engineAid
    else if opc = 0x04 ∧ k = 4 ∧ ¬(2 ≤ v ∧ v ≤ 8) then some Tc.engineBpn
    else none

/-- Words a context has taken and not begun to carry out (R217). -/
def undecoded (e : Engine) : Nat :=
  e.partWords.length + (e.cmds.filter fun c => !c.began).foldl (fun n c => n + c.words.length) 0

/-- Take a checked word in dc `cyc`: the header numbers the command, the last word hands it over with the pusher's lt (R160, R217). -/
def pushEngine (e : Engine) (fab : Bool) (lt cyc : Nat) (x : Word) : Engine :=
  let ws := e.partWords ++ [x]
  let nw := (engineNw fab ((ws.getD 0 0).toNat % 256)).getD 0
  let e := if e.partWords.isEmpty then { e with next := e.next + 1 } else e
  if ws.length = nw + 1 then
    { e with
      partWords := []
      cmds := e.cmds ++ [{ num := e.next, words := ws, lt := lt, prog := 0, began := false, acks := 0, time := lt, stat := 0, fin := false,
                              since := cyc }] }
  else { e with partWords := ws }

/-! ## Launch records (R254, R260, R261) -/

def okWidth (w : Nat) : Bool := w == 8 || w == 16 || w == 32 || w == 64

/-- Doubleword `k` of a kernel or ragged record fails the fields of R254 it completes; `ws` are words 0 to k. A word of a
wait-only record has only its own fields. `built` demands STATUS 0 and KIND 1 or 2 (R260). -/
def recordWordBad (built : Bool) (k : Nat) (ws : List Nat) : Bool :=
  let x := ws.getD k 0
  let w0 := ws.getD 0 0
  let kind := w0 % 256
  let flags := bits w0 47 40
  let width := bits w0 15 8
  let regs := bits w0 23 16
  let groups := bits w0 39 32
  if kind = 3 then
    match k with
    | 0 => built || flags / 4 != 0 || bits w0 63 60 != 0 || bits w0 39 8 != 0
    | 6 => bit flags 1 == false && x != 0
    | _ => x != 0
  else match k with
  | 0 => kind == 0 || 3 < kind || !okWidth width || regs % 4 != 0 || regs < 4 || 192 < regs || 96 < bits w0 31 24 ||
      groups == 0 || 32 < groups || 8 ≤ flags || bits w0 63 60 != 0 || (built && bits w0 55 48 != 0)
  | 1 => 2 ^ 48 ≤ x || x % 256 != 0
  | 2 => (kind == 2 && (x % 2 ^ 32 == 0 || 2 ^ 20 < x % 2 ^ 32)) || width * groups < x / 2 ^ 32
  | 3 =>
    let sram := x % 2 ^ 32
    let rows := bits x 47 32
    let dog := bits x 55 48
    sram % 256 != 0 || 524288 < sram || (if kind = 2 then rows == 0 else rows != 0) ||
      !(dog == 0 || (16 ≤ dog && dog ≤ 40)) || bits x 63 56 != 0
  | 4 => 2 ^ 48 ≤ x || x % 16 != 0
  | 5 => 2 ^ 48 ≤ x / 256 * 256
  | 6 => bit flags 1 == false && x != 0
  | _ => if kind = 2 then 2 ^ 48 ≤ x || x % 16 != 0 else x != 0

/-- The checks of a push to q4: the record word, then the build depth on the first word. -/
def recordCheck (s : State) (g : Group) (x : Word) : Option STrap :=
  let k := g.q4.length
  if recordWordBad true k ((g.q4 ++ [x]).map (·.toNat)) then some { cause := Tc.launchRecord, info := w64 k }
  else if k = 0 ∧ 4 ≤ (launchOf s g).depth then some { cause := Tc.launchDepth }
  else none

/-- The checks of a push into the group's own port `q`, with the words before it pushed. -/
def ownCheck (s : State) (g : Group) (q : Nat) (x : Word) : Option STrap :=
  match q with
  | 0 => (engineCheck s g false x).map fun c => { cause := c }
  | 1 => (engineCheck s g true x).map fun c => { cause := c }
  | 3 => if x.toNat / 2 ^ 14 ≠ 0 then some { cause := Tc.mbxQuery } else none
  | 4 => recordCheck s g x
  | _ => none

/-- Records a group has pushed that the CP has not read. -/
def q4Words (s : State) (gi : Nat) (g : Group) : Nat :=
  g.q4.length + 8 * (s.built.filter fun b => b.g == gi && b.launch == launchIx s g).length

/-- Push a word to q4; the eighth hands the record to the CP with the pusher's lt (R160, R260), as the next record of the launch (R261). -/
def pushRecord (s : State) (gi : Nat) (g : Group) (x : Word) : State :=
  let ws := g.q4 ++ [x]
  if ws.length = 8 then
    let l := launchIx s g
    let run := (launchOf s g).replays
    let b : Built :=
      { ctx := ctxIx s g, launch := l, order := (launchOf s g).built, words := ws, lt := g.slt, g := gi, run := run }
    { (s.modGroup gi fun g => { g with q4 := [] }).modLaunch l fun l => { l with built := l.built + 1 } with built := s.built ++ [b] }
  else s.modGroup gi fun g => { g with q4 := ws }

/-! ## Pops -/

/-- A team channel (R33). -/
def chanOf (s : State) (g : Group) (k : Nat) : List (Word × Nat × Nat) := (teamOf s g).chans.getD k []

/-- The team's number of a channel, as a resource of one dc (R34). -/
def chanKey (g : Group) (q : Nat) : Nat := 8 * g.team + (q - 8)
/-- A load of another group of the team is to pop a channel when it commits (R9, R34). -/
def popClaimed (s : State) (gi q : Nat) : Bool :=
  s.sets.any fun a => a.pops.any (fun r => portOf r == q) && (partyGroup a.party).any fun k =>
    k != gi && (groupAt s k).team == (groupAt s gi).team

/-- Pop one word: what it gives, and what the word's release carries (R160). None while the port holds no word the group may
take: a channel word counts from the dc after its push, and groups take words of one dc in ascending number (R34). -/
def popPort (s : State) (gi q : Nat) : Option (State × Word) :=
  let g := groupAt s gi
  match q with
  | 0 => (popEngine g.copy).map fun r => (s.setGroup gi { g with copy := r.1 }, r.2)
  | 1 => (popEngine g.fabric).map fun r => (s.setGroup gi { g with fabric := r.1 }, r.2)
  | 3 => match g.q3 with
    | [] => none
    | w :: r => some (s.setGroup gi { g with q3 := r ++ g.q3owed.take 1, q3owed := g.q3owed.drop 1 }, w)
  | 5 => match g.q5 with
    | [] => none
    | w :: r => some (s.setGroup gi { g with q5 := r, slt := max g.slt w.2 }, w.1)
  | _ =>
    if 8 ≤ q then
      match chanOf s g (q - 8) with
      | [] => none
      | w :: r =>
        if w.2.2 < s.now ∧ !popClaimed s gi q ∧ inTurn s (1, chanKey g q) g.gid then
          let s := (serve s (1, chanKey g q) g.gid).modTeam g.team fun t => { t with chans := t.chans.set (q - 8) r }
          some (s.modGroup gi fun g => { g with slt := max g.slt w.2.1 }, w.1)
        else none
    else none

/-! ## Pushes -/

/-- Words on their way to a port from a group (R156): pushed by words that have issued. -/
def flying (s : State) (gi q : Nat) : List Word :=
  s.sets.filterMap fun a => match a.kind with
    | .push k x => if k == q && a.phase == .ready && a.party == .scalar gi then some x else none
    | _ => none

/-- A word reaches its port; a channel word carries the pusher's lt (R160). -/
def pushPort (s : State) (gi q : Nat) (x : Word) : State :=
  let g := groupAt s gi
  match q with
  | 0 => s.setGroup gi { g with copy := pushEngine g.copy false g.slt s.now x }
  | 1 => s.setGroup gi { g with fabric := pushEngine g.fabric true g.slt s.now x }
  | 3 => s.setGroup gi { g with q3asked := g.q3asked ++ [x] }
  | 4 => pushRecord s gi g x
  | _ =>
    (serve s (0, chanKey g q) g.gid).modTeam g.team fun t =>
      { t with chans := t.chans.modify (q - 8) (· ++ [(x, g.slt, s.now)]) }
/-- The state once the words on their way to a port have reached it: what a further word of the stream finds. -/
def landed (s : State) (gi q : Nat) : State := (flying s gi q).foldl (fun s x => pushPort s gi q x) s
/-- The group once every word it has pushed has reached its port. -/
def landedGroup (s : State) (gi : Nat) : Group := groupAt (landed (landed (landed s gi 0) gi 1) gi 4) gi

/-- Room for one word behind those on their way (R34, R217, R260, R332); a channel's room is shared by the groups of the team. -/
def pushRoom (s : State) (gi q : Nat) : Bool :=
  let t := landed s gi q
  let g := groupAt t gi
  match q with
  | 0 => undecoded g.copy < 32
  | 1 => undecoded g.fabric < 32
  | 3 => g.q3.length + g.q3owed.length + g.q3asked.length < 64
  | 4 => q4Words t gi g < 64
  | _ => 8 ≤ q && (chanOf s g (q - 8)).length + ((teamOf s g).groups.map fun k => (flying s k q).length).sum < 32

/-- The checks a word pushed to a port must pass. -/
def pushCheck (s : State) (gi q : Nat) (x : Word) : Option STrap :=
  let t := landed s gi q
  ownCheck t (groupAt t gi) q x

/-- A word leaves for a port (R156): an access set of the scalar party, in effect once the strike window and the earlier sets are over. -/
def sendPush (s : State) (gi q pc issued : Nat) (x : Word) : State :=
  addSet s
    { id := 0, party := .scalar gi, kind := .push q x, sram := false, scope := .grp, pc := pc, path1 := false, accs := [], spans := [],
      dest := .none, ifc := 4, issued := issued, floor := 0, phase := .ready, region := none, entry := false }

/-- QUEUE_RESERVED, then QUEUE_DIRECTION (R33, R63 step 11), over the source fields and the destination. -/
def portFails (srcs : List SReg) (dst : Option SReg) : Option Cause :=
  let named := (srcs ++ dst.toList).filter isPort
  if named.any fun r => portOf r == 2 || portOf r == 6 || portOf r == 7 then some Tc.queueReserved
  else if (srcs.any fun r => isPort r && portOf r == 4) || (dst.any fun r => isPort r && portOf r == 5) then
    some Tc.queueDirection
  else none

end Sys2Proof.Machine
end

