-- ==== Sys2Proof/Machine/Scalar.lean ====
section
/-! DEFINITION. The frame of a scalar instruction (R24, R25, R32, R34, R63, R93): what it waits for, the ports it pops and pushes,
its result; and the scalar integer instructions (R45, R48, R92, R93). -/

namespace Sys2Proof.Machine

open Sys2Proof

/-- What the effect of a scalar word answers: the state with the result and where SPC goes (none: the next word), a trap, or a
wait that leaves the word unissued. -/
inductive ScalRes where
  | done (s : State) (v : Option Word) (next : Option Word)
  | trap (t : STrap)
  | hold (s : State)

/-- What a scalar effect sees: the state with the ports popped, the group as it then stands, and the state before the pops, which a
word that waits leaves as it is. -/
structure ScalIn where
  s  : State
  gi : Nat
  g  : Group
  s0 : State

/-- A blocking wait of the scalar stream begins (R267): it restarts the safe-point count (R292). -/
def enterWait (s : State) (gi : Nat) : State :=
  s.modGroup gi fun g => if g.wait = .none then { g with wait := .scalar, gap := 0 } else g

/-- A scalar word: the source fields in reading order, its destination, its length in bytes (8 behind a LIMM), the checks of R63
step 6 and the later encoding checks, what holds it without a blocking wait, its own blocking wait (R267), and its effect on the
source values. -/
structure ScalOp where
  srcs : List SReg
  dst  : Option SReg
  len  : Nat := 4
  pre  : Option Cause := none
  own  : ScalIn → Option STrap := fun _ => none
  hold : ScalIn → Bool := fun _ => false
  wait : ScalIn → Bool := fun _ => false
  eff  : ScalIn → List Word → ScalRes

/-- The group may issue a scalar word: it is resident and not stopped. -/
def scalarMayRun (g : Group) : Bool := !g.retired && !g.exiting && g.pend.isNone && !g.saved && !(g.reached && g.frame.isNone)

/-- Lane blocks enqueued and not ended (R24). -/
def blocksOutstanding (g : Group) : Bool := g.block.isSome || !g.queue.isEmpty

/-- A register that a lane block may still write with VTOS (R25). -/
def vtosPending (s : State) (g : Group) (r : SReg) : Bool :=
  r.toNat < 48 && blocksOutstanding g && (imageOf s g).vtos.getLsbD r.toNat

/-- A register that an uncommitted scalar load still writes. -/
def loadPending (s : State) (gi : Nat) (r : SReg) : Bool :=
  (setsOf s (.scalar gi)).any fun a => match a.dest with | .sreg d _ _ => d == r | _ => false

/-- An uncommitted scalar load still writes some register or port. -/
def anyLoadPending (s : State) (gi : Nat) : Bool :=
  (setsOf s (.scalar gi)).any fun a => match a.dest with | .sreg _ _ _ => true | _ => false

/-- The waits of every scalar word: registers it names, sets a trap or park may still stop, and, for a push, room among the 16 sets of its
party (R156). -/
def scalarHeld (s : State) (gi : Nat) (g : Group) (o : ScalOp) : Bool :=
  ((o.srcs ++ o.dst.toList).any fun r => vtosPending s g r || loadPending s gi r) ||
    ((setsOf s (.scalar gi)).any fun a => unsettled a) || (o.dst.any isPort && partyFull s (.scalar gi))

/-- Read the source fields in order: registers, and one word popped from each port named (R32, R34). -/
def readSources (gi : Nat) : List SReg → State → Option (State × List Word)
  | [], s => some (s, [])
  | r :: rest, s =>
    if isPort r then
      match popPort s gi (portOf r) with
      | none => none
      | some (s, w) => (readSources gi rest s).map fun x => (x.1, w :: x.2)
    else (readSources gi rest s).map fun x => (x.1, sreg (groupAt s gi) r.toNat :: x.2)

/-- Write the destination, and move SPC. -/
def writeResult (gi : Nat) (o : ScalOp) (s : State) (v : Option Word) (next : Option Word) : State :=
  let s := match o.dst, v with
    | some d, some x =>
      if isPort d then sendPush s gi (portOf d) (groupAt s gi).spc.toNat s.now x else s.modGroup gi fun g => setSreg g d.toNat x
    | _, _ => s
  s.modGroup gi fun g => { g with spc := next.getD (g.spc + BitVec.ofNat 64 o.len), wait := .none }

/-- The push of a result into a port, checked (R218, R260, R332). -/
def resultFails (gi : Nat) (o : ScalOp) (s : State) (v : Option Word) : Option STrap :=
  match o.dst, v with
  | some d, some x => if isPort d then pushCheck s gi (portOf d) x else none
  | _, _ => none

/-- A region live on the group holds every push (R236). -/
def regionHolds (s : State) (g : Group) (o : ScalOp) : Bool := (o.dst.any isPort) && regionLive s g
/-- The port pushed has no room (R34). -/
def noRoom (s : State) (gi : Nat) (o : ScalOp) : Bool := o.dst.any fun d => isPort d && !pushRoom s gi (portOf d)

/-- A scalar instruction: its checks in the order of R63, its waits, its ports all at once, its effect. -/
def scalExec (o : ScalOp) (s : State) : Out :=
  match s.groups[s.cur]? with
  | none => .next s
  | some g =>
    let gi := s.cur
    if !scalarMayRun g then .next s
    else
      let x : ScalIn := { s := s, gi := gi, g := g, s0 := s }
      match o.pre.or (portFails o.srcs o.dst) with
      | some c => .next (scalarTrap s gi g c)
      | none => match o.own x with
        | some t => .next (scalarTrap s gi g t.cause t.addr t.info)
        | none =>
          if scalarHeld s gi g o || o.hold x || regionHolds s g o then .next s
          else if noRoom s gi o || o.wait x then .next (enterWait s gi)
          else match readSources gi o.srcs s with
            | none => .next (enterWait s gi)
            | some (s1, vs) =>
              match o.eff { s := s1, gi := gi, g := groupAt s1 gi, s0 := s } vs with
              | .trap t => .next (scalarTrap s gi g t.cause t.addr t.info)
              | .hold s2 => .next s2
              | .done s2 v next => match resultFails gi o s2 v with
                | some t => .next (scalarTrap s gi g t.cause t.addr t.info)
                | none => .next (writeResult gi o s2 v next)

/-- A word that only computes. -/
def pureEff (f : List Word → Word) (x : ScalIn) (vs : List Word) : ScalRes := .done x.s (some (f vs)) none
def arg (vs : List Word) (i : Nat) : Word := vs.getD i 0

/-- A register-register operation. -/
def alu2 (d a b : SReg) (f : Word → Word → Word) (s : State) : Out :=
  scalExec { srcs := [a, b], dst := some d, eff := pureEff fun vs => f (arg vs 0) (arg vs 1) } s
/-- A register-immediate operation on an extended immediate (R45). -/
def siAlu (d a : SReg) (imm : Word) (len : Nat) (f : Word → Word → Word) (s : State) : Out :=
  scalExec { srcs := [a], dst := some d, len := len, eff := pureEff fun vs => f (arg vs 0) imm } s

/-- imm14 sign-extended (R45). -/
def imm14 (imm : BitVec 14) : Word := imm.signExtend 64

/-! ## Operations (R92) -/

def opSmulh (u : Bool) (a b : Word) : Word :=
  if u then w64 (a.toNat * b.toNat / 2 ^ 64) else BitVec.ofInt 64 (a.toInt * b.toInt / (2 ^ 64 : Nat))
def opSdiv (u : Bool) (a b : Word) : Word := w64 (intDiv 64 (!u) a.toNat b.toNat).1
def opSrem (u : Bool) (a b : Word) : Word := w64 (intDiv 64 (!u) a.toNat b.toNat).2
def opSshl (a b : Word) : Word := a <<< (b.toNat % 64)
def opSshr (a b : Word) : Word := a >>> (b.toNat % 64)
def opSsra (a b : Word) : Word := a.sshiftRight (b.toNat % 64)
def opSmin (u : Bool) (a b : Word) : Word := if (if u then a.ult b else a.slt b) then a else b
def opSmax (u : Bool) (a b : Word) : Word := if (if u then a.ult b else a.slt b) then b else a
/-- The U flag of a register form. -/
def uFlag (u : BitVec 1) : Bool := u == 1

def execSaddReg (d a b : SReg) (s : State) : Out := alu2 d a b (· + ·) s
def execSsub (d a b : SReg) (s : State) : Out := alu2 d a b (· - ·) s
def execSmulReg (d a b : SReg) (s : State) : Out := alu2 d a b (· * ·) s
def execSmulh (d a b : SReg) (u : BitVec 1) (s : State) : Out := alu2 d a b (opSmulh (uFlag u)) s
def execSdivReg (d a b : SReg) (u : BitVec 1) (s : State) : Out := alu2 d a b (opSdiv (uFlag u)) s
def execSremReg (d a b : SReg) (u : BitVec 1) (s : State) : Out := alu2 d a b (opSrem (uFlag u)) s
def execSandReg (d a b : SReg) (s : State) : Out := alu2 d a b (· &&& ·) s
def execSorReg (d a b : SReg) (s : State) : Out := alu2 d a b (· ||| ·) s
def execSxorReg (d a b : SReg) (s : State) : Out := alu2 d a b (· ^^^ ·) s
def execSshlReg (d a b : SReg) (s : State) : Out := alu2 d a b opSshl s
def execSshrReg (d a b : SReg) (s : State) : Out := alu2 d a b opSshr s
def execSsraReg (d a b : SReg) (s : State) : Out := alu2 d a b opSsra s
def execSminReg (d a b : SReg) (u : BitVec 1) (s : State) : Out := alu2 d a b (opSmin (uFlag u)) s
def execSmaxReg (d a b : SReg) (u : BitVec 1) (s : State) : Out := alu2 d a b (opSmax (uFlag u)) s

/-- SCMP: 1 where the condition holds (R46); a reserved condition traps. -/
def execScmp (d a b : SReg) (c : BitVec 3) (s : State) : Out :=
  scalExec { srcs := [a, b], dst := some d, pre := if (condOf c).isNone then some Tc.condReserved else none,
             eff := pureEff fun vs => if condCode c (arg vs 0) (arg vs 1) then 1 else 0 } s

/-- SSEL reads sd first; a port in sd traps SD_QUEUE before any port is touched (R93). -/
def execSsel (d a b : SReg) (s : State) : Out :=
  scalExec { srcs := [a, b], dst := some d,
             own := fun _ => if isPort d then some { cause := Tc.sdQueue } else none,
             eff := fun x vs => .done x.s (some (if sreg x.g d.toNat != 0 then arg vs 0 else arg vs 1)) none } s

def execSmovReg (d a : SReg) (s : State) : Out :=
  scalExec { srcs := [a], dst := some d, eff := pureEff fun vs => arg vs 0 } s

/-- SMOV of an immediate. -/
def siMov (d : SReg) (imm : Word) (len : Nat) (s : State) : Out :=
  scalExec { srcs := [], dst := some d, len := len, eff := pureEff fun _ => imm } s

def execSaddImm (d a : SReg) (imm : BitVec 14) (s : State) : Out := siAlu d a (imm14 imm) 4 (· + ·) s
def execSmulImm (d a : SReg) (imm : BitVec 14) (s : State) : Out := siAlu d a (imm14 imm) 4 (· * ·) s
def execSdivImm (d a : SReg) (imm : BitVec 14) (s : State) : Out := siAlu d a (imm14 imm) 4 (opSdiv false) s
def execSremImm (d a : SReg) (imm : BitVec 14) (s : State) : Out := siAlu d a (imm14 imm) 4 (opSrem false) s
def execSandImm (d a : SReg) (imm : BitVec 14) (s : State) : Out := siAlu d a (imm14 imm) 4 (· &&& ·) s
def execSorImm (d a : SReg) (imm : BitVec 14) (s : State) : Out := siAlu d a (imm14 imm) 4 (· ||| ·) s
def execSxorImm (d a : SReg) (imm : BitVec 14) (s : State) : Out := siAlu d a (imm14 imm) 4 (· ^^^ ·) s
def execSshlImm (d a : SReg) (imm : BitVec 14) (s : State) : Out := siAlu d a (imm14 imm) 4 opSshl s
def execSshrImm (d a : SReg) (imm : BitVec 14) (s : State) : Out := siAlu d a (imm14 imm) 4 opSshr s
def execSsraImm (d a : SReg) (imm : BitVec 14) (s : State) : Out := siAlu d a (imm14 imm) 4 opSsra s
def execSminImm (d a : SReg) (imm : BitVec 14) (s : State) : Out := siAlu d a (imm14 imm) 4 (opSmin false) s
def execSmaxImm (d a : SReg) (imm : BitVec 14) (s : State) : Out := siAlu d a (imm14 imm) 4 (opSmax false) s
def execSmovImm (d : SReg) (imm : BitVec 14) (s : State) : Out := siMov d (imm14 imm) 4 s

/-- SNOP (R48). -/
def execSnop (s : State) : Out := scalExec { srcs := [], dst := none, eff := fun x _ => .done x.s none none } s

end Sys2Proof.Machine
end

