-- ==== Sys2Proof/Machine/ScalarMem.lean ====
section
/-! DEFINITION. Scalar loads and stores (R205, R206), and the waits and fences of the scalar stream: WAITTL, ARMA, WAITA, WAITCMP,
WAITIF, SFENCE (R215, R216, R224 to R228). -/

namespace Sys2Proof.Machine

open Sys2Proof

/-! ## Issue of a scalar access -/

/-- The access set of a scalar word. -/
def scalSet (x : ScalIn) (kind : SetKind) (va n data : Nat) (dest : Dest) : ASet :=
  { id := 0, party := .scalar x.gi, kind := kind, sram := false, scope := .grp, pc := x.g.spc.toNat, path1 := false,
    accs := splitPage { lane := 0, va := va, pa := 0, n := n, data := data, cmp := 0, got := 0, done := false },
    spans := [], dest := dest, ifc := 4, issued := x.s.now, floor := 0, phase := .xlate, region := none, entry := false }

/-- The translation a scalar word waits for before it issues. -/
def probeFor (x : ScalIn) (a : ASet) : ScalRes := .hold (addSet x.s0 { a with role := .probe, dest := .none })

/-- A scalar access issues once fewer than 16 sets of its party are uncommitted (R156), every page is translated and the checks
after translation pass (R230); until then the word has no effect. -/
def issueScalar (x : ScalIn) (a : ASet) (after : State → ScalRes) : ScalRes :=
  let core := x.g.quad / 4
  let c := ctxIx x.s x.g
  if partyFull x.s0 (.scalar x.gi) then .hold x.s0
  else if !allTranslated x.s core c (kindX a.kind) a.accs then probeFor x a
  else match afterChecks x.s (withPages x.s core c a) with
    | some (cause, _, va) => .trap { cause := cause, addr := w64 va }
    | none => after (issueSet x.s a)

/-- A scalar load: it issues as an access set. With a port as destination nothing of the word happens before the load's value is known: it
pops, is checked and pushes when the load commits (R9, R34). -/
def issueLoad (x : ScalIn) (srcs : List SReg) (d : SReg) (len va n : Nat) (signed : Bool) : ScalRes :=
  let a := scalSet x .load va n 0 (.sreg d n signed)
  if isPort d then
    (match issueScalar { x with s := x.s0, g := groupAt x.s0 x.gi } { a with pops := srcs, len := len } fun s => .done s none none with
     | .done s _ _ => .hold (enterWait s x.gi)
     | o => o)
  else issueScalar x a fun s => .done s none none

/-- ADDR_NONCANON (R204, R205). -/
def noncanon (va : Nat) : Option STrap := if 2 ^ 48 ≤ va then some { cause := Tc.addrNoncanon, addr := w64 va } else none

/-! ## SLD, SST, SLDW -/

/-- SLD of `n` bytes (R205). -/
def sldOp (d a : SReg) (imm : Word) (n : Nat) (signed : Bool) (len : Nat) (s : State) : Out :=
  scalExec
    { srcs := [a], dst := some d, len := len
      eff := fun x vs =>
        let va := (arg vs 0 + imm).toNat
        match noncanon va with
        | some t => .trap t
        | none => issueLoad x [a] d len va n signed } s

/-- SST of `n` bytes (R205); a live region holds it (R236); it restarts the progress count (R291). -/
def sstOp (d a : SReg) (imm : Word) (n : Nat) (len : Nat) (s : State) : Out :=
  scalExec
    { srcs := [a, d], dst := none, len := len, hold := fun x => regionLive x.s x.g
      eff := fun x vs =>
        let va := (arg vs 0 + imm).toNat
        match noncanon va with
        | some t => .trap t
        | none =>
          issueScalar x (scalSet x .store va n ((arg vs 1).toNat % 2 ^ (8 * n)) .none) fun s =>
            .done (s.modGroup x.gi fun g => { g with prog := 0 }) none none } s

def execSld64 (d a : SReg) (imm : BitVec 14) (s : State) : Out := sldOp d a (imm14 imm) 8 false 4 s
def execSldN32 (d a : SReg) (imm : BitVec 14) (s : State) : Out := sldOp d a (imm14 imm) 4 false 4 s
def execSldI32 (d a : SReg) (imm : BitVec 14) (s : State) : Out := sldOp d a (imm14 imm) 4 true 4 s
def execSst64 (d a : SReg) (imm : BitVec 14) (s : State) : Out := sstOp d a (imm14 imm) 8 4 s
def execSstN32 (d a : SReg) (imm : BitVec 14) (s : State) : Out := sstOp d a (imm14 imm) 4 4 s

/-- Base and size of a parameter window of the group (R206, R258). -/
def windowOf (s : State) (g : Group) (w : Nat) : Nat × Nat :=
  let e := (launchOf s g).wins.getD w (0, 0)
  (if w = 0 then (teamOf s g).win0.toNat else e.1.toNat, e.2.toNat)

/-- SLDW (R206). -/
def sldwOp (d : SReg) (w : BitVec 3) (imm : Word) (len : Nat) (s : State) : Out :=
  scalExec
    { srcs := [], dst := some d, len := len
      own := fun x =>
        if (windowOf x.s x.g w.toNat).2 = 0 then some { cause := Tc.paramUnbound }
        else if imm.toNat % 8 ≠ 0 then some { cause := Tc.paramAlign }
        else none
      eff := fun x _ =>
        let win := windowOf x.s x.g w.toNat
        if imm.toInt < 0 ∨ (win.2 : Int) < imm.toInt + 8 then
          .done (x.s.modGroup x.gi fun g => { g with pwstat := g.pwstat ||| (1#8 <<< w.toNat) }) (some 0) none
        else
          let va := win.1 + imm.toNat
          match noncanon va with
          | some t => .trap t
          | none => issueLoad x [] d len va 8 false } s

def execSldw (d : SReg) (w : BitVec 3) (imm : BitVec 14) (s : State) : Out := sldwOp d w (imm14 imm) 4 s

/-! ## WAITIF, WAITTL, SFENCE -/

/-- scalar lt ← max(lt, v). -/
def acquire (gi v : Nat) (s : State) : State := s.modGroup gi fun g => { g with slt := max g.slt v }

/-- A blocking wait on values already read: the word leaves its ports as they are. -/
def blocked (x : ScalIn) : ScalRes := .hold (enterWait x.s0 x.gi)

/-- WAITIF (R215). -/
def execWaitif (a : SReg) (n : BitVec 2) (s : State) : Out :=
  scalExec
    { srcs := [a], dst := none
      eff := fun x vs =>
        if x.g.ifc.getD n.toNat 0 ≤ (arg vs 0).toNat then .done (acquire x.gi x.g.llt x.s) none none else blocked x } s

/-- The number of the last command whose words have all been pushed. -/
def lastPushed (e : Engine) : Nat := if e.partWords.isEmpty then e.next else e.next - 1
/-- The time a timeline value carries (R160). -/
def timelineTime (e : Engine) (n : Nat) : Nat := (e.times.filter fun t => t.1 ≤ n).foldl (fun m t => max m t.2) 0

/-- WAITTL (R224). -/
def execWaittl (a : SReg) (f : BitVec 1) (s : State) : Out :=
  scalExec
    { srcs := [a], dst := none
      eff := fun x vs =>
        let e := engOf x.g (f == 1)
        let n := (arg vs 0).toNat
        if lastPushed (engOf (landedGroup x.s x.gi) (f == 1)) < n then .trap { cause := Tc.timelineAhead }
        else if n ≤ e.time then .done (acquire x.gi (timelineTime e n) x.s) none none
        else blocked x } s

/-- Lines held narrow for the group or its team. -/
def narrowLines (s : State) (gi : Nat) : List Nat :=
  (s.l1.filter fun l => l.narrow == some (.grp, gi) || l.narrow == some (.team, (groupAt s gi).team)).map (·.line)

/-- What SFENCE publishes at each scope (R216): .team widens the group's lines to its team. -/
def fenceScope (s : State) (gi : Nat) (sc : BitVec 3) : State :=
  match sc.toNat with
  | 0 => s
  | 1 => { s with l1 := s.l1.map fun l =>
      if l.narrow = some (.grp, gi) then { l with narrow := some (.team, (groupAt s gi).team) } else l }
  | _ => (narrowLines s gi).foldl publishLine s

/-- The largest time of the fabric transfers a group has had acknowledged (R165). -/
def fabricTime (g : Group) : Nat :=
  max (g.fabric.times.foldl (fun m t => max m t.2) 0) (g.fabric.held.foldl (fun m h => max m h.2.1) 0)

/-- SFENCE (R216, R165). -/
def execSfence (f : BitVec 1) (sc : BitVec 3) (s : State) : Out :=
  scalExec
    { srcs := [], dst := none, pre := if 6 ≤ sc.toNat then some Tc.scopeReserved else none
      hold := fun x => regionLive x.s x.g || !(setsOf x.s (.scalar x.gi)).isEmpty || (f == 1 && !x.g.fabric.cmds.isEmpty)
      eff := fun x _ =>
        let s := fenceScope x.s x.gi sc
        .done (if f = 1 then acquire x.gi (fabricTime x.g) s else s) none none } s

/-! ## Arrival counters (R225 to R227) -/

/-- The fields of a counter (R225). -/
structure Counter where
  count  : Nat
  target : Nat
  time   : Nat
  id     : Nat
  armed  : Bool
  deriving DecidableEq, Repr

def counterAt (t : Team) (off : Nat) : Counter :=
  let m := loadLe t.sram (off + 24) 8
  { count := loadLe t.sram off 8, target := loadLe t.sram (off + 8) 8, time := loadLe t.sram (off + 16) 8, id := m % 4096,
    armed := bit m 12 }
/-- Write a counter: its 32 bytes, res0 as 0, with its row stamped at `ts` (R158). -/
def putCounter (t : Team) (off : Nat) (c : Counter) (ts : Nat) : Team :=
  let m := storeLe (storeLe (storeLe t.sram off 8 c.count) (off + 8) 8 c.target) (off + 16) 8 c.time
  setRow { t with sram := storeLe m (off + 24) 8 (c.id + 4096 * c.armed.toNat) } (off / 128) (ts, ts)

/-- The offset is misaligned or passes the allocation. -/
def counterBad (s : State) (g : Group) (off : Nat) : Bool :=
  off % 32 != 0 || (launchOf s g).record.sram.toNat < off + 32

/-- Entries of the package's arrival table. -/
def arrivalUsed (s : State) : Nat := s.ctxs.foldl (fun n c => n + c.arrivals.length) 0

/-- Bind, or release, a counter (R226); its row is stamped as a store of the scalar party (notes/assumptions/25.md). -/
def armCounter (s : State) (gi : Nat) (id off target : Nat) (clear : Bool) : State :=
  let g := groupAt s gi
  let c := ctxIx s g
  let t := teamOf s g
  let entry := (ctxAt s c).arrivals.find? fun e => e.1 == id
  let pend : Nat × Nat := match entry with
    | some (_, none, n, time) => (n, time)
    | _ => (0, 0)
  let old := counterAt t off
  let count := if clear then 0 else (old.count + pend.1) % 2 ^ 64
  let time := if clear then 0 else max old.time pend.2
  let ts := max g.slt ((rowTimes t (off / 128)).2 + 1)
  let rest := (ctxAt s c).arrivals.filter fun e => e.1 != id
  let s := s.modCtx c fun x =>
    { x with arrivals := if target = 0 then rest else rest ++ [(id, some (g.team, off), 0, 0)] }
  let s := s.modTeam g.team fun t =>
    putCounter t off { count := count, target := target, time := time, id := id, armed := target != 0 } ts
  acquire gi ts s

/-- ARMA (R226): sa the offset, sb the target, sd the id. -/
def execArma (d a b : SReg) (c : BitVec 1) (s : State) : Out :=
  scalExec
    { srcs := [a, b, d], dst := none, hold := fun x => regionLive x.s x.g
      eff := fun x vs =>
        let off := (arg vs 0).toNat
        let id := (arg vs 2).toNat
        let entry := (ctxOf x.s x.g).arrivals.find? fun e => e.1 == id
        if 4096 ≤ id then .trap { cause := Tc.counterIdRange }
        else if counterBad x.s x.g off then .trap { cause := Tc.counterAlign }
        else if entry.isNone ∧ 4096 ≤ arrivalUsed x.s then .trap { cause := Tc.counterTableFull }
        else if entry.any fun e => e.2.1.any fun h => h != (x.g.team, off) then .trap { cause := Tc.counterBusy }
        else .done (armCounter x.s x.gi id off (arg vs 1).toNat (c == 1)) none none } s

/-- WAITA (R227). -/
def execWaita (a : SReg) (s : State) : Out :=
  scalExec
    { srcs := [a], dst := none
      eff := fun x vs =>
        let off := (arg vs 0).toNat
        let k := counterAt (teamOf x.s x.g) off
        if counterBad x.s x.g off then .trap { cause := Tc.counterAlign }
        else if !k.armed then .trap { cause := Tc.counterUnarmed }
        else if k.target ≤ k.count then .done (acquire x.gi k.time x.s) none none
        else blocked x } s

/-! ## WAITCMP (R228) -/

/-- The read of the waited word, an access set of the scalar party. -/
def waitRead (s : State) (gi : Nat) (va n : Nat) : ASet :=
  scalSet { s := s, gi := gi, g := groupAt s gi, s0 := s } .load va n 0 .waitcmp

/-- The condition of R228 on a word read: 32-bit values are sign- or zero-extended by the condition. -/
def waitHolds (w : WordWait) (got : Nat) : Bool :=
  let x := got &&& w.mask.toNat
  let signed := w.c = 2 ∨ w.c = 3
  if w.n = 8 then condCode w.c (w64 x) w.want
  else if signed then condCode w.c (sext64 32 x) (sext64 32 w.want.toNat)
  else condCode w.c (w64 (x % 2 ^ 32)) (w64 (w.want.toNat % 2 ^ 32))

/-- WAITCMP begins: its values are held in the wait, and the word stays until a read satisfies it. -/
def execWaitcmp (d a b : SReg) (sc : BitVec 3) (w : BitVec 1) (c : BitVec 3) (s : State) : Out :=
  let n := if w = 1 then 4 else 8
  scalExec
    { srcs := [a, b, d], dst := none
      pre := if (condOf c).isNone then some Tc.condReserved
        else if sc.toNat < 2 ∨ 4 < sc.toNat then some Tc.scopeReserved else none
      hold := fun x => regionLive x.s x.g || (match x.g.wait with | .word _ => true | _ => false)
      eff := fun x vs =>
        let va := (arg vs 0).toNat
        if va % n ≠ 0 then .trap { cause := Tc.waitAlign }
        else match noncanon va with
        | some t => .trap t
        | none => issueScalar x (waitRead x.s x.gi va n) fun s =>
            let w : WordWait := { va := va, n := n, want := arg vs 1, mask := arg vs 2, c := c, sc := sc, pa := 0, t := 0,
                                  placed := false, woken := false, at_ := x.s.now }
            .hold (s.modGroup x.gi fun g => { g with gap := 0, wait := .word w }) } s

end Sys2Proof.Machine
end

