-- ==== Sys2Proof/Machine/ScalarCtl.lean ====
section
/-! DEFINITION. Scalar control transfers (R273), lane blocks and barriers (R274 to R278), special registers (R309, R310), STRAP,
ERET and SEXIT (R276, R340, R342), and LIMM (R47). -/

namespace Sys2Proof.Machine

open Sys2Proof

/-! ## Transfers (R46, R273) -/

/-- SPC + 4 × SignExtend(off). -/
def relTarget {n : Nat} (spc : Word) (off : BitVec n) : Word := spc + 4 * off.signExtend 64

/-- SBR (R273). -/
def execSbr (c : BitVec 3) (a b : SReg) (o : BitVec 11) (s : State) : Out :=
  scalExec
    { srcs := [a, b], dst := none, pre := if (condOf c).isNone then some Tc.condReserved else none
      eff := fun x vs =>
        .done x.s none (if condCode c (arg vs 0) (arg vs 1) then some (relTarget x.g.spc o) else none) } s

def execSjmp (o : BitVec 26) (s : State) : Out :=
  scalExec { srcs := [], dst := none, eff := fun x _ => .done x.s none (some (relTarget x.g.spc o)) } s

/-- SCALL: s47 ← SPC + 4 (R273). -/
def execScall (o : BitVec 26) (s : State) : Out :=
  scalExec
    { srcs := [], dst := some 47, eff := fun x _ => .done x.s (some (x.g.spc + 4)) (some (relTarget x.g.spc o)) } s

/-- A jump to the address in a register: a misaligned target traps at the jumping word (R46). -/
def jumpTo (a : SReg) (s : State) : Out :=
  scalExec
    { srcs := [a], dst := none
      eff := fun x vs =>
        if (arg vs 0).toNat % 4 ≠ 0 then .trap { cause := Tc.fetchMisaligned } else .done x.s none (some (arg vs 0)) } s

def execSjmpi (a : SReg) (s : State) : Out := jumpTo a s
def execSret (a : SReg) (s : State) : Out := jumpTo a s

/-! ## Lane blocks (R24, R274, R275) -/

/-- Blocks in the queue, the running one among them: LRUN finds it full at 4. -/
def blockCount (g : Group) : Nat := g.queue.length + g.block.isSome.toNat

/-- LRUN (R24, R25, R274): with a VTOS set it waits for every block before it. -/
def execLrun (o : BitVec 24) (s : State) : Out :=
  scalExec
    { srcs := [], dst := none
      own := fun x => if (imageOf x.s x.g).lwords ≤ o.toNat then some { cause := Tc.fetchBounds } else none
      hold := fun x => regionLive x.s x.g || anyLoadPending x.s x.gi || ((imageOf x.s x.g).vtos != 0 && blocksOutstanding x.g)
      wait := fun x => 4 ≤ blockCount x.g
      eff := fun x _ =>
        .done (x.s.modGroup x.gi fun g => { g with queue := g.queue ++ [{ lofs := o.toNat, snap := g.s, lt := g.slt }] }) none none } s

/-- LSYNC (R275): the scalar lt acquires the ends of the blocks (R160). -/
def execLsync (s : State) : Out :=
  scalExec
    { srcs := [], dst := none, wait := fun x => blocksOutstanding x.g
      eff := fun x _ => .done (acquire x.gi x.g.endLt x.s) none none } s

/-! ## Barriers (R277, R278) -/

def coop (s : State) (g : Group) : Bool := (launchOf s g).record.flags.getLsbD 2

/-- The barrier of a level: the team's, the crew's of the team's die, the launch's. -/
def barrierOf (s : State) (g : Group) (level : Nat) : Barrier :=
  let t := teamOf s g
  match level with
  | 0 => t.bar
  | 1 => (launchOf s g).crew.getD (dieOf s t.dealt) default
  | _ => (launchOf s g).bar

def modBarrier (s : State) (g : Group) (level : Nat) (f : Barrier → Barrier) : State :=
  match level with
  | 0 => s.modTeam g.team fun t => { t with bar := f t.bar }
  | 1 => s.modLaunch (launchIx s g) fun l => { l with crew := l.crew.modify (dieOf s (teamOf s g).dealt) f }
  | _ => s.modLaunch (launchIx s g) fun l => { l with bar := f l.bar }

/-- SBAR (R277): it waits for blocks and scalar sets, arrives, and completes when its level's generation has advanced. -/
def execSbar (lvl : BitVec 2) (s : State) : Out :=
  scalExec
    { srcs := [], dst := none, pre := if lvl = 3 then some Tc.illegalMinor else none
      own := fun x => if lvl ≠ 0 ∧ !coop x.s x.g then some { cause := Tc.barrierScope } else none
      hold := fun x => regionLive x.s x.g
      wait := fun x => blocksOutstanding x.g || !(setsOf x.s (.scalar x.gi)).isEmpty
      eff := fun x _ =>
        let b := barrierOf x.s x.g lvl.toNat
        match x.g.wait with
        | .barrier _ gen => if gen < b.gen then .done (acquire x.gi b.rel x.s) none none else .hold x.s0
        | _ =>
          let s := modBarrier x.s x.g lvl.toNat fun b => { b with arrived := b.arrived ++ [x.gi], lt := max b.lt x.g.slt }
          .hold (s.modGroup x.gi fun g => { g with wait := .barrier lvl.toNat b.gen, gap := 0, prog := 0 }) } s

/-! ## Special registers (R42, R43, R309, R310) -/

def isTrapIx (ix : Nat) : Bool := 0x30 ≤ ix && ix ≤ 0x36
/-- Registers whose scalar access waits as LSYNC does (R43). -/
def waitsBlocks (ix : Nat) : Bool := 0x20 ≤ ix && ix ≤ 0x23

/-- The value SGET reads: EXEC is the mask the last block ended with, or LaneSet (R309). -/
def sgetValue (s : State) (g : Group) (ix : Nat) : Option Word :=
  if isTrapIx ix then some (trapReg g.trap ix) else specialValue s g (g.lastExec.getD (liveLanes g)) ix

def execSget (d : SReg) (ix : BitVec 8) (s : State) : Out :=
  let k := ix.toNat
  scalExec
    { srcs := [], dst := some d
      own := fun x =>
        if (sgetValue x.s x.g k).isNone then some { cause := Tc.specialUndefined }
        else if privBad x.s x.g k then some { cause := Tc.privSpecial }
        else none
      wait := fun x => waitsBlocks k && blocksOutstanding x.g
      eff := fun x _ => .done x.s (sgetValue x.s x.g k) none } s

/-- Write a special register by its Access (R42, R309). -/
def ssetGroup (g : Group) (ix : Nat) (v : Word) : Group :=
  match ix with
  | 0x14 => { g with pwstat := g.pwstat &&& ~~~(v.setWidth 8) }
  | 0x20 => { g with lastExec := some (v &&& liveLanes g) }
  | 0x21 => { g with part := v.setWidth 3 }
  | 0x22 => { g with cvmode := v.setWidth 32 }
  | 0x23 => writeSeed g (v.setWidth 32)
  | _ => { g with trap := setTrapReg g.trap ix v }

/-- SPECIAL_UNDEFINED, then SPECIAL_READONLY: trap registers are written only in a handler (R42). -/
def ssetFails (s : State) (g : Group) (ix : Nat) : Option STrap :=
  if !isTrapIx ix ∧ ix ≠ 0 ∧ (specialValue s g 0 ix).isNone then some { cause := Tc.specialUndefined }
  else if ix = 0x14 ∨ waitsBlocks ix ∨ (isTrapIx ix ∧ g.frame.isSome) then none
  else some { cause := Tc.specialReadonly }

/-- SSET (R309): reserved values are refused (R39, R82, R118). -/
def execSset (a : SReg) (ix : BitVec 8) (s : State) : Out :=
  let k := ix.toNat
  scalExec
    { srcs := [a], dst := none
      own := fun x => ssetFails x.s x.g k
      wait := fun x => waitsBlocks k && blocksOutstanding x.g
      eff := fun x vs =>
        let v := arg vs 0
        if k = 0x21 ∧ 5 ≤ v.toNat % 8 then .trap { cause := Tc.partReserved }
        else if k = 0x22 ∧ !cvmodeOk (v.toNat % 2 ^ 32) then .trap { cause := Tc.roundReserved }
        else .done (x.s.modGroup x.gi fun g => ssetGroup g k v) none none } s

/-! ## STRAP, ERET, SEXIT -/

/-- STRAP (R340): it resumes at the next word. -/
def execStrap (a : SReg) (c : BitVec 8) (s : State) : Out :=
  scalExec
    { srcs := [a], dst := none, pre := if Tc.software c then none else some Tc.illegalMinor
      eff := fun x vs =>
        let g := { x.g with spc := x.g.spc + 4, wait := .none }
        .hold (scalarTrap (x.s.setGroup x.gi g) x.gi g c 0 (w64 ((arg vs 0).toNat % 2 ^ 32))) } s

/-- ERET (R342, R345): the end of a save, or the load set that reloads s44 to s47, whose commit is the return. -/
def execEret (s : State) : Out :=
  scalExec
    { srcs := [], dst := none
      own := fun x => if x.g.frame.isNone then some { cause := Tc.eretOutside } else none
      wait := fun x => blocksOutstanding x.g
      hold := fun x => x.s.sets.any (ofGroup x.gi)
      eff := fun x _ =>
        match x.g.frame with
        | none => .hold x.s
        | some f =>
          if f.cause = Tc.preemptSave then .hold (x.s.modGroup x.gi fun g => { g with saved := true, wait := .none })
          else issueScalar x (scalSet x .load f.area 32 0 .reload) .hold } s

/-- SEXIT (R276, R217): the group is to retire once its blocks, sets, commands and region have ended. -/
def execSexit (s : State) : Out :=
  scalExec
    { srcs := [], dst := none
      own := fun x =>
        let g := landedGroup x.s x.gi
        if !g.copy.partWords.isEmpty || !g.fabric.partWords.isEmpty then some { cause := Tc.enginePartial }
        else if !g.q4.isEmpty then some { cause := Tc.launchRecord, info := 8 }
        else none
      hold := fun x =>
        blocksOutstanding x.g || x.s.sets.any (ofGroup x.gi) || cmdsLeft x.g.copy || cmdsLeft x.g.fabric ||
          regionLive x.s x.g
      eff := fun x _ => .hold (x.s.modGroup x.gi fun g => { g with exiting := true, prog := 0, wait := .none }) } s

/-! ## Fetching scalar words (R46, R63) -/

/-- The word at SPC lies in `.scalar` of the running image. -/
def scalarInside (s : State) (g : Group) (spc : Nat) : Bool :=
  let i := imageOf s g
  i.va + i.sofs ≤ spc && spc + 4 ≤ i.va + i.sofs + i.slen

/-- A fetch that faults parks its stream (R304). -/
def parkFetch (s : State) (gi : Nat) (lane path1 : Bool) (va : Nat) (f : XFault) : State :=
  let g := groupAt s gi
  let a : ASet :=
    { id := s.nextSet, party := if lane then .lane gi else .scalar gi, kind := .load, sram := false, scope := .grp,
      pc := if lane then (pathOf g path1).lpc else g.spc.toNat, path1 := path1,
      accs := [{ lane := 0, va := va, pa := 0, n := 4, data := 0, cmp := 0, got := 0, done := false }], spans := [], dest := .none,
      ifc := 4, issued := s.now, floor := 0, phase := .xlate, region := none, entry := false, role := .fetch }
  parkSet (addSet s a) a f.cause f.level f.entry va 0

/-! ## LIMM (R47) -/

/-- The 40-bit immediate, sign-extended (R45). -/
def limmImm (hi : BitVec 26) (lo : BitVec 14) : Word := (hi ++ lo).signExtend 64

/-- The SI word behind a LIMM with its immediate; both are one unit of 8 bytes. -/
def runSi (i : Instr) (hi : BitVec 26) (s : State) : Out :=
  match i with
  | .saddImm d a m => siAlu d a (limmImm hi m) 8 (· + ·) s
  | .smulImm d a m => siAlu d a (limmImm hi m) 8 (· * ·) s
  | .sdivImm d a m => siAlu d a (limmImm hi m) 8 (opSdiv false) s
  | .sremImm d a m => siAlu d a (limmImm hi m) 8 (opSrem false) s
  | .sandImm d a m => siAlu d a (limmImm hi m) 8 (· &&& ·) s
  | .sorImm d a m => siAlu d a (limmImm hi m) 8 (· ||| ·) s
  | .sxorImm d a m => siAlu d a (limmImm hi m) 8 (· ^^^ ·) s
  | .sshlImm d a m => siAlu d a (limmImm hi m) 8 opSshl s
  | .sshrImm d a m => siAlu d a (limmImm hi m) 8 opSshr s
  | .ssraImm d a m => siAlu d a (limmImm hi m) 8 opSsra s
  | .sminImm d a m => siAlu d a (limmImm hi m) 8 (opSmin false) s
  | .smaxImm d a m => siAlu d a (limmImm hi m) 8 (opSmax false) s
  | .smovImm d m => siMov d (limmImm hi m) 8 s
  | .sld64 d a m => sldOp d a (limmImm hi m) 8 false 8 s
  | .sldN32 d a m => sldOp d a (limmImm hi m) 4 false 8 s
  | .sldI32 d a m => sldOp d a (limmImm hi m) 4 true 8 s
  | .sst64 d a m => sstOp d a (limmImm hi m) 8 8 s
  | .sstN32 d a m => sstOp d a (limmImm hi m) 4 8 s
  | .sldw d w m => sldwOp d w (limmImm hi m) 8 s
  | _ => .next s

/-- LIMM: the word after it must have SI format (R47). -/
def execLimm (imm : BitVec 26) (s : State) : Out :=
  match s.groups[s.cur]? with
  | none => .next s
  | some g =>
    let gi := s.cur
    let va := (g.spc + 4).toNat
    if !scalarMayRun g then .next s
    else if !scalarInside s g va then .next (scalarTrap s gi g Tc.fetchBounds)
    else match coreRead s (g.quad / 4) (ctxIx s g) va 4 .fetch with
    | .error f =>
      .next (if s.sets.any fun a => a.party == .scalar gi && a.role == .fetch then s else parkFetch s gi false false va f)
    | .ok bs =>
      let w := BitVec.ofNat 32 (leNat bs)
      if !isSi w then .next (scalarTrap s gi g Tc.illegalPrefix)
      else match decodeScalar w with
        | .error c => .next (scalarTrap s gi g c)
        | .ok i => runSi i imm s

end Sys2Proof.Machine
end

