-- ==== Sys2Proof/Machine/SetEvents.lean ====
section
/-! DEFINITION. The steps of access sets (R156, R162, R163): leaving a quadrant, commits, write queues, publishes;
page walks and their timeouts (R300 to R304); waited words (R228, R229). A step whose conditions do not hold changes nothing. -/

namespace Sys2Proof.Machine

open Sys2Proof

/-! ## Leaving (R156, R158) -/

/-- A store-class set may leave: its pages are known, it is the oldest uncommitted set of its party, and the strike window is over. -/
def mayLeave (s : State) (a : ASet) : Bool :=
  a.role == .access && storeClass a.kind && a.phase == .ready && isHead s a && a.issued + 48 ≤ s.now

/-- A message set for the mailbox unit (R330, R331). -/
def isMessage (a : ASet) : Bool := match a.kind with | .mbsend _ _ _ | .mbgen _ => true | _ => false
/-- A message set has one span that the unit answers; until then it keeps the CYCLE at which the set left. -/
def leftAt (a : ASet) : Nat := (a.spans.getD 0 default).rts

/-- A set leaves with its party's time as floor; a team-SRAM one is performed at once, and a word reaches its port, those of one dc and
channel in ascending group number (R34). -/
def leaveSet (s : State) (a : ASet) : State :=
  let b := { a with floor := partyLt s a.party, phase := .gone }
  let b := if isMessage b then setSpan b 0 fun p => { p with rts := s.now } else b
  match a.kind, a.sram, partyGroup a.party with
  | .push q x, _, some gi =>
    let g := groupAt s gi
    if 8 ≤ q ∧ !inTurn s (0, chanKey g q) g.gid then s else modSet (pushPort s gi q x) a.id fun _ => b
  | _, true, some gi => sramStore s b (groupAt s gi).team
  | _, _, _ => { modSet s a.id fun _ => numberSpans s b with nextSend := s.nextSend + 1 }

/-! ## Write queues and narrow lines -/

def execWriteQueueApply (slice : Nat) (s : State) : Out := .next (applyQueue s slice)
def execPublish (line : Nat) (s : State) : Out := .next (publishLine s line)

/-! ## Commits (R156) -/

/-- The value a scalar load gives (R205). -/
def scalarGot (n : Nat) (signed : Bool) (v : Nat) : Word := if signed then sext64 (8 * n) v else w64 (v % 2 ^ (8 * n))

/-- The wait entry of a group goes. -/
def dropWait (s : State) (gi : Nat) : State := { s with waits := s.waits.filter fun w => w.g != gi || w.src != aid s }

/-- A read of a WAITCMP has committed at time `t`: the word completes, or goes on waiting (R228). -/
def waitAnswer (s : State) (gi pa t got : Nat) : State :=
  match (groupAt s gi).wait with
  | .word w =>
    if waitHolds w got then dropWait (s.modGroup gi fun g => { g with wait := .none, spc := g.spc + 4 }) gi
    else s.modGroup gi fun g => { g with wait := .word { w with pa := pa, t := t, at_ := s.now } }
  | _ => s

/-- The result of a committed load: lane registers, a scalar register, or the waited word. -/
def deliver (s : State) (a : ASet) : State :=
  match partyGroup a.party with
  | none => s
  | some gi =>
    match a.dest with
    | .sreg d n signed => s.modGroup gi fun g => setSreg g d.toNat (scalarGot n signed (laneGot a 0))
    | .waitcmp => waitAnswer s gi ((a.accs.getD 0 default).pa) (partyLt s a.party) (laneGot a 0)
    | .reload => returnFromTrap s gi (laneGot a 0)
    | _ => s.modGroup gi (writeDest a)

/-- The load of a word whose destination is a port has its value: now the whole word happens, or none of it (R9, R34). It pops its sources,
is checked, and pushes; where the port has lost its room, the word is executed again. -/
def deliverPort (s : State) (gi : Nat) (a : ASet) (q : Nat) (v : Word) (t : Nat) : State :=
  if regionLive s (groupAt s gi) then s
  else match readSources gi a.pops s with
  | none => s
  | some r => match pushCheck r.1 gi q v with
    | some k => trapOfSet s a k.cause 0 k.addr.toNat k.info
    | none =>
      if !pushRoom r.1 gi q then dropSet s a.id
      else
        let s := retireSet (raiseLt r.1 a.party t) a
        (sendPush s gi q a.pc a.issued v).modGroup gi fun g => { g with spc := g.spc + BitVec.ofNat 64 a.len, wait := .none }

/-- A load set commits, with its bytes known and its time covered. -/
def commitLoad (s : State) (a : ASet) (t : Nat) : State :=
  match a.dest, partyGroup a.party with
  | .sreg d n signed, some gi =>
    if isPort d then deliverPort s gi a (portOf d) (scalarGot n signed (laneGot a 0)) t
    else retireSet (deliver (raiseLt s a.party t) a) a
  | _, _ => retireSet (deliver (raiseLt s a.party t) a) a

/-- The head load set of its party, every span answered. -/
def mayCommit (s : State) (a : ASet) : Bool :=
  a.role == .access && isHead s a && (a.sram || a.spans.all fun p => p.done)

/-- A load set commits where every lease runs at its party's time, and is renewed otherwise. -/
def tryCommitLoad (s : State) (a : ASet) : State :=
  let c := partyLt s a.party
  if storeClass a.kind ∨ a.phase ≠ .ready ∨ !mayCommit s a then s
  else match a.sram, partyGroup a.party with
  | true, some gi =>
    let r := sramLoad s a (groupAt s gi).team
    commitLoad r.1 r.2.1 r.2.2
  | _, _ =>
    if leasesRun a c then commitLoad s a (max c (setTime a))
    else { modSet s a.id fun _ => renew s a c with nextSend := s.nextSend + 1 }

def execLoadSetCommit (i : Nat) (s : State) : Out :=
  match setAt s i with
  | some a => .next (tryCommitLoad s a)
  | none => .next s

/-- A store-class set commits once every span has returned its ts. -/
def tryCommitStore (s : State) (a : ASet) : State :=
  if !storeClass a.kind ∨ a.phase ≠ .gone ∨ a.role ≠ .access ∨ !isHead s a ∨ !(a.spans.all fun p => p.done) then s
  else
    let s := giveForward (raiseLt s a.party (setTime a)) a
    let s := match partyGroup a.party with
      | some gi => s.modGroup gi (writeDest a)
      | none => s
    retireSet s a

def execStoreSetCommit (i : Nat) (s : State) : Out :=
  match setAt s i with
  | some a => .next (tryCommitStore s a)
  | none => .next s

/-! ## Walks (R300 to R304) -/

/-- A translation that a scalar word waited for is there; a frame area that ERET reads comes here as well (R342). -/
def probeDone (s : State) (a : ASet) (c : Nat) : State :=
  match (if a.kind = .load ∧ a.dest = .none then a.accs.head?.bind fun x => pageAway s ((partyGroup a.party).elim 0 fun gi => (groupAt s gi).quad / 4) c x.va .read else none) with
  | some p => startClimb s (pageOf p.1) (p.1 / 128) p.2 (.set a.id)
  | none => dropSet s a.id

/-- The translation of an access fails, by tables that are all here. -/
def failsHere (s : State) (c : Nat) (k : Xk) (x : Acc) : Bool :=
  (tableAway s c x.va).isNone && (match translate s c x.va k with | .error _ => true | .ok _ => false)

/-- Walk for the page of one access of a set: through a table page that is away, behind a region that commits, or to its entry, which the
TLBs take, or to a fault. -/
def walkFor (s : State) (a : ASet) (core c : Nat) (x : Acc) : State :=
  let k := kindX a.kind
  if (tableAway s c x.va).isSome then
    let w := joinWalk s (core / 36) c x.va
    match w.2, tableAway s c x.va with
    | true, some pa => startClimb w.1 (pageOf pa) (pa / 128) 0 (.set a.id)
    | _, _ => w.1
  else if walkHeld s c x.va then s
  else
    let s := walkTimes (dropWalk s (core / 36) c x.va) (core / 36) c x.va
    match translate s c x.va k with
    | .ok e => tlbFill s core c x.va e
    | .error f =>
      if x.help then faultAccs s a f.cause f.level f.entry fun y => y.help && failsHere s c k y
      else faultAccs s a f.cause f.level f.entry (failsHere s c k)

/-- A set waiting for translation has its first missing page walked. A translation that a scalar word waited for is then done with. -/
def walkSet (s : State) (a : ASet) : State :=
  match partyGroup a.party with
  | none => s
  | some gi =>
    let core := (groupAt s gi).quad / 4
    let c := ctxIx s (groupAt s gi)
    let settled (s : State) (a : ASet) : State := if a.role = .probe then probeDone s a c else settle s a.id
    if a.phase ≠ .xlate ∨ a.role = .fetch then s
    else match a.accs.find? fun x => x.n != 0 && (tlbLook s core c x.va (kindX a.kind)).isNone with
    | none => settled s a
    | some x =>
      let s := walkFor s a core c x
      match setAt s a.id with
      | some b => if b.phase = .xlate ∧ allTranslated s core c (kindX b.kind) b.accs then settled s b else s
      | none => s

def execPageWalk (i : Nat) (s : State) : Out :=
  match setAt s i with
  | some a => .next (walkSet s a)
  | none => .next s

/-- The die, context and VA of the first access of a set whose walk has been unanswered for 2^20 dc, with the level of its read. -/
def lateWalk (s : State) (a : ASet) : Option (Nat × Nat × Nat × Nat) :=
  (partyGroup a.party).bind fun gi =>
    let die := (groupAt s gi).quad / 4 / 36
    let c := ctxIx s (groupAt s gi)
    if a.phase ≠ .xlate then none
    else a.accs.findSome? fun x => if x.n = 0 then none else (walkLate s die c x.va).map fun l => (die, c, x.va, l)
/-- A walk whose table read has gone unanswered for 2^20 dc ends, and every access that shares it faults XLATE_TIMEOUT at the level of that
read (R300, R302). -/
def walkTimesOut (s : State) (die c va level : Nat) : State :=
  let hit (x : Acc) : Bool := x.va / 65536 == va / 65536
  let shares (a : ASet) : Bool :=
    a.phase == .xlate && (partyGroup a.party).any (fun gi => (groupAt s gi).quad / 4 / 36 == die && ctxIx s (groupAt s gi) == c) &&
      a.accs.any fun x => x.n != 0 && hit x
  dropWalk ((s.sets.filter shares).foldl (fun s a => faultAccs (forgetWaiter s a.id) a Tc.xlateTimeout level 0 hit) s) die c va
def execWalkTimeout (i : Nat) (s : State) : Out :=
  match (setAt s i).bind (lateWalk s) with
  | some w => .next (walkTimesOut s w.1 w.2.1 w.2.2.1 w.2.2.2)
  | none => .next s

/-! ## Waited words (R228, R229) -/

/-- A read of the group's waited word is under way. -/
def waitReading (s : State) (gi : Nat) : Bool := (setsOf s (.scalar gi)).any fun a => a.dest == .waitcmp

/-- Read the waited word again; its entry is then placed, or kept, anew (R228, R229). -/
def waitAgain (s : State) (gi : Nat) (w : WordWait) : State :=
  let g := groupAt s gi
  if g.pend.isSome ∨ g.saved ∨ g.reached ∨ waitReading s gi ∨ partyFull s (.scalar gi) then s
  else
    let s := s.modGroup gi fun g => { g with wait := .word { w with woken := false, placed := false, at_ := s.now } }
    issueSet s (waitRead s gi w.va w.n)

/-- A line was written above a load time, or its page has gone from here. -/
def waitStale (s : State) (pa t : Nat) : Bool :=
  t < (List.range 4).foldl (fun m k => max m (timesAt s (4 * (pa / 128) + k)).1) 0 || !readableHere s (pageOf pa)

/-- An entry in the home slice's table of 1024, which a group's earlier entry leaves, or a wake at once (R229). -/
def placeWait (s : State) (e : WaitEntry) : State :=
  let s := { s with waits := s.waits.filter fun w => !(w.g == e.g && w.src == e.src) }
  if (s.waits.filter fun w => homeSlice w.pa == homeSlice e.pa).length < 1024 then
    let s := { s with waits := s.waits ++ [e] }
    if waitStale s e.pa e.time then wakeWhere s (· == e) else s
  else s

/-- A message addressed to this package that meets a test, taken from the net. -/
def inboundMsg (s : State) (p : Msg → Bool) : Option Env := s.net.find? fun e => e.dst == aid s && p e.msg
def takeMsg (s : State) (e : Env) : State := { s with net := s.net.erase e }

/-- Place the entry of a group of this package: here, or at .pod for a page mastered elsewhere, in the package of its crown. -/
def placeOwn (s : State) (gi : Nat) (w : WordWait) : State :=
  let mark (placed : Bool) (pa : Nat) (s : State) : State :=
    s.modGroup gi fun g => { g with wait := .word { w with placed := placed, pa := pa } }
  if w.placed ∨ w.woken ∨ waitReading s gi ∨ w.pa = 0 then s
  else if w.sc = 4 ∧ devicePage (pageOf w.pa) ∧ !((tagOf s (pageOf w.pa)).any crowned) then
    send (mark true w.pa s) (homeAid s (pageOf w.pa)) (.waitPlace (w.pa / 128) w.t gi (aid s))
  else if (s.waits.filter fun e => homeSlice e.pa == homeSlice w.pa && !(e.g == gi && e.src == aid s)).length < 1024 then
    placeWait (mark true w.pa s) { pa := w.pa, g := gi, time := w.t, src := aid s }
  else mark false 0 s

/-- An entry of another package's waiter: kept here where the page is crowned, passed on to its crown otherwise. -/
def placeForeign (s : State) (e : Env) (line time g src : Nat) : State :=
  let s := takeMsg s e
  let gpn := line / 512
  let crownAt := ((s.am.dir.find? fun d => d.gpn == gpn).map (·.crown)).getD (aid s)
  if !((tagOf s gpn).any crowned) && crownAt != aid s then send s crownAt (.waitPlace line time g src)
  else if !spaceOpen s gpn src then send s src (.amFault gpn Tc.spaceRefused)
  else placeWait s { pa := 128 * line, g := g, time := time, src := src }

/-- WAIT_ENTRY_PLACE (R229): for a group of this package, or for a waiter of another package with that number. -/
def execWaitEntryPlace (gi : Nat) (s : State) : Out :=
  match inboundMsg s fun m => match m with | .waitPlace _ _ g _ => g == gi | _ => false with
  | some e => .next (match e.msg with | .waitPlace line time g src => placeForeign s e line time g src | _ => s)
  | none => match (groupAt s gi).wait with
    | .word w => .next (placeOwn s gi w)
    | _ => .next s

/-- WAKE: a wake reaches the waiting core, from here or as a message from another package, and causes a re-read. -/
def execWake (gi : Nat) (s : State) : Out :=
  let s := match inboundMsg s (· == .wake gi) with
    | some e => (takeMsg s e).modGroup gi fun g => { g with wait := wokenWait s.now g.wait }
    | none => s
  match (groupAt s gi).wait with
  | .word w => .next (if w.woken then waitAgain s gi w else s)
  | _ => .next s

/-- WAITCMP_REPOLL: 4096 dc without a wake (R228). -/
def execWaitcmpRepoll (gi : Nat) (s : State) : Out :=
  match (groupAt s gi).wait with
  | .word w => .next (if w.at_ + 4096 ≤ s.now then waitAgain s gi w else s)
  | _ => .next s

end Sys2Proof.Machine
end

