-- ==== Sys2Proof/Machine/Fetch.lean ====
section
/-! DEFINITION. Fetching and decoding the next word of a stream (R46, R49, R63 steps 1 to 6), the carousel that chooses it (R268 to
R270), and the points where a pre-emption request stops a stream (R56, R343). -/

namespace Sys2Proof.Machine

open Sys2Proof

/-! ## Slots (R268 to R270) -/

/-- The active slot entry of a quadrant in this dc; reset shared. -/
def slotEntry (s : State) (q : Nat) : BitVec 8 := tget 0 s.hub.active (64 * q + s.cycle % 64)
def slotKind (e : BitVec 8) : Nat := e.toNat / 64
def slotCtx (e : BitVec 8) : Nat := e.toNat % 64

/-- The six bits of a number below 64 in reverse order. -/
def bitReverse6 (n : Nat) : Nat := (List.range 6).foldl (fun m k => 2 * m + (bit n k).toNat) 0
/-- The present dc is an off dc (R369, R370). -/
def offDc (s : State) : Bool := bitReverse6 (s.cycle % 64) < s.hub.pmThrot.toNat % 64

/-- A quadrant restores its state after a strike report in dc r, in dc r + 1 to r + 16, and issues its last 48 dc again until dc r + 64 (R350). -/
def struck (s : State) (q : Nat) : Bool := s.hub.strikes.any fun k => k.1 == q && s.now < k.2 + 65
/-- A word of context `c` may issue on quadrant `q` in this dc; whom a lendable slot goes to is the carousel's choice. -/
def slotAllows (s : State) (q c : Nat) : Bool :=
  let e := slotEntry s q
  if offDc s || struck s q then false
  else match slotKind e with
  | 0 | 2 => true
  | 1 => slotCtx e == c
  | _ => false

/-- A pre-emption request is pending for a group outside a handler. -/
def requested (s : State) (g : Group) : Bool := (teamOf s g).request.isSome && g.frame.isNone

/-- An access set that is parked. -/
def isParked (a : ASet) : Bool := match a.phase with | .parked _ _ _ => true | _ => false

/-! ## Fetches that wait (R181, R194, R301, R304; notes/assumptions/14.md) -/

/-- The set of a stream's fetch that waits, or has faulted. -/
def fetchSet (s : State) (gi : Nat) (lane path1 : Bool) : Option ASet :=
  s.sets.find? fun a => a.role == .fetch && a.party == (if lane then .lane gi else .scalar gi) && a.path1 == path1
/-- A fetch of this stream that has faulted and is not yet released. -/
def fetchParked (s : State) (gi : Nat) (lane path1 : Bool) : Bool := (fetchSet s gi lane path1).any isParked
/-- A fetch that waited for a page is over. -/
def fetchDone (s : State) (gi : Nat) (lane path1 : Bool) : State :=
  let mine (a : ASet) : Bool := a.role == .fetch && a.party == (if lane then .lane gi else .scalar gi) && a.path1 == path1
  { s with sets := s.sets.filter fun a => !mine a }

/-- The accesses of a fetch to a page: one for a page that comes here; one for each line of a range in a page that never does. -/
def fetchAccs (va n pa : Nat) (pte : Word) : List Acc :=
  let one (va pa n : Nat) : Acc :=
    { lane := 0, va := va, pa := pa, n := n, data := 0, cmp := 0, got := 0, done := false, pte := pte }
  if !neverCached pte then [one va pa 4]
  else
    let o := va % 65536
    let len := min n (65536 - o)
    (List.range ((o + len - 1) / 128 + 1 - o / 128)).map fun k => let l := 128 * (o / 128 + k); one (va - o + l) (pa / 65536 * 65536 + l) 128
/-- What a fetch sets going for the page it misses: a walk, a climb, or, for a page that is never cached, a read of its bytes at its master. -/
def fetchAway (s : State) (gi : Nat) (lane path1 : Bool) (va n : Nat) (p : Nat × Nat × Word) : State :=
  let g := groupAt s gi
  let (at_, pa, pte) := p
  let start := max va at_
  let a : ASet :=
    { id := s.nextSet, party := if lane then .lane gi else .scalar gi, kind := .load, sram := false, scope := .grp,
      pc := if lane then (pathOf g path1).lpc else g.spc.toNat, path1 := path1,
      accs := fetchAccs start (va + n - start) pa pte, spans := [], dest := .none, ifc := 4, issued := s.now, floor := 0,
      phase := if pte = 0 then .xlate else .ready, region := none, entry := false, role := .fetch }
  let s := match fetchSet s gi lane path1 with
    | some o => modSet s o.id fun o => if o.spans.isEmpty then { a with id := o.id } else o
    | none => addSet s a
  match fetchSet s gi lane path1 with
  | none => s
  | some a =>
    if pte = 0 then
      let w := joinWalk s (g.quad / 4 / 36) (ctxIx s g) at_
      if w.2 then startClimb w.1 (pageOf pa) (pa / 128) 0 (.set a.id) else w.1
    else if !neverCached pte then startClimb s (pageOf pa) (pa / 128) pte (.set a.id)
    else if !a.spans.isEmpty then s
    else
      let parts := a.accs.map fun x => { acc := 0, pa := x.pa, n := x.n, data := 0, cmp := 0 : Part }
      let s := send s (homeAid s (pageOf pa)) (.remote a.id 0 0xF0 .b32 parts (partyLt s a.party) false true (pteMirr pte))
      let sent : Span := { line := pa / 128, first := 0, count := 32, sent := true, done := false, wts := 0, rts := 0, owe := 1 }
      modSet s a.id fun a => { a with spans := [sent] }
/-- The answer to a fetch at a master: the bytes, for the word that is now fetched; a request to ask again; or a fault. -/
def takeFetched (s : State) (gi : Nat) (lane path1 : Bool) : State :=
  match (fetchSet s gi lane path1).bind fun a => (answerTo s a.id 0).map fun e => (a, e) with
  | none => s
  | some (a, e) =>
    let s := { s with net := s.net.erase e }
    match e.msg with
    | .remoteAns _ _ pa got _ _ stat =>
      if stat = 0 then
        let cells := (a.accs.zip got).foldl (fun m x => setBytes m x.1.pa (leBytes x.1.n x.2)) []
        { s with ibuf := (pageOf pa, cells) :: s.ibuf }
      else if stat.toNat < 0x60 ∨ 0xC0 ≤ stat.toNat then modSet s a.id fun a => { a with spans := [] }
      else parkSet s a stat 0 0 ((a.accs.getD 0 default).va) 0
    | _ => s
/-- A stream's fetch of a range waits, with what it sets going. -/
def fetchWaits (s : State) (gi : Nat) (lane path1 : Bool) (va n : Nat) : Option State :=
  let g := groupAt s gi
  let core := g.quad / 4
  let c := ctxIx s g
  match rangeAway s core c va n .fetch with
  | some p => some (fetchAway s gi lane path1 va n p)
  | none => if rangeHeld s core c va n .fetch then some s else none

/-- Bytes fetched for one word are used for no other. -/
def dropFetched (o : Out) : Out :=
  match o with
  | .next t => .next { t with ibuf := [] }
  | o => o

/-- Fetch the `n` bytes of a word at `va`, all the bytes that the stream may look at being the `len` at `from_`, and run it. -/
def fetchRun (s : State) (gi : Nat) (lane path1 : Bool) (va n from_ len : Nat) (run : State → List Byte → Out) : Out :=
  let g := groupAt s gi
  let core := g.quad / 4
  let c := ctxIx s g
  let s := takeFetched s gi lane path1
  dropFetched (match fetchWaits s gi lane path1 from_ len with
    | some t => .next t
    | none =>
      let s := enterRange (fetchDone s gi lane path1) core c va n .fetch
      match rangePoison s core c va n .fetch with
      | some k => .next (parkFetch s gi lane path1 va ⟨k, 0, 0⟩)
      | none => match coreRead s core c va n .fetch with
        | .error f => .next (parkFetch s gi lane path1 va f)
        | .ok bs => run s bs)

/-! ## Scalar words -/

/-- What the scalar word in four fetched bytes does: its decoding's cause, or its meaning. -/
def scalarWord (run : Instr → State → Out) (gi : Nat) (g : Group) (s : State) (bs : List Byte) : Out :=
  match decodeScalarBytes bs with
  | .error c => .next (scalarTrap s gi g c)
  | .ok i => run i s

/-- The next scalar word of group `gi`; `run` gives decoded instructions their meaning. -/
def stepScalar (run : Instr → State → Out) (gi : Nat) (s : State) : Out :=
  let s := { s with cur := gi, path1 := false }
  match s.groups[gi]? with
  | none => .next s
  | some g =>
    if !scalarMayRun g || requested s g || !slotAllows s g.quad (ctxIx s g) || fetchParked s gi false false then .next s
    else if !scalarInside s g g.spc.toNat then .next (scalarTrap s gi g Tc.fetchBounds)
    else fetchRun s gi false false g.spc.toNat 4 g.spc.toNat 8 (scalarWord run gi g)

/-! ## Lane words -/

/-- A word of a stream that has a safe-point bit and is no pair word. -/
def isSafe (w : BitVec 96) : Bool := w.getLsbD 87 && w.extractLsb' 91 5 != 0x1E#5

/-- The failing check of steps 2 to 6 of R63: a missing mask word comes after ZERO_WORD and ILLEGAL_OPCODE. -/
def laneCause (w next : BitVec 96) (c : Cause) : Cause :=
  if c = Tc.zeroWord ∨ c = Tc.illegalOpcode ∨ c = Tc.maskWord then c
  else if isSafe w && !isMask next then Tc.maskWord
  else c

/-- What a fetched lane word does. -/
def laneWord (run : Instr → State → Out) (gi : Nat) (g : Group) (path1 : Bool) (s : State) (bs : List Byte) : Out :=
  match decodeLaneBytes bs with
  | .error c =>
    .next (laneTrap s gi g path1
      (laneCause (BitVec.ofNat 96 (leNat bs)) ((laneWordAt s g ((pathOf g path1).lpc + 1)).getD 0) c))
  | .ok i => run i s

/-- A group is in a blocking wait, a park among them (R267, R304). -/
def isWaiting (s : State) (gi : Nat) (g : Group) : Bool := g.wait != .none || g.lwait || s.sets.any fun a => ofGroup gi a && isParked a

/-! ### Counters that run out between words (R291 to R293) -/

/-- The masks of a path and of its stack entries. -/
def pathMasks (p : Path) : Mask := p.stack.foldl (fun m e => m ||| (match e with | .join _ k => k | .arm _ k _ => k)) p.exec
/-- The masks of both paths and of every stack entry. -/
def allMasks (g : Group) : Mask := pathMasks g.p0 ||| (g.p1.map pathMasks).getD 0
/-- The path due to issue. -/
def duePath (g : Group) : Bool := dual g && !g.last1
/-- A trap of the group's own counters may be raised: it runs, outside a handler. -/
def mayCount (s : State) (g : Group) : Bool :=
  !g.retired && g.frame.isNone && g.pend.isNone && !g.saved && !g.reached && (teamOf s g).state == .resident
/-- The watchdog's period: 2^WDOG, 24 where the record gives 0 (R254, R291). -/
def dogPeriod (s : State) (g : Group) : Nat := let w := (launchOf s g).record.wdog.toNat; 2 ^ (if w = 0 then 24 else w)
/-- The trap that the group's counters raise before the next lane word of a path, with its lanes. -/
def counterTrap (s : State) (g : Group) : Option (Cause × Mask) :=
  if !mayCount s g then none
  else if dogPeriod s g ≤ g.prog then some (Tc.watchdog, allMasks g)
  else if 4096 ≤ g.gap then some (Tc.safepointGap, 0)
  else none

/-- A pending request is reached at a word: before a safe point of a single path, at the abort LPC of a region and in a blocking wait (R56, R245,
R343). -/
def reachesAt (s : State) (gi : Nat) (g : Group) (w : BitVec 96) : Bool :=
  requested s g && g.region.isNone && (isWaiting s gi g || g.atAbort.isSome || (isSafe w && !dual g))
/-- The word at which a path stands is one before which the request is reached. -/
def reachesFirst (s : State) (gi : Nat) (g : Group) (path1 : Bool) : Bool :=
  requested s g && (laneWordAt s g (pathOf g path1).lpc).any (reachesAt s gi g)

/-- What a path does with its next word: it reaches a pending request, or the word runs. -/
def laneReached (run : Instr → State → Out) (gi : Nat) (g : Group) (path1 : Bool) (s : State) (bs : List Byte) : Out :=
  if reachesAt s gi g (BitVec.ofNat 96 (leNat bs)) then
    .next (s.modGroup gi fun g => { g with reached := true })
  else laneWord run gi g path1 s bs

/-- The next lane word of a path of group `gi`. -/
def stepLane (run : Instr → State → Out) (gi : Nat) (path1 : Bool) (s : State) : Out :=
  let s := { s with cur := gi, path1 := path1 }
  match s.groups[gi]? with
  | none => .next s
  | some g =>
    let lpc := (pathOf g path1).lpc
    if !laneMayRun s g path1 || !slotAllows s g.quad (ctxIx s g) || fetchParked s gi true path1 then .next s
    else match (if reachesFirst s gi g path1 then none else counterTrap s g) with
    | some k => .next (laneTrap s gi g path1 k.1 k.2)
    | none =>
      if (imageOf s g).lwords ≤ lpc then .next (laneTrap s gi g path1 Tc.fetchBounds)
      else fetchRun s gi true path1 (laneVa s g lpc) 12 (laneVa s g 0) (12 * (imageOf s g).lwords) (laneReached run gi g path1)

/-! ## The carousel (R26, R270) -/

/-- Resident groups of a quadrant by position. -/
def groupsOn (s : State) (q : Nat) : List Nat :=
  sortOn (fun i => (groupAt s i).pos)
    ((List.range s.groups.length).filter fun i => let g := groupAt s i; g.quad == q && !g.retired)

/-- A word issued: the step changed its group, and did not only have it begin to wait. -/
def issues (o : Out) (s : State) (gi : Nat) : Bool :=
  match o with
  | .next t =>
    let g := groupAt s gi
    let h := groupAt t gi
    !decide (h = g) && !(h.lwait && !g.lwait) && !(h.wait == .scalar && g.wait != .scalar)
  | _ => true
/-- The path of a group whose word issues: in dual-path mode the one that did not issue last, if it is ready. -/
def readyPath (run : Instr → State → Out) (s : State) (gi : Nat) : Option Bool :=
  let g := groupAt s gi
  [!g.last1, g.last1].find? fun p => (!p || dual g) && issues (stepLane run gi p s) s gi
/-- A word of a group could issue in this dc. -/
def isReady (run : Instr → State → Out) (s : State) (lane : Bool) (gi : Nat) : Bool :=
  if lane then (readyPath run s gi).isSome else issues (stepScalar run gi s) s gi

def rrOf (l : List (Nat × Rr)) (q : Nat) : Rr := (l.lookup q).getD { lastCtx := 64, lastPos := [] }
def rrAt (s : State) (lane : Bool) (q : Nat) : Rr := rrOf (if lane then s.rrLane else s.rrScalar) q
/-- The turn of `x` after `last`, with wrap-around. -/
def turnAfter (last x : Nat) : Nat := if last < x then x - last else 100 + x
/-- The order in which the slot of this dc serves a group: its context, then its position; none where the slot is not for it. -/
def rankIn (s : State) (lane : Bool) (q gi : Nat) : Option (Nat × Nat) :=
  let rr := rrAt s lane q
  let g := groupAt s gi
  let c := ctxIx s g
  let e := slotEntry s q
  let own := slotCtx e == c
  let pos := turnAfter ((rr.lastPos.lookup c).getD 16) g.pos
  match slotKind e with
  | 0 => some (turnAfter rr.lastCtx c, pos)
  | 1 => if own then some (0, pos) else none
  | 2 => some (if own then 0 else turnAfter rr.lastCtx c, pos)
  | _ => none
/-- The slot of this dc has issued a word; `served` keeps the group chosen and those that issued, with the LPC. -/
def slotUsed (s : State) (lane : Bool) (q : Nat) : Option Nat := (s.served.find? fun x => x.1 == (3, 2 * q + lane.toNat)).map (·.2)
def slotLpc (s : State) (q : Nat) : Option Nat := (s.served.find? fun x => x.1 == (4, q)).map (·.2)
def slotIssued (s : State) (q gi : Nat) : Bool := s.served.any fun x => x.1 == (5, q) && x.2 == gi
/-- The first home lane of a group (R26). -/
def homeLane (g : Group) : Nat := g.pos * widthOf g % 64
/-- A group may be packed beside the group that the slot has chosen: the same launch and LPC, and free home lanes. -/
def packs (s : State) (q gi : Nat) (path1 : Bool) (chosen : Nat) : Bool :=
  let g := groupAt s gi
  launchIx s g == launchIx s (groupAt s chosen) && some (pathOf g path1).lpc == slotLpc s q &&
    (groupsOn s q).all fun h => !slotIssued s q h || (h != gi && homeLane (groupAt s h) != homeLane g)

/-- The slot of this dc gives a group its word: no group that it serves first is ready, or the group is packed (R26, R270). -/
def slotGives (run : Instr → State → Out) (s : State) (lane : Bool) (q gi : Nat) (path1 : Bool) : Bool :=
  let others := (groupsOn s q).filter (· != gi)
  let path := !lane || path1 == !(groupAt s gi).last1 || readyPath run s gi == some path1
  match slotUsed s lane q, rankIn s lane q gi with
  | none, some r => path && others.all fun h => (rankIn s lane q h).all fun k =>
      !(decide (k.1 < r.1) || (k.1 == r.1 && decide (k.2 < r.2))) || !isReady run s lane h
  | some chosen, _ => lane && path && packs s q gi path1 chosen && others.all fun h =>
      !(decide ((groupAt s h).pos < (groupAt s gi).pos) && packs s q h ((readyPath run s h).getD false) chosen &&
        homeLane (groupAt s h) == homeLane (groupAt s gi) && isReady run s lane h)
  | none, none => false
/-- What the carousel remembers of a word that issued. -/
def slotMark (s : State) (lane : Bool) (q gi : Nat) (path1 : Bool) (t : State) : State :=
  let g := groupAt s gi
  let c := ctxIx s g
  let first := (slotUsed s lane q).isNone
  let rr := rrAt s lane q
  let shared := slotKind (slotEntry s q) == 0 || slotCtx (slotEntry s q) != c
  let rr' : Rr := { lastCtx := if shared then c else rr.lastCtx, lastPos := tput c g.pos rr.lastPos }
  let t := if !first then t else if lane then { t with rrLane := tput q rr' t.rrLane } else { t with rrScalar := tput q rr' t.rrScalar }
  { t with served := (if first then [((3, 2 * q + lane.toNat), gi)] else []) ++
      (if lane then [((4, q), (pathOf g path1).lpc), ((5, q), gi)] else []) ++ t.served }

/-- A turn of a group's scalar or lane stream: its word issues where the slot of this dc gives it one; beginning to wait needs no slot. -/
def slotStep (run : Instr → State → Out) (lane : Bool) (gi : Nat) (path1 : Bool) (s : State) : Out :=
  let q := (groupAt s gi).quad
  let o := if lane then stepLane run gi path1 s else stepScalar run gi s
  match issues o s gi, o with
  | true, .next t => .next (if slotGives run s lane q gi path1 then slotMark s lane q gi path1 t else s)
  | _, o => o

/-- One slot of quadrant `q` in this dc: the group that it serves issues its word, and the groups packed beside it theirs. -/
def stepSlot (run : Instr → State → Out) (q : Nat) (lane : Bool) (s : State) : Out :=
  let one (o : Out) (gi : Nat) : Out :=
    match o with
    | .next t =>
      let path := if lane then (readyPath run t gi).getD false else false
      if isReady run t lane gi then slotStep run lane gi path t else o
    | o => o
  let first := (groupsOn s q).find? fun gi => isReady run s lane gi && slotGives run s lane q gi ((readyPath run s gi).getD false)
  match first with
  | none => .next s
  | some gi => (if lane then (groupsOn s q).filter (· != gi) else []).foldl one (one (.next s) gi)

end Sys2Proof.Machine
end

