-- ==== Sys2Proof/Machine/Matrix.lean ====
section
/-! DEFINITION. The compute-in-memory arrays (R119 to R144): formats, the aligned-block rule, rows of a multiplication, the matrix unit with
its acceptance, reads, completion, freezing, and the meanings of majors 0x90 to 0x98. -/

namespace Sys2Proof.Machine

open Sys2Proof

/-! ## Arrays and units -/

/-- The arrays of a group's quadrant (R120). -/
def sharesOf (s : State) (g : Group) : List Cim := (teamOf s g).cims.getD (g.quad % 4) []
def cimAt (s : State) (g : Group) (m : Nat) : Cim := (sharesOf s g).getD m default
def modCim (s : State) (g : Group) (m : Nat) (f : Cim → Cim) : State :=
  s.modTeam g.team fun t => { t with cims := t.cims.modify (g.quad % 4) fun l => l.modify m f }
/-- Every array of a span. -/
def modSpan (s : State) (g : Group) (first count : Nat) (f : Cim → Cim) : State :=
  (List.range count).foldl (fun s k => modCim s g (first + k) f) s

def unitOf (s : State) (q : Nat) : MatUnit := (s.units.lookup q).getD { run := none, fifo := [] }
def setUnit (s : State) (q : Nat) (u : MatUnit) : State :=
  { s with units := if u.run.isNone && u.fifo.isEmpty then tdel q s.units else tput q u s.units }

/-! ## Formats (R122, R123) -/

/-- The R122 code of an MLDB type. -/
def formatCode : Ty → Nat
  | .bf16 => 0 | .e4m3 => 1 | .e5m2 => 2 | .e2m1 => 3 | .f64 => 4 | _ => 5
/-- The element type of a code. -/
def formatTy : Nat → Ty
  | 0 => .bf16 | 1 => .e4m3 | 2 => .e5m2 | 3 => .e2m1 | 4 => .f64 | _ => .i8
/-- W and Q of a floating code. -/
def formatW : Nat → Nat
  | 0 => 20 | 1 => 10 | 2 => 10 | 3 => 5 | 4 => 80 | _ => 8
def formatQ : Nat → Nat
  | 0 => 11 | 1 => 5 | 2 => 6 | 4 => 26 | _ => 0

def fwA (f : Nat) : Nat := f % 16
def fwB (f : Nat) : Nat := bits f 7 4
def fwP (f : Nat) : Nat := bits f 11 8
def fwAcc (f : Nat) : Bool := bit f 12
def fwSat (f : Nat) : Bool := bit f 13
def fwFull (f : Nat) : Bool := bit f 14

/-- FORMAT_RESERVED, then FORMAT_PAIR (R123). -/
def formatFails (f : Nat) : Option Cause :=
  let a := fwA f
  let b := fwB f
  if 6 ≤ a ∨ 6 ≤ b ∨ f / 2 ^ 15 ≠ 0 ∨ (a = 5 ∧ ¬(2 ≤ fwP f ∧ fwP f ≤ 8)) ∨ (a ≠ 5 ∧ (fwP f ≠ 0 ∨ fwFull f)) then
    some Tc.formatReserved
  else if a = b ∨ (1 ≤ a ∧ a ≤ 2 ∧ 1 ≤ b ∧ b ≤ 2) then none
  else some Tc.formatPair

/-- Planes of an A row. -/
def rowPlanes (f : Nat) : Nat := if fwA f = 5 then fwP f else formatW (fwA f)
/-- Bytes of an A row (R126). -/
def rowBytes (f : Nat) : Nat :=
  match fwA f with
  | 0 => 512 | 1 | 2 => 256 | 3 => 128 | 4 => 2048
  | _ => if fwFull f then 256 else 32 * fwP f
/-- The bytes that M rows of A occupy. -/
def rowsBytes (f m : Nat) : Nat := m * rowBytes f + if fwA f = 3 then 8 * m else 0
/-- Bytes of a column of B (R125). -/
def colBytes : Nat → Nat
  | 0 => 512 | 3 => 128 | 4 => 2048 | _ => 256
def tileBytes (code n : Nat) : Nat := n * colBytes code + if code = 3 then 8 * n else 0

/-! ## The aligned-block rule (R127) -/

/-- A block of 32 elements aligned: integers, shift, whether any is NaN, masks of infinities; `e` is what MLDB keeps as its exponent. -/
structure Blk where
  n     : List Int
  shift : Int
  nan   : Bool
  pinf  : Nat
  ninf  : Nat
  e     : Int
  deriving DecidableEq, Repr

/-- Bits of the elements that meet a test. -/
def maskWhere (xs : List Fv) (p : Fv → Bool) : Nat :=
  (List.range xs.length).foldl (fun m k => if p (xs.getD k .nan) then m + 2 ^ k else m) 0

/-- AlignBlock of a floating format. -/
def alignFloat (code : Nat) (raw : List Nat) : Blk :=
  let t := formatTy code
  let f := fmtOf t
  let xs := raw.map (valueOf t)
  let e := xs.foldl (fun (m : Int) x => match x with | .fin _ _ k => max m (k + f.p) | _ => m) (1 - (f.bias : Int))
  let one (x : Fv) : Int := match x with
    | .fin neg m k =>
      let v : Int := (m * 2 ^ formatQ code / 2 ^ (e - (k + f.p)).toNat : Nat)
      if neg then -v else v
    | _ => 0
  { n := xs.map one, shift := e - ((formatW code : Nat) - 2 : Int), nan := xs.any Fv.isNan,
    pinf := maskWhere xs (· == .inf false), ninf := maskWhere xs (· == .inf true), e := e }

/-- An MXFP4 block with its scale. -/
def alignMx (raw : List Nat) (x : Nat) : Blk :=
  let twice (b : Nat) : Int := match valueOf .e2m1 b with
    | .fin neg m k => let v : Int := (m * 2 ^ (k + 1).toNat : Nat); if neg then -v else v
    | _ => 0
  { n := raw.map twice, shift := (x : Int) - 128, nan := x == 255, pinf := 0, ninf := 0, e := x }

/-- A BPN block of values with its shift. -/
def alignBpn (ys : List Int) (shift : Int) : Blk := { n := ys, shift := shift, nan := false, pinf := 0, ninf := 0, e := 0 }

/-- Element `k` of a row or column of a code: its bits (R71). -/
def elemBits (code : Nat) (bs : List Byte) (k : Nat) : Nat :=
  match code with
  | 0 => field bs (2 * k) 2
  | 3 => field bs (k / 2) 1 / 16 ^ (k % 2) % 16
  | 4 => field bs (8 * k) 8
  | _ => field bs k 1

/-- BPN-p element `k` of a chunk: its first p planes, most significant first (R76, R77). -/
def bpnElem (p : Nat) (bs : List Byte) (k : Nat) : Int :=
  let v := (List.range p).foldl (fun v j => 2 * v + field bs (32 * j + k / 8) 1 / 2 ^ (k % 8) % 2) 0
  signedOf p v

/-- The 8 blocks of a row or column; `scales` are its MXFP4 scale bytes, `p` its BPN precision. -/
def alignRow (code p : Nat) (bs scales : List Byte) : List Blk :=
  (List.range 8).map fun b =>
    let ks := (List.range 32).map (32 * b + ·)
    match code with
    | 3 => alignMx (ks.map (elemBits code bs)) (field scales b 1)
    | 5 => alignBpn (ks.map (bpnElem p bs)) (8 - (p : Int))
    | _ => alignFloat code (ks.map (elemBits code bs))

/-! ## MLDB's side (R125, R127) -/

/-- The cells of a value across its column groups: FP64 spans four. -/
def cellOf (code g : Nat) (v : Int) : BitVec 20 :=
  if code = 4 then BitVec.ofNat 20 (wrapInt 80 v / 2 ^ (20 * g)) else BitVec.ofInt 20 v
def groupsPer (code : Nat) : Nat := if code = 4 then 4 else 1

/-- The exponent slot of a block (R125, R127). -/
def slotOf (code : Nat) (b : Blk) : BitVec 16 := if code = 3 then BitVec.ofNat 16 b.e.toNat else BitVec.ofInt 16 b.e
/-- The slot an all-zero block leaves (R125). -/
def emptySlot (code : Nat) : BitVec 16 :=
  if code = 3 ∨ code = 5 then 0 else BitVec.ofInt 16 (1 - ((fmtOf (formatTy code)).bias : Int))

/-- Put one aligned column into an array. -/
def putColumn (code c : Nat) (blks : List Blk) (m : Cim) : Cim :=
  let col := groupsPer code * c
  (List.range blks.length).foldl (fun m b =>
    let k := blks.getD b default
    let key := 64 * b + col
    let m := { m with
      expo := tset 0 m.expo key (slotOf code k), nan := tset 0 m.nan key (if k.nan then 1 else 0)
      pinf := tset 0 m.pinf key (BitVec.ofNat 32 k.pinf), ninf := tset 0 m.ninf key (BitVec.ofNat 32 k.ninf) }
    (List.range 32).foldl (fun m j =>
      (List.range (groupsPer code)).foldl (fun m g =>
        { m with cells := tset 0 m.cells (64 * (32 * b + j) + col + g) (cellOf code g (k.n.getD j 0)) }) m) m) m
where
  /-- A block of zeros. -/
  default : Blk := { n := [], shift := 0, nan := false, pinf := 0, ninf := 0, e := 0 }

/-- The array a tile of NCOLS columns leaves (R125, R127, R137); accumulators stay. -/
def loadTile (code n : Nat) (bs : List Byte) (m : Cim) : Cim :=
  let blank : Cim := { m with cells := [], nan := [], pinf := [], ninf := [], expo := [] }
  let blank := (List.range 8).foldl (fun m b => (List.range 64).foldl (fun m c =>
    if groupsPer code * n ≤ c then { m with expo := tset 0 m.expo (64 * b + c) (emptySlot code) } else m) m) blank
  let m := (List.range n).foldl (fun m c =>
    let col := (bs.drop (c * colBytes code)).take (colBytes code)
    putColumn code c (alignRow' code col ((bs.drop (n * colBytes code + 8 * c)).take 8)) m) blank
  { m with state := .loaded, ncols := BitVec.ofNat 7 n, bfmt := BitVec.ofNat 4 code }
where
  /-- B takes BPN8 with shift 0. -/
  alignRow' (code : Nat) (bs scales : List Byte) : List Blk := alignRow code 8 bs scales

/-- The integer of element `k` of column `c` (R127). -/
def cellValue (m : Cim) (code k c : Nat) : Int :=
  if code = 4 then
    signedOf 80 ((List.range 4).foldl (fun v g => v + (tget 0 m.cells (64 * k + 4 * c + g)).toNat * 2 ^ (20 * g)) 0)
  else (tget 0 m.cells (64 * k + c)).toInt

/-- Block `b` of column `c` as the array holds it. -/
def columnBlock (m : Cim) (code c b : Nat) : Blk :=
  let key := 64 * b + groupsPer code * c
  let slot := tget 0 m.expo key
  { n := (List.range 32).map fun j => cellValue m code (32 * b + j) c
    shift := if code = 3 then (slot.toNat % 256 : Nat) - 128 else if code = 5 then 0 else slot.toInt - ((formatW code : Nat) - 2 : Int)
    nan := tget 0 m.nan key == 1, pinf := (tget 0 m.pinf key).toNat, ninf := (tget 0 m.ninf key).toNat, e := 0 }

/-! ## Rows (R128) -/

/-- BlockTerm. -/
def blockTerm (a c : Blk) : Fv :=
  let inf (b : Blk) (k : Nat) : Bool := bit b.pinf k || bit b.ninf k
  let zero (b : Blk) (k : Nat) : Bool := b.n.getD k 0 == 0 && !inf b k
  let neg (b : Blk) (k : Nat) : Bool := if inf b k then bit b.ninf k else b.n.getD k 0 < 0
  if a.nan || c.nan then .nan
  else
    let hot := (List.range 32).filter fun k => inf a k || inf c k
    if hot.any fun k => zero a k || zero c k then .nan
    else match (hot.map fun k => neg a k ^^ neg c k).dedup with
      | [] =>
        let sum := (List.range 32).foldl (fun v k => v + a.n.getD k 0 * c.n.getD k 0) (0 : Int)
        if sum = 0 then .zero false else .fin (sum < 0) sum.natAbs (a.shift + c.shift)
      | [sgn] => .inf sgn
      | _ => .nan

/-- FADD in RNE whose overflow follows SAT (R128). -/
def addSat (t : Ty) (sat : Bool) (x y : Nat) : Nat :=
  match fvAdd .rne (valueOf t x) (valueOf t y) with
  | .inf neg => roundTo t .rne false 0 (.inf neg)
  | v => roundTo t .rne sat 0 v

/-- IntAdd32: clamp or wrap. -/
def intAdd32 (sat : Bool) (x : Nat) (v : Int) : Nat :=
  let r := signedOf 32 x + v
  wrapInt 32 (if sat then max (-(2 ^ 31 : Int)) (min (2 ^ 31 - 1) r) else r)

/-- The integer value of a BPN term. -/
def termInt : Fv → Int
  | .fin neg m e => let v : Int := (m * 2 ^ e.toNat : Nat); if neg then -v else v
  | _ => 0

/-- The words of an accumulator column. -/
def accRead (m : Cim) (f64 : Bool) (r c : Nat) : Nat :=
  if f64 then (tget 0 m.acc (64 * r + 2 * c)).toNat + 2 ^ 32 * (tget 0 m.acc (64 * r + 2 * c + 1)).toNat
  else (tget 0 m.acc (64 * r + c)).toNat
def accWrite (m : Cim) (f64 : Bool) (r c v : Nat) : Cim :=
  if f64 then
    { m with acc := tset 0 (tset 0 m.acc (64 * r + 2 * c) (BitVec.ofNat 32 v)) (64 * r + 2 * c + 1) (BitVec.ofNat 32 (v / 2 ^ 32)) }
  else { m with acc := tset 0 m.acc (64 * r + c) (BitVec.ofNat 32 v) }

/-- One column of MmaRow. -/
def mmaColumn (f : Nat) (a : List Blk) (m : Cim) (r c : Nat) : Nat :=
  let code := fwA f
  let f64 := code = 4
  let t : Ty := if f64 then .f64 else .f32
  let x0 := if fwAcc f then accRead m f64 r c else if code = 5 then 0 else if f64 then 2 ^ 63 else 2 ^ 31
  (List.range 8).foldl (fun x b =>
    let term := blockTerm (a.getD b (alignBpn [] 0)) (columnBlock m (fwB f) c b)
    if code = 5 then intAdd32 (fwSat f) x (termInt term)
    else addSat t (fwSat f) x (match term with | .nan => nanBits t | v => roundTo t .rne (fwSat f) 0 v)) x0

/-- MmaRow on one array. -/
def mmaRow (f : Nat) (a : List Blk) (r : Nat) (m : Cim) : Cim :=
  let f64 := fwA f = 4
  (List.range (if f64 then 16 else 64)).foldl (fun m' c => accWrite m' f64 r c (mmaColumn f a m r c)) m

/-! ## Reads and rows in time (R130 to R132) -/

/-- Rows or 512-byte pieces a command reads. -/
def pieces (c : MatCmd) : Nat :=
  match c.kind with
  | .mldb => ceilDiv (tileBytes c.fmt c.n) 512
  | .mma => c.n - c.row0
  | .mclr => 0
/-- The dc of the read of piece `j`, and of the first plane step of row `j` of this run. -/
def readAt (c : MatCmd) (j : Nat) : Nat :=
  match c.kind with
  | .mldb => c.t0 + 1 + j
  | _ => c.t0 + 2 + rowPlanes c.fmtw * j / 4
/-- A piece is not read yet, or is read in this dc (R132). -/
def pieceUnread (s : State) (c : MatCmd) (j : Nat) : Bool := c.read ≤ j || s.now ≤ readAt c j
def startAt (c : MatCmd) (j : Nat) : Nat := c.t0 + 6 + rowPlanes c.fmtw * j / 4
/-- The dc of completion. -/
def doneAt (c : MatCmd) : Nat :=
  match c.kind with
  | .mldb => c.t0 + 10 + pieces c
  | .mma => c.t0 + 12 + ceilDiv (rowPlanes c.fmtw * (c.n - c.row0)) 4
  | .mclr => c.t0 + 4

/-- The team-SRAM ranges piece `j` reads. -/
def pieceRanges (c : MatCmd) (j : Nat) : List (Nat × Nat) :=
  match c.kind with
  | .mldb => [(c.src + 512 * j, min 512 (tileBytes c.fmt c.n - 512 * j))]
  | .mma =>
    let r := c.row0 + j
    (c.src + r * rowBytes c.fmtw, rowBytes c.fmtw) :: (if fwA c.fmtw = 3 then [(c.src + 128 * c.n + 8 * r, 8)] else [])
  | .mclr => []

/-- Team SRAM as the issuer of a command sees it: with its earlier lane stores and atomics that have not yet left, in order, so that the
command sees program order (R132; notes/assumptions/83.md). -/
def issuerSram (s : State) (c : MatCmd) : Memory :=
  let mine := s.sets.filter fun a => a.party == .lane c.g && a.id < c.set0 && a.sram && storeClass a.kind && a.phase == .ready
  mine.foldl (fun m a => (rowsIn a).foldl (fun m row =>
    let w := match a.kind with
      | .store => storeBytes a row
      | _ => (atomicLanes a row (byteAt m)).1
    w.foldl (fun m b => setByte m b.1 b.2) m) m) (teamOf s (groupAt s c.g)).sram

/-- Read the next piece: its bytes, and the times of its rows as a load of the command (R158). -/
def readPiece (s : State) (c : MatCmd) : State × MatCmd :=
  let g := groupAt s c.g
  let t := teamOf s g
  let rs := pieceRanges c c.read
  let rows := (rs.flatMap fun r => (List.range ((r.1 + r.2 - 1) / 128 + 1 - r.1 / 128)).map (r.1 / 128 + ·)).dedup
  let lt := rows.foldl (fun m r => max m (rowTimes t r).1) c.lt
  let s := s.modTeam g.team fun t => rows.foldl (fun t r => setRow t r ((rowTimes t r).1, max (rowTimes t r).2 c.lt)) t
  (s, { c with read := c.read + 1, lt := lt, buf := c.buf ++ [rs.flatMap fun r => bytesAt (issuerSram s c) r.1 r.2] })

/-- Start the next row: its sums into every array of the span, NEXT one on (R128, R134). -/
def startRow (s : State) (c : MatCmd) : State × MatCmd :=
  match c.buf with
  | [] => (s, c)
  | bs :: rest =>
    let r := c.row0 + c.begun
    let code := fwA c.fmtw
    let a := alignRow code (fwP c.fmtw) bs (bs.drop 128)
    let s := modSpan s (groupAt s c.g) c.first c.count fun m => { mmaRow c.fmtw a r m with next := BitVec.ofNat 7 (r + 1) }
    (s, { c with buf := rest, begun := c.begun + 1 })

/-- Everything due by this CYCLE: reads first, then rows whose first plane step has come, none after a freeze. `fuel` bounds them. -/
def advanceCmd (fuel : Nat) (s : State) (c : MatCmd) : State × MatCmd :=
  match fuel with
  | 0 => (s, c)
  | fuel + 1 =>
    let last := match c.frozen with | some t => min t s.now | none => s.now
    if c.kind = .mma ∧ c.begun < c.read ∧ startAt c c.begun ≤ last ∧ (pieces c ≤ c.read ∨ startAt c c.begun < readAt c c.read) then
      let r := startRow s c; advanceCmd fuel r.1 r.2
    else if c.read < pieces c ∧ readAt c c.read ≤ s.now ∧ (c.frozen.all fun t => startAt c c.read ≤ t) then
      let r := readPiece s c; advanceCmd fuel r.1 r.2
    else if c.kind = .mma ∧ c.begun < c.read ∧ startAt c c.begun ≤ last then
      let r := startRow s c; advanceCmd fuel r.1 r.2
    else (s, c)

/-- The matrix units up to this CYCLE. -/
def advanceUnits (s : State) : State :=
  s.units.foldl (fun s u => match u.2.run with
    | none => s
    | some c =>
      let r := advanceCmd 200 s c
      setUnit r.1 u.1 { unitOf r.1 u.1 with run := some r.2 }) s

/-- A later store of the issuing group waits for bytes that a command has not read in an earlier dc (R132). -/
def matrixHolds (s : State) (a : ASet) : Bool :=
  match a.party with
  | .lane gi => s.units.any fun u => u.2.run.any fun c => c.g == gi && c.set0 ≤ a.id &&
      (List.range (pieces c)).any fun j => pieceUnread s c j && (pieceRanges c j).any fun r =>
        a.accs.any fun x => x.n != 0 && x.va < r.1 + r.2 && r.1 < x.va + x.n
  | _ => false

/-- STORE_SET_LEAVE. -/
def execStoreSetLeave (i : Nat) (s : State) : Out :=
  match setAt s i with
  | some a => .next (if mayLeave s a && !matrixHolds s a then leaveSet s a else s)
  | none => .next s

/-! ## Acceptance (R121, R133 to R135, R138, R139, R143) -/

/-- An acceptance: a trap, or the state with the command running. -/
abbrev Accept := State → Group → Except Cause (State × MatCmd)

/-- The common part of a command. -/
def baseCmd (s : State) (g : Group) (gi : Nat) (kind : MatKind) (first count : Nat) (tag : BitVec 8) (evt : Bool) : MatCmd :=
  { kind := kind, g := gi, first := first, count := count, tag := tag, evt := evt, t0 := s.now, row0 := 0, n := 0, fmt := 0, src := 0,
    fmtw := 0, read := 0, buf := [], begun := 0, lt := g.llt, set0 := s.nextSet, eng0 := g.copy.next, frozen := none, waiting := false }

/-- The arrays of a span. -/
def spanCims (s : State) (g : Group) (first count : Nat) : List Cim := (List.range count).map fun k => cimAt s g (first + k)

/-- A group reaches the head of its issue and waits for a unit: behind those that came in earlier dc, and among those of this dc by its group
number (R121). -/
def joinUnit (s : State) (q : Nat) (me : Nat × Bool) : State :=
  let u := unitOf s q
  let now (e : Nat × Bool) : Bool := s.served.any fun x => x.1 == (6, q) && x.2 == e.1
  let late := sortOn (fun e => (groupAt s e.1).gid) (u.fifo.filter now ++ [me])
  serve (setUnit s q { u with fifo := u.fifo.filter (fun e => !now e) ++ late }) (6, q) me.1

/-- Issue of a matrix command: accepted where the unit is idle and no other waits before it; else it joins the waiters, a blocking wait
(R121, R267). -/
def matIssue (x : LaneIn) (acc : Accept) : State :=
  let q := x.g.quad
  let u := unitOf x.s q
  let me := (x.gi, x.path1)
  if u.run.isNone && (u.fifo.isEmpty || u.fifo.head? == some me) then
    match acc x.s x.g with
    | .error c => laneTrap (setUnit x.s q { u with fifo := u.fifo.filter (· != me) }) x.gi x.g x.path1 c
    | .ok (s, c) =>
      let s := setUnit s q { run := some c, fifo := u.fifo.filter (· != me) }
      s.modGroup x.gi (advance x none)
  else
    let s := if u.fifo.contains me then x.s else joinUnit x.s q me
    s.modGroup x.gi fun g => if g.lwait then g else { g with lwait := true, gap := 0 }

/-! ## Checks (R136, R144) -/

def inRegionTrap (x : LaneIn) : Option LTrap := forbidden x
def trapIf (c : Bool) (cause : Cause) : Option LTrap := if c then some { cause := cause } else none
/-- The first trap of a list. -/
def firstTrap (l : List (Option LTrap)) : Option LTrap := l.findSome? id

/-- Lanes of a uniform field that names a v-register. -/
def notSnap (x : LaneIn) (pos : Nat) : Bool := !replaced x pos && (fieldOf x.w pos).toNat < 192
/-- MACRO_NONE, the checks of the word itself (MATRIX_UNIFORM and `part`), and then the use that a live region forbids (R144, R251). -/
def matFirst (x : LaneIn) (snaps : List Nat) (part : Option LTrap := none) : List (Option LTrap) :=
  [trapIf ((sharesOf x.s x.g).isEmpty) Tc.cimNone, trapIf (snaps.any (notSnap x)) Tc.matrixUniform, part, inRegionTrap x]
/-- A uniform operand: the immediate bits, or the snapshot. -/
def uniField (x : LaneIn) (pos imm : Nat) : Nat := if replaced x pos then imm else (snapReg x.g (fieldOf x.w pos)).toNat
/-- MACRO_RANGE (R136). -/
def spanBad (x : LaneIn) (first count : Nat) : Bool := count == 0 || (sharesOf x.s x.g).length < first + count
def sramBytes (x : LaneIn) : Nat := (launchOf x.s x.g).record.sram.toNat
def cmdTag (w : LaneW) : BitVec 8 := w.imm.extractLsb' 16 8
def cmdEvt (w : LaneW) : Bool := w.imm.getLsbD 8

/-! ## MLDB (R137) -/

def mldbCols (x : LaneIn) : Nat := uniField x 2 (x.w.imm.toNat % 128)
def mldbSrc (x : LaneIn) : Nat := (snapReg x.g x.w.va).toNat

def mldbAccept (w : LaneW) (gi src n : Nat) : Accept := fun s g =>
  let m := w.vd.toNat
  if (teamOf s g).frozen then .error Tc.matrixFrozen
  else if (cimAt s g m).state = .stopped then .error Tc.cimStopped
  else
    let c := { baseCmd s g gi .mldb m 1 (cmdTag w) (cmdEvt w) with n := n, fmt := formatCode w.ty, src := src }
    .ok (modCim s g m fun k => { k with state := .busy }, c)

def execMldb (w : LaneW) (s : State) : Out :=
  let code := formatCode w.ty
  laneExec 0x90 w s
    (fun x =>
      let n := mldbCols x
      firstTrap (matFirst x [1, 2] ++
        [trapIf (spanBad x w.vd.toNat 1) Tc.cimRange, trapIf (n == 0 || (if code = 4 then 16 else 64) < n) Tc.countRange,
         trapIf (mldbSrc x % 256 != 0) Tc.sramAlign, trapIf (sramBytes x < mldbSrc x + tileBytes code n) Tc.sramBounds]))
    noWait
    fun x => if (acting x).isEmpty then groupEff (·.g) x else matIssue x (mldbAccept w x.gi (mldbSrc x) (mldbCols x))

/-! ## MMA and MRESUME (R138, R139) -/

/-- The format word of a lane; lane 0 gives the command's. -/
def formatWord (x : LaneIn) (i : Nat) : Nat := source x (laneAt x.g i) 1
/-- ILLEGAL_CONVERGENCE, then FORMAT_DIVERGENCE (R124). -/
def convergence (x : LaneIn) : Option LTrap :=
  let all := List.range x.g.lanes.length
  let act := acting x
  let out := all.filter fun i => !act.contains i
  let off := all.filter fun i => formatWord x i != formatWord x 0
  if !out.isEmpty then some { cause := Tc.illegalConvergence, lanes := maskOf out }
  else if !off.isEmpty then some { cause := Tc.formatDivergence, lanes := maskOf off, info := w64 (formatWord x 0) }
  else none

def mmaRows (x : LaneIn) : Nat := (snapReg x.g x.w.vc).toNat
def mmaAddr (x : LaneIn) : Nat := (snapReg x.g x.w.vb).toNat
def spanCount (w : LaneW) : Nat := w.imm.toNat % 32

/-- Start a run of rows on a span whose status holds it. -/
def mmaCmd (s : State) (g : Group) (gi first count : Nat) (tag : BitVec 8) (evt : Bool) (fw m a row0 : Nat) : State × MatCmd :=
  let c := { baseCmd s g gi .mma first count tag evt with n := m, fmt := fwA fw, src := a, fmtw := fw, row0 := row0 }
  (modSpan s g first count fun k => { k with state := .busy }, c)

def mmaAccept (w : LaneW) (gi fw m a : Nat) : Accept := fun s g =>
  let first := w.vd.toNat
  let count := spanCount w
  let span := spanCims s g first count
  if (teamOf s g).frozen then .error Tc.matrixFrozen
  else if span.any (·.state == .stopped) then .error Tc.cimStopped
  else if span.any fun k => k.state == .empty || k.bfmt.toNat != fwB fw then .error Tc.bMismatch
  else
    let s := modSpan s g first count fun k =>
      { k with m := BitVec.ofNat 7 m, next := 0, fmtw := BitVec.ofNat 15 fw, aaddr := BitVec.ofNat 19 a, tag := cmdTag w, evt := cmdEvt w,
               count := BitVec.ofNat 5 count, first := BitVec.ofNat 5 first }
    .ok (mmaCmd s g gi first count (cmdTag w) (cmdEvt w) fw m a 0)

def execMma (w : LaneW) (s : State) : Out :=
  laneExec 0x91 w s
    (fun x =>
      let fw := formatWord x 0
      firstTrap (matFirst x [2, 3] ++
        [convergence x, (formatFails fw).map fun c => { cause := c }, trapIf (spanBad x w.vd.toNat (spanCount w)) Tc.cimRange,
         trapIf (mmaRows x == 0 || 64 < mmaRows x) Tc.countRange, trapIf (mmaAddr x % 64 != 0) Tc.sramAlign,
         trapIf (sramBytes x < mmaAddr x + rowsBytes fw (mmaRows x)) Tc.sramBounds]))
    noWait
    fun x => matIssue x (mmaAccept w x.gi (formatWord x 0) (mmaRows x) (mmaAddr x))

def resumeAccept (w : LaneW) (gi : Nat) : Accept := fun s g =>
  let first := w.vd.toNat
  let k := cimAt s g first
  let count := k.count.toNat
  let span := spanCims s g first count
  let same (o : Cim) : Bool := o.state == .stopped && o.m == k.m && o.next == k.next && o.fmtw == k.fmtw && o.aaddr == k.aaddr &&
    o.tag == k.tag && o.evt == k.evt && o.count == k.count && o.first == k.first
  let fw := k.fmtw.toNat
  if (teamOf s g).frozen then .error Tc.matrixFrozen
  else if k.state ≠ .stopped ∨ k.first.toNat ≠ first ∨ count = 0 ∨ (sharesOf s g).length < first + count ∨ !span.all same then
    .error Tc.resumeState
  else if (launchOf s g).record.sram.toNat < k.aaddr.toNat + rowsBytes fw k.m.toNat then .error Tc.sramBounds
  else .ok (mmaCmd s g gi first count k.tag k.evt fw k.m.toNat k.aaddr.toNat (min k.next.toNat k.m.toNat))

def execMresume (w : LaneW) (s : State) : Out :=
  laneExec 0x97 w s (fun x => firstTrap (matFirst x [] ++ [trapIf (spanBad x w.vd.toNat 1) Tc.cimRange])) noWait
    fun x => if (acting x).isEmpty then groupEff (·.g) x else matIssue x (resumeAccept w x.gi)

/-! ## MCLR (R140) -/

def mclrAccept (w : LaneW) (gi : Nat) : Accept := fun s g =>
  let first := w.vd.toNat
  let count := spanCount w
  if (teamOf s g).frozen then .error Tc.matrixFrozen
  else
    let s := modSpan s g first count fun k =>
      if w.opx.getLsbD 0 then freshCim k else { k with acc := [], state := if k.state = .stopped then .loaded else k.state }
    .ok (s, baseCmd s g gi .mclr first count 0 false)
where
  /-- Everything 0, EMPTY. -/
  freshCim (_ : Cim) : Cim :=
    { cells := [], expo := [], pinf := [], ninf := [], nan := [], acc := [], state := .empty, bfmt := 0, ncols := 0, m := 0, next := 0,
      fmtw := 0, aaddr := 0, tag := 0, evt := false, count := 0, first := 0 }

def execMclr (w : LaneW) (s : State) : Out :=
  laneExec 0x98 w s (fun x => firstTrap (matFirst x [] ++ [trapIf (spanBad x w.vd.toNat (spanCount w)) Tc.cimRange])) noWait
    fun x => if (acting x).isEmpty then groupEff (·.g) x else matIssue x (mclrAccept w x.gi)

/-! ## Drains and fills (R140, R141) -/

/-- The array IMM[4:0] names. -/
def moveCim (w : LaneW) : Nat := w.imm.toNat % 32
/-- The column of a lane (R136). -/
def columnOf (x : LaneIn) (i : Nat) : Nat := x.w.opx.toNat * x.g.lanes.length + i
/-- COLUMN_PART. -/
def partBad (x : LaneIn) : Bool :=
  let n := x.g.lanes.length
  (if x.w.ty = .f64 then ceilDiv 16 n else 64 / n) ≤ x.w.opx.toNat
/-- An accepted command names the array. -/
def cimInUse (x : LaneIn) : Bool :=
  (unitOf x.s x.g.quad).run.any fun c =>
    (groupAt x.s c.g).team == x.g.team && c.first ≤ moveCim x.w && moveCim x.w < c.first + c.count
def moveRow (x : LaneIn) (hi : Nat) : Nat := uniField x 2 (bits x.w.imm.toNat hi 8)

/-- The frame of a drain or fill. -/
def moveExec (maj : Nat) (w : LaneW) (s : State) (hi rows : Nat) (own : LaneIn → Option LTrap) (eff : LaneIn → Nat → State) : Out :=
  laneExec maj w s
    (fun x => firstTrap (matFirst x [2] (trapIf (partBad x) Tc.columnPart) ++
      [trapIf (spanBad x (moveCim w) 1) Tc.cimRange, trapIf (rows ≤ moveRow x hi) Tc.countRange, own x]))
    cimInUse fun x => eff x (moveRow x hi)

def execMdrain (w : LaneW) (s : State) : Out :=
  moveExec 0x92 w s 13 64 noTrap fun x r =>
    let m := cimAt x.s x.g (moveCim w)
    groupEff (fun x => mapLanes x.g (acting x) fun i l =>
      let c := columnOf x i
      if w.ty = .f64 then (if c < 16 then writeTy .f64 l w.vd.toNat (accRead m true r c) else l)
      else writeTy .b32 l w.vd.toNat (accRead m false r c)) x

/-- The acting lanes that write an array. -/
def fillers (x : LaneIn) : List Nat := (acting x).filter fun i => !(laneAt x.g i).helper

def execMfill (w : LaneW) (s : State) : Out :=
  moveExec 0x93 w s 13 64 noTrap fun x r =>
    let f64 := w.ty = .f64
    let s := modCim x.s x.g (moveCim w) fun m => (fillers x).foldl (fun m i =>
      let c := columnOf x i
      if f64 ∧ 16 ≤ c then m else accWrite m f64 r c (source x (laneAt x.g i) 1)) m
    s.modGroup x.gi (advance x none)

/-- Rows of a kind of raw move (R141). -/
def kindRows (kind : Nat) : Nat := if kind = 0 then 256 else if kind = 5 then 1 else 8
def rawKind (w : LaneW) : Nat := bits w.imm.toNat 18 16

/-- One raw word of an array. -/
def rawRead (m : Cim) (kind r c : Nat) : Nat :=
  let key := 64 * r + c
  match kind with
  | 0 => (tget 0 m.cells key).toNat
  | 1 => (tget 0 m.expo key).toNat
  | 2 => (tget 0 m.pinf key).toNat
  | 3 => (tget 0 m.ninf key).toNat
  | _ => (tget 0 m.nan key).toNat
def rawWrite (m : Cim) (kind r c v : Nat) : Cim :=
  let key := 64 * r + c
  match kind with
  | 0 => { m with cells := tset 0 m.cells key (BitVec.ofNat 20 v) }
  | 1 => { m with expo := tset 0 m.expo key (BitVec.ofNat 16 v) }
  | 2 => { m with pinf := tset 0 m.pinf key (BitVec.ofNat 32 v) }
  | 3 => { m with ninf := tset 0 m.ninf key (BitVec.ofNat 32 v) }
  | _ => { m with nan := tset 0 m.nan key (BitVec.ofNat 1 v) }

def execMdrainb (w : LaneW) (s : State) : Out :=
  moveExec 0x94 w s 15 (kindRows (rawKind w)) noTrap fun x r =>
    let m := cimAt x.s x.g (moveCim w)
    groupEff (fun x => mapLanes x.g (acting x) fun i l =>
      l.setV w.vd.toNat (BitVec.ofNat 32 (rawRead m (rawKind w) r (columnOf x i)))) x

/-! ## Status words (R134, R141, R142) -/

def stateCode : CimState → Nat
  | .empty => 0 | .loaded => 1 | .busy => 2 | .stopped => 3
def stateOfCode : Nat → CimState
  | 1 => .loaded | 2 => .busy | 3 => .stopped | _ => .empty

/-- S0 to S3. -/
def statusWord (m : Cim) (k : Nat) : W32 :=
  match k with
  | 0 => BitVec.ofNat 32 (m.ncols.toNat * 256 + m.bfmt.toNat * 16 + stateCode m.state)
  | 1 => BitVec.ofNat 32 (m.m.toNat * 2 ^ 22 + m.next.toNat * 2 ^ 15 + m.fmtw.toNat)
  | 2 => m.aaddr.setWidth 32
  | 3 => BitVec.ofNat 32 (m.tag.toNat * 2 ^ 11 + m.evt.toNat * 2 ^ 10 + m.count.toNat * 32 + m.first.toNat)
  | _ => 0

/-- Status words with a reserved or BUSY state or a res0 bit (R141). -/
def statusBad (v : Nat → Nat) : Bool :=
  v 0 / 2 ^ 15 != 0 || bit (v 0) 3 || 4 ≤ v 0 % 8 || v 0 % 8 == 2 || v 1 / 2 ^ 29 != 0 || v 2 / 2 ^ 19 != 0 || v 3 / 2 ^ 19 != 0

/-- Set the status words. -/
def setStatus (v : Nat → Nat) (m : Cim) : Cim :=
  { m with
    ncols := BitVec.ofNat 7 (bits (v 0) 14 8), bfmt := BitVec.ofNat 4 (bits (v 0) 7 4), state := stateOfCode (v 0 % 8)
    m := BitVec.ofNat 7 (bits (v 1) 28 22), next := BitVec.ofNat 7 (bits (v 1) 21 15), fmtw := BitVec.ofNat 15 (v 1)
    aaddr := BitVec.ofNat 19 (v 2), tag := BitVec.ofNat 8 (bits (v 3) 18 11), evt := bit (v 3) 10
    count := BitVec.ofNat 5 (bits (v 3) 9 5), first := BitVec.ofNat 5 (v 3) }

/-- STATUS_INVALID of a kind 5 fill. -/
def statusFails (x : LaneIn) : Option LTrap :=
  if rawKind x.w ≠ 5 then none
  else
    let v (k : Nat) : Nat := source x (laneAt x.g k) 1
    trapIf (!((List.range 4).all fun k => (fillers x).contains k) || x.w.opx != 0 || statusBad v) Tc.statusInvalid

def execMfillb (w : LaneW) (s : State) : Out :=
  moveExec 0x95 w s 15 (kindRows (rawKind w)) statusFails fun x r =>
    let s := modCim x.s x.g (moveCim w) fun m =>
      if rawKind w = 5 then setStatus (fun k => source x (laneAt x.g k) 1) m
      else (fillers x).foldl (fun m i => rawWrite m (rawKind w) r (columnOf x i) (source x (laneAt x.g i) 1)) m
    s.modGroup x.gi (advance x none)

def execMstat (w : LaneW) (s : State) : Out :=
  laneExec 0x96 w s (fun x => firstTrap (matFirst x [] ++ [trapIf (spanBad x (moveCim w) 1) Tc.cimRange])) noWait
    (groupEff fun x => mapLanes x.g (acting x) fun i l =>
      l.setV w.vd.toNat (if i < 4 then statusWord (cimAt x.s x.g (moveCim w)) i else 0))

/-! ## The unit's steps (R121, R130, R131, R133, R143) -/

/-- A matrix command by its instruction. -/
def matrixWord (i : Instr) (s : State) : Out :=
  match i with
  | .mldb w => execMldb w s
  | .mma w => execMma w s
  | .mresume w => execMresume w s
  | .mclr w => execMclr w s
  | _ => .next s

/-- MATRIX_CMD_ACCEPT: the first waiting command issues again when the unit is idle. -/
def execMatrixCmdAccept (q : Nat) (s : State) : Out :=
  let u := unitOf s q
  match u.run, u.fifo with
  | none, (gi, p) :: _ => stepLane matrixWord gi p s
  | _, _ => .next s

/-- The event word (R133). -/
def eventWord (s : State) (c : MatCmd) : Word :=
  w64 (s.cycle % 2 ^ 32 * 2 ^ 32 + c.tag.toNat * 2 ^ 16 + (if c.kind = .mldb then 2 ^ 10 else 0) + c.count * 32 + c.first)

/-- A command is complete: its arrays leave BUSY, its event word is pushed. A full q5 holds it (R133). -/
def finishCmd (s : State) (q : Nat) (c : MatCmd) : State :=
  let g := groupAt s c.g
  if c.evt ∧ 64 ≤ g.q5.length then setUnit s q { unitOf s q with run := some { c with waiting := true } }
  else
    let s := match c.kind with
      | .mldb => modSpan s g c.first c.count (loadTile c.fmt c.n c.buf.flatten)
      | .mma => modSpan s g c.first c.count fun k => { k with state := .loaded, next := k.m }
      | .mclr => s
    let s := if c.evt then s.modGroup c.g fun g => { g with q5 := g.q5 ++ [(eventWord s c, c.lt)] } else s
    setUnit s q { unitOf s q with run := none }

/-- A command of a kind whose completion dc has come; a frozen multiplication stops instead (R143). -/
def completeKind (q : Nat) (kind : MatKind) (s : State) : Out :=
  match (unitOf s q).run with
  | some c =>
    .next (if c.kind = kind ∧ doneAt c ≤ s.now ∧ (c.frozen.isNone ∨ kind ≠ .mma) ∧ !c.waiting then finishCmd s q c else s)
  | none => .next s

def execMldbComplete (q : Nat) (s : State) : Out := completeKind q .mldb s
def execMmaComplete (q : Nat) (s : State) : Out := completeKind q .mma s
def execMclrComplete (q : Nat) (s : State) : Out := completeKind q .mclr s

/-- MATRIX_EVENT_PUSH: a completion that waited for room. -/
def execMatrixEventPush (q : Nat) (s : State) : Out :=
  match (unitOf s q).run with
  | some c => .next (if c.waiting ∧ c.frozen.isNone then finishCmd s q c else s)
  | none => .next s

/-- The dc in which a frozen multiplication's arrays enter STOPPED: after its last row's accumulator write, or the dc after the freeze. -/
def stopAt (c : MatCmd) (t : Nat) : Nat :=
  if c.begun = 0 then t + 1
  else max (t + 1) (c.t0 + 13 + (rowPlanes c.fmtw * (c.begun - 1) + rowPlanes c.fmtw - 1) / 4)

/-- MATRIX_STOP. -/
def execMatrixStop (q : Nat) (s : State) : Out :=
  match (unitOf s q).run with
  | some c =>
    match c.frozen with
    | some t =>
      .next (if c.kind = .mma ∧ stopAt c t ≤ s.now then
        setUnit (modSpan s (groupAt s c.g) c.first c.count fun k =>
          { k with state := .stopped, next := BitVec.ofNat 7 (c.row0 + c.begun) }) q { unitOf s q with run := none } else s)
    | none => .next s
  | none => .next s

/-- Freeze a team's matrix work in this CYCLE (R143): its running multiplications stop, its waiting commands go. -/
def freezeTeam (s : State) (ti : Nat) : State :=
  let mine (gi : Nat) : Bool := (groupAt s gi).team == ti
  let s := s.modTeam ti fun t => { t with frozen := true }
  { s with units := s.units.map fun (u : Nat × MatUnit) =>
      (u.1, { run := u.2.run.map fun c => if mine c.g ∧ c.kind = .mma then { c with frozen := some s.now } else c
              fifo := u.2.fifo.filter fun e => !mine e.1 }) }

end Sys2Proof.Machine
end

