-- ==== Sys2Proof/Machine/Domino.lean ====
section
/-! DEFINITION. Domino regions (R231 to R251): DBEGIN, DCOMMIT, DABORT, DSTAT, the grant of slots, edges, commits, aborts and the
limits on held recalls and deferred pre-emptions. -/

namespace Sys2Proof.Machine

open Sys2Proof

/-! ## Checks (R247, R251) -/

/-- DOMINO_GUARD. -/
def domGuard (x : LaneIn) : Option LTrap := trapIf (x.w.g != 7 || x.w.n) Tc.dominoGuard
def domPath (x : LaneIn) : Option LTrap := trapIf (dual x.g) Tc.dominoPath
def domNone (x : LaneIn) : Option LTrap := trapIf x.g.region.isNone Tc.dominoNone
/-- A check of what the word does; a word none of whose lanes act does nothing (R247). -/
def ifActs (x : LaneIn) (t : Option LTrap) : Option LTrap := if (acting x).isEmpty then none else t
/-- The slot of the group's region. -/
def ownSlot (x : LaneIn) : Option DomSlot := x.g.region.bind (slotAt x.s)
/-- DOMINO_TARGET: the abort LPC lies outside `.lane` or names no VLAND. -/
def domTarget (x : LaneIn) : Option LTrap :=
  let t := immTarget x.w
  trapIf (laneWords x ≤ t || !((laneWordAt x.s x.g t).any fun w => w.extractLsb' 88 8 == 0xB7#8)) Tc.dominoTarget

/-! ## Opening a region (R231, R234, R248) -/

/-- Checkpointed quads of a mask word. -/
def ckptQuads (m : BitVec 88) : List Nat := (List.range 48).filter fun i => m.getLsbD (24 + i)

/-- A slot in use counts as live (R234). -/
def liveSlot (x : DomSlot) : Bool := x.state != .aborting

/-- The core has room for one more region with `q` checkpointed quads. -/
def coreRoom (s : State) (core q : Nat) : Bool :=
  (s.dom.slots.filter fun x => x.core == core && liveSlot x).length < 16 && specUsed s core + 8 * q ≤ 4096

/-- The lowest free slot. -/
def freeSlotNo (s : State) : Option Nat := (List.range 256).find? fun n => (slotAt s n).isNone

/-- The quads a waiting DBEGIN checkpoints: those of the mask word after it. -/
def waiterQuads (s : State) (gi : Nat) : Nat :=
  let g := groupAt s gi
  (ckptQuads (((laneWordAt s g (g.p0.lpc + 1)).getD 0).setWidth 88)).length
/-- A waiter has room on its core. -/
def waiterRoom (s : State) (gi : Nat) : Bool := coreRoom s ((groupAt s gi).quad / 4) (waiterQuads s gi)

/-- Waiters before this group whose cores have room hold it back; those held by their own cores do not. -/
def heldBack (s : State) (gi : Nat) : Bool := (s.dom.fifo.takeWhile (· != gi)).any (waiterRoom s)

/-- The stamp of a region that opens: the group's retry stamp, or a new one. -/
def openStamp (s : State) (g : Group) : Nat := g.retry.getD s.dom.stamp

/-- The checkpoint of a group before its DBEGIN (R244). -/
def ckptOf (g : Group) (m : BitVec 88) : Ckpt :=
  { mask := m, lanes := g.lanes, exec := g.p0.exec, laneSet := g.p0.laneSet, stack := g.p0.stack, part := g.part, cvmode := g.cvmode,
    cvseed := g.cvseed }

/-- Open a region in slot `n`. -/
def openRegion (x : LaneIn) (n : Nat) : State :=
  let m := (maskAfter x).setWidth 88
  let slot : DomSlot :=
    { slot := n, stamp := openStamp x.s x.g, g := x.gi, core := x.g.quad / 4, state := .live, nest := 0, depth := 0,
      abort := immTarget x.w, ckpt := ckptOf x.g m, lines := 8 * (ckptQuads m).length, wr := [], wspans := [], rd := [], minTs := 0,
      cts := 0, cause := 0, by_ := 0, since := x.s.now, stores := 0 }
  let s := x.s.modDom fun d =>
    { d with slots := d.slots ++ [slot], fifo := d.fifo.filter (· != x.gi)
             stamp := if x.g.retry.isSome then d.stamp else (d.stamp + 1) % 2 ^ 64 }
  s.modGroup x.gi fun g => advance x none { g with region := some n, retry := none }

/-- A waiter reaches the hub: behind those of earlier dc, and among those of this dc by logical core and group number (R231). -/
def joinFifo (s : State) (gi : Nat) : State :=
  let now (i : Nat) : Bool := s.served.any fun x => x.1 == (7, 0) && x.2 == i
  let key (i : Nat) : Nat := 32 * (teamOf s (groupAt s i)).core + (groupAt s i).gid
  let late := sortOn key (s.dom.fifo.filter now ++ [gi])
  serve (s.modDom fun d => { d with fifo := d.fifo.filter (fun i => !now i) ++ late }) (7, 0) gi
/-- A DBEGIN that cannot open joins the waiters, a blocking wait (R267). -/
def waitSlot (x : LaneIn) : State :=
  let s := if x.s.dom.fifo.contains x.gi then x.s else joinFifo x.s x.gi
  s.modGroup x.gi fun g => if g.lwait then g else { g with lwait := true, gap := 0 }

/-- DBEGIN with acting lanes: a nest, a region, or a wait. -/
def beginEff (x : LaneIn) : State :=
  match x.g.region with
  | some n => (modSlot x.s n fun y => { y with nest := y.nest + 1 }).modGroup x.gi (advance x none)
  | none =>
    match freeSlotNo x.s with
    | some n =>
      if coreRoom x.s (x.g.quad / 4) (ckptQuads ((maskAfter x).setWidth 88)).length && !heldBack x.s x.gi then openRegion x n
      else waitSlot x
    | none => waitSlot x

def execDbegin (w : LaneW) (s : State) : Out :=
  laneExec 0xA0 w s
    (fun x => firstTrap [domGuard x, trapIf (!w.safe) Tc.dominoNoMask, ifActs x (domPath x),
      ifActs x (trapIf ((ownSlot x).any fun y => 255 ≤ y.nest) Tc.dominoNest), domTarget x])
    noWait fun x => if (acting x).isEmpty then groupEff (·.g) x else beginEff x

/-- A DBEGIN by its instruction. -/
def dominoWord (i : Instr) (s : State) : Out :=
  match i with
  | .dbegin w => execDbegin w s
  | _ => .next s

/-- DBEGIN_SLOT_GRANT: the waiting word issues again. -/
def execDbeginSlotGrant (g : Nat) (s : State) : Out :=
  if s.dom.fifo.contains g then stepLane dominoWord g false s else .next s

/-! ## Commit (R241) -/

/-- Live predecessors of a slot. -/
def predsOf (s : State) (n : Nat) : List DomSlot := s.dom.slots.filter fun x => liveSlot x && s.dom.reach.contains (x.slot, n)

/-- An access set has been performed at its home slices: its pages are known, and all its spans are done. -/
def setPerformed (a : ASet) : Bool := (a.phase == .ready || a.phase == .gone) && a.spans.all (·.done)
/-- Every access set of the region has been performed; LDS is no region access (R235). -/
def regionPerformed (s : State) (n : Nat) : Bool := s.sets.all fun a => a.region != some n || a.sram || setPerformed a

/-- The sectors a region wrote, and those it read. -/
def wroteSectors (x : DomSlot) : List Nat := (x.wr.map fun w => w.1 / 32).dedup
def readSectors (x : DomSlot) : List Nat := (x.rd.map (· / 8)).dedup

/-- The commit time (R241). -/
def commitTime (s : State) (x : DomSlot) : Nat :=
  let t0 := max (groupAt s x.g).llt x.minTs
  let t1 := (wroteSectors x).foldl (fun m sec => max m ((timesAt s sec).2 + 1)) t0
  (readSectors x).foldl (fun m sec => max m (timesAt s sec).1) t1

/-- The number under which a mirror answers the values of a commit (R195). -/
def commitTok (slot : Nat) : Nat := noSet + 2 ^ 41 + slot
/-- The values that a region wrote in a line go to the page's second crowned copy. -/
def mirrorLine (s : State) (x : DomSlot) (line : Nat) : State :=
  let ws := x.wr.filter fun w => w.1 / 128 == line
  (mirrorFirst s (commitTok x.slot) line (128 * line) 128 x.cts (asWrites ws)).1
/-- A region enters COMMITTING and takes its commit time; mirrors are sent its values. -/
def startCommit (s : State) (n : Nat) : State :=
  let s := modSlot s n fun x => { x with state := .committing, cts := commitTime s x, since := s.now }
  match slotAt s n with
  | some x => ((x.wr.map (·.1 / 128)).dedup).foldl (fun s l => if mirroredHere s (l / 512) then mirrorLine s x l else s) s
  | none => s
/-- Every mirror has answered. -/
def commitMirrored (s : State) (slot : Nat) : Bool :=
  (s.am.mirs.filter fun m => m.1 == commitTok slot).all fun m => (answerTo s m.1 m.2.1).isSome
/-- The answers of the mirrors are taken. -/
def takeMirrors (s : State) (slot : Nat) : State :=
  let mine := s.am.mirs.filter fun m => m.1 == commitTok slot
  mine.foldl (fun s m =>
    let s := s.modAm fun a => { a with mirs := a.mirs.filter (· != m) }
    match answerTo s m.1 m.2.1 with
    | some e => { s with net := s.net.erase e }
    | none => s) s

/-- The outer DCOMMIT: WAITING with a live predecessor, else COMMITTING. -/
def outerCommit (s : State) (n : Nat) : State :=
  if (predsOf s n).isEmpty then startCommit s n else modSlot s n fun x => { x with state := .waiting }

def execDcommit (w : LaneW) (s : State) : Out :=
  laneExec 0xA1 w s (fun x => firstTrap [domGuard x, ifActs x (domPath x), ifActs x (domNone x)])
    (fun x => !(acting x).isEmpty && ((ownSlot x).any fun y => y.nest == 0 && !regionPerformed x.s y.slot))
    fun x =>
      match (if (acting x).isEmpty then none else ownSlot x) with
      | none => groupEff (·.g) x
      | some y =>
        let s := if y.nest = 0 then outerCommit x.s y.slot else modSlot x.s y.slot fun y => { y with nest := y.nest - 1 }
        s.modGroup x.gi (advance x none)

/-- DOMINO_COMMIT_START: the last predecessor of a WAITING region has committed. -/
def execDominoCommitStart (slot : Nat) (s : State) : Out :=
  .next (if (slotAt s slot).any (fun x => x.state == .waiting) && (predsOf s slot).isEmpty then startCommit s slot else s)

/-- The values of one sector, with its times at the commit time, the copy its core's L1 holds, and its waiters. -/
def applySector (s : State) (x : DomSlot) (sec : Nat) : State :=
  let was := sectorTimes s
  let s := setTimesAt s sec (x.cts, x.cts)
  let ws := x.wr.filter fun w => w.1 / 32 == sec
  let s := noteWrite { s with mem := ws.foldl (fun m w => setByte m w.1 w.2) s.mem } (32 * sec) 32
  wakeLine (l1Update s x.core (32 * sec) 32 was (asWrites ws)) (sec / 4)

/-- What a commit performs: the region's values, and the leases of what it read. -/
def applyCommit (s : State) (x : DomSlot) : State :=
  let s := (wroteSectors x).foldl (applySector · x) s
  (readSectors x).foldl (fun s sec => let t := timesAt s sec; setTimesAt s sec (t.1, max t.2 x.cts)) s

/-- A commit is complete: its edges are discharged, its slot is free, the group goes on with IFC1 lowered by its store sets. -/
def finishCommit (s : State) (x : DomSlot) : State :=
  let n := x.slot
  let succs := (s.dom.reach.filter fun r => r.1 == n).map (·.2)
  let late := s.sets.filter fun a => a.region == some n && a.ifc == 1
  let s := applyCommit (takeMirrors s n) x
  let s := succs.foldl (fun s y => modSlot s y fun z => { z with minTs := max z.minTs (x.cts + 1) }) s
  let leave (a : ASet) : ASet := if a.region = some n then { a with region := none, ifc := if a.ifc = 1 then 4 else a.ifc } else a
  let s := { s with sets := s.sets.map leave }
  let s := s.modDom fun d => freeSlot d n
  s.modGroup x.g fun g =>
    { g with
      region := none, retry := none, llt := max g.llt x.cts, ifc := g.ifc.modify 1 (· - (x.stores + late.length))
      dstat := { g.dstat with slot := n, stamp := w64 x.stamp, cts := w64 x.cts } }

/-- DOMINO_COMMIT_COMPLETE: 40 + ceil(n ÷ 8) dc after COMMITTING began. -/
def execDominoCommitComplete (slot : Nat) (s : State) : Out :=
  match slotAt s slot with
  | some x =>
    .next (if x.state = .committing ∧ x.since + 40 + ceilDiv x.wspans.length 8 ≤ s.now ∧ commitMirrored s slot then finishCommit s x else s)
  | none => .next s

/-! ## Aborts (R239, R243, R244, R249) -/

def execDabort (w : LaneW) (s : State) : Out :=
  laneExec 0xA2 w s (fun x => firstTrap [domGuard x, ifActs x (domPath x), ifActs x (domNone x)]) noWait fun x =>
    match (if (acting x).isEmpty then none else x.g.region) with
    | none => groupEff (·.g) x
    | some n =>
      (abortRegion (x.s.modGroup x.gi (advance x none)) n 7 0).modGroup x.gi fun g =>
        { g with dstat := { g.dstat with userCode := w.imm.setWidth 8 } }

/-- A lane as the checkpoint restores it: named quads and predicates, the SR counter, the exit mark. -/
def restoreLane (k : Ckpt) (old now : Lane) : Lane :=
  let l := (ckptQuads k.mask).foldl (fun l q => (List.range 4).foldl (fun l j => l.setV (4 * q + j) (old.vreg (4 * q + j))) l) now
  let l := (List.range 7).foldl (fun l j => if k.mask.getLsbD j then l.setP j (old.pred j) else l) l
  { l with sr := old.sr, exited := old.exited }

/-- The group after an abort: the checkpoint, one path at the abort LPC (R244). -/
def restoreGroup (x : DomSlot) (g : Group) : Group :=
  let k := x.ckpt
  { g with
    lanes := (List.range g.lanes.length).map fun i => restoreLane k (k.lanes.getD i default) (laneAt g i)
    p0 := { lpc := x.abort, exec := k.exec, laneSet := k.laneSet, stack := k.stack, look := [], arrived := false }
    p1 := none, part := k.part, cvmode := k.cvmode, cvseed := k.cvseed, region := none, last1 := false, lwait := false
    atAbort := some k.mask }

/-- DOMINO_ABORT_COMPLETE: 12 + q dc after the cause. -/
def execDominoAbortComplete (slot : Nat) (s : State) : Out :=
  match slotAt s slot with
  | some x =>
    .next (if x.state = .aborting ∧ x.since + 12 + (ckptQuads x.ckpt.mask).length ≤ s.now then
      (s.modDom fun d => freeSlot d slot).modGroup x.g (restoreGroup x) else s)
  | none => .next s

/-! ## Edges (R238) -/

/-- The regions of the cycle an edge A→B would close: A, B and every region on a chain from B to A. -/
def cycleOf (s : State) (a b : Nat) : List DomSlot :=
  s.dom.slots.filter fun x => x.slot == a || x.slot == b || (s.dom.reach.contains (b, x.slot) && s.dom.reach.contains (x.slot, a))

/-- The region of a list with the youngest stamp. -/
def youngest (l : List DomSlot) : Option DomSlot :=
  l.foldl (fun (m : Option DomSlot) x => if m.all fun y => y.stamp < x.stamp then some x else m) none

/-- B is the oldest live region. -/
def oldestLive (s : State) (b : DomSlot) : Bool := s.dom.slots.all fun x => !liveSlot x || b.stamp ≤ x.stamp

/-- A region has received a forward from one of depth `d`: its own depth, and that of those it has forwarded to, follow (R238). `fuel` bounds
the chain. -/
def deepen : Nat → State → Nat → Nat → State
  | 0, s, _, _ => s
  | fuel + 1, s, n, d =>
    if ((slotAt s n).map (·.depth)).getD 0 ≤ d then
      let s := modSlot s n fun y => { y with depth := d + 1 }
      ((s.dom.fwds.filter fun r => r.1 == n).map (·.2)).foldl (fun s m => deepen fuel s m (d + 1)) s
    else s
/-- Record A→B: every region that reaches A or is A, to every region that B reaches or is B. -/
def recordEdge (s : State) (a b : DomSlot) (fwd : Bool) : State :=
  let from_ := a.slot :: (s.dom.reach.filter fun r => r.2 == a.slot).map (·.1)
  let to_ := b.slot :: (s.dom.reach.filter fun r => r.1 == b.slot).map (·.2)
  let s := s.modDom fun d => { d with reach := (d.reach ++ from_.flatMap fun x => to_.map fun y => (x, y)).dedup }
  if fwd then deepen 256 (s.modDom fun d => { d with fwds := (d.fwds ++ [(a.slot, b.slot)]).dedup }) b.slot a.depth else s

/-- What the table does with a request for A→B. -/
inductive EdgeFate where
  | cycle (victim : Nat)
  | stall
  | record
  deriving DecidableEq, Repr

def edgeFate (s : State) (a b : DomSlot) (fwd : Bool) : EdgeFate :=
  if s.dom.reach.contains (b.slot, a.slot) then
    match youngest (cycleOf s a.slot b.slot) with
    | some v => .cycle v.slot
    | none => .stall
  else if oldestLive s b && b.stamp < a.stamp then .stall
  else if fwd && 8 < a.depth + 1 then .stall
  else .record

/-- A request of an access for its edge from slot `n`. An access that is stalled waits until that region has ended. -/
def tryEdge (s : State) (b : DomSlot) (at_ : Nat × Nat) (n : Nat) (fwd : Bool) : State :=
  match slotAt s n with
  | none => s
  | some a => match edgeFate s a b fwd with
    | .cycle v => abortRegion s v 1 b.slot
    | .stall => s.modDom fun d => { d with stalls := d.stalls ++ [(at_.1, at_.2, n)] }
    | .record => recordEdge s a b fwd
/-- The table may take a request of region `b` in this dc: two hc, those of one dc by ascending stamp (R238). -/
def edgeTurn (s : State) (b : DomSlot) : Bool :=
  (s.served.filter fun x => x.1 == (8, 0)).length < 2 && inTurn s (8, 0) b.stamp

/-- DOMINO_EDGE_REQUEST of span `k` of set `i`: its first edge, in ascending slot, that is neither recorded nor stalled. -/
def execDominoEdgeRequest (i k : Nat) (s : State) : Out :=
  match setAt s i with
  | none => .next s
  | some a => match a.region.bind (slotAt s), a.spans[k]? with
    | some b, some p =>
      let there := !p.done && a.phase == (if storeClass a.kind then .gone else .ready) && regionAt s a p && !ownWords s a p.line b.slot
      if !there || cycleHeld s b.slot || !edgeTurn s b then .next s
      else
        let need := edgesNeeded s b.slot (readsToo a.kind) (storeClass a.kind) (spanLo p) (spanLen p)
        match need.find? fun e => !s.dom.stalls.contains (i, k, e.1) with
        | some (n, fwd) => .next (tryEdge (serve s (8, 0) b.stamp) b (i, k) n fwd)
        | none => .next s
    | _, _ => .next s

/-! ## DSTAT (R250) -/

/-- STATE codes (R233). -/
def domCode : DomState → Nat
  | .free => 0 | .live => 1 | .waiting => 2 | .committing => 3 | .aborting => 4

/-- DS0. -/
def ds0 (s : State) (g : Group) : Nat :=
  let d := g.dstat
  let past := d.causeSlot.toNat * 2 ^ 44 + d.cause.toNat * 2 ^ 40
  match g.region.bind (slotAt s) with
  | none => past + d.slot
  | some x =>
    let preds := predsOf s x.slot
    let oldest := (preds.foldl (fun (m : Option DomSlot) y => if m.all fun z => y.stamp < z.stamp then some y else m) none).elim 0 (·.slot)
    past + oldest * 2 ^ 32 + min preds.length 255 * 2 ^ 24 + x.nest * 2 ^ 16 + x.depth % 16 * 2 ^ 12 + 2 ^ 11 + domCode x.state * 2 ^ 8 +
      x.slot

/-- The word a selector names. -/
def dsWord (s : State) (g : Group) (sel : Nat) : Nat :=
  let d := g.dstat
  let live := g.region.bind (slotAt s)
  match sel with
  | 0 => ds0 s g
  | 1 => live.elim d.stamp.toNat (·.stamp)
  | 2 => d.cts.toNat
  | _ =>
    (if d.cause = 8 then d.trapCause.toNat else 0) * 2 ^ 40 + d.userCode.toNat * 2 ^ 32 + live.elim 0 (·.wspans.length) * 2 ^ 16 +
      d.aborts.toNat

def execDstat (w : LaneW) (s : State) : Out :=
  laneExec 0xA3 w s domGuard noWait (groupEff fun x =>
    mapLanes x.g (acting x) fun _ l => l.setWide 64 w.vd.toNat (dsWord x.s x.g (w.opx.toNat % 4)))

/-! ## Limits (R240, R243) -/

/-- Regions that mark words of a page. -/
def pageMarkers (s : State) (gpn : Nat) : List DomSlot :=
  s.dom.slots.filter fun x => liveSlot x &&
    ((x.rd.any fun w => w / 16384 == gpn) || x.wr.any fun b => b.1 / 65536 == gpn)

/-- RECALL_HOLD_TIMEOUT: a message held 2^14 dc aborts every region marking its page, the youngest first. -/
def execRecallHoldTimeout (gpn : Nat) (s : State) : Out :=
  .next (if s.dom.holds.any fun h => h.1 == gpn && h.2.1 + 2 ^ 14 ≤ s.now then
    (sortOn (fun x => 2 ^ 64 - x.stamp) (pageMarkers s gpn)).foldl (fun s x => abortRegion s x.slot 5 0) s else s)

/-- The CYCLE since which a replayable fault parks a set of the group. -/
def parkedSince (s : State) (gi : Nat) : Option Nat :=
  (s.sets.filter (ofGroup gi)).foldl (fun (m : Option Nat) a => match a.phase with
    | .parked _ _ t => some (m.elim t (min t))
    | _ => m) none

/-- PREEMPT_DEFER_TIMEOUT: a request deferred, or a group parked, for 2^16 dc. -/
def execPreemptDeferTimeout (gi : Nat) (s : State) : Out :=
  let g := groupAt s gi
  match g.region with
  | none => .next s
  | some n =>
    .next (if ((teamOf s g).request.any fun t => t + 2 ^ 16 ≤ s.now) || ((parkedSince s gi).any fun t => t + 2 ^ 16 ≤ s.now) then
      abortRegion s n 6 0 else s)

end Sys2Proof.Machine
end

