-- ==== Sys2Proof/Machine/Frames.lean ====
section
/-! DEFINITION. Frames and tags (R171 to R175, R187, R190, R191), the hint cache (R182), the directory's entries (R177, R179), messages
taken by the hub, and the faults of accesses that wait for a page (R201). -/

namespace Sys2Proof.Machine

open Sys2Proof

/-! ## Sets, ways and tags -/

/-- A reserved frame (R172). -/
def reservedWay (set way : Nat) : Bool := way == 15 && set / 8 % 4 == 3
/-- The bank of a way (R171, R200). -/
def bankOf (set way : Nat) : Nat × Nat := (set % 8, way * 4 + set / 256 % 4)
def parkedWay (s : State) (set way : Nat) : Bool := s.am.parked.contains (bankOf set way)

/-- The tag of a way; none where it is INVALID. -/
def tagAt (s : State) (set way : Nat) : Option Tag := s.am.tags.find? fun t => t.set == set && t.way == way && t.state != .invalid
/-- Write the tag of a way. -/
def putTag (s : State) (t : Tag) : State :=
  s.modAm fun a => { a with tags := t :: a.tags.filter fun o => !(o.set == t.set && o.way == t.way) }

/-- A tag access to every way of a set. -/
def decaySet (s : State) (set : Nat) : State :=
  s.modAm fun a => { a with tags := a.tags.map fun t => if t.set = set then decay (epochOf s) t else t }

/-- A COMMITTING region wrote words of the page, whose values are still to come (R237, R240). -/
def committingPage (s : State) (gpn : Nat) : Bool := s.dom.marks.any fun m => m.1 / 16384 == gpn && committing s m.2
/-- The ways chosen for pages that are still to come (R183). -/
def pickedWays (s : State) (set : Nat) : List Nat :=
  ((s.am.climbs.filter fun c => setIndex c.gpn == set).filterMap (·.pick)) ++
    (s.am.crowns.filter fun r => setIndex r.gpn == set).filterMap (·.pick)
/-- A way that may be chosen (R187): not one chosen already; a replica whose crown has been asked for is in a crown move (R174), and a frame
that AM_RETIRE has emptied is its own. -/
def wayFree (s : State) (set way : Nat) : Bool :=
  !reservedWay set way && !parkedWay s set way && !(pickedWays s set).contains way && !s.am.retiring.contains (set, way) &&
    (tagAt s set way).all fun t => !t.pin && !t.transit && (t.state == .replica || crowned t) &&
      !(s.am.crowns.any fun r => r.gpn == t.gpn && !r.effective) && !committingPage s t.gpn
/-- The rank of a way for R187: INVALID, then HEAT, then replicas before masters. -/
def wayRank (s : State) (set way : Nat) : Nat :=
  match tagAt s set way with
  | none => 0
  | some t => 1 + 2 * t.heat.toNat + (if t.state = .replica then 0 else 1)
/-- The way chosen in a set whose tags have decayed. -/
def chooseWay (s : State) (set : Nat) : Option Nat :=
  (sortOn (wayRank s set) ((List.range 16).filter (wayFree s set))).head?
/-- Some way of the set can ever be used. -/
def setUsable (s : State) (set : Nat) : Bool :=
  (List.range 16).any fun w => !reservedWay set w && !parkedWay s set w && (tagAt s set w).all fun t => t.state != .retired

/-- A new tag: HEAT 0 in the present epoch (R191). -/
def newTag (s : State) (set way gpn : Nat) (st : TagState) (comp transit shared : Bool) (fwt fle : Nat) : Tag :=
  { set := set, way := way, gpn := gpn, state := st, heat := 0, epoch := BitVec.ofNat 4 (epochOf s), pin := pinnedHere s gpn, comp := comp,
    transit := transit, shared := shared, fwt := fwt, fle := fle }

/-- The frame of a page becomes INVALID: its lines leave L2, its bytes, poison and blocks this package, and its waiters wake (R229). -/
def dropPage (s : State) (gpn : Nat) : State :=
  let s := publishPage s gpn
  let s := { s with mem := clearRange s.mem (65536 * gpn) 65536, sectors := s.sectors.filter fun e => e.1 / 2048 != gpn
                    dirty := s.dirty.filter (· / 512 != gpn) }
  let gone (a : Am) : Am :=
    { a with
      tags := a.tags.filter fun t => !holdsPage gpn t
      released := a.released.filter (· != gpn)
      seconds := a.seconds.filter (· != gpn)
      others := tdel gpn a.others
      blocks := a.blocks.filter fun b => b.1 / 128 != gpn
      whole := a.whole.filter (· / 512 != gpn)
      poison := a.poison.filter fun p => p.1 / 512 != gpn }
  endTransit (wakePage (s.modAm gone) gpn) gpn

/-- No time of the page lies below a floor (R157): not its frame's, its sectors', nor those of L1 lines that perform its accesses. -/
def raiseFloor (s : State) (gpn floor : Nat) : State :=
  let s := modTag s gpn fun t => { t with fle := max t.fle floor }
  let holds (l : L1Line) : Bool := l.line / 512 == gpn && (l.narrow.isSome || pinCoreOf s gpn == some l.core)
  { s with
    sectors := s.sectors.map fun e => if e.1 / 2048 = gpn then (e.1, (e.2.1, max e.2.2 floor)) else e
    l1 := s.l1.map fun l => if holds l then { l with rts := l.rts.map (max floor) } else l }

/-- A line of a page held here is read from its frame for L2: it samples HEAT (R190), and a compressed frame gives its block (R192). -/
def bringLine (s : State) (line : Nat) (hs : Bool) : State :=
  if inL2 s line then s else fillL2 (sampleLine s (line / 512) line hs) line

/-! ## Accesses that wait for a page -/

/-- A ring whose access fails is held, and the hold reported once on MVEC (R358). -/
def holdRing (s : State) (k : Nat) : State :=
  let on := if k = 64 then s.hub.amqHold else if k = 65 then s.hub.faqHold else (ctxAt s k).fqHold
  if on then s
  else sendMvec (if k = 64 then s.modHub fun h => { h with amqHold := true }
    else if k = 65 then s.modHub fun h => { h with faqHold := true }
    else s.modCtx k fun x => { x with fqHold := true })

/-- The context that records the faults of granules of a space: the lowest that is enabled and has it (R305). -/
def contextOfSpace (s : State) (space : Nat) : Option Nat :=
  (List.range 64).find? fun c => bit (ctxAt s c).ctl.toNat 0 && bits (ctxAt s c).ctl.toNat 27 16 == space
/-- A granule's message: whose it is. -/
def isGranule (src cmd g va : Nat) (m : Msg) : Bool :=
  match m with | .granule a b c _ d _ _ _ _ _ _ _ _ => a == src && b == cmd && c == g && d == va | _ => false
/-- An inbound granule is parked (R305), or goes on. -/
def parkGranule (s : State) (src cmd g va : Nat) (on : Bool) : State :=
  let set (e : Env) : Env := match e.msg with
    | .granule a b c sp v p o d n ct f _ mi => { e with msg := .granule a b c sp v p o d n ct f on mi }
    | _ => e
  { s with net := s.net.map fun e => if isGranule src cmd g va e.msg then set e else e }
/-- The context of an inbound granule. -/
def granuleHome (s : State) (src cmd g va : Nat) : Nat :=
  ((s.net.find? fun e => isGranule src cmd g va e.msg).bind fun e => match e.msg with
    | .granule _ _ _ space _ _ _ _ _ _ _ _ _ => contextOfSpace s space
    | _ => none).getD 0

/-- An inbound granule's access: of an ATOM, and a write. -/
def granuleAccess (s : State) (src cmd g va : Nat) : BitVec 8 :=
  let op := (s.net.find? fun e => isGranule src cmd g va e.msg).map fun e => match e.msg with | .granule _ _ _ _ _ _ op _ _ _ _ _ _ => op | _ => 0
  accessByte (op != some 0x12) false (op == some 0x13)
/-- The space of an inbound granule. -/
def granuleSpace (s : State) (src cmd g va : Nat) : Nat :=
  ((s.net.find? fun e => isGranule src cmd g va e.msg).map fun e => match e.msg with | .granule _ _ _ sp _ _ _ _ _ _ _ _ _ => sp | _ => 0).getD 0
/-- An engine command's access to its remote word is atomic (R220, R306). -/
def engineAtomic (s : State) (g : Nat) (fab : Bool) (num va : Nat) : Bool :=
  fab && ((s.groups.getD g default).fabric.cmds.any fun c =>
    c.num == num && (c.words.getD 0 0).toNat % 256 == 0x13 && (c.words.getD 1 0).toNat == va)

/-- The record of an issuer that holds no access set, and its park (R304, R306); a host access is not parked: it is answered once its
record is written (R296). -/
def issuerFault (s : State) (who : Issuer) (cause : Cause) (level : Nat) (entry : Word) (write : Bool) : State :=
  let base (va eng : Nat) : FaultRec :=
    { newFault s cause va with engine := BitVec.ofNat 8 eng, access := accessByte write false false, level := BitVec.ofNat 8 level,
                               entry := entry, issuers := [who] }
  match who with
  | .set _ => s
  | .engine g fab num va =>
    groupFault s g { base va (if fab then 3 else 2) with
      pcOrIx := BitVec.ofNat 32 num, access := accessByte write false (engineAtomic s g fab num va) }
  | .granule src cmd g va =>
    recordFault (parkGranule s src cmd g va true) (granuleHome s src cmd g va)
      { base va 4 with
        who := BitVec.ofNat 8 src, where_ := BitVec.ofNat 8 (src / 256 * 64), access := granuleAccess s src cmd g va
        space := BitVec.ofNat 32 (granuleSpace s src cmd g va) }
  | .stage st va =>
    let x := stageAt s st
    if x.state ≠ .running then s
    else modStage (recordFault s x.ctx { base va 6 with who := BitVec.ofNat 8 st, pcOrIx := BitVec.ofNat 32 x.ep }) st fun y =>
      { y with state := .parked, since := s.now }
  | .cpRead src va => recordFault s (src / 16 % 64) { base va 7 with pcOrIx := BitVec.ofNat 32 (src % 16) }
  | .epCmd c e va => recordFault s c { base va 6 with pcOrIx := BitVec.ofNat 32 e }
  | .post k va =>
    let p := (s.posts.find? fun p => p.num == k).getD default
    recordFault s p.ctx { base va 6 with pcOrIx := BitVec.ofNat 32 p.ep }
  | .ring k => holdRing s k
  | .host off va wr => recordFault s (off / 2 ^ 32) { base va 8 with access := accessByte wr false false }
  | .pref _ _ _ _ => s

/-- An issuer is parked by a record that has not been retried. -/
def issuerParked (s : State) (p : Issuer → Bool) : Bool :=
  s.ctxs.any fun x => (x.faults ++ x.waitFaults).any fun r => r.issuers.any p

/-- The accesses of a set that a page keeps waiting: those to it, or, while the set is being translated, those whose tables it holds. -/
def needsPage (s : State) (a : ASet) (gpn : Nat) (x : Acc) : Bool :=
  match a.phase, partyGroup a.party with
  | .xlate, some g => (tableAway s (ctxIx s (groupAt s g)) x.va).any fun pa => pageOf pa == gpn
  | _, _ => pageOf x.pa == gpn
/-- An access that waits for a page takes an attraction fault (R201). -/
def parkWaiter (s : State) (gpn : Nat) (cause : Cause) (who : Issuer) : State :=
  match who with
  | .set i => match (setAt s i).filter fun a => !isParked a with
    | some a => faultAccs (forgetWaiter s i) a cause 0 0 (needsPage s a gpn)
    | none => s
  | o => if issuerParked s (· == o) then s else issuerFault s o cause 0 0 false
def parkWaiters (s : State) (gpn : Nat) (cause : Cause) (ws : List Issuer) : State := ws.foldl (fun s w => parkWaiter s gpn cause w) s

/-! ## Climbs and messages -/

def climbAt (s : State) (id : Nat) : Option Climb := s.am.climbs.find? fun c => c.id == id
def climbFor (s : State) (gpn : Nat) : Option Climb := s.am.climbs.find? fun c => c.gpn == gpn && c.stage != .amc
def modClimb (s : State) (id : Nat) (f : Climb → Climb) : State :=
  s.modAm fun a => { a with climbs := modFirst (fun c => c.id == id) f a.climbs }
def dropClimb (s : State) (id : Nat) : State := s.modAm fun a => { a with climbs := a.climbs.filter fun c => c.id != id }

/-- The frame a climb took for a page that did not come goes back. -/
def freePlace (s : State) (gpn : Nat) : State :=
  s.modAm fun a => { a with tags := a.tags.filter fun t => !(t.gpn == gpn && t.state == .replica && t.transit) }

/-- A local pin of a page that may not be pinned here goes (R194). -/
def unpinLocal (s : State) (gpn : Nat) : State :=
  modTag { unpinPage s gpn with l2pins := s.l2pins.filter fun p => p.gpn != gpn } gpn fun t => { t with pin := false }
/-- The accesses that wait for a page: of its climbs, of its crown request, and behind its transit. -/
def pageWaiters (s : State) (gpn : Nat) : List Issuer :=
  ((s.am.climbs.filter fun c => c.gpn == gpn).flatMap (·.who) ++
    (s.am.crowns.filter fun c => c.gpn == gpn && !c.effective).flatMap (·.who) ++
    (s.am.behind.filter fun b => b.2.1 == gpn).map (·.1)).dedup
/-- The accesses that wait for a page fault, and the state of its climb and request is dropped (R182); what has already come of a crown move
stays. -/
def failPage (s : State) (gpn : Nat) (cause : Cause) : State :=
  let ws := pageWaiters s gpn
  let s := if cause = Tc.amPinConflict then unpinLocal s gpn else s
  let s := (endTransit (freePlace s gpn) gpn).modAm fun a =>
    { a with
      climbs := a.climbs.filter fun c => c.gpn != gpn
      crowns := (a.crowns.filter fun r => r.gpn != gpn || r.granted || r.done).map fun r =>
        if r.gpn = gpn ∧ !r.effective then { r with who := [] } else r }
  parkWaiters s gpn cause ws

/-- Message number `m` of the net, where it is for this package. -/
def msgAt (s : State) (m : Nat) : Option Env := (s.net[m]?).filter fun e => e.dst == aid s
/-- Message `m` is taken. -/
def dropMsg (s : State) (m : Nat) : State := { s with net := s.net.eraseIdx m }

/-- The first address of a list of parts, and the bytes they span. -/
def partsLo (ps : List Part) : Nat := ps.foldl (fun m p => min m p.pa) ((ps.headD default).pa)
def partsLen (ps : List Part) : Nat := ps.foldl (fun m p => max m (p.pa + p.n)) 0 - partsLo ps
/-- The page of a message that the home takes in the order of arrival (R180). -/
def homeGpn : Msg → Option Nat
  | .homeRead g _ _ _ _ | .register g _ _ _ _ | .crownReq g _ _ _ _ | .setCrown g _ _ _ | .poolSet g _ _ _ | .taken g _ => some g
  | .remote _ _ _ _ ps _ _ _ _ => some (pageOf (partsLo ps))
  | .granule _ _ _ _ _ pa _ _ _ _ _ _ _ => some (pageOf pa)
  | _ => none
/-- The order of requests at a home: the dc of arrival, then local ones, then by station, then by source (R180; notes/assumptions/82.md). -/
def homeKey (s : State) (e : Env) : Nat := 2 ^ 20 * e.at_ + (if e.src = aid s then 0 else 2048 * (e.stn + 1) + e.src)
/-- A message waits for the home of a page. -/
def atHome (s : State) (gpn : Nat) (e : Env) : Bool := e.dst == aid s && !e.passed && homeGpn e.msg == some gpn
/-- Message `m` is the first of those that wait for the home of the page; it came in an earlier dc. The end of a take-back waits for none. -/
def firstFor (s : State) (m gpn : Nat) : Bool :=
  let key := homeKey s (s.net.getD m default)
  (s.net.getD m default).at_ < s.now && (s.net.take m).all (fun e => !atHome s gpn e || key < homeKey s e) &&
    (s.net.drop (m + 1)).all fun e => !atHome s gpn e || key ≤ homeKey s e

/-! ## The hint cache (R182) -/

def hintSet (gpn : Nat) : Nat := homeHash gpn % 2048
def hintOf (s : State) (gpn : Nat) : Option Nat := (s.am.hint.find? fun h => h.1 == gpn).map (·.2)
/-- Enter a pair as the most recent of its set of 4. -/
def hintPut (s : State) (gpn who : Nat) : State :=
  s.modAm fun a =>
    let rest := a.hint.filter fun h => h.1 != gpn
    let mine := (rest.filter fun h => hintSet h.1 == hintSet gpn).take 3
    { a with hint := (gpn, who) :: mine ++ rest.filter fun h => hintSet h.1 != hintSet gpn }

/-! ## Directory entries (R177, R179) -/

def dirFind (s : State) (gpn : Nat) : Option DirEntry := s.am.dir.find? fun e => e.gpn == gpn
def dirMod (s : State) (gpn : Nat) (f : DirEntry → DirEntry) : State :=
  s.modAm fun a => { a with dir := modFirst (fun e => e.gpn == gpn) f a.dir }
def storeSet (gpn : Nat) : Nat := homeHash gpn / 2 ^ 18 % 2 ^ 14
def bucketOf (gpn : Nat) : Nat := homeHash gpn % 3145728
/-- Entries of a store set, the most recently used first, and of a spill bucket. -/
def storeOf (s : State) (k : Nat) : List DirEntry := s.am.dir.filter fun e => !e.spill && storeSet e.gpn == k
def spillOf (s : State) (b : Nat) : List DirEntry := s.am.dir.filter fun e => e.spill && bucketOf e.gpn == b

def bumpStat (s : State) (k : Nat) : State := s.modAm fun a => { a with stats := a.stats.modify k (· + 1) }

/-- Room for one more entry in the store set of a page: a way free, or the least recently used entry without a transaction moved to its
bucket. `skip` is an entry about to leave the spill table. -/
def makeRoom (s : State) (gpn : Nat) (skip : Option Nat) : Option State :=
  let here := storeOf s (storeSet gpn)
  let room (e : DirEntry) : Bool := ((spillOf s (bucketOf e.gpn)).filter fun o => some o.gpn != skip).length < 8
  if here.length < 16 then some s
  else match here.reverse.find? fun e => e.tx.isNone && room e with
    | some e => some (dirMod s e.gpn fun x => { x with spill := true })
    | none => none

/-- A lookup: the entry becomes the most recent, and comes back from the spill table, which is read where the store misses. -/
def dirTouch (s : State) (gpn : Nat) : State :=
  match dirFind s gpn with
  | none => bumpStat s 1
  | some e =>
    let s := if e.spill then
        let s := bumpStat s 1
        (makeRoom s gpn (some gpn)).elim s fun s => dirMod s gpn fun x => { x with spill := false }
      else s
    let front (a : Am) : Am := { a with dir := a.dir.filter (fun x => x.gpn == gpn) ++ a.dir.filter fun x => x.gpn != gpn }
    s.modAm front

/-- A new entry; none while no way of the store set can be freed. -/
def dirAdd (s : State) (e : DirEntry) : Option State :=
  let full := 16 ≤ (storeOf s (storeSet e.gpn)).length
  (makeRoom s e.gpn none).map fun s =>
    let s := s.modAm fun a => { a with dir := e :: a.dir }
    if full then bumpStat s 0 else s

def newEntry (gpn crown : Nat) : DirEntry :=
  { gpn := gpn, mode := .precise, crown := crown, mirror := none, pool := none, reps := [], groups := 0, floor := 0, tx := none,
    spill := false }

/-- An entry names a package as a holder: the crown, a pointer, or a marked group. -/
def recorded (e : DirEntry) (who : Nat) : Bool :=
  e.crown == who || e.mirror == some who || e.reps.contains who || (e.mode == .coarse && e.groups.getLsbD (who / 32))
/-- Record a replica holder; a fifth makes the entry COARSE (R177). -/
def addReplica (e : DirEntry) (who : Nat) : DirEntry :=
  if recorded e who then e
  else if e.mode = .coarse then { e with groups := e.groups ||| (1#32 <<< (who / 32)) }
  else if e.reps.length < 4 then { e with reps := e.reps ++ [who] }
  else { e with mode := .coarse, reps := [], groups := (who :: e.reps).foldl (fun g a => g ||| (1#32 <<< (a / 32))) e.groups }

/-- The packages that may hold a replica, other than the crown and the requester (R184). -/
def replicaHolders (s : State) (e : DirEntry) (req : Nat) : List Nat :=
  let all := if e.mode = .coarse then (List.range (podSize s)).filter fun a => e.groups.getLsbD (a / 32) else e.reps
  all.filter fun a => a != req && a != e.crown && some a != e.mirror && !s.am.lost.contains a

/-! ## Injection begins (R188) -/

/-- The packages offered a page: by free frames of the page's set group, then AID, at most 4; never that of its other crowned copy. -/
def candidates (s : State) (gpn : Nat) (avoid : List Nat) : List Nat :=
  let g := setIndex gpn / 2 ^ 13 % 64
  let avoid := avoid ++ (s.am.others.lookup gpn).toList
  let ok := s.am.sums.filter fun x => !avoid.contains x.1 && x.1 != aid s && !s.am.lost.contains x.1 && x.2.1.getLsbD g
  ((sortOn (fun x => 2 ^ 26 - 1024 * x.2.2 + x.1) ok).map (·.1)).take 4

/-- The second crowned copy of a page, where this package is its home. -/
def mirrorOf (s : State) (gpn : Nat) : List Nat := ((dirFind s gpn).bind (·.mirror)).toList

/-- Begin a round of offers for a page. -/
def offerRound (s : State) (gpn : Nat) : State :=
  let go (x : Inject) : Inject :=
    let l := candidates s gpn (mirrorOf s gpn ++ x.mirror.toList)
    { x with offers := l.drop 1, since := s.now, sentTo := none, refused := l.isEmpty }
  let l := match s.am.injects.find? fun x => x.gpn == gpn with
    | some x => candidates s gpn (mirrorOf s gpn ++ x.mirror.toList)
    | none => []
  let s := s.modAm fun a => { a with injects := modFirst (fun x => x.gpn == gpn) go a.injects }
  match l with
  | c :: _ => send (bumpStat s 2) c (.offer gpn true)
  | [] => s

/-- Begin the injection of a crowned page, or the placement of a mirror for a requester. -/
def startInject (s : State) (gpn : Nat) (mirror : Option Nat) : State :=
  if s.am.injects.any fun x => x.gpn == gpn then s
  else
    let s := s.modAm fun a =>
      { a with injects := a.injects ++ [{ gpn := gpn, offers := [], rounds := 0, since := s.now, sentTo := none, refused := false,
                                          mirror := mirror }] }
    let s := if mirror.isNone then modTag s gpn fun t => { decay (epochOf s) t with transit := true } else s
    offerRound s gpn

/-- A replica is evicted silently; the regions that mark its words abort (R187, R243). -/
def evictReplica (s : State) (gpn : Nat) : State :=
  dropPage ((pageMarkers s gpn).foldl (fun s x => abortRegion s x.slot 3 x.slot) s) gpn

/-- A way for a page: free to take, in the state with it emptied; chosen, while its master is sent away; none for now; none ever (R183, R187,
R189). -/
inductive WayFor where
  | free (s : State) (way : Nat)
  | pick (s : State) (way : Nat)
  | wait (s : State)
  | disabled

/-- The choice of R187: a replica is evicted at once, a master's injection begins. -/
def wayFor (s : State) (gpn : Nat) : WayFor :=
  let set := setIndex gpn
  let s := decaySet s set
  match chooseWay s set with
  | none => if setUsable s set then .wait s else .disabled
  | some w => match tagAt s set w with
    | none => .free s w
    | some t => if t.state = .replica then .free (evictReplica s t.gpn) w else .pick (startInject s t.gpn none) w

/-- The way chosen for a page that has none yet. -/
def pickOf (s : State) (gpn : Nat) : Option Nat :=
  ((s.am.climbs.filter fun c => c.gpn == gpn).findSome? (·.pick)).or ((s.am.crowns.filter fun r => r.gpn == gpn).findSome? (·.pick))
/-- A crown, or a first touch, that no access waits for any more is taken all the same. -/
def withCrown (s : State) (gpn : Nat) : State :=
  if s.am.crowns.any fun r => r.gpn == gpn && !r.effective then s
  else
    let r : CrownReq := { gpn := gpn, granted := crownHere s gpn && !s.am.released.contains gpn, done := false, floor := 0, since := s.now }
    s.modAm fun a => { a with crowns := a.crowns.filter (fun r => r.gpn != gpn) ++ [r] }
/-- Note the way chosen for a page. -/
def setPick (s : State) (gpn : Nat) (w : Option Nat) : State :=
  if (climbFor s gpn).isSome then s.modAm fun a => { a with climbs := a.climbs.map fun c => if c.gpn = gpn ∧ c.stage ≠ .amc then { c with pick := w } else c }
  else
    let s := if w.isSome then withCrown s gpn else s
    s.modAm fun a => { a with crowns := a.crowns.map fun r => if r.gpn = gpn then { r with pick := w } else r }

/-- A way chosen afresh for a page that has come, or is to come. -/
def choosePlace (s : State) (gpn : Nat) : WayFor :=
  match wayFor s gpn with
  | .pick s w => .pick (setPick s gpn (some w)) w
  | o => o
/-- The frame of a page that has come: its own; the way chosen for it, once that is empty; or one chosen now. -/
def placeFor (s : State) (gpn : Nat) : WayFor :=
  match tagOf s gpn, pickOf s gpn with
  | some t, _ => .free s t.way
  | none, none => choosePlace s gpn
  | none, some w =>
    if parkedWay s (setIndex gpn) w then choosePlace (setPick s gpn none) gpn
    else match tagAt s (setIndex gpn) w with
      | none => .free (setPick s gpn none) w
      | some t => if injecting s t.gpn then .wait s else choosePlace (setPick s gpn none) gpn

end Sys2Proof.Machine
end

