-- ==== Sys2Proof/Machine/Attract.lean ====
section
/-! DEFINITION. The climb (R178, R181 to R183), the home's lookups (R179, R180, R182), take-backs, and the crown's moves (R184, R185,
R194). A step whose conditions do not hold changes nothing. -/

namespace Sys2Proof.Machine

open Sys2Proof

/-! ## Installing pages -/

/-- The lines that an access set touches in a page come into L2, and a load performs its spans there. -/
def serveSet (s : State) (gpn i : Nat) : State :=
  match setAt s i with
  | none => s
  | some a => (List.range a.spans.length).foldl (fun s k =>
      match setAt s i with
      | none => s
      | some a =>
        let p := a.spans.getD k default
        let pte := spanPte a p
        if p.line / 512 = gpn then
          let s := if neverCached pte then s else bringLine s p.line (bit pte.toNat 7)
          if storeClass a.kind || a.role != .access then s else sliceLoad s a k
        else s) s
/-- An access that joined a climb has its page: a set takes what it missed, a prefetch brings its line in (R182, R184, R209). -/
def serveWaiter (gpn : Nat) (s : State) (w : Issuer) : State :=
  match w with
  | .set i => serveSet s gpn i
  | .pref core c va sc => prefetch s core c va sc
  | _ => s
/-- The page of a climb is readable: its line comes into L2, and the accesses that joined it are served. -/
def serveClimb (s : State) (c : Climb) : State :=
  c.who.foldl (serveWaiter c.gpn) (bringLine (dropClimb s c.id) c.line c.hs)
def serveClimbs (s : State) (gpn : Nat) : State :=
  (s.am.climbs.filter fun c => c.gpn == gpn && c.stage != .amc).foldl serveClimb s

/-- The bytes and times of a page come into a frame; a compressed frame stores its blocks (R192). -/
def fillFrame (s : State) (t : Tag) (data : Memory) : State :=
  let s := putTag { s with mem := putCells (clearRange s.mem (65536 * t.gpn) 65536) (65536 * t.gpn) data } t
  if t.comp then (List.range 128).foldl (fun s k => writeBlock s (128 * t.gpn + k)) s else s

/-- Every line of a page is poisoned with a cause (R193). -/
def poisonPage (s : State) (gpn : Nat) (cause : Cause) : State :=
  s.modAm fun a =>
    { a with
      poison := (List.range 512).map (fun k => (512 * gpn + k, cause)) ++ a.poison.filter fun p => p.1 / 512 != gpn
      blocks := a.blocks.map fun b => if b.1 / 128 = gpn then (b.1, b.2 ||| 8) else b }
/-- Some line of a page is poisoned. -/
def pagePoisoned (s : State) (gpn : Nat) : Bool := s.am.poison.any fun p => p.1 / 512 == gpn

/-- The PTE attribute of the access that brings a page: compressed. -/
def bringComp (s : State) (gpn : Nat) : Bool :=
  match climbFor s gpn, s.am.crowns.find? fun r => r.gpn == gpn with
  | some c, _ => c.comp
  | none, some r => r.comp
  | none, none => false

/-- The frame of a page becomes a crowned page whose crown is effective; `mirror` has its other crowned copy (R184, R195). -/
def settleCrown (s : State) (gpn floor : Nat) (mirror : Option Nat) : State :=
  let s := modTag s gpn fun t =>
    { decay (epochOf s) t with state := if mirror.isSome then .mirrored else .master, transit := false, shared := false, pin := pinnedHere s gpn }
  let s := raiseFloor s gpn floor
  let settled (a : Am) : Am :=
    { a with
      seconds := a.seconds.filter (· != gpn)
      foreign := a.foreign.filter (· != gpn)
      others := match mirror with | some w => tput gpn w a.others | none => tdel gpn a.others
      crowns := a.crowns.map fun r =>
        if r.gpn = gpn then { r with granted := true, done := true, since := s.now, pick := none } else r }
  endTransit (s.modAm settled) gpn

/-- A first touch: a crowned frame of zeros (R175, R178). -/
def firstHere (s : State) (gpn : Nat) (comp : Bool) (mirror : Option Nat) : WayFor :=
  match placeFor s gpn with
  | .free s w =>
    let t := newTag s (setIndex gpn) w gpn .master comp false false 0 0
    .free (settleCrown (fillFrame s t []) gpn 0 mirror) w
  | o => o

/-- A page of other data installed as a replica, with the times of the copy it is made from (R152, R182). -/
def replicaHere (s : State) (gpn : Nat) (data : Memory) (fwt fle : Nat) (comp : Bool) : WayFor :=
  match placeFor s gpn with
  | .free s w => .free (fillFrame s (newTag s (setIndex gpn) w gpn .replica comp false false fwt fle) data) w
  | o => o

/-- No package. -/
def noAid : Nat := 1024
/-- A package that is named. -/
def someAid (a : Nat) : Option Nat := if a = noAid then none else some a

/-- An arriving page is installed and its climb served. A first touch names the mirror's package in place of the server. -/
def installPage (s : State) (gpn : Nat) (data : Memory) (fwt fle server : Nat) (poison first : Bool) : WayFor :=
  let comp := bringComp s gpn
  match (if first then firstHere s gpn comp (someAid server)
    else if crownHere s gpn then .free s 0 else replicaHere s gpn data fwt fle comp) with
  | .free s w =>
    let s := if poison then poisonPage s gpn Tc.amRemotePoison else s
    let s := if first ∨ server = aid s then s else hintPut s gpn server
    .free (serveClimbs (endTransit s gpn) gpn) w
  | o => o

/-- Remote accesses that wait here for a page are answered with a cause; granules are parked with it (R187, R305). -/
def refuseRemotes (s : State) (gpn : Nat) (cause : Cause) : State :=
  let mine := s.net.filter fun e => e.dst == aid s && homeGpn e.msg == some gpn
  mine.foldl (fun s e => match e.msg with
    | .remote id k _ _ ps _ _ _ _ => send { s with net := s.net.erase e } e.src (.remoteAns id k (partsLo ps) [] 0 0 cause)
    | .granule src cmd g _ va _ _ _ _ _ _ false _ => issuerFault s (.granule src cmd g va) cause 0 0 true
    | _ => s) s
/-- Every way of the set of a page that has come is disabled (R187). -/
def failPlace (s : State) (gpn : Nat) : State := refuseRemotes (failPage s gpn Tc.amSetDisabled) gpn Tc.amSetDisabled

/-- A message brings a page: it is taken once the page is installed; until then the page stays in the hub's page buffer, with what its way
sets going (R183). A crowned page is never dropped. -/
def pageComes (s : State) (m gpn : Nat) (crown : Bool) (f : State → WayFor) : State :=
  match f (dropMsg s m) with
  | .free t _ => t
  | .disabled => failPlace (if crown then s else dropMsg s m) gpn
  | _ => match f s with
    | .pick t _ => t
    | .wait t => t
    | _ => s

/-! ## The local step (R181, R183, R187) -/

/-- Take a way for a page that is not held: a placeholder in TRANSIT, or a way whose master is sent away. The choice is made now. -/
def climbWay (s : State) (c : Climb) : State :=
  let on (s : State) (w : Nat) (p : Option Nat) : State :=
    modClimb s c.id fun c => { c with stage := .hint, set := setIndex c.gpn, way := w, since := s.now, pick := p }
  match wayFor s c.gpn with
  | .free s w => on (putTag s (newTag s (setIndex c.gpn) w c.gpn .replica c.comp true false 0 0)) w none
  | .pick s w => on s w (some w)
  | .wait s => s
  | .disabled => failPage s c.gpn Tc.amSetDisabled

/-- Prefetches that joined go on. -/
def servePrefs (s : State) (ws : List Issuer) : State :=
  ws.foldl (fun s w => match w with | .pref core c va sc => prefetch s core c va sc | _ => s) s

/-- The AMC looks up the set's tags: a held page gives its line; a page already being fetched is joined; another is climbed for. -/
def tagLookup (s : State) (c : Climb) : State :=
  let s := decaySet s (setIndex c.gpn)
  if readableHere s c.gpn then servePrefs (bringLine (dropClimb s c.id) c.line c.hs) c.who
  else match climbFor s c.gpn with
  | some d =>
    let join (x : Climb) : Climb := { x with who := x.who ++ c.who.filter fun w => !x.who.contains w }
    dropClimb (modClimb s d.id join) c.id
  | none => if (tagOf s c.gpn).isSome || firstComing s c.gpn then s else climbWay s c

def execAmcTagLookup (c : Nat) (s : State) : Out :=
  match climbAt s c with
  | some k => .next (if k.stage = .amc then tagLookup s k else s)
  | none => .next s

/-- The index of a set among those of its AMC, which serves 16 pseudo-channels of 2 stacks (R171, R191). -/
def scrubIndex (set : Nat) : Nat := set % 2 + 2 * (set / 8 % 16) + 32 * (set / 256)
/-- The set is scrubbed in this dc. -/
def scrubDue (s : State) (set : Nat) : Bool := s.cycle % 2 ^ 25 == 64 * scrubIndex set
/-- TAG_SCRUB (R191). -/
def execTagScrub (set : Nat) (s : State) : Out := .next (if scrubDue s set then decaySet s set else s)

/-! ## The hub's step (R182) -/

/-- Ask the home for a page. -/
def askHome (s : State) (c : Climb) (notHeld : Option Nat) : State :=
  let s := send s (homeAid s c.gpn) (.homeRead c.gpn (aid s) notHeld c.mirr c.pin)
  modClimb s c.id fun c => { c with stage := .sent, since := s.now }

def hintLookup (s : State) (c : Climb) : State :=
  match (hintOf s c.gpn).filter fun h => h != aid s && !s.am.lost.contains h with
  | some h =>
    let s := send (hintPut s c.gpn h) h (.read c.gpn (aid s) true c.pin)
    let s := send s (homeAid s c.gpn) (.register c.gpn (aid s) h c.mirr c.pin)
    modClimb s c.id fun c => { c with stage := .hinted, since := s.now }
  | none => askHome s c none

def execHintLookup (c : Nat) (s : State) : Out :=
  match climbAt s c with
  | some k => .next (if k.stage = .hint then hintLookup s k else s)
  | none => .next s

/-! ## The home (R178 to R180, R182, R195) -/

/-- The home seeks a place for a mirror of the page. -/
def placing (s : State) (gpn : Nat) : Bool := s.am.injects.any fun x => x.gpn == gpn && x.mirror.isSome
/-- Pages of a home that was lost are still being reported to this one, which has taken their entries over: each package reports once for
each loss (R196). -/
def reportsDue (s : State) (gpn : Nat) : Bool :=
  podSize s != 0 && s.am.lost.contains (homeHash gpn % podSize s) &&
    (List.range (podSize s)).any fun a => !s.am.lost.contains a && s.am.reports.count a < s.am.reports.count (aid s)
/-- A transaction or a rebuild holds the entry (R180, R197). -/
def entryBusy (e : DirEntry) : Bool := e.tx.isSome || e.mode == .rebuilding

/-- The home grants the take-back of a page in the pool; its transaction ends when the requester has read it (R148, R182). -/
def grantBack (s : State) (e : DirEntry) (req pool : Nat) : State :=
  let t : DirTx := { req := req, acks := 1, floor := e.floor, since := s.now, old := e.crown }
  send (dirMod s e.gpn fun x => { x with tx := some t }) req (.takeBack e.gpn pool e.floor e.crown)

/-- The page of zeros of a first touch, with the package of its mirror (R178). -/
def firstPage (gpn mirror : Nat) : Msg := .page gpn [] 0 0 mirror false true false
/-- A request for a page without an entry is a first touch, for which a mirror may be placed first. None while no entry can be placed. -/
def homeFirst (s : State) (gpn req : Nat) (mirr : Bool) : Option State :=
  if mirr then some (startInject s gpn (some req))
  else (dirAdd (bumpStat s 1) (newEntry gpn req)).map fun s => send s req (firstPage gpn noAid)

/-- A request reaches the entry of its page: it waits for its turn and for the entry; a first touch makes the entry; a LOST page faults; a page
in the pool is taken back, after `back`. `keep` says that the request stays until the page has a crown; `go` is the rest. -/
def atEntry (s : State) (m gpn req : Nat) (mirr keep : Bool) (lost back : State → State) (go : State → DirEntry → State) : State :=
  let taken := if keep then s else dropMsg s m
  if !firstFor s m gpn ∨ ((dirFind s gpn).isNone ∧ (placing s gpn ∨ reportsDue s gpn)) then s
  else match dirFind s gpn with
  | none => (homeFirst taken gpn req mirr).getD s
  | some _ =>
    let t := dirTouch taken gpn
    match dirFind t gpn with
    | none => s
    | some e =>
      if entryBusy e then s
      else if e.mode = .lost then lost (dirTouch (dropMsg s m) gpn)
      else match e.pool with
        | some p => grantBack (back t) e req p
        | none => go t e
/-- A LOST page faults at the requester. -/
def lostAt (gpn req : Nat) (s : State) : State := send s req (.amFault gpn Tc.pageLost)

/-- The package that a home-path read goes to: the home itself where it is recorded, otherwise the crown. -/
def nearest (s : State) (e : DirEntry) : Nat := if e.crown = aid s ∨ e.reps.contains (aid s) then aid s else e.crown

/-- A home-path read with an entry: the requester is recorded, and the read goes to the crown, or to the home's own replica. The home's
package as requester, a read that pins the page, and a read after a *stale* or *not held* answer, go to the crown. -/
def homeForward (s : State) (e : DirEntry) (req : Nat) (notHeld : Option Nat) (pin crownOnly : Bool) : State :=
  let clear (x : DirEntry) : DirEntry := { x with reps := x.reps.filter fun r => some r != notHeld }
  let dst := if crownOnly ∨ pin ∨ req = aid s then e.crown else nearest s e
  send (dirMod s e.gpn fun x => addReplica (clear x) req) dst (.read e.gpn req false pin)

/-- A read that has come to the home. -/
def homeRead (s : State) (m gpn req : Nat) (notHeld : Option Nat) (mirr pin : Bool) : State :=
  atEntry s m gpn req mirr false (lostAt gpn req) id fun s e => homeForward s e req notHeld pin notHeld.isSome

/-- A message goes on from the home to a package: to the home's own holder in place. -/
def passOn (s : State) (m : Nat) (e : Env) (dst : Nat) : State :=
  if dst = aid s then { s with net := s.net.modify m fun e => { e with passed := true, at_ := s.now } }
  else { dropMsg s m with net := (dropMsg s m).net ++ [{ e with dst := dst, passed := true, at_ := s.now }] }

/-- An access of another package, or of this one, on its way to the crown (R161, R194), or to the mirror (R195): one that finds no place for
a mirror write is done with. -/
def homeRemote (s : State) (m : Nat) (e : Env) (id k gpn lo floor : Nat) (op : BitVec 8) (mirr : Bool) : State :=
  let answer (t : Nat) (stat : BitVec 8) (s : State) : State := send s e.src (.remoteAns id k lo [] t t stat)
  if op = mirrorOp then
    (match (dirFind s gpn).bind (·.mirror) with
     | some w => passOn s m e w
     | none => if placing s gpn then s else answer floor 0 (dropMsg s m))
  else atEntry s m gpn e.src mirr true (answer 0 Tc.pageLost) (fun s => s) fun s d => passOn s m e d.crown

/-- A page has found a second crowned copy for its first touch: the entry is made and the requester told (R178, R195). -/
def mirrorMade (s : State) (gpn req who : Nat) : Option State :=
  (dirAdd s { newEntry gpn req with mirror := some who }).map fun s =>
    let s := s.modAm fun a => { a with injects := a.injects.filter fun x => x.gpn != gpn }
    send (send (send s who (.injOk gpn who)) who (.injOk gpn req)) req (firstPage gpn who)

/-- A new mirror of a page that has an entry (R196). -/
def mirrorAgain (s : State) (e : DirEntry) (who : Nat) : State :=
  let s := dirMod s e.gpn fun x => { x with mirror := some who }
  let s := s.modAm fun a => { a with injects := a.injects.filter fun x => x.gpn != e.gpn || x.mirror.isNone }
  send (send (send s who (.injOk e.gpn who)) who (.injOk e.gpn e.crown)) e.crown (.injOk e.gpn who)

/-- The home records where an injected page or a mirror is crowned, and acknowledges to both; each copy of a mirrored page learns where the
other is (R188, R189, R195). -/
def homeSetCrown (s : State) (m gpn who injector : Nat) (mirror : Bool) : State :=
  let refuse (s : State) : State := send (send s who (.injOk gpn noAid)) injector (.injOk gpn noAid)
  let req := (s.am.injects.find? fun x => x.gpn == gpn).bind (·.mirror)
  let t := dirTouch (dropMsg s m) gpn
  if !firstFor s m gpn then s
  else match dirFind s gpn, req with
  | none, some req => if mirror then (mirrorMade (dropMsg s m) gpn req who).getD s else refuse t
  | none, none => refuse t
  | some e, _ =>
    if entryBusy e then s
    else
      let both (s : State) : State := send (send s who (.injOk gpn who)) injector (.injOk gpn who)
      let tell (s : State) (a b : Nat) : State := send (send s a (.injOk gpn b)) b (.injOk gpn a)
      let drop (x : DirEntry) : List Nat := x.reps.filter (· != who)
      if !mirror ∧ e.crown = injector then
        let s := both (dirMod t gpn fun x => { x with crown := who, pool := none, reps := drop x })
        (match e.mirror with | some w => tell s who w | none => s)
      else if mirror ∧ e.mirror = some injector then
        tell (both (dirMod t gpn fun x => { x with mirror := some who, reps := drop x })) who e.crown
      else if mirror ∧ req.isSome ∧ e.mirror.isNone then mirrorAgain t e who
      else refuse t

/-- A page written to the pool is recorded there: as the master, or as the second crowned copy; a transaction before it refuses it (R189). -/
def homePoolSet (s : State) (m gpn who pool floor : Nat) : State :=
  let t := dirTouch (dropMsg s m) gpn
  let refuse := send t who (.injOk gpn noAid)
  if !firstFor s m gpn then s
  else match dirFind s gpn with
  | some e =>
    if entryBusy e then refuse
    else if e.crown = who then send (dirMod t gpn fun x => { x with pool := some pool, floor := max x.floor floor }) who (.injOk gpn who)
    else if e.mirror = some who then send t who (.injOk gpn who)
    else refuse
  | none => refuse

/-- The requester of a take-back has read the page; or could not, for a cause that its waiting remote accesses are then answered with (R182). -/
def homeTaken (s : State) (gpn who : Nat) : State :=
  match (dirFind s gpn).bind fun e => e.tx.map fun t => (e, t) with
  | none => s
  | some (e, t) =>
    if noAid ≤ who then refuseRemotes (dirMod s gpn fun x => { x with tx := none }) gpn (BitVec.ofNat 8 (who - noAid))
    else
      let s := dirMod s gpn fun x => { x with crown := who, pool := none, reps := x.reps.filter (· != who), tx := none }
      let s := send s t.old (.poolFree (e.pool.getD 0))
      send s who (.complete gpn e.floor who e.mirror)

/-- The directory messages that the home's lookup takes. -/
def execDirectoryLookup (m : Nat) (s : State) : Out :=
  match msgAt s m with
  | none => .next s
  | some e =>
    .next (match e.msg with
      | .homeRead gpn req nh mirr pin => homeRead s m gpn req nh mirr pin
      | .remote id k op _ ps floor _ _ mirr =>
        if !e.passed ∧ homeAid s (pageOf (partsLo ps)) = aid s then homeRemote s m e id k (pageOf (partsLo ps)) (partsLo ps) floor op mirr else s
      | .setCrown gpn who injector mirror => homeSetCrown s m gpn who injector mirror
      | .poolSet gpn who pool floor => homePoolSet s m gpn who pool floor
      | .taken gpn who => homeTaken (dropMsg s m) gpn who
      | .poolFree pool => (dropMsg s m).modAm fun a => { a with poolFree := pool :: a.poolFree, poolPg := a.poolPg.filter (·.2 != pool) }
      | _ => s)

/-- The home checks a hinted holder (R182). A registration that finds no entry is a first touch, or waits for a mirror to be placed. -/
def homeRegister (s : State) (m gpn req holder : Nat) (mirr pin : Bool) : State :=
  let stale (s : State) : State := send s req (.stale gpn)
  if !firstFor s m gpn then s
  else if (dirFind s gpn).isNone ∧ !placing s gpn ∧ !reportsDue s gpn then ((homeFirst (dropMsg s m) gpn req mirr).map stale).getD s
  else atEntry s m gpn req mirr false (lostAt gpn req) stale fun s e =>
    if recorded e holder then send (dirMod s gpn fun x => addReplica x req) req (.regAck gpn)
    else homeForward (stale s) e req none pin true
def execRegistration (m : Nat) (s : State) : Out :=
  match msgAt s m with
  | some e => .next (match e.msg with
    | .register gpn req holder mirr pin => homeRegister s m gpn req holder mirr pin
    | _ => s)
  | none => .next s

/-! ## The holder (R181, R193, R194) -/

/-- A page goes out to its hub: the crown notes that its data has left the package (R184). -/
def sendPage (s : State) (gpn req : Nat) (hinted : Bool) : State :=
  let s := publishPage s gpn
  let t := pageTimes s gpn
  let s := if crownHere s gpn ∧ req ≠ aid s then modTag s gpn fun t => { t with shared := true } else s
  send s req (.page gpn (pageCells s gpn) t.1 t.2 (aid s) (pagePoisoned s gpn) false hinted)

/-- The page is pinned in this package (R147, R194). -/
def pinHeld (s : State) (gpn : Nat) : Bool := pinnedHere s gpn || (tagOf s gpn).any (·.pin)

/-- A read arrives at a holder. A page whose crown is leaving, or whose frame is filling, is waited for; a page pinned here is pinned nowhere
else (R194). -/
def holderRead (s : State) (m gpn req : Nat) (hinted pin : Bool) : State :=
  let t := decaySet s (setIndex gpn)
  if !spaceOpen s gpn req then send (dropMsg s m) req (.amFault gpn Tc.spaceRefused)
  else if readableHere s gpn then
    (if pin ∧ req ≠ aid s ∧ pinHeld s gpn then send (dropMsg t m) req (.amFault gpn Tc.amPinConflict)
     else if queuedPage s gpn || committingPage s gpn then s else sendPage (dropMsg t m) gpn req hinted)
  else if (tagOf s gpn).isSome ∧ req ≠ aid s then s
  else send (dropMsg t m) req (.notHeld gpn (aid s) hinted)

/-- The entry that a remote atomic or reduction makes. -/
def remoteEntry (op : BitVec 8) (ty : Ty) (t : Nat) (ps : List Part) : WqEntry :=
  let red := decide (0x40 ≤ op.toNat ∧ op.toNat < 0x50)
  { slice := homeSlice (partsLo ps), line := partsLo ps / 128, op := if red then op - 0x40 else op, ty := ty, ret := !red, t := t, parts := ps,
    who := [] }
/-- The values a list of parts reads. -/
def partValues (s : State) (ps : List Part) : List Nat := ps.map fun p => loadLe s.mem p.pa p.n
/-- What a remote store or a never-cached remote atomic writes, with the values it returns. -/
def remoteWrites (s : State) (op : BitVec 8) (ty : Ty) (ps : List Part) : List (Nat × List Byte) × List Nat :=
  if op = 0xF1 then (ps.map fun p => (p.pa, leBytes p.n p.data), [])
  else let w := entryWrites (remoteEntry op ty 0 ps) (byteAt s.mem); (asWrites w.1, w.2)

/-- The pool page of this package that holds the second crowned copy of a page (R178). -/
def poolMirror (s : State) (gpn : Nat) : Option Nat := if s.am.poolMirs.contains gpn then s.am.poolPg.lookup gpn else none
/-- The address of a pool page on the pool port (R362). -/
def poolAddr (s : State) (i : Nat) : Nat := 0xFFE * 2 ^ 52 + s.hub.poolBase.toNat / 65536 * 65536 + 65536 * i

/-- A write of the crown at its mirror: the ts that both take (R195). -/
def mirrorEffect (s : State) (ps : List Part) (floor : Nat) : State × Nat :=
  let lo := partsLo ps
  let n := partsLen ps
  match poolMirror s (pageOf lo) with
  | some pg =>
    ({ s with mem := ps.foldl (fun m p => storeLe m (poolAddr s pg + p.pa % 65536) p.n p.data) s.mem }, floor)
  | none =>
    let ts := max floor ((rangeTimes s lo n).2 + 1)
    let s := { s with mem := ps.foldl (fun m p => storeLe m p.pa p.n p.data) s.mem }
    (wakeLine (noteWrite ((sectorsOf lo n).foldl (fun s sec => setSector s sec (ts, ts)) s) lo n) (lo / 128), ts)

/-- What a message brings here that will make this package the crown of a page. -/
def crownComing (s : State) (gpn : Nat) : Bool :=
  (s.am.crowns.any fun r => r.gpn == gpn && !r.effective) || ((tagOf s gpn).any fun t => t.transit && crowned t) ||
    s.net.any fun e => e.dst == aid s && (match e.msg with
      | .page g _ _ _ _ _ first _ => first && g == gpn
      | .takeBack g _ _ _ | .grant g _ _ _ _ | .inject g _ _ _ _ _ _ => g == gpn
      | _ => false)

/-- The number under which a mirror answers for a request of another package. -/
def remoteTok (src id : Nat) : Nat := 2 ^ 100 * (src + 1) + id

/-- A remote access performed at the crown: the state, and whether it is answered, with its values, time and lease end. -/
def remotePerform (s : State) (m : Nat) (e : Env) (id k : Nat) (op : BitVec 8) (ty : Ty) (ps : List Part) (floor : Nat) (never : Bool) :
    State :=
  let lo := partsLo ps
  let n := partsLen ps
  let answer (s : State) (got : List Nat) (time lease : Nat) : State := send s e.src (.remoteAns id k lo got time lease 0)
  let s0 := dropMsg s m
  if op = 0xF0 then
    let r := performLoad s0 none false lo n floor
    answer r.1 (partValues s ps) r.2.1 r.2.2
  else if op = 0xF1 ∨ never then
    let w := remoteWrites s op ty ps
    let r := mirrorFirst s (remoteTok e.src id) k lo n floor w.1
    match r.2 with
    | none => r.1
    | some f =>
      let p := performStore { r.1 with net := r.1.net.erase e } none lo n f w.1
      answer p.1 w.2 p.2 p.2
  else
    let x := remoteEntry op ty 0 ps
    let r := enqueue s0 x.op ty x.ret (lo / 128) lo n floor ps { src := e.src, id := id, k := k }
    if x.ret || mirroredHere s (pageOf lo) then r.1 else answer r.1 [] r.2 r.2

/-- A remote access arrives where the page is crowned; elsewhere it waits for a crown that is coming, or goes back to the home. -/
def holderRemote (s : State) (m : Nat) (e : Env) (id k : Nat) (op : BitVec 8) (ty : Ty) (ps : List Part) (floor : Nat) (write never : Bool) :
    State :=
  let lo := partsLo ps
  let n := partsLen ps
  let gpn := pageOf lo
  let refuse (stat : BitVec 8) : State := send (dropMsg s m) e.src (.remoteAns id k lo [] 0 0 stat)
  if op = mirrorOp then
    (if s.am.seconds.contains gpn || (poolMirror s gpn).isSome then
       let r := mirrorEffect (dropMsg s m) ps floor
       send r.1 e.src (.remoteAns id k lo [] r.2 r.2 0)
     else s)
  else if !crownHere s gpn ∨ s.am.released.contains gpn then
    (if crownComing s gpn then s
     else { dropMsg s m with net := (dropMsg s m).net ++ [{ e with dst := homeAid s gpn, passed := false, at_ := s.now }] })
  else if !spaceOpen s gpn e.src then refuse Tc.spaceRefused
  else if !readableHere s gpn then s
  else if write ∧ !writableHere s gpn then (if (tagOf s gpn).any (·.transit) then s else askCrown s gpn 0 [])
  else if !never ∧ lineAway s (lo / 128) then fillL2 s (lo / 128)
  else if sliceBusy s none lo n ∨ (if write then plainWriteHeld s lo n else plainReadHeld s lo n) then s
  else if write ∧ !(plainVictims s lo n).isEmpty then abortVictims s lo n
  else match (if op = 0xF1 then none else poisonAt s (lo / 128)) with
    | some c => refuse c
    | none => remotePerform s m e id k op ty ps floor never

def execHolderRead (m : Nat) (s : State) : Out :=
  match msgAt s m with
  | none => .next s
  | some e =>
    .next (match e.msg with
      | .read gpn req hinted pin => holderRead s m gpn req hinted pin
      | .remote id k op ty ps floor write never _ => if e.passed then holderRemote s m e id k op ty ps floor write never else s
      | _ => s)

/-! ## Answers at the requester (R182, R183) -/

/-- A holder had no valid copy. The answer of a hinted holder counts once the home has answered the registration; after a stale answer
the home's own read serves the climb. -/
def notHeldAnswer (s : State) (m gpn holder : Nat) (hinted : Bool) : State :=
  match climbFor s gpn with
  | none => dropMsg s m
  | some c =>
    if c.stage = .hinted then (if hinted ∧ !c.acked then s else askHome (dropMsg s m) c (some holder))
    else if hinted then dropMsg s m
    else askHome (dropMsg s m) c (some holder)

def execNotHeldAnswer (m : Nat) (s : State) : Out :=
  match msgAt s m with
  | some e => .next (match e.msg with | .notHeld gpn holder hinted => notHeldAnswer s m gpn holder hinted | _ => s)
  | none => .next s

def execStaleAnswer (m : Nat) (s : State) : Out :=
  match msgAt s m with
  | some e =>
    .next (match e.msg with
      | .stale gpn =>
        let s := dropMsg s m
        match (climbFor s gpn).filter fun c => c.stage == .hinted with
        | some c => modClimb s c.id fun c => { c with stage := .sent, held := none, since := s.now }
        | none => s
      | _ => s)
  | none => .next s

/-- The registration stands: data that came from the hinted holder may now be used. -/
def execRegistrationAck (m : Nat) (s : State) : Out :=
  match msgAt s m with
  | some e =>
    .next (match e.msg with
      | .regAck gpn =>
        match (climbFor s gpn).filter fun c => c.stage == .hinted with
        | none => dropMsg s m
        | some c => match c.held with
          | none => modClimb (dropMsg s m) c.id fun c => { c with acked := true }
          | some (data, fwt, fle, poison, server) => pageComes s m gpn false fun s => installPage s gpn data fwt fle server poison false
      | _ => s)
  | none => .next s

/-- A page arrives: it serves its climb, or it was a first touch that a store or a remote access asked for. -/
def pageArrives (s : State) (m gpn : Nat) (data : Memory) (fwt fle server : Nat) (poison first hinted : Bool) : State :=
  if first then pageComes s m gpn true fun s => installPage s gpn [] 0 0 server false true
  else match climbFor s gpn with
  | none => dropMsg s m
  | some c =>
    if hinted ∧ c.stage ≠ .hinted then dropMsg s m
    else if hinted ∧ !c.acked then modClimb (dropMsg s m) c.id fun c => { c with held := some (data, fwt, fle, poison, server) }
    else pageComes s m gpn false fun s => installPage s gpn data fwt fle server poison false

/-- A page that this package's pool takes as a second crowned copy (R178, R196). -/
def poolArrives (s : State) (m gpn pg : Nat) (data : Memory) : State :=
  let a := poolAddr s pg
  let s := { dropMsg s m with mem := putCells (clearRange s.mem a 65536) a data }
  let s := s.modAm fun x => { x with poolMirs := gpn :: x.poolMirs.filter (· != gpn) }
  send s (homeAid s gpn) (.setCrown gpn (aid s) (aid s) true)

/-- An injected page arrives at the package that accepted it: crowned in TRANSIT until the home confirms (R175, R188). -/
def injectArrives (s : State) (m : Nat) (e : Env) (gpn : Nat) (data : Option Memory) (fwt fle : Nat) (shared mirror poison : Bool) : State :=
  match tagOf s gpn with
  | none => match (if mirror then s.am.poolPg.lookup gpn else none) with
    | some pg => poolArrives s m gpn pg (data.getD [])
    | none => send (dropMsg s m) e.src (.injOk gpn noAid)
  | some t =>
    let s := dropMsg s m
    let t' := { decay (epochOf s) t with
      state := if mirror then .mirrored else .master, transit := true, shared := shared, fwt := max t.fwt fwt, fle := max t.fle fle }
    let s := match data with | some d => fillFrame s t' d | none => putTag s t'
    let s := if poison then poisonPage s gpn Tc.amRemotePoison else s
    let s := if mirror then s.modAm fun a => { a with seconds := gpn :: a.seconds.filter (· != gpn) } else s
    send s (homeAid s gpn) (.setCrown gpn (aid s) e.src mirror)

/-- A group that waits at .pod for a word of a page whose space is refused reads it again and parks there (R298). -/
def refuseWaiters (s : State) (gpn : Nat) (cause : Cause) : State :=
  (List.range s.groups.length).foldl (fun s gi => match (groupAt s gi).wait with
    | .word w =>
      if w.placed ∧ pageOf w.pa = gpn ∧ w.sc = 4 then
        let s := waitAgain (s.modGroup gi fun g => { g with wait := .word { w with placed := false } }) gi w
        match (setsOf s (.scalar gi)).find? fun a => a.dest == .waitcmp with
        | some a => parkSet s a cause 0 0 w.va 0
        | none => s
      else s
    | _ => s) s

/-- PAGE_INSTALL: a page, an injected page, or the refusal of either. -/
def execPageInstall (m : Nat) (s : State) : Out :=
  match msgAt s m with
  | none => .next s
  | some e =>
    .next (match e.msg with
      | .page gpn data fwt fle server poison first hinted =>
        if !first ∧ !spaceOpen s gpn e.src then failPage (dropMsg s m) gpn Tc.spaceRefused
        else pageArrives s m gpn data fwt fle server poison first hinted
      | .inject gpn data fwt fle shared mirror poison =>
        if spaceOpen s gpn e.src then injectArrives s m e gpn data fwt fle shared mirror poison
        else send (dropMsg s m) e.src (.injOk gpn noAid)
      | .amFault gpn cause => refuseWaiters (failPage (dropMsg s m) gpn cause) gpn cause
      | _ => s)

/-- Mark the crown request of a page. -/
def modCrown (s : State) (gpn : Nat) (f : CrownReq → CrownReq) : State :=
  s.modAm fun a => { a with crowns := modFirst (fun r => r.gpn == gpn && !r.effective) f a.crowns }

/-- TAKE_BACK: the page is read through this package's pool port into a crowned frame in TRANSIT, and the home is told; a pool that is down,
or a set without a way, faults its accesses, and the page is taken back when they are replayed (R182, R362). -/
def takeBack (s : State) (m gpn pool floor : Nat) : State :=
  let fail (s : State) (c : Cause) : State := send (failPage (dropMsg s m) gpn c) (homeAid s gpn) (.taken gpn (noAid + c.toNat))
  if !s.hub.poolUp then fail s Tc.amPoolError
  else match placeFor s gpn with
  | .wait s => s
  | .pick s _ => s
  | .disabled => fail s Tc.amSetDisabled
  | .free s w =>
    let t := newTag s (setIndex gpn) w gpn .master (bringComp s gpn) true false 0 floor
    let at_ := poolAddr s pool
    let poison := s.am.poison.any fun p => at_ / 128 ≤ p.1 && p.1 < at_ / 128 + 512
    let s := fillFrame (dropMsg s m) t (cellsIn s.mem at_ 65536)
    let s := if poison then poisonPage s gpn Tc.amPoolPoison else s
    let s := modCrown (withCrown s gpn) gpn fun r => { r with granted := true, floor := max r.floor floor, pick := none }
    send s (homeAid s gpn) (.taken gpn (aid s))

def execTakeBack (m : Nat) (s : State) : Out :=
  match msgAt s m with
  | some e => .next (match e.msg with | .takeBack gpn pool floor _ => takeBack s m gpn pool floor | _ => s)
  | none => .next s

/-- The page is in the hub's page buffer, or a rebuild holds its requests (R197): no step is unanswered. -/
def climbAnswered (s : State) (gpn : Nat) : Bool :=
  (s.net.any fun e => e.dst == aid s && (match e.msg with | .page g _ _ _ _ _ _ _ | .takeBack g _ _ _ => g == gpn | _ => false)) ||
    ((dirFind s gpn).any fun e => e.mode == .rebuilding) || (s.am.recalls.lookup gpn).isSome

/-- A remote access of a set, which its span still awaits. -/
def awaited (s : State) (e : Env) : Bool :=
  e.src == aid s && (match e.msg with
    | .remote id k op _ _ _ _ _ _ => op != mirrorOp && (answerTo s id k).isNone && (setAt s id).any fun a => (a.spans.getD k default).owe != 0
    | _ => false)
/-- A remote access unanswered for 2^20 dc faults (R182). -/
def remoteTimeout (s : State) (n : Nat) : State :=
  match s.net[n]? with
  | none => s
  | some e => match e.msg with
    | .remote id k _ _ ps _ _ _ _ =>
      if awaited s e ∧ e.at_ + 2 ^ 20 ≤ s.now ∧ !climbAnswered s (pageOf (partsLo ps)) then
        match setAt s id with
        | some a => faultAccs { s with net := s.net.erase e } a Tc.amClimbTimeout 0 0 (onLine (a.spans.getD k default).line)
        | none => s
      else s
    | _ => s

/-- CLIMB_TIMEOUT: of a climb by its number; 2^32 and above, of a crown request by its place; 2^33 and above, of a remote access by its place
among the messages (notes/assumptions/84.md). -/
def execClimbTimeout (c : Nat) (s : State) : Out :=
  .next (if 2 ^ 33 ≤ c then remoteTimeout s (c - 2 ^ 33)
    else if 2 ^ 32 ≤ c then
      match s.am.crowns[c - 2 ^ 32]? with
      | some r =>
        if !r.granted ∧ !r.done ∧ !r.who.isEmpty ∧ r.since + 2 ^ 20 ≤ s.now ∧ !climbAnswered s r.gpn then failPage s r.gpn Tc.amClimbTimeout
        else s
      | none => s
    else match climbAt s c with
      | some k =>
        if (k.stage = .sent ∨ k.stage = .hinted) ∧ k.since + 2 ^ 20 ≤ s.now ∧ !climbAnswered s k.gpn then failPage s k.gpn Tc.amClimbTimeout
        else s
      | none => s)

/-- The page and the requester of a request that would make an entry. -/
def newEntryFor (e : Env) : Option (Nat × Nat) :=
  match e.msg with
  | .homeRead gpn req _ _ _ | .crownReq gpn req _ _ _ | .register gpn req _ _ _ => some (gpn, req)
  | .remote _ _ op _ ps _ _ _ _ => if e.passed ∨ op = mirrorOp then none else some (pageOf (partsLo ps), e.src)
  | .granule src _ _ _ _ pa _ _ _ _ _ _ _ => some (pageOf pa, src)
  | _ => none

/-- DIR_FULL_TIMEOUT: a request for which no entry could be placed in 2^20 dc faults at its requester (R179). -/
def execDirFullTimeout (m : Nat) (s : State) : Out :=
  match msgAt s m with
  | none => .next s
  | some e => match newEntryFor e with
    | some (gpn, req) =>
      .next (if e.at_ + 2 ^ 20 ≤ s.now ∧ (dirFind s gpn).isNone ∧ !placing s gpn ∧ (dirAdd s (newEntry gpn req)).isNone then
        match e.msg with
        | .remote id k _ _ ps _ _ _ _ => send (dropMsg s m) req (.remoteAns id k (partsLo ps) [] 0 0 Tc.amDirFull)
        | .granule src cmd g _ va _ _ _ _ _ _ parked _ => if parked then s else issuerFault s (.granule src cmd g va) Tc.amDirFull 0 0 true
        | _ => send (dropMsg s m) req (.amFault gpn Tc.amDirFull)
      else s)
    | none => .next s

/-! ## Crown moves (R184, R185, R194, R195) -/

/-- The transaction is over: the entry names its crown, the floor goes to the requester, and the old master frees its frame, or keeps it as
the second crowned copy where the crown went to that (R195). -/
def finishCrown (s : State) (e : DirEntry) (t : DirTx) : State :=
  let mirror := if e.mirror = some t.req then some t.old else e.mirror
  let s := dirMod s e.gpn fun x =>
    { x with crown := t.req, mirror := mirror, floor := t.floor, reps := [], groups := 0, mode := .precise, tx := none }
  let s := send s t.req (.complete e.gpn t.floor t.req mirror)
  if t.old = t.req then s else send s t.old (.complete e.gpn t.floor t.req mirror)

/-- The home opens a crown transaction. The requester's statement counts where the entry records it (notes/assumptions/32.md); a master that
asks has said what lease end it holds. -/
def openCrown (s : State) (e : DirEntry) (req : Nat) (replica : Bool) (fle : Nat) : State :=
  let holders := replicaHolders s e req
  let moves := e.crown != req
  let t : DirTx := { req := req, acks := holders.length + moves.toNat, floor := if moves then 0 else fle, since := s.now, old := e.crown }
  let s := dirMod s e.gpn fun x => { x with tx := some t }
  let s := holders.foldl (fun s h => send s h (.inval e.gpn)) s
  if moves then send s e.crown (.release e.gpn req (e.mirror == some req || (replica && recorded e req)))
  else if holders.isEmpty then finishCrown s e t
  else s

/-- A mirror's page is under way from the crown. -/
def mirrorSent (s : State) (gpn : Nat) : Bool := s.am.injects.any fun x => x.gpn == gpn && x.mirror.isSome && x.sentTo.isSome

def crownTransaction (s : State) (m gpn req : Nat) (replica mirr : Bool) (fle : Nat) : State :=
  if mirrorSent s gpn then s
  else atEntry s m gpn req mirr false (lostAt gpn req) id fun s e => openCrown s e req replica fle

def execCrownTransaction (m : Nat) (s : State) : Out :=
  match msgAt s m with
  | some e => .next (match e.msg with | .crownReq gpn req replica mirr fle => crownTransaction s m gpn req replica mirr fle | _ => s)
  | none => .next s

/-- A message that must leave regions marking its page alone is held, from the dc it is first met (R240). -/
def holdMsg (s : State) (gpn : Nat) (e : Env) : State :=
  if s.dom.holds.any fun h => h.1 == gpn && h.2.2 == e then s
  else s.modDom fun d => { d with holds := d.holds ++ [(gpn, s.now, e)] }
def unholdMsg (s : State) (gpn : Nat) (e : Env) : State :=
  s.modDom fun d => { d with holds := d.holds.filter fun h => !(h.1 == gpn && h.2.2 == e) }

/-- INVALIDATION: a settled replica is dropped and its largest lease end answered; a filling one answers after the fill. -/
def invalidate (s : State) (m : Nat) (e : Env) (gpn : Nat) : State :=
  if !(pageMarkers s gpn).isEmpty then holdMsg s gpn e
  else match tagOf s gpn with
  | none => send (dropMsg (unholdMsg s gpn e) m) e.src (.invalAck gpn (aid s) none)
  | some t =>
    if t.state ≠ .replica then
      send (dropMsg (unholdMsg s gpn e) m) e.src (.invalAck gpn (aid s) (if t.transit then some (pageTimes s gpn).2 else none))
    else if t.transit then s
    else
      let s := publishPage (dropMsg (unholdMsg s gpn e) m) gpn
      let fle := (pageTimes s gpn).2
      send (dropPage s gpn) e.src (.invalAck gpn (aid s) (some fle))

def execInvalidation (m : Nat) (s : State) : Out :=
  match msgAt s m with
  | some e => .next (match e.msg with | .inval gpn => invalidate s m e gpn | _ => s)
  | none => .next s

/-- INVALIDATION_ACK: one acknowledgement less; a master that keeps its crown ends the move (R194). -/
def invalAck (s : State) (gpn holder : Nat) (fle : Option Nat) : State :=
  match dirFind s gpn with
  | none => s
  | some e => match e.tx with
    | none => dirMod s gpn fun x => { x with reps := x.reps.filter (· != holder) }
    | some t =>
      let keeps := holder == t.old && t.old != t.req && fle.isNone
      let t := { t with acks := t.acks - 1, floor := max t.floor (fle.getD 0), req := if keeps then t.old else t.req }
      let e := { e with tx := some t, reps := e.reps.filter (· != holder) }
      let s := dirMod s gpn fun _ => e
      if t.acks = 0 then finishCrown s e t else s

def execInvalidationAck (m : Nat) (s : State) : Out :=
  match msgAt s m with
  | some e => .next (match e.msg with | .invalAck gpn holder fle => invalAck (dropMsg s m) gpn holder fle | _ => s)
  | none => .next s

/-- Every span of the access sets that asked for a crown has been performed on the page; any other access that asked has left the list when it
was performed (R185). -/
def holdDone (s : State) (r : CrownReq) : Bool :=
  r.who.all fun w => match w with
    | .set i => (setAt s i).all fun a => a.spans.all fun p => p.done || p.line / 512 != r.gpn
    | _ => false
/-- The crown stays with its new master (R185). -/
def crownHeld (s : State) (gpn : Nat) : Bool :=
  s.am.crowns.any fun r => r.gpn == gpn && r.effective && s.now < r.since + 4096 && !holdDone s r
/-- An access that asked for crowns has been performed on a page. -/
def askDone (s : State) (gpn : Nat) (who : Issuer) : State :=
  s.modAm fun a => { a with crowns := a.crowns.map fun r => if r.gpn = gpn then { r with who := r.who.filter (· != who) } else r }

/-- The master lets the crown go: the requester has the grant, the home the lease end. -/
def letGo (s : State) (gpn req home : Nat) (replica : Bool) : State :=
  let s := publishPage s gpn
  let t := pageTimes s gpn
  let s := s.modAm fun a =>
    { a with
      released := gpn :: a.released
      crowns := (a.crowns.filter fun r => r.gpn != gpn || !r.effective).map fun r => if r.gpn = gpn then { r with granted := false } else r
      injects := a.injects.filter fun x => x.gpn != gpn || x.mirror.isSome }
  let s := send s req (.grant gpn t.2 (if replica then none else some (pageCells s gpn)) t.1 (pagePoisoned s gpn))
  send s home (.invalAck gpn (aid s) (some t.2))

/-- A crown release arrives. A package that is no longer the master passes it back through the home. -/
def crownRelease (s : State) (m : Nat) (e : Env) (gpn req : Nat) (replica : Bool) : State :=
  let home := homeAid s gpn
  if !crownHere s gpn then
    (if home = aid s then
       (match dirFind s gpn with
        | some d => if d.crown = aid s then s else send (dropMsg s m) d.crown (.release gpn req replica)
        | none => dropMsg s m)
     else send (dropMsg s m) home (.release gpn req replica))
  else if !spaceOpen s gpn req then
    send (send (dropMsg s m) req (.amFault gpn Tc.spaceRefused)) home (.invalAck gpn (aid s) none)
  else if pinHeld s gpn then
    send (send (dropMsg s m) req (.crownNo gpn)) home (.invalAck gpn (aid s) none)
  else if ((tagOf s gpn).any (fun t => t.transit) ∧ !injecting s gpn) ∨ crownHeld s gpn ∨ queuedPage s gpn ∨ mirrorBusy s gpn then s
  else if !(pageMarkers s gpn).isEmpty then holdMsg s gpn e
  else letGo (dropMsg (unholdMsg s gpn e) m) gpn req home replica

def execCrownRelease (m : Nat) (s : State) : Out :=
  match msgAt s m with
  | some e => .next (match e.msg with | .release gpn req replica => crownRelease s m e gpn req replica | _ => s)
  | none => .next s

/-- The grant arrives: the page's frame here becomes a master in TRANSIT, with the page where it was sent. -/
def crownGrant (s : State) (m gpn fle : Nat) (data : Option Memory) (fwt : Nat) (poison : Bool) : State :=
  let s := withCrown s gpn
  match s.am.crowns.find? fun r => r.gpn == gpn && !r.effective with
  | none => s
  | some r => match placeFor s gpn with
    | .wait s => s
    | .pick s _ => s
    | .disabled => failPlace s gpn
    | .free s w =>
      let fresh := newTag s (setIndex gpn) w gpn .master r.comp true false fwt fle
      let t := match tagOf s gpn with
        | some o => { fresh with heat := (decay (epochOf s) o).heat, comp := if data.isNone then o.comp else r.comp, fwt := max fwt o.fwt, fle := max fle o.fle }
        | none => fresh
      let s := match data with | some d => fillFrame s t d | none => putTag s t
      let s := if poison ∧ data.isSome then poisonPage s gpn Tc.amRemotePoison else s
      modCrown (dropMsg s m) gpn fun r => { r with granted := true, floor := max r.floor fle, pick := none }

def execCrownGrant (m : Nat) (s : State) : Out :=
  match msgAt s m with
  | some e =>
    .next (match e.msg with
      | .grant gpn fle data fwt poison =>
        if spaceOpen s gpn e.src then crownGrant s m gpn fle data fwt poison
        else if (pageWaiters s gpn).isEmpty then s else failPage s gpn Tc.spaceRefused
      | _ => s)
  | none => .next s

/-- The master keeps its crown: the waiting stores go there as .pod accesses, and a pin of the page faults (R194). -/
def crownRefused (s : State) (gpn : Nat) : State :=
  match s.am.crowns.find? fun r => r.gpn == gpn && !r.effective with
  | none => s
  | some r =>
    let s := s.modAm fun a =>
      { a with foreign := gpn :: a.foreign.filter (· != gpn), crowns := a.crowns.filter fun x => x.gpn != gpn || x.effective }
    if r.pin then parkWaiters (unpinLocal s gpn) gpn Tc.amPinConflict r.who else s

/-- The crown has gone from here: the frame is freed, or stays as the second crowned copy (R184, R195). -/
def crownGone (s : State) (gpn crown : Nat) (mirror : Option Nat) : State :=
  if mirror = some (aid s) then
    let second (a : Am) : Am :=
      { a with
        released := a.released.filter (· != gpn)
        seconds := gpn :: a.seconds.filter (· != gpn)
        others := tput gpn crown a.others }
    endTransit ((modTag s gpn fun t => { t with state := .mirrored, transit := false, shared := false }).modAm second) gpn
  else dropPage s gpn

/-- CROWN_COMPLETION: effective at the requester, once the grant has come; the frame freed at the old master; or the refusal of a move. -/
def execCrownCompletion (m : Nat) (s : State) : Out :=
  match msgAt s m with
  | none => .next s
  | some e =>
    .next (match e.msg with
      | .complete gpn floor crown mirror =>
        if crown ≠ aid s then crownGone (dropMsg s m) gpn crown mirror
        else
          let t := withCrown s gpn
          match t.am.crowns.find? fun r => r.gpn == gpn && !r.effective with
          | some r =>
            if r.granted ∧ (tagOf s gpn).any crowned then
              serveClimbs (settleCrown (dropMsg t m) gpn (max r.floor floor) mirror) gpn
            else s
          | none => s
      | .crownNo gpn => crownRefused (dropMsg s m) gpn
      | _ => s)

def execCrownHoldExpire (gpn : Nat) (s : State) : Out :=
  .next (if crownHeld s gpn then s
    else s.modAm fun a => { a with crowns := a.crowns.filter fun r => r.gpn != gpn || !r.effective })

end Sys2Proof.Machine
end

