-- ==== Sys2Proof/Machine/Access.lean ====
section
/-! DEFINITION. Accesses of the parties that hold no access sets (R151, R167): the CP, the host port, marionette stages and engines. Each
is performed in one step (notes/assumptions/11.md), once its pages are here, by the same home slices, directory and faults as
every other access; a piece mastered elsewhere that may not come here is performed there (R161, R194). -/

namespace Sys2Proof.Machine

open Sys2Proof

/-- What an access at once meets. -/
inductive Reach (α : Type) where
  | done (s : State) (v : α)
  | wait (s : State)
  | fault (s : State) (f : XFault) (va : Nat)
  deriving Repr

/-! ## Pages -/

/-- A message for this package about the page is under way. -/
def pageBusy (s : State) (gpn : Nat) : Bool :=
  s.net.any fun e => e.dst == aid s && (homeGpn e.msg == some gpn || (match e.msg with
    | .page g _ _ _ _ _ _ _ | .takeBack g _ _ _ | .grant g _ _ _ _ => g == gpn
    | _ => false))

/-- A first touch whose home is this package (R178), taken at once. -/
def touchHere (s : State) (gpn : Nat) (pte : Word) : State :=
  if !devicePage gpn || homeAid s gpn != aid s || (dirFind s gpn).isSome || (tagOf s gpn).isSome || pteMirr pte ||
      (s.am.climbs.any fun c => c.gpn == gpn) || (s.am.crowns.any fun r => r.gpn == gpn) || pageBusy s gpn then s
  else match firstHere s gpn (pteComp pte) none with
    | .free s' _ => (dirAdd (bumpStat s' 1) (newEntry gpn (aid s))).getD s
    | _ => s

/-- A line of a page held here comes into L2 (R181). -/
def fillHere (s : State) (pte : Word) (pa : Nat) : State :=
  let gpn := pageOf pa
  if devicePage gpn && readableHere s gpn && !neverCached pte then bringLine s (pa / 128) (bit pte.toNat 7) else s

/-- The ways of pages whose crown has been asked for and that have no frame here are chosen (R183); where none can ever be had the accesses
fault, and the request is not made. -/
def pickWays (s : State) : State :=
  let needs (r : CrownReq) : Bool := !r.effective && r.pick.isNone && (tagOf s r.gpn).isNone && (pickOf s r.gpn).isNone
  let unsent (gpn : Nat) (e : Env) : Bool :=
    e.src == aid s && e.at_ == s.now && (match e.msg with | .crownReq g _ _ _ _ => g == gpn | _ => false)
  (s.am.crowns.filter needs).foldl (fun s r => match wayFor s r.gpn with
    | .free s w => modCrown s r.gpn fun r => { r with pick := some w }
    | .pick s w => modCrown s r.gpn fun r => { r with pick := some w }
    | .wait s => s
    | .disabled => failPage { s with net := s.net.filter fun e => !unsent r.gpn e } r.gpn Tc.amSetDisabled) s

/-! ## Translations of the hub and of engines (R301) -/

/-- A translation that the hub's inbound TLB gives and that allows the access. -/
def hubLook (s : State) (c va : Nat) (k : Xk) : Option Word :=
  ((s.hubTlb.find? fun e => e.ctx == c && e.vpn == va / 65536).map (·.pte)).filter fun e => (checkPte s c e k).isNone
/-- Enter a translation as the most recent of its set, of 512 sets of 8. -/
def hubFill (s : State) (c va : Nat) (pte : Word) : State :=
  { s with hubTlb := (tlbPut 512 8 (s.hubTlb.map fun e => (0, e)) 0 c (va / 65536) pte).map (·.2) }

/-- The core of an engine's group; the other parties translate in the hub. -/
def engineCore (s : State) : Party → Option Nat
  | .copy g => some ((groupAt s g).quad / 4)
  | .fabric g => some ((groupAt s g).quad / 4)
  | _ => none
/-- The walker of a party: its die's, or the hub's. -/
def partyDie (s : State) (p : Party) : Nat := (engineCore s p).elim 2 (· / 36)
def partyLook (s : State) (p : Party) (c va : Nat) (k : Xk) : Option Word :=
  match engineCore s p with
  | some core => tlbLook s core c va k
  | none => hubLook s c va k
/-- The PTE of an access of a party: from its TLB, or by a walk. -/
def partyPte (s : State) (p : Party) (c va : Nat) (k : Xk) : Except XFault Word :=
  match partyLook s p c va k with
  | some e => .ok e
  | none => translate s c va k
/-- A page's translation is entered, walked by the walker of the party's die or of the hub where it missed. -/
def enterPte (s : State) (p : Party) (c va : Nat) (k : Xk) : State :=
  match engineCore s p with
  | some core => enterPage s core c k va
  | none => match hubLook s c va k with
    | some e => hubFill s c va e
    | none =>
      let s := walkTimes (dropWalk s 2 c va) 2 c va
      match translate s c va k with
      | .ok e => hubFill s c va e
      | .error _ => s
def enterPtes (s : State) (p : Party) (c va n : Nat) (k : Xk) : State := (pageVas va n).foldl (fun s a => enterPte s p c a k) s

/-- The tables that a range needs: one that is not here is walked and climbed for first; a read unanswered for 2^20 dc ends the walk (R300,
R302); one that is being written is waited for. -/
def tablesFor (s : State) (p : Party) (c : Nat) (k : Xk) (who : Issuer) (va n : Nat) : Reach Unit :=
  let misses := (pageVas va n).filter fun a => (partyLook s p c a k).isNone
  let die := partyDie s p
  match misses.find? fun a => (tableAway s c a).isSome with
  | none => if misses.any (walkHeld s c) then .wait s else .done s ()
  | some a => match walkLate s die c a with
    | some l => .fault (dropWalk s die c a) ⟨Tc.xlateTimeout, l, 0⟩ a
    | none =>
      let w := joinWalk s die c a
      match (if w.2 then tableAway w.1 c a else none) with
      | none => .wait w.1
      | some pa =>
        let s := touchHere w.1 (pageOf pa) 0
        .wait (if pageHere s (pageOf pa) then s else startClimb s (pageOf pa) (pa / 128) 0 who)

/-! ## Pieces -/

/-- A piece of a range: its pod address, its bytes, its PTE. -/
structure Piece where
  pa  : Nat
  n   : Nat
  pte : Word
  deriving DecidableEq, Repr, Inhabited

/-- A range of pod addresses cut at lines. -/
def paPieces (pte : Word) : Nat → Nat → Nat → List Piece
  | 0, _, _ => []
  | fuel + 1, pa, n =>
    if n = 0 then []
    else
      let k := pieceLen pa n
      { pa := pa, n := k, pte := pte } :: paPieces pte fuel (pa + k) (n - k)

/-- A range of device VAs cut at lines, or the first fault with its address. -/
def vaPieces (s : State) (p : Party) (c : Nat) (k : Xk) : Nat → Nat → Nat → Except (XFault × Nat) (List Piece)
  | 0, _, _ => .ok []
  | fuel + 1, va, n =>
    if n = 0 then .ok []
    else match partyPte s p c va k with
      | .error f => .error (f, va)
      | .ok e =>
        let here := min n (65536 - va % 65536)
        (vaPieces s p c k fuel (va + here) (n - here)).map fun r => paPieces e (lineFuel here) (podAddr e va) here ++ r

/-! ## Pieces performed elsewhere -/

/-- The number under which a party's remote pieces travel; no access set has it. The request of a piece is numbered by its address. -/
def partyTok : Party → Nat
  | .cp => noSet + 1
  | .host => noSet + 2
  | .stage st => noSet + 0x100 + st
  | .copy g => noSet + 0x10000 + 2 * g
  | .fabric g => noSet + 0x10001 + 2 * g
  | _ => noSet + 3

/-- A request of a remote piece. -/
def askedFor (tok pa : Nat) (e : Env) : Bool :=
  match e.msg with | .remote id k op _ _ _ _ _ _ => id == tok && k == pa && op != mirrorOp | _ => false
/-- Forget an answered request. -/
def forgetAsk (s : State) (tok pa : Nat) (e : Env) : State := { s with net := (s.net.erase e).filter fun x => !askedFor tok pa x }

/-- A cause that an answer may raise (R12, R201, R298, R311). -/
def raisable (stat : BitVec 8) : Bool := decide (0x60 ≤ stat.toNat ∧ stat.toNat < 0xC0)

/-- Ask for a remote piece, or look at its answer: its values and its time. -/
def remotePiece (s : State) (p : Party) (x : Piece) (op : BitVec 8) (ty : Ty) (data cmp f : Nat) (write : Bool) :
    Reach (Option (List Nat × Nat)) :=
  let tok := partyTok p
  match answerTo s tok x.pa with
  | some e => match e.msg with
    | .remoteAns _ _ _ got time _ stat =>
      if stat = 0 then .done s (some (got, time))
      else if raisable stat then .fault (forgetAsk s tok x.pa e) ⟨stat, 0, 0⟩ x.pa
      else .wait (forgetAsk s tok x.pa e)
    | _ => .wait s
  | none => match s.net.find? (askedFor tok x.pa) with
    | some e =>
      if e.at_ + 2 ^ 20 ≤ s.now ∧ !climbAnswered s (pageOf x.pa) then .fault { s with net := s.net.erase e } ⟨Tc.amClimbTimeout, 0, 0⟩ x.pa
      else .wait s
    | none =>
      let part : Part := { acc := 0, pa := x.pa, n := x.n, data := data, cmp := cmp }
      .wait (send s (homeAid s (pageOf x.pa)) (.remote tok x.pa op ty [part] f write (neverCached x.pte) (pteMirr x.pte)))

/-! ## Whole ranges -/

/-- The CP reads at the crown holder's package, and never moves a crown (R151). -/
def cpAway (s : State) (p : Party) (gpn : Nat) : Bool := p == .cp && devicePage gpn && !crownHere s gpn && !(tagOf s gpn).any (·.transit)

/-- The write of a piece at the page's mirror has been sent (R195). -/
def mirrorAsked (s : State) (p : Party) (x : Piece) : Bool := s.am.mirs.any fun m => m.1 == partyTok p && m.2.1 == x.pa
/-- A piece is written at the page's mirror first. -/
def mirrorPiece (s : State) (p : Party) (f : Nat) (x : Piece) (bs : List Byte) : State × Option Nat :=
  mirrorFirst s (partyTok p) x.pa x.pa x.n f [(x.pa, bs)]

/-- Where one piece stands: here, waiting, or answered from elsewhere. -/
def pieceReady (s : State) (p : Party) (gi : Option Nat) (who : Issuer) (write : Bool) (f : Nat) (x : Piece) (data : Nat) :
    Reach (Option (List Nat × Nat)) :=
  let s := fillHere (touchHere s (pageOf x.pa) x.pte) x.pte x.pa
  if gpnSpace (pageOf x.pa) = 0xFFD then .done s none
  else if mirrorAsked s p x then (if (answerTo s (partyTok p) x.pa).isSome then .done s none else .wait s)
  else match (if write then writePlace s gi x.pte (p == .cp) x.pa x.n who
      else if cpAway s p (pageOf x.pa) then .remote else readPlace s gi x.pte x.pa x.n who) with
  | .wait s => .wait (pickWays s)
  | .remote => remotePiece s p x (if write then 0xF1 else 0xF0) .b32 data 0 f write
  | .here => match (if write then none else poisonAt s (x.pa / 128)) with
    | some c => .fault s ⟨c, 0, 0⟩ x.pa
    | none => if write ∧ mirroredHere s (pageOf x.pa) then .wait (mirrorPiece s p f x (leBytes x.n data)).1 else .done s none

/-- Every piece of a range is ready: the pieces that wait go on, and the first that faults stops the access. -/
def readyAll (p : Party) (gi : Option Nat) (who : Issuer) (write : Bool) (f : Nat) : State → List (Piece × Nat) → Reach Unit
  | s, [] => .done s ()
  | s, (x, d) :: r => match pieceReady s p gi who write f x d with
    | .wait s => .wait s
    | .fault s e va => .fault s e va
    | .done s _ => readyAll p gi who write f s r

/-- The cache of a party: a stage has its core's data cache (R403). -/
def partyCache : Party → Option Nat
  | .stage st => some (dataCache st)
  | _ => none
/-- A load of a piece hits in its cache (R153). -/
def pieceHit (s : State) (core : Option Nat) (f : Nat) (x : Piece) : Option L1Line := core.bind fun c => l1Hit s none c x.pa x.n f

/-- The bytes of a ready piece, its time, and the state it leaves; they are held in the cache `core`. -/
def takePiece (s : State) (p : Party) (core : Option Nat) (f : Nat) (x : Piece) : State × List Byte × Nat :=
  match answerTo s (partyTok p) x.pa with
  | some e => match e.msg with
    | .remoteAns _ _ _ got time _ _ => (forgetAsk s (partyTok p) x.pa e, leBytes x.n (got.headD 0), time)
    | _ => (s, [], 0)
  | none =>
    if gpnSpace (pageOf x.pa) = 0xFFD then (s, (List.range x.n).map fun k => hubByte s (x.pa + k), 0)
    else match pieceHit s core f x with
    | some l => (s, (List.range x.n).map fun k => byteAt l.bytes (x.pa % 128 + k),
        (sectorsOf x.pa x.n).foldl (fun m sec => max m (l.wts.getD (sec % 4) 0)) f)
    | none =>
      let r := performLoad (noteHost s x.pa x.n x.pte false) core (cacheable s x.pa x.pte) x.pa x.n f
      (r.1, bytesAt s.mem x.pa x.n, r.2.1)

/-- Read ready pieces in order. -/
def takeAll (p : Party) (core : Option Nat) (f : Nat) : State → List Piece → State × List Byte × Nat
  | s, [] => (s, [], 0)
  | s, x :: r =>
    let a := takePiece s p core f x
    let b := takeAll p core f a.1 r
    (b.1, a.2.1 ++ b.2.1, max a.2.2 b.2.2)

/-- Write a ready piece, above a floor: here, after its mirror where the page has one, or where it was performed already. -/
def putPiece (s : State) (p : Party) (f : Nat) (x : Piece) (bs : List Byte) : State × Nat :=
  let here (s : State) (f : Nat) : State × Nat := performStore (noteHost s x.pa x.n x.pte true) (partyCache p) x.pa x.n f [(x.pa, bs)]
  if mirrorAsked s p x then
    let m := mirrorPiece s p f x bs
    here m.1 (m.2.getD f)
  else match answerTo s (partyTok p) x.pa with
  | some e => match e.msg with
    | .remoteAns _ _ _ _ time _ _ => (forgetAsk s (partyTok p) x.pa e, time)
    | _ => (s, f)
  | none => here s f

/-- Bytes dealt to pieces in order. -/
def dealBytes : List Piece → List Byte → List (Piece × List Byte)
  | [], _ => []
  | x :: r, bs => (x, bs.take x.n) :: dealBytes r (bs.drop x.n)

/-- Read a list of pieces at floor `f` through the cache `core`: those that miss there are made ready first. -/
def readPieces (s : State) (p : Party) (core gi : Option Nat) (who : Issuer) (f : Nat) (xs : List Piece) : Reach (List Byte × Nat) :=
  match readyAll p gi who false f s ((xs.filter fun x => (pieceHit s core f x).isNone).map fun x => (x, 0)) with
  | .wait s => .wait s
  | .fault s e va => .fault s e va
  | .done s _ => let r := takeAll p core f s xs; .done r.1 r.2

/-- Write a list of pieces above floor `f`: the largest ts. -/
def writePieces (s : State) (p : Party) (gi : Option Nat) (who : Issuer) (f : Nat) (xs : List Piece) (bs : List Byte) : Reach Nat :=
  let ds := dealBytes xs bs
  match readyAll p gi who true f s (ds.map fun d => (d.1, leNat d.2)) with
  | .wait s => .wait s
  | .fault s e va => .fault s e va
  | .done s _ =>
    let r := ds.foldl (fun (a : State × Nat) d => let w := putPiece a.1 p f d.1 d.2; (w.1, max a.2 w.2)) (s, f)
    .done (xs.foldl (fun s x => askDone s (pageOf x.pa) who) r.1) r.2

/-! ## The CP, the host port and the stages (R151, R167) -/

/-- A read of a party by device VA in a context, at its time, which then covers what it read. -/
def readAsParty (s : State) (p : Party) (c : Nat) (k : Xk) (who : Issuer) (va n : Nat) : Reach (List Byte) :=
  match tablesFor s p c k who va n with
  | .wait s => .wait s
  | .fault s f a => .fault s f a
  | .done s _ => match vaPieces s p c k (n / 65536 + 2) va n with
  | .error f => .fault s f.1 f.2
  | .ok xs => match readPieces (enterPtes s p c va n k) p (if k == .fetch then none else partyCache p) none who (partyLt s p) xs with
    | .wait s => .wait s
    | .fault s f _ => .fault s f va
    | .done s r => .done (raiseLt s p r.2) r.1

/-- A write of a party by device VA in a context. -/
def writeAsParty (s : State) (p : Party) (c : Nat) (who : Issuer) (va : Nat) (bs : List Byte) : Reach Unit :=
  match tablesFor s p c .write who va bs.length with
  | .wait s => .wait s
  | .fault s f a => .fault s f a
  | .done s _ => match vaPieces s p c .write (bs.length / 65536 + 2) va bs.length with
  | .error f => .fault s f.1 f.2
  | .ok xs => match writePieces (enterPtes s p c va bs.length .write) p none who (partyLt s p) xs bs with
    | .wait s => .wait s
    | .fault s f _ => .fault s f va
    | .done s ts => .done (raiseLt s p ts) ()

/-- The same at a pod address (R358). -/
def readPa (s : State) (p : Party) (who : Issuer) (pa n : Nat) : Reach (List Byte) :=
  match readPieces s p none none who (partyLt s p) (paPieces 0 (lineFuel n) pa n) with
  | .wait s => .wait s
  | .fault s f va => .fault s f va
  | .done s r => .done (raiseLt s p r.2) r.1
def writePa (s : State) (p : Party) (who : Issuer) (pa : Nat) (bs : List Byte) : Reach Unit :=
  match writePieces s p none who (partyLt s p) (paPieces 0 (lineFuel bs.length) pa bs.length) bs with
  | .wait s => .wait s
  | .fault s f va => .fault s f va
  | .done s ts => .done (raiseLt s p ts) ()

/-! ## Rings (R358) -/

/-- What a ring's base names. -/
inductive RingAt where
  | va (c a : Nat)
  | pa (a : Nat)
  | none
  deriving DecidableEq, Repr

/-- A ring address decoded; `ctx` for FQ_BASE. -/
def ringAt (base : Word) (ctx : Option Nat) : RingAt :=
  let b := base.toNat / 4096 * 4096
  if b / 2 ^ 52 = 0xFFF then .pa b
  else match ctx with
    | some c => if b / 2 ^ 48 = 0 then .va c b else .none
    | none => if b / 2 ^ 52 ≤ 0xFFC then .pa b else .none

/-- A valid ring size. -/
def ringSize (size : Word) : Option Nat :=
  let n := size.toNat % 2 ^ 13
  if 16 ≤ n ∧ n ≤ 4096 ∧ n &&& (n - 1) = 0 then some n else none

/-- Read from a ring, `off` bytes in; a failing access holds it. -/
def ringRead (s : State) (k : Nat) (r : RingAt) (off n : Nat) : Reach (List Byte) :=
  match r with
  | .va c a => readAsParty s .cp c .read (.ring k) (a + off) n
  | .pa a => readPa s .cp (.ring k) (a + off) n
  | .none => .wait s
def ringWrite (s : State) (k : Nat) (r : RingAt) (off : Nat) (bs : List Byte) : Reach Unit :=
  match r with
  | .va c a => writeAsParty s .cp c (.ring k) (a + off) bs
  | .pa a => writePa s .cp (.ring k) (a + off) bs
  | .none => .wait s

end Sys2Proof.Machine
end

