-- ==== Sys2Proof/Machine/Inject.lean ====
section
/-! DEFINITION. Injection (R188, R189), directory rebuilds and lost packages (R196, R197), the AM command ring (R198 to R200). -/

namespace Sys2Proof.Machine

open Sys2Proof

/-! ## Free-frame summaries (R188) -/

/-- Frames for pages that are not INVALID. -/
def usedFrames (s : State) : List Tag := s.am.tags.filter fun t => t.state != .invalid && t.state != .shadow
/-- Bit g: some set with s[18:13] = g has an INVALID way. -/
def freeMask (s : State) : Word :=
  let used (g : Nat) : Nat := ((usedFrames s).filter fun t => t.set / 2 ^ 13 % 64 == g).length
  BitVec.ofNat 64 ((List.range 64).foldl (fun m g => if used g < 129024 then m + 2 ^ g else m) 0)
/-- INVALID frames in units of 256. -/
def freeCount (s : State) : BitVec 16 := BitVec.ofNat 16 ((8257536 - (usedFrames s).length) / 256)

/-- The summaries of other packages that have come. -/
def takeSummaries (s : State) : State :=
  let mine (e : Env) : Bool := e.dst == aid s && (match e.msg with | .summary _ _ _ => true | _ => false)
  let got := s.net.filter mine
  let put (l : List (Nat × Word × Nat)) (e : Env) : List (Nat × Word × Nat) :=
    match e.msg with
    | .summary w m c => (w, m, c.toNat) :: l.filter fun x => x.1 != w
    | _ => l
  { s with net := s.net.filter (!mine ·), am := { s.am with sums := got.foldl put s.am.sums } }

def execFreeFrameSummary (s : State) : Out :=
  let s := takeSummaries s
  .next (if s.cycle % 2 ^ 16 = 0 then
    (((List.range (podSize s)).filter fun a => a != aid s && !s.am.lost.contains a).foldl
      (fun s a => send s a (.summary (aid s) (freeMask s) (freeCount s))) s)
  else s)

/-! ## Offers and answers (R188) -/

def injectOf (s : State) (gpn : Nat) : Option Inject := s.am.injects.find? fun x => x.gpn == gpn
def modInject (s : State) (gpn : Nat) (f : Inject → Inject) : State :=
  s.modAm fun a => { a with injects := modFirst (fun x => x.gpn == gpn) f a.injects }
def dropInject (s : State) (gpn : Nat) : State := s.modAm fun a => { a with injects := a.injects.filter fun x => x.gpn != gpn }

/-- The way a candidate can take without injecting in turn. -/
def offerWay (s : State) (gpn : Nat) : Option Nat :=
  (chooseWay s (setIndex gpn)).filter fun w => (tagAt s (setIndex gpn) w).all fun t => t.state == .replica

/-- A candidate answers an offer: with a settled replica it needs no data; otherwise it takes a way. -/
def answerOffer (s : State) (e : Env) (gpn : Nat) : State :=
  let say (s : State) (yes replica : Bool) : State := send s e.src (.offerAns gpn (aid s) yes replica)
  let s := decaySet s (setIndex gpn)
  if !spaceOpen s gpn e.src then say s false false
  else match tagOf s gpn with
  | some t => say s (t.state == .replica && !t.transit && !(s.am.crowns.any fun r => r.gpn == gpn)) true
  | none => match offerWay s gpn with
    | none => say s false false
    | some w =>
      let s := match tagAt s (setIndex gpn) w with | some t => evictReplica s t.gpn | none => s
      say (putTag s (newTag s (setIndex gpn) w gpn .master false true false 0 0)) true false

def execInjectionOffer (m : Nat) (s : State) : Out :=
  match msgAt s m with
  | some e => .next (match e.msg with | .offer gpn _ => answerOffer (dropMsg s m) e gpn | _ => s)
  | none => .next s

/-- The next candidate of the round, or the round is refused. -/
def nextOffer (s : State) (gpn : Nat) : State :=
  match injectOf s gpn with
  | none => s
  | some x => match x.offers with
    | c :: r =>
      send (bumpStat (modInject s gpn fun x => { x with offers := r, since := s.now, sentTo := none }) 2) c (.offer gpn true)
    | [] => modInject s gpn fun x => { x with refused := true, since := s.now, sentTo := none }

/-- The page goes to the candidate that accepted. -/
def sendInject (s : State) (gpn who : Nat) (replica mirror : Bool) : State :=
  let s := publishPage s gpn
  let t := pageTimes s gpn
  let shared := (tagOf s gpn).any (·.shared)
  send s who (.inject gpn (if replica then none else some (pageCells s gpn)) t.1 t.2 shared mirror (pagePoisoned s gpn))

/-- The page may leave: no write of it is queued or awaits its mirror, and no region marks it. -/
def injectQuiet (s : State) (gpn : Nat) : Bool := !queuedPage s gpn && !mirrorBusy s gpn && (pageMarkers s gpn).isEmpty
/-- The crown of a page learns where its second copy will stand: from the copy on, its writes go there too (R195, R196). -/
def becomeMirrored (s : State) (gpn who : Nat) : State :=
  (modTag s gpn fun t => { t with state := .mirrored, shared := true }).modAm fun a => { a with others := tput gpn who a.others }

/-- An accepted offer: of an injection, of a mirror of zeros, or of a new mirror whose crown is told to send the page. -/
def acceptedOffer (s : State) (m : Nat) (e : Env) (gpn who : Nat) (replica : Bool) : State :=
  let take (s : State) : State := bumpStat (modInject (dropMsg s m) gpn fun x => { x with sentTo := some who, since := s.now }) 3
  match injectOf s gpn with
  | some x =>
    if x.mirror.isSome then
      (match dirFind s gpn with
       | none => send (take s) who (.inject gpn (some []) 0 0 false true false)
       | some d => send (take s) d.crown (.offerAns gpn who true replica))
    else if injectQuiet s gpn then sendInject (take s) gpn who replica (s.am.seconds.contains gpn)
    else holdMsg s gpn e
  | none =>
    if e.src ≠ who ∧ crownHere s gpn then
      (if injectQuiet s gpn then sendInject (becomeMirrored (dropMsg s m) gpn who) gpn who replica true
       else holdMsg s gpn e)
    else send (dropMsg s m) who (.injOk gpn noAid)

def execInjectionAnswer (m : Nat) (s : State) : Out :=
  match msgAt s m with
  | some e =>
    .next (match e.msg with
      | .offerAns gpn who yes replica =>
        if yes then unholdIfGone (acceptedOffer s m e gpn who replica) gpn e else nextOffer (dropMsg s m) gpn
      | _ => s)
  | none => .next s
where
  /-- A message that has been taken is no longer held. -/
  unholdIfGone (s : State) (gpn : Nat) (e : Env) : State := if s.net.contains e then s else unholdMsg s gpn e

/-- The injector's own pool page for a page that is refused goes back. -/
def poolBack (s : State) (x : Inject) : State :=
  let pg := tget 0 s.am.poolPg x.gpn
  if x.sentTo = some (aid s) then
    s.modAm fun a => { a with poolFree := pg :: a.poolFree, poolPg := tdel x.gpn a.poolPg, poolMirs := a.poolMirs.filter (· != x.gpn) }
  else s
/-- The other crowned copy of a page is named, or has been lost; one that stood in the pool becomes its master there (R195, R196). -/
def otherCopy (s : State) (gpn who : Nat) : State :=
  let s := modTag s gpn fun t => { t with state := if who = noAid then .master else .mirrored }
  let other (a : Am) : Am :=
    if who = noAid then { a with seconds := a.seconds.filter (· != gpn), others := tdel gpn a.others } else { a with others := tput gpn who a.others }
  let s := s.modAm other
  match (if who = noAid then poolMirror s gpn else none) with
  | some pg =>
    send (s.modAm fun a => { a with poolMirs := a.poolMirs.filter (· != gpn) }) (homeAid s gpn) (.poolSet gpn (aid s) pg 0)
  | none => s

/-- The home has answered: the injector frees its frame or goes on with the round; the new master is confirmed or gives its frame
back; a crowned copy learns of the other (R175, R188, R195, R196). -/
def confirmInject (s : State) (gpn who : Nat) : State :=
  match (injectOf s gpn).filter fun x => x.mirror.isNone && x.sentTo.isSome with
  | some x =>
    if who = noAid then nextOffer (poolBack s x) gpn
    else if some who ≠ x.sentTo then otherCopy s gpn who
    else
      let second := s.am.seconds.contains gpn && who == aid s
      let s := dropPage (dropInject s gpn) gpn
      if second then s.modAm fun a => { a with poolMirs := gpn :: a.poolMirs } else s
  | none => match tagOf s gpn with
    | none => if (poolMirror s gpn).isSome then otherCopy s gpn who else s
    | some t =>
      if !crowned t then s
      else if t.transit && !injecting s gpn then
        (if who = noAid then dropPage s gpn
         else if who = aid s then endTransit (modTag s gpn fun t => { t with transit := false, pin := pinnedHere s gpn }) gpn
         else otherCopy s gpn who)
      else if who ≠ aid s then otherCopy s gpn who
      else s

def execInjectionConfirm (m : Nat) (s : State) : Out :=
  match msgAt s m with
  | some e => .next (match e.msg with | .injOk gpn who => confirmInject (dropMsg s m) gpn who | _ => s)
  | none => .next s

/-! ## The pool and the retries (R189) -/

/-- A pool page takes the bytes and the poison of a page. -/
def poolWrite (s : State) (gpn pg : Nat) (data : Memory) : State :=
  let at_ := poolAddr s pg
  let moved := (s.am.poison.filter fun p => p.1 / 512 == gpn).map fun p => (at_ / 128 + p.1 % 512, Tc.amPoolPoison)
  let put (a : Am) : Am :=
    { a with
      poolFree := a.poolFree.filter (· != pg)
      poolPg := tput gpn pg a.poolPg
      poison := moved ++ a.poison.filter fun p => !(at_ / 128 ≤ p.1 && p.1 < at_ / 128 + 512) }
  { s with mem := putCells (clearRange s.mem at_ 65536) at_ data }.modAm put

/-- The home's own pool takes the second crowned copy of a page: the zeros of a first touch, or a page that its crown sends (R178, R196). -/
def poolMirrors (s : State) (x : Inject) (pg : Nat) : State :=
  let take (s : State) : State := bumpStat (modInject s x.gpn fun x => { x with sentTo := some (aid s), refused := false }) 4
  let keep (s : State) : State := s.modAm fun a => { a with poolMirs := x.gpn :: a.poolMirs }
  match dirFind s x.gpn with
  | none => (mirrorMade (keep (take (poolWrite s x.gpn pg []))) x.gpn (x.mirror.getD 0) (aid s)).getD s
  | some d => send (take (poolWrite s x.gpn pg [])) d.crown (.offerAns x.gpn (aid s) true false)

/-- POOL_INJECTION: the page is written to a pool page of this package's partition, which the home is asked to record. -/
def poolInject (s : State) (gpn : Nat) : State :=
  match injectOf s gpn, s.am.poolFree with
  | some x, pg :: _ =>
    if !x.refused ∨ x.sentTo.isSome ∨ !s.hub.poolUp then s
    else if x.mirror.isSome then poolMirrors s x pg
    else if injectQuiet s gpn then
      let s := publishPage s gpn
      let t := pageTimes s gpn
      let s := poolWrite s gpn pg (pageCells s gpn)
      let s := bumpStat (modInject s gpn fun x => { x with sentTo := some (aid s), refused := false }) 4
      send s (homeAid s gpn) (.poolSet gpn (aid s) pg (max t.1 t.2))
    else s
  | _, _ => s

def execPoolInjection (gpn : Nat) (s : State) : Out := .next (poolInject s gpn)

/-- The pages that wait for a way of a set (R183). -/
def waitingPages (s : State) (set way : Nat) : List Nat :=
  (((s.am.climbs.filter fun c => c.pick == some way && setIndex c.gpn == set).map (·.gpn)) ++
    (s.am.crowns.filter fun r => r.pick == some way && setIndex r.gpn == set).map (·.gpn)).dedup

/-- A page that came while its way was awaited is given no way: its waiters fault (R189). -/
def noWay (s : State) (gpn : Nat) : State := bumpStat (refuseRemotes (failPage (setPick s gpn none) gpn Tc.amSetFull) gpn Tc.amSetFull) 5

/-- Sixteen rounds have been refused: the accesses that needed the way fault, and the page stays where it was; or there is no mirror for a
first touch. -/
def giveUp (s : State) (x : Inject) : State :=
  let s := dropInject s x.gpn
  match x.mirror with
  | some req =>
    if (dirFind s x.gpn).isSome then s
    else
      let s := refuseRemotes s x.gpn Tc.amMirrorNone
      send s req (.amFault x.gpn Tc.amMirrorNone)
  | none =>
    let way := ((tagOf s x.gpn).map (·.way)).getD 0
    let s := endTransit (modTag s x.gpn fun t => { t with transit := false }) x.gpn
    (waitingPages s (setIndex x.gpn) way).foldl noWay s

def execInjectionRetry (gpn : Nat) (s : State) : Out :=
  match injectOf s gpn with
  | none => .next s
  | some x =>
    .next (if x.refused ∧ x.sentTo.isNone ∧ x.since + 4096 ≤ s.now then
      (if 16 ≤ x.rounds + 1 then giveUp s x
       else offerRound (modInject s gpn fun x => { x with rounds := x.rounds + 1 }) gpn)
    else s)

/-- A remote access, or a granule, that has waited here 2^20 dc for a page in transit is answered (R189). -/
def remoteLate (s : State) (m : Nat) : State :=
  match msgAt s m with
  | none => s
  | some e =>
    if !((homeGpn e.msg).any (inTransit s)) ∨ s.now < e.at_ + 2 ^ 20 then s
    else match e.msg with
      | .remote id k _ _ ps _ _ _ _ => send (dropMsg s m) e.src (.remoteAns id k (partsLo ps) [] 0 0 Tc.amTransitTimeout)
      | .granule src cmd g _ va _ _ _ _ _ _ false _ => issuerFault s (.granule src cmd g va) Tc.amTransitTimeout 0 0 true
      | _ => s

/-- TRANSIT_TIMEOUT (R189): of the access at place `i` of those that wait behind a page in transit; 2^32 and above, of a message by its place
(notes/assumptions/84.md). -/
def execTransitTimeout (i : Nat) (s : State) : Out :=
  .next (if 2 ^ 32 ≤ i then remoteLate s (i - 2 ^ 32)
    else match s.am.behind[i]? with
      | some (who, gpn, t) =>
        if inTransit s gpn ∧ t + 2 ^ 20 ≤ s.now then
          parkWaiter (s.modAm fun a => { a with behind := a.behind.eraseIdx i }) gpn Tc.amTransitTimeout who
        else s
      | none => s)

/-! ## Rebuilds (R196, R197) -/

/-- The packages of the pod that are not lost. -/
def livePackages (s : State) : List Nat := (List.range (podSize s)).filter fun a => !s.am.lost.contains a

/-- DIRECTORY_REBUILD: an uncorrectable error of an entry; every package is asked what it holds. -/
def execDirectoryRebuild (gpn : Nat) (s : State) : Out :=
  match dirFind s gpn with
  | none => .next s
  | some e =>
    if e.tx.isSome ∨ e.mode = .lost then .next s
    else
      let t : DirTx := { req := noAid, acks := (livePackages s).length, floor := e.floor, since := s.now, old := noAid }
      let s := dirMod s gpn fun x =>
        { x with mode := .rebuilding, crown := noAid, mirror := none, pool := none, reps := [], groups := BitVec.allOnes 32, tx := some t }
      .next ((livePackages s).foldl (fun s a => send s a (.recall gpn (aid s))) (bumpStat s 11))

/-- What this package holds of a page. -/
def heldState (s : State) (gpn : Nat) : TagState × Option Nat :=
  match tagOf s gpn with
  | some t => if t.transit && !injecting s gpn then (.invalid, none) else (t.state, none)
  | none => (if s.am.poolMirs.contains gpn then .mirrored else .invalid, s.am.poolPg.lookup gpn)

/-- One answer enters an entry: the first crowned copy is the crown, a second mirrored one the mirror. -/
def takeAnswer (e : DirEntry) (who : Nat) (st : TagState) (pool : Option Nat) : DirEntry :=
  match st, pool with
  | .mirrored, some _ => { e with mirror := some who }
  | .master, _ => { e with crown := who, pool := none }
  | .mirrored, _ => if e.crown = noAid then { e with crown := who } else { e with mirror := some who }
  | .replica, _ => { e with reps := e.reps ++ [who] }
  | _, some p => if e.crown = noAid then { e with crown := who, pool := some p } else e
  | _, none => e

/-- Every answer has come: the entry is rebuilt, or the page is LOST and its replicas go. -/
def endRebuild (s : State) (e : DirEntry) : State :=
  if e.crown = noAid then
    let s := dirMod s e.gpn fun x => { x with mode := .lost, reps := [], groups := 0, tx := none }
    e.reps.foldl (fun s a => send s a (.inval e.gpn)) (bumpStat s 12)
  else
    let marked := e.reps.foldl (fun (g : BitVec 32) a => g ||| (1#32 <<< (a / 32))) 0
    dirMod s e.gpn fun x =>
      { x with
        tx := none
        mode := if e.reps.length ≤ 4 then .precise else .coarse
        groups := if e.reps.length ≤ 4 then 0 else marked
        reps := if e.reps.length ≤ 4 then e.reps else [] }

/-- Every package has reported its pages: the entries that this home has taken over are rebuilt (R196). -/
def reportsIn (s : State) : State :=
  (s.am.dir.filter fun e => e.mode == .rebuilding && e.tx.isNone).foldl (fun s e => if reportsDue s e.gpn then s else endRebuild s e) s

/-- An answer to a recall, or the report of a page whose home this package has become (R196). -/
def recallAnswer (s : State) (gpn who : Nat) (st : TagState) (pool : Option Nat) : State :=
  let s := if (dirFind s gpn).isNone ∧ (st ≠ .invalid ∨ pool.isSome) then
      (dirAdd s { newEntry gpn noAid with mode := .rebuilding }).getD s
    else s
  match dirFind s gpn with
  | none => s
  | some e =>
    if e.mode ≠ .rebuilding then s
    else
      let e := takeAnswer e who st pool
      match e.tx with
      | none => dirMod s gpn fun _ => e
      | some t =>
        let e := { e with tx := some { t with acks := t.acks - 1 } }
        let s := dirMod s gpn fun _ => e
        if t.acks ≤ 1 then endRebuild s e else s

/-- RECALL_QUERY: a query is answered; an answer reaches the home. -/
def execRecallQuery (m : Nat) (s : State) : Out :=
  match msgAt s m with
  | some e =>
    .next (match e.msg with
      | .recall gpn home =>
        let h := heldState s gpn
        send ((dropMsg s m).modAm fun a => { a with recalls := tput gpn s.now a.recalls }) home (.recallAns gpn (aid s) h.1 h.2)
      | .recallAns gpn who st pool => recallAnswer (dropMsg s m) gpn who st pool
      | .reported who => reportsIn ((dropMsg s m).modAm fun a => { a with reports := who :: a.reports })
      | _ => s)
  | none => .next s

/-- The access sets that await a remote access to a page fault. -/
def failRemotes (s : State) (gpn : Nat) (cause : Cause) (late : Env → Bool) : State :=
  let mine := s.net.filter fun e => awaited s e && homeGpn e.msg == some gpn && late e
  mine.foldl (fun s e => match e.msg with
    | .remote id k _ _ _ _ _ _ _ => match setAt s id with
      | some a => faultAccs { s with net := s.net.erase e } a cause 0 0 (onLine (a.spans.getD k default).line)
      | none => s
    | _ => s) s

/-- REBUILD_TIMEOUT: the accesses to a page whose entry is being rebuilt fault after 2^22 dc (R197). -/
def execRebuildTimeout (gpn : Nat) (s : State) : Out :=
  match s.am.recalls.lookup gpn with
  | none => .next s
  | some t =>
    let late (since : Nat) : Bool := max t since + 2 ^ 22 ≤ s.now
    let waits := (s.am.climbs.any fun c => c.gpn == gpn && late c.since) ||
      s.am.crowns.any fun r => r.gpn == gpn && !r.effective && late r.since
    let s' := failRemotes s gpn Tc.amRebuildTimeout fun e => late e.at_
    .next (if waits then failPage s' gpn Tc.amRebuildTimeout else s')

/-- A transaction that awaits packages which are lost: their acknowledgements will not come, and a take-back by one is over. -/
def loseTx (s : State) (e : DirEntry) (gone : Nat → Bool) : State :=
  match e.tx with
  | none => s
  | some t =>
    if e.mode = .rebuilding then
      let t := { t with acks := t.acks - 1 }
      let s := dirMod s e.gpn fun x => { x with tx := some t }
      if t.acks = 0 then endRebuild s { e with tx := some t } else s
    else if e.pool.isSome then (if gone t.req then dirMod s e.gpn fun x => { x with tx := none } else s)
    else
      let t := { t with acks := t.acks - (e.reps.filter gone).length - (gone t.old && t.old != t.req).toNat }
      let e := { e with tx := some t, reps := e.reps.filter (!gone ·) }
      let s := dirMod s e.gpn fun _ => e
      if t.acks = 0 then finishCrown s e t else s

/-- Packages are lost: the home's entries, the hints and the injections that name them (R189, R196). -/
def loseEntry (lost : List Nat) (s : State) (e : DirEntry) : State :=
  let gone (a : Nat) : Bool := lost.contains a
  let s := loseTx s e gone
  let e := (dirFind s e.gpn).getD e
  let s := dirMod s e.gpn fun x => { x with reps := x.reps.filter (!gone ·) }
  if e.mode = .rebuilding ∨ e.mode = .lost then s
  else if gone e.crown then
    match e.mirror.filter (!gone ·) with
    | some w =>
      let s := dirMod s e.gpn fun x => { x with crown := w, mirror := none, pool := none }
      startInject (send s w (.injOk e.gpn noAid)) e.gpn (some w)
    | none =>
      let s := (replicaHolders s e noAid).foldl (fun s a => send s a (.inval e.gpn)) s
      bumpStat (dirMod s e.gpn fun x => { x with mode := .lost, reps := [], groups := 0, tx := none, mirror := none, pool := none }) 12
  else if e.mirror.any gone then
    startInject (send (dirMod s e.gpn fun x => { x with mirror := none }) e.crown (.injOk e.gpn noAid)) e.gpn (some e.crown)
  else s

/-- A page whose home has moved is reported to its new home (R196). -/
def reportPage (s : State) (gpn : Nat) : State :=
  let h := heldState s gpn
  send s (homeAid s gpn) (.recallAns gpn (aid s) h.1 h.2)
/-- The pages that this package holds: in frames, or in its partition of the pool. -/
def heldPages (s : State) : List Nat :=
  (((s.am.tags.filter fun t => holdsPage t.gpn t).map (·.gpn)) ++ s.am.poolPg.map (·.1)).dedup

/-- The pod declares packages lost (R196, R365). -/
def losePackages (s : State) (lost : List Nat) : State :=
  let moves (g : Nat) : Bool := lost.contains (homeAid s g)
  let moved := (heldPages s).filter moves
  let asked := (((s.am.climbs.map (·.gpn)) ++ s.am.crowns.map (·.gpn)).filter moves).dedup
  let s := s.modAm fun a =>
    { a with
      lost := a.lost ++ lost, hint := a.hint.filter fun h => !lost.contains h.2
      recalls := asked.foldl (fun r g => tput g s.now r) a.recalls
      reports := aid s :: a.reports }
  let s := s.am.dir.foldl (loseEntry lost) s
  let s := moved.foldl reportPage s
  let s := ((livePackages s).filter (· != aid s)).foldl (fun s a => send s a (.reported (aid s))) s
  let away := s.am.injects.filter fun x => (x.sentTo.any fun w => lost.contains w)
  reportsIn (away.foldl (fun s x => nextOffer s x.gpn) s)

/-! ## The AM command ring (R198 to R200) -/

def amRing (s : State) : RingAt := ringAt s.hub.amqBase none

/-- The command due: its record. None while the ring is empty, held, or has no valid size. -/
def amDue (s : State) : Option Nat :=
  match ringSize s.hub.amqSize with
  | some n =>
    if s.hub.amqHold ∨ s.hub.amqHead.toNat % n = s.hub.amqTail.toNat % n then none else some (s.hub.amqHead.toNat % n)
  | none => none

/-- Status codes of R199. -/
abbrev amDone : Nat := 1
abbrev amBadOp : Nat := 2
abbrev amBadArg : Nat := 3
abbrev amReserved : Nat := 4
abbrev amAbsent : Nat := 5
abbrev amAlready : Nat := 6
abbrev amPartial : Nat := 7

/-- Write STATUS and RESULT of the record at `head`, and advance HEAD. -/
def amWrite (s : State) (head status result : Nat) : Reach Unit :=
  match ringWrite s 64 (amRing s) (32 * head + 24) (leBytes 8 result) with
  | .done s _ => ringWrite s 64 (amRing s) (32 * head + 2) (leBytes 2 status)
  | o => o
def amAdvance (s : State) (head : Nat) : State :=
  s.modHub fun h => { h with amqHead := BitVec.ofNat 12 ((head + 1) % (ringSize s.hub.amqSize).getD 16) }

/-- End a command that took `s0` to `s`. While the record cannot be written the command is not over and has had no effect; a failing
access holds the ring. -/
def amFinish (s0 s : State) (head status result : Nat) : State :=
  match amWrite s head status result with
  | .done s _ => amAdvance s head
  | .fault _ _ _ => holdRing s0 64
  | .wait _ => match amWrite s0 head status result with
    | .wait s' => s'
    | _ => s0

/-- Run the command in a record: `f` has ARG0 and ARG1, and answers the status and RESULT once it is done. -/
def amRun (s : State) (head : Nat) (b : List Byte) (f : State → Nat → Nat → State × Option (Nat × Nat)) : Out :=
  let r := f s (field b 8 8) (field b 16 8)
  match r.2 with
  | none => .next r.1
  | some (status, result) => .next (amFinish s r.1 head status result)

/-- Run the command due if its opcode is `opc`. -/
def amCommand (opc : Nat → Bool) (s : State) (f : State → Nat → Nat → State × Option (Nat × Nat)) : Out :=
  match amDue s with
  | none => .next s
  | some head => match ringRead s 64 (amRing s) (32 * head) 32 with
    | .wait s => .next s
    | .fault s _ _ => .next (holdRing s 64)
    | .done s b => if opc (field b 0 2) then amRun s head b f else .next s

/-- The 32 bytes of a tag (R174). -/
def tagCode : TagState → Nat
  | .invalid => 0 | .replica => 1 | .master => 2 | .mirrored => 3 | .shadow => 4 | .retired => 5
def tagBytes (s : State) (t : Tag) : List Byte :=
  leBytes 8 (t.gpn + tagCode t.state * 2 ^ 48 + t.heat.toNat * 2 ^ 51 + t.epoch.toNat * 2 ^ 59 + t.pin.toNat * 2 ^ 63) ++
    leBytes 8 ((parkedWay s t.set t.way).toNat + t.comp.toNat * 2 + t.transit.toNat * 4 + t.shared.toNat * 8) ++
    leBytes 8 t.fwt ++ leBytes 8 t.fle

/-- The 32 bytes of a directory entry (R177). -/
def dirModeCode : DirMode → Nat
  | .precise => 0 | .coarse => 1 | .rebuilding => 2 | .lost => 3
def entryBytes (e : DirEntry) : List Byte :=
  let reps := (List.range e.reps.length).foldl (fun m i => m + e.reps.getD i 0 % 1024 * 2 ^ (76 + 10 * i)) 0
  leBytes 32 (e.gpn + dirModeCode e.mode * 2 ^ 48 + e.crown % 1024 * 2 ^ 50 + (e.mirror.getD 0) % 1024 * 2 ^ 60 +
    e.mirror.isSome.toNat * 2 ^ 70 + e.pool.isSome.toNat * 2 ^ 71 + e.tx.isSome.toNat * 2 ^ 72 + e.reps.length % 8 * 2 ^ 73 + reps +
    e.groups.toNat * 2 ^ 128 + (e.pool.getD 0) % 2 ^ 32 * 2 ^ 160 + e.floor % 2 ^ 64 * 2 ^ 192)

/-- Store a command's output at ARG1: 64-byte aligned, host or device memory. -/
def amOutput (s : State) (a1 : Nat) (bs : List Byte) (result : Nat) : State × Option (Nat × Nat) :=
  if a1 % 64 ≠ 0 then (s, some (amBadArg, 0))
  else match (if a1 / 2 ^ 52 = 0xFFF ∨ a1 / 2 ^ 52 ≤ 0xFFC then writePa s .cp (.ring 64) a1 bs else .wait s) with
    | .done s _ => (s, some (amDone, result))
    | .wait s => (s, none)
    | .fault s _ _ => (holdRing s 64, none)

/-- AM_QUERY; the arm of every other opcode answers 0x0002. -/
def amQuery (s : State) (a0 a1 : Nat) : State × Option (Nat × Nat) :=
  if 2 ^ 48 ≤ a0 then (s, some (amBadArg, 0))
  else
    let s := decaySet s (setIndex a0)
    let t := tagOf s a0
    let e := if homeAid s a0 = aid s then dirFind s a0 else none
    let zeros := List.replicate 32 (0 : Byte)
    amOutput s a1 ((t.map (tagBytes s)).getD zeros ++ (e.map entryBytes).getD zeros)
      (t.isSome.toNat + 2 * e.isSome.toNat + 4 * (e.any (·.spill)).toNat)

def execAmQuery (s : State) : Out :=
  match amDue s with
  | none => .next s
  | some head => match ringRead s 64 (amRing s) (32 * head) 32 with
    | .wait s => .next s
    | .fault s _ _ => .next (holdRing s 64)
    | .done s b =>
      let opc := field b 0 2
      if opc = 1 then amRun s head b amQuery
      else if 2 ≤ opc ∧ opc ≤ 6 then .next s
      else .next (amFinish s s head amBadOp 0)

/-- The counters of AM_STATS. -/
def statsBytes (s : State) : List Byte := (List.range 13).flatMap fun k => leBytes 8 (s.am.stats.getD k 0)

def execAmStats (s : State) : Out :=
  amCommand (· == 2) s fun s a0 a1 =>
    if a0 ≠ 0 then (s, some (amBadArg, 0))
    else amOutput s a1 (statsBytes s) 0

/-- The frames a bank covers that hold something. -/
def bankTags (s : State) (bk : Nat × Nat) : List Tag :=
  sortOn (fun t => 16 * t.set + t.way) (s.am.tags.filter fun t => bankOf t.set t.way == bk && holdsPage t.gpn t)

/-- Pages of a list of frames leave: replicas are evicted, masters injected. -/
def moveOut (s : State) (ts : List Tag) : State :=
  ts.foldl (fun s t =>
    if t.transit || t.pin then s
    else if t.state = .replica then evictReplica s t.gpn
    else if crowned t then startInject s t.gpn none
    else s) s

/-- A replica whose fill has ended meanwhile is evicted too. -/
def evictSettled (s : State) (ts : List Tag) : State := moveOut s (ts.filter fun t => t.state == .replica)

/-- A frame's page is still on its way out. -/
def movingOut (s : State) (t : Tag) : Bool := injecting s t.gpn || (t.transit && t.state == .replica)

/-- The argument of AM_PARK and AM_UNPARK: stack and bank. -/
def bankArg (a0 a1 : Nat) : Option (Nat × Nat) :=
  let b := bits a0 13 8
  if a0 / 2 ^ 14 ≠ 0 ∨ bits a0 7 3 ≠ 0 ∨ a1 ≠ 0 then none else some (a0 % 8, b)

/-- AM_PARK: first the bank is parked and its pages sent out; then the command ends once each has left or failed to. A page that is pinned
stays and is counted (notes/assumptions/85.md). -/
def amPark (s : State) (a0 a1 : Nat) : State × Option (Nat × Nat) :=
  match bankArg a0 a1 with
  | none => (s, some (amBadArg, 0))
  | some bk =>
    if 60 ≤ bk.2 then (s, some (amReserved, 0))
    else if !s.am.busy then
      (if s.am.parked.contains bk then (s, some (amAlready, 0))
       else
         let s := s.modAm fun a => { a with parked := bk :: a.parked, busy := true }
         (moveOut s (bankTags s bk), none))
    else
      let s := evictSettled s (bankTags s bk)
      let left := ((bankTags s bk).filter fun t => crowned t || t.pin).length
      if (bankTags s bk).any (movingOut s) then (s, none)
      else (s.modAm fun a => { a with busy := false }, some (if left = 0 then amDone else amPartial, left))

def execAmPark (s : State) : Out := amCommand (· == 3) s amPark

def execAmUnpark (s : State) : Out :=
  amCommand (· == 4) s fun s a0 a1 =>
    match bankArg a0 a1 with
    | none => (s, some (amBadArg, 0))
    | some bk =>
      if s.am.parked.contains bk then (s.modAm fun a => { a with parked := a.parked.filter (· != bk) }, some (amDone, 0))
      else (s, some (amAlready, 0))

/-- The frame is never used again. -/
def retireFrame (s : State) (set way : Nat) : State :=
  putTag s { newTag s set way 0 .retired false false false 0 0 with pin := false }

def amRetire (s : State) (a0 a1 : Nat) : State × Option (Nat × Nat) :=
  let set := a0 % 2 ^ 19
  let way := bits a0 23 20
  if a0 / 2 ^ 24 ≠ 0 ∨ bit a0 19 ∨ a1 ≠ 0 then (s, some (amBadArg, 0))
  else if reservedWay set way then (s, some (amReserved, 0))
  else
    let done (s : State) : State := s.modAm fun a => { a with busy := false, retiring := [] }
    let s := match tagAt s set way with | some t => (if s.am.busy then evictSettled s [t] else s) | none => s
    match tagAt s set way with
    | none => (retireFrame (done s) set way, some (amDone, 0))
    | some t =>
      if t.state = .retired then (s, some (amAlready, 0))
      else if !s.am.busy then (moveOut (s.modAm fun a => { a with busy := true, retiring := [(set, way)] }) [t], none)
      else if movingOut s t then (s, none)
      else (done s, some (amPartial, 1))

def execAmRetire (s : State) : Out := amCommand (· == 5) s amRetire

def execAmDiscard (s : State) : Out :=
  amCommand (· == 6) s fun s a0 a1 =>
    if 2 ^ 48 ≤ a0 ∨ a1 ≠ 0 then (s, some (amBadArg, 0))
    else if (dirFind s a0).any fun e => e.mode == .lost then
      (s.modAm fun a => { a with dir := a.dir.filter fun e => e.gpn != a0 }, some (amDone, 0))
    else (s, some (amAbsent, 0))

end Sys2Proof.Machine
end

