-- ==== Sys2Proof/Machine/Remote.lean ====
section
/-! DEFINITION. The home slices' steps of access sets (R153 to R155), with the answers to spans that were performed in another package or
at a mirror (R161, R194, R195). -/

namespace Sys2Proof.Machine

open Sys2Proof

/-- An answer that has come for access set `i`. -/
def setAnswer (s : State) (i : Nat) : Option Env :=
  s.net.find? fun e => e.dst == aid s && (match e.msg with | .remoteAns id _ _ _ _ _ _ => id == i | _ => false)

/-- A span that was performed elsewhere is done: a load's bytes, with those of its party's own stores; an atomic's values; its time, and a
load's lease. -/
def takeSpan (s : State) (a : ASet) (k : Nat) (got : List Nat) (time lease : Nat) : State :=
  let p := a.spans.getD k default
  let ps := (partsOf a p.line).zip got
  let cells := ps.foldl (fun m x => setBytes m x.1.pa (leBytes x.1.n x.2)) []
  let a := if storeClass a.kind then withGot a (ps.map fun x => (x.1.acc, x.2)) else gatherSpan a p.line (seenOver s a (byteAt cells))
  modSet s a.id fun _ => setSpan (spanDone a k time (if storeClass a.kind then time else lease)) k fun p => { p with owe := 0 }

/-- The mirror has performed the writes of a span: they are performed here at its ts (R195). -/
def mirrorAnswered (s : State) (a : ASet) (k : Nat) : State :=
  let a := setSpan a k fun p => { p with owe := 0 }
  let line := (a.spans.getD k default).line
  if a.kind = .store then writeSpan s a k (storeBytes a line)
  else let w := atomicWrites s a line; writeSpan s w.1 k w.2

/-- An answer for a set is taken (R178, R194, R195, R298); one that comes after its set has faulted is not, and a code that no package raises
has the span asked for again (R12). -/
def takeAnswerFor (s : State) (a : ASet) (e : Env) : State :=
  match e.msg with
  | .remoteAns id k _ got time lease stat =>
    let p := a.spans.getD k default
    let s' := takeMsg s e
    if s.am.mirs.any fun m => m.1 == id && m.2.1 == k then mirrorAnswered s a k
    else if p.owe = 0 ∨ p.done then s'
    else if stat = 0 then takeSpan s' a k got time lease
    else if raisable stat then faultAccs s' a stat 0 0 (onLine p.line)
    else sendSpan s' a k
  | _ => s

/-- The set's requests are on their way to their slices. -/
def requestsOut (a : ASet) : Bool := if storeClass a.kind then a.phase == .gone else a.phase == .ready
/-- A home-slice step of span `k`: an answer that has come is taken first; a request that an earlier one of its core to the slice precedes has
not come yet (R16). -/
def sliceStep (f : State → ASet → Nat → State) (i k : Nat) (s : State) : Out :=
  match setAt s i with
  | none => .next s
  | some a =>
    .next (if a.role ≠ .access then s
      else match setAnswer s i with
        | some e => takeAnswerFor s a e
        | none =>
          if !requestsOut a ∨ overtakes s a k then s
          else
            let a := setSpan a k fun p => { p with arrived := true }
            pickWays (f (modSet s i fun _ => a) a k))

def execHomeSliceLoad (i k : Nat) (s : State) : Out := sliceStep sliceLoad i k s
def execHomeSliceStore (i k : Nat) (s : State) : Out := sliceStep sliceStore i k s
def execHomeSliceAtomic (i k : Nat) (s : State) : Out := sliceStep sliceAtomic i k s

end Sys2Proof.Machine
end

