-- ==== Sys2Proof/Machine/Engines.lean ====
section
/-! DEFINITION. The copy and fabric engines (R164 to R166, R217 to R223), inbound granules (R305) and arrival counters (R225, R226). One
step moves one piece of a command: contiguous bytes of one 4 KiB chunk, or one granule. -/

namespace Sys2Proof.Machine

open Sys2Proof

/-! ## Commands -/

def cmdWord (c : EngCmd) (k : Nat) : Nat := (c.words.getD k 0).toNat
def cmdOpc (c : EngCmd) : Nat := cmdWord c 0 % 256
/-- Bytes a copy command writes, or a fabric transfer moves. -/
def cmdTotal (c : EngCmd) : Nat :=
  match cmdOpc c with
  | 0x03 => cmdWord c 3 % 2 ^ 32 * (cmdWord c 3 / 2 ^ 32)
  | 0x04 => 32 * (cmdWord c 4 % 16) * (cmdWord c 3 % 2 ^ 32)
  | 0x13 => 8
  | 0x14 => 0
  | _ => cmdWord c 3

def modEng (s : State) (gi : Nat) (fab : Bool) (f : Engine → Engine) : State :=
  s.modGroup gi fun g => setEng g fab (f (engOf g fab))
def modCmd (s : State) (gi : Nat) (fab : Bool) (num : Nat) (f : EngCmd → EngCmd) : State :=
  modEng s gi fab fun e => { e with cmds := modFirst (fun c => c.num == num) f e.cmds }
def findCmd (s : State) (gi : Nat) (fab : Bool) (num : Nat) : Option EngCmd :=
  (engOf (groupAt s gi) fab).cmds.find? fun c => c.num == num

/-- A fault of the command waits for its release (R304). -/
def cmdParked (s : State) (gi : Nat) (fab : Bool) (num : Nat) : Bool :=
  issuerParked s fun i => match i with | .engine g f n _ => g == gi && f == fab && n == num | _ => false

/-- A command may start: its words are released and 20 dc have passed, the commands before it have started, and the context takes on
commands (R217, R222, R223). -/
def mayStart (s : State) (e : Engine) (c : EngCmd) : Bool :=
  !e.halted && e.held.length < 16 && c.since + 68 ≤ s.now && (e.cmds.takeWhile fun d => d.num != c.num).all (·.began)

/-- The first command of an opcode that can move on. -/
def movable (s : State) (gi : Nat) (fab : Bool) (opc : Nat) : Option EngCmd :=
  let e := engOf (groupAt s gi) fab
  e.cmds.find? fun c => cmdOpc c == opc && !c.fin && !cmdParked s gi fab c.num && (c.began || mayStart s e c)

/-! ## Team SRAM and global memory under an engine (R158, R164) -/

def rowsOfRange (off n : Nat) : List Nat := (List.range ((off + n - 1) / 128 + 1 - off / 128)).map (off / 128 + ·)
/-- Team SRAM is there while its team stands on a core. -/
def sramThere (s : State) (gi : Nat) : Bool :=
  let st := (teamOf s (groupAt s gi)).state
  st == .resident || st == .saving

def sramGet (s : State) (ti off n f : Nat) : State × List Byte × Nat :=
  let t := s.teams.getD ti default
  let rows := rowsOfRange off n
  let time := rows.foldl (fun m r => max m (rowTimes t r).1) f
  (s.modTeam ti fun t => rows.foldl (fun t r => setRow t r ((rowTimes t r).1, max (rowTimes t r).2 f)) t, bytesAt t.sram off n, time)
def sramPut (s : State) (ti off f : Nat) (bs : List Byte) : State × Nat :=
  let t := s.teams.getD ti default
  let rows := rowsOfRange off bs.length
  let ts (row : Nat) : Nat := max f ((rowTimes t row).2 + 1)
  (s.modTeam ti fun t => { rows.foldl (fun t r => setRow t r (ts r, ts r)) t with sram := setBytes t.sram off bs },
   rows.foldl (fun m r => max m (ts r)) f)

/-- The party of an engine context. -/
def engParty (gi : Nat) (fab : Bool) : Party := if fab then .fabric gi else .copy gi

/-- Bytes an engine reads: their time, and the cause that poisons them. -/
def engRead (s : State) (gi : Nat) (fab : Bool) (num : Nat) (sram : Bool) (a n f : Nat) : Reach (List Byte × Nat × Option Cause) :=
  let g := groupAt s gi
  if sram then
    (if sramThere s gi then let r := sramGet s g.team a n f; .done r.1 (r.2.1, r.2.2, none) else .wait s)
  else match tablesFor s (engParty gi fab) (ctxIx s g) .read (.engine gi fab num a) a n with
  | .wait s => .wait s
  | .fault s f va => .fault s f va
  | .done s _ => match vaPieces s (engParty gi fab) (ctxIx s g) .read (n / 65536 + 2) a n with
  | .error e => .fault s e.1 e.2
  | .ok xs =>
    let bad := s.am.poison
    let cause := xs.findSome? fun x => poisonAt s (x.pa / 128)
    let back (s : State) : State := s.modAm fun m => { m with poison := bad }
    let s := enterPtes s (engParty gi fab) (ctxIx s g) a n .read
    match readPieces (s.modAm fun m => { m with poison := [] }) (engParty gi fab) none (some gi) (.engine gi fab num a) f xs with
    | .wait s => .wait (back s)
    | .fault s e _ => .fault (back s) e a
    | .done s r => .done (raiseLt (back s) (engParty gi fab) r.2) (r.1, r.2, cause)

/-- Mark the lines of pieces poisoned (R193, R222). -/
def poisonPieces (s : State) (xs : List Piece) (cause : Cause) : State :=
  s.modAm fun m =>
    { m with poison := (xs.map fun x => (x.pa / 128, cause)).dedup ++ m.poison.filter fun p => !(xs.any fun x => x.pa / 128 == p.1) }

/-- Bytes an engine writes, above a floor: the ts. -/
def engWrite (s : State) (gi : Nat) (fab : Bool) (num : Nat) (sram : Bool) (a f : Nat) (bs : List Byte) (poison : Option Cause) :
    Reach Nat :=
  let g := groupAt s gi
  if sram then
    (if sramThere s gi then let r := sramPut s g.team a f bs; .done r.1 r.2 else .wait s)
  else match tablesFor s (engParty gi fab) (ctxIx s g) .write (.engine gi fab num a) a bs.length with
  | .wait s => .wait s
  | .fault s f va => .fault s f va
  | .done s _ => match vaPieces s (engParty gi fab) (ctxIx s g) .write (bs.length / 65536 + 2) a bs.length with
  | .error e => .fault s e.1 e.2
  | .ok xs => match writePieces (enterPtes s (engParty gi fab) (ctxIx s g) a bs.length .write) (engParty gi fab) (some gi) (.engine gi fab num a) f xs bs with
    | .wait s => .wait s
    | .fault s e _ => .fault s e a
    | .done s ts => .done (raiseLt ((poison.map (poisonPieces s xs)).getD s) (engParty gi fab) ts) ts

/-! ## Copy commands (R219) -/

/-- Source, destination and contiguous bytes left at the command's place. -/
def geometry (c : EngCmd) : Nat × Nat × Nat :=
  let w := cmdWord c
  let p := c.prog
  match cmdOpc c with
  | 0x03 =>
    let rb := w 3 % 2 ^ 32
    (w 1 + p / rb * (w 4 % 2 ^ 32) + p % rb, w 2 + p / rb * (w 4 / 2 ^ 32) + p % rb, rb - p % rb)
  | 0x04 =>
    let m := 32 * (w 4 % 16)
    (w 1 + 256 * (p / m) + p % m, w 2 + p, m - p % m)
  | _ => (w 1 + p, w 2 + p, cmdTotal c - p)

/-- The bytes of the next piece: within one 4 KiB chunk on each side. -/
def pieceSize (c : EngCmd) : Nat :=
  let h := cmdWord c 0
  let g := geometry c
  let chunk (sram : Bool) (a : Nat) : Nat := if sram then 4096 else 4096 - a % 4096
  min g.2.2 (min (if cmdOpc c = 2 then 4096 else chunk (hdrSsram h) g.1) (chunk (hdrDsram h) g.2.1))

/-- A byte address lies among the source bytes of a global COPY or COPY2D. -/
def inSource (c : EngCmd) (a : Nat) : Bool :=
  let w := cmdWord c
  if hdrSsram (w 0) || hdrDsram (w 0) || a < w 1 then false
  else match cmdOpc c with
  | 0x01 => a < w 1 + w 3
  | 0x03 =>
    let ss := w 4 % 2 ^ 32
    (a - w 1) / ss < w 3 / 2 ^ 32 && (a - w 1) % ss < w 3 % 2 ^ 32
  | _ => false

/-- Bytes read of a source that the command has itself written: the old value or the new one (R219). -/
def readChoice (s : State) (c : EngCmd) (a : Nat) (bs : List Byte) : State × List Byte :=
  if c.olds.isEmpty then (s, bs)
  else
    (s.modHub fun h => { h with draws := h.draws + bs.length },
     (List.range bs.length).map fun k => match c.olds.lookup (a + k) with
       | some o => if Config.overlapPick (s.hub.draws + k) then o else bs.getD k 0
       | none => bs.getD k 0)

/-- Bytes to be written over a source of the same command: the byte there before the command, or the one read (R219); with the
replaced bytes. -/
def writeChoice (s : State) (c : EngCmd) (a : Nat) (bs old : List Byte) : State × List Byte × List (Nat × Byte) :=
  let hit := (List.range bs.length).filter fun k => inSource c (a + k)
  if hit.isEmpty then (s, bs, [])
  else
    (s.modHub fun h => { h with draws := h.draws + bs.length },
     (List.range bs.length).map fun k =>
       if inSource c (a + k) && Config.overlapPick (s.hub.draws + k) then old.getD k 0 else bs.getD k 0,
     hit.map fun k => (a + k, old.getD k 0))

/-- The bytes now at a VA range of the group, where its pages are here. -/
def bytesNow (s : State) (gi a n : Nat) : List Byte :=
  match vaPieces s (.copy gi) (ctxIx s (groupAt s gi)) .write (n / 65536 + 2) a n with
  | .ok xs => xs.flatMap fun x => bytesAt s.mem x.pa x.n
  | .error _ => []

/-- A copy command waits for bytes that an earlier matrix command of its group has not yet read (R132). -/
def copyHeld (s : State) (gi : Nat) (c : EngCmd) (dst n : Nat) : Bool :=
  hdrDsram (cmdWord c 0) && s.units.any fun u => u.2.run.any fun k => k.g == gi && k.eng0 < c.num &&
    (List.range (pieces k)).any fun j => pieceUnread s k j && (pieceRanges k j).any fun r => dst < r.1 + r.2 && r.1 < dst + n

/-- The fault of an engine access parks its command (R304). -/
def parkCmd (s : State) (gi : Nat) (fab : Bool) (num : Nat) (f : XFault) (va : Nat) (write : Bool) : State :=
  issuerFault s (.engine gi fab num va) f.cause f.level f.entry write

/-- Every byte of a copy is written: its count goes to the counter (R166, R219). -/
def endCopy (s : State) (gi : Nat) (c : EngCmd) : State :=
  if hdrCnt (cmdWord c 0) then
    send (modCmd s gi false c.num fun c => { c with fin := true, acks := 1 }) (aid s)
      (.count (4096 + ctxIx s (groupAt s gi)) (bits (cmdWord c 0) 31 20) (cmdTotal c) c.time (aid s) gi c.num false 0)
  else modCmd s gi false c.num fun c => { c with fin := true }

/-- The piece that has been read is written. -/
def copyOut (s : State) (gi : Nat) (c : EngCmd) (bs : List Byte) : State :=
  let dst := (geometry c).2.1
  let sram := hdrDsram (cmdWord c 0)
  if copyHeld s gi c dst bs.length then s
  else
    let s0 := s
    let r := writeChoice s c dst bs (if sram then [] else bytesNow s gi dst bs.length)
    match engWrite r.1 gi false c.num sram dst c.lt r.2.1 (if c.stat = 1 then some Tc.amRemotePoison else none) with
    | .wait s => { s with hub := s0.hub }
    | .fault _ f va => parkCmd s0 gi false c.num f va true
    | .done s ts =>
      let s := modCmd s gi false c.num fun c =>
        { c with prog := c.prog + bs.length, time := max c.time ts, buf := none, olds := c.olds ++ r.2.2 }
      match findCmd s gi false c.num with
      | some c => if cmdTotal c ≤ c.prog then endCopy s gi c else s
      | none => s

/-- The bytes of a FILL piece. -/
def fillBytes (c : EngCmd) (n : Nat) : List Byte := (List.range n).map fun k => BitVec.ofNat 8 (cmdWord c 1 / 2 ^ (8 * ((c.prog + k) % 8)))

/-- The next piece of a copy command is read, then written. -/
def copyStep (s : State) (gi : Nat) (c : EngCmd) : State :=
  let s := modCmd s gi false c.num fun c => { c with began := true }
  match c.buf with
  | some bs => copyOut s gi c bs
  | none =>
    let n := pieceSize c
    if cmdOpc c = 2 then copyOut s gi c (fillBytes c n)
    else
      let src := (geometry c).1
      match engRead s gi false c.num (hdrSsram (cmdWord c 0)) src n c.lt with
      | .wait s => s
      | .fault s f va => parkCmd s gi false c.num f va false
      | .done s (bs, t, bad) =>
        let r := readChoice s c src bs
        let f (c : EngCmd) : EngCmd := { c with buf := some r.2, time := max c.time t, stat := if bad.isSome then 1 else c.stat }
        copyOut (modCmd r.1 gi false c.num f) gi (f c) r.2

def copyOf (opc gi : Nat) (s : State) : Out :=
  match movable s gi false opc with
  | some c => .next (copyStep s gi c)
  | none => .next s

def execCopy (g : Nat) (s : State) : Out := copyOf 1 g s
def execFill (g : Nat) (s : State) : Out := copyOf 2 g s
def execCopy2d (g : Nat) (s : State) : Out := copyOf 3 g s
def execBpnprefix (g : Nat) (s : State) : Out := copyOf 4 g s

/-! ## Fabric commands at the initiator (R220) -/

/-- The context's SPACE. -/
def spaceOf (s : State) (c : Nat) : Nat := bits (ctxAt s c).ctl.toNat 27 16

/-- Send one granule to the home of its page; a host, pool or hub page ends the command with status 0x05 (R222, R359). -/
def sendGranule (s : State) (gi : Nat) (c : EngCmd) (va n : Nat) (k : Xk) (op : BitVec 8) (data : List Byte) (last : Bool) : State :=
  let cx := ctxIx s (groupAt s gi)
  match tablesFor s (.fabric gi) cx k (.engine gi true c.num va) va 1 with
  | .wait s => s
  | .fault s f va => parkCmd s gi true c.num f va (k = .write)
  | .done s _ => match partyPte s (.fabric gi) cx va k with
  | .error f => parkCmd s gi true c.num f va (k = .write)
  | .ok e =>
    if 0xFFD ≤ gpnSpace (pteGpn e) then modCmd s gi true c.num fun c => { c with stat := 5, fin := true, buf := none }
    else
      let s := enterPte s (.fabric gi) cx va k
      let h := cmdWord c 0
      let cnt := if cmdOpc c = 0x11 ∧ hdrCnt h then some (cmdWord c 4 % 1024, bits h 31 20) else none
      let s := modCmd s gi true c.num fun c =>
        { c with prog := c.prog + n, acks := c.acks + 1, outs := c.outs ++ [(va, s.now)], fin := last, buf := none }
      send s (homeAid s (pteGpn e)) (.granule (aid s) c.num gi (spaceOf s cx) va (podAddr e va) op data n cnt c.lt false (pteMirr e))

def beginFab (s : State) (gi : Nat) (c : EngCmd) : State := modCmd s gi true c.num fun c => { c with began := true }

/-- The next granule of a transfer whose remote address starts at `a`. -/
def granuleAt (c : EngCmd) (a : Nat) : Nat × Nat :=
  let va := a + c.prog
  (va, min (256 - va % 256) (cmdTotal c - c.prog))

/-- PUT: the granule's bytes are read here, then sent; 0x91 marks poisoned data. -/
def putStep (s : State) (gi : Nat) (c : EngCmd) : State :=
  let s := beginFab s gi c
  let g := granuleAt c (cmdWord c 2)
  match engRead s gi true c.num (hdrSsram (cmdWord c 0)) (cmdWord c 1 + c.prog) g.2 c.lt with
  | .wait s => s
  | .fault s f va => parkCmd s gi true c.num f va false
  | .done s (bs, t, bad) =>
    let s := modCmd s gi true c.num fun c => { c with time := max c.time t, stat := if bad.isSome then 1 else c.stat }
    sendGranule s gi c g.1 g.2 .write (if bad.isSome then 0x91 else 0x11) bs (cmdTotal c ≤ c.prog + g.2)

def execPut (g : Nat) (s : State) : Out :=
  match movable s g true 0x11 with
  | some c => .next (putStep s g c)
  | none => .next s

/-- GET: the granule asks for its bytes. -/
def getStep (s : State) (gi : Nat) (c : EngCmd) : State :=
  let g := granuleAt c (cmdWord c 1)
  sendGranule (beginFab s gi c) gi c g.1 g.2 .read 0x12 [] (cmdTotal c ≤ c.prog + g.2)

def execGet (g : Nat) (s : State) : Out :=
  match movable s g true 0x12 with
  | some c => .next (getStep s g c)
  | none => .next s

/-- ATOM: operand, compare value, operation and SIGNED. -/
def atomStep (s : State) (gi : Nat) (c : EngCmd) : State :=
  let w := cmdWord c
  sendGranule (beginFab s gi c) gi c (w 1) 8 .write 0x13 (leBytes 8 (w 3) ++ leBytes 8 (w 4) ++ leBytes 2 (w 5 % 512)) true

def execAtom (g : Nat) (s : State) : Out :=
  match movable s g true 0x13 with
  | some c => .next (atomStep s g c)
  | none => .next s

/-- SIGNAL: a count with no data. -/
def signalStep (s : State) (gi : Nat) (c : EngCmd) : State :=
  let w := cmdWord c
  let s := modCmd s gi true c.num fun c => { c with began := true, fin := true, acks := 1, outs := [(0, s.now)] }
  send s (w 1 % 1024) (.count (spaceOf s (ctxIx s (groupAt s gi))) (bits (w 0) 31 20) (w 1 / 2 ^ 32) c.lt (aid s) gi c.num true 0)

def execSignal (g : Nat) (s : State) : Out :=
  match movable s g true 0x14 with
  | some c => .next (signalStep s g c)
  | none => .next s

/-! ## Granules at the target (R220, R298, R305) -/

/-- A granule as it stands in a message. -/
structure Gran where
  src : Nat
  cmd : Nat
  g : Nat
  space : Nat
  va : Nat
  pa : Nat
  op : BitVec 8
  data : List Byte
  n : Nat
  cnt : Option (Nat × Nat)
  floor : Nat
  parked : Bool
  mirr : Bool
  deriving DecidableEq, Repr

def Gran.msg (x : Gran) : Msg := .granule x.src x.cmd x.g x.space x.va x.pa x.op x.data x.n x.cnt x.floor x.parked x.mirr
def granOf : Msg → Option Gran
  | .granule src cmd g space va pa op data n cnt floor parked mirr =>
    some ⟨src, cmd, g, space, va, pa, op, data, n, cnt, floor, parked, mirr⟩
  | _ => none

/-- The acknowledgement of a granule. -/
def ackGran (s : State) (x : Gran) (stat : BitVec 8) (time : Nat) (data : List Byte) : State :=
  send s x.src (.granAck x.g x.cmd true stat time x.va data)

/-- The kind of a granule's access. -/
def granXk (x : Gran) : Xk := if x.op = 0x12 then .read else .write
/-- A granule parks on a fault in its own context (R305). -/
def granFault (s : State) (x : Gran) (cause : Cause) (level : Nat) (entry : Word) : State :=
  issuerFault s (.granule x.src x.cmd x.g x.va) cause level entry (x.op != 0x12)

/-- A granule of another package passes the target's checks; none where it has been refused, or waits, or has been parked. -/
def granChecked (s : State) (m : Nat) (x : Gran) : Except State State :=
  if x.src = aid s then .ok s
  else if !spaceOpen s (pageOf x.pa) x.src then .error (ackGran (dropMsg s m) x 2 0 [])
  else match contextOfSpace s x.space with
  | none => .error (ackGran (dropMsg s m) x 2 0 [])
  | some c => match tablesFor s .cp c (granXk x) (.granule x.src x.cmd x.g x.va) x.va 1 with
    | .wait s => .error s
    | .fault s f _ => .error (granFault s x f.cause f.level f.entry)
    | .done s _ =>
      let fine := match partyPte s .cp c x.va (granXk x) with
        | .ok e => pteGpn e == pageOf x.pa
        | .error _ => false
      if fine then .ok (enterPte s .cp c x.va (granXk x)) else .error (granFault s x Tc.inboundUnmapped 0 0)

/-- The PTE under a granule: of its context here, or of its group. -/
def granPte (s : State) (x : Gran) : Word :=
  let look := if x.src = aid s then partyPte s (.fabric x.g) (ctxIx s (groupAt s x.g)) x.va (granXk x)
    else match contextOfSpace s x.space with
      | some c => partyPte s .cp c x.va (granXk x)
      | none => .ok 0
  match look with | .ok e => e | .error _ => 0
/-- The pieces of a granule. -/
def granPieces (s : State) (x : Gran) : List Piece := paPieces (granPte s x) 4 x.pa x.n

/-- The lines of a granule that L2 is to hold come in; those that serve another package sample no HEAT (R190). -/
def granLines (s : State) (x : Gran) : State :=
  (granPieces s x).foldl (fun s p =>
    if neverCached p.pte || !lineAway s (p.pa / 128) then s
    else if x.src = aid s then bringLine s (p.pa / 128) (bit p.pte.toNat 7)
    else fillL2 s (p.pa / 128)) s

/-- The number under which a mirror answers for a granule. -/
def granTok (x : Gran) : Nat := remoteTok x.src (2 ^ 80 + 2 ^ 40 * x.cmd + x.g)
/-- A PUT's bytes at the crown: at the mirror first, where the page has one, then all here. -/
def granPut (s : State) (x : Gran) : State :=
  let ps := granPieces s x
  let ds := dealBytes ps x.data
  let ask (s : State) (d : Piece × List Byte) : State :=
    if (answerTo s (granTok x) d.1.pa).isSome then s else (mirrorFirst s (granTok x) d.1.pa d.1.pa d.1.n x.floor [(d.1.pa, d.2)]).1
  if mirroredHere s (pageOf x.pa) ∧ ds.any (fun d => (answerTo s (granTok x) d.1.pa).isNone) then ds.foldl ask s
  else
    let put (a : State × Nat) (d : Piece × List Byte) : State × Nat :=
      let f := mirrorFirst a.1 (granTok x) d.1.pa d.1.pa d.1.n x.floor [(d.1.pa, d.2)]
      let r := performStore f.1 none d.1.pa d.1.n (f.2.getD x.floor) [(d.1.pa, d.2)]
      (r.1, max a.2 r.2)
    let r := ds.foldl put (s, x.floor)
    let s := if x.op = 0x91 then poisonPieces r.1 ps Tc.amRemotePoison else r.1
    let s := { s with net := s.net.eraseP fun e => e.dst == aid s && e.msg == x.msg }
    match x.cnt with
    | some (who, cid) => send s who (.count x.space cid x.n r.2 x.src x.g x.cmd true x.va)
    | none => ackGran s x 0 r.2 []
/-- The operation, type and part of an ATOM. -/
def granPart (x : Gran) : BitVec 8 × Ty × Part :=
  let code := field x.data 16 2
  (BitVec.ofNat 8 code, if bit code 8 then .i64 else .n64,
   { acc := 0, pa := x.pa, n := 8, data := field x.data 0 8, cmp := field x.data 8 8 })
/-- An ATOM enters its slice's write queue (R163, R220); where the page is never cached it is applied at once. -/
def granAtom (s : State) (m : Nat) (x : Gran) : State :=
  let q := granPart x
  if neverCached (granPte s x) then
    let w := remoteWrites s q.1 q.2.1 [q.2.2]
    let f := mirrorFirst s (granTok x) x.pa x.pa 8 x.floor w.1
    match f.2 with
    | none => f.1
    | some t =>
      let r := performStore { f.1 with net := f.1.net.eraseP fun e => e.dst == aid s && e.msg == x.msg } none x.pa 8 t w.1
      ackGran r.1 x 0 r.2 (leBytes 8 (w.2.headD 0))
  else
    (enqueue (dropMsg s m) q.1 q.2.1 true (x.pa / 128) x.pa 8 x.floor [q.2.2] { src := x.src, id := x.cmd, k := x.g, gran := some x.va }).1
/-- A GET's bytes. -/
def granGet (s : State) (m : Nat) (x : Gran) : State :=
  let ps := granPieces s x
  let bad := ps.any fun p => (poisonAt s (p.pa / 128)).isSome
  let r := ps.foldl (fun (a : State × List Byte × Nat) p =>
    let r := performLoad a.1 none false p.pa p.n x.floor
    (r.1, a.2.1 ++ bytesAt s.mem p.pa p.n, max a.2.2 r.2.1)) (dropMsg s m, [], x.floor)
  ackGran r.1 x (if bad then 1 else 0) r.2.2 r.2.1
/-- The effect of a granule at the crown holder, or for a GET at a holder. -/
def granEffect (s : State) (m : Nat) (x : Gran) : State :=
  if x.op = 0x12 then granGet s m x
  else if x.op = 0x13 then
    match poisonAt s (x.pa / 128) with
    | some c => granFault s x c 0 0
    | none => granAtom s m x
  else granPut s x

/-- The lines of a granule are held by others, or its own write awaits the mirror. -/
def granBusy (s : State) (x : Gran) : Bool :=
  let write := x.op != 0x12
  let own (p : Piece) : Bool := s.am.mirs.any fun a => a.1 == granTok x && a.2.1 == p.pa
  (granPieces s x).any fun p =>
    if own p then (answerTo s (granTok x) p.pa).isNone
    else sliceBusy s none p.pa p.n || (if write then plainWriteHeld s p.pa p.n else plainReadHeld s p.pa p.n)
/-- A granule at a package that can perform it. -/
def granServe (s : State) (m : Nat) (x : Gran) : State :=
  let gpn := pageOf x.pa
  let write := x.op != 0x12
  match granChecked s m x with
  | .error s => s
  | .ok s =>
    let lo := x.pa
    if write ∧ !writableHere s gpn then (if (tagOf s gpn).any (·.transit) ∨ s.am.released.contains gpn then s else askCrown s gpn 0 [])
    else if !readableHere s gpn then s
    else
      let s := granLines s x
      if granBusy s x then s
      else if write ∧ !(plainVictims s lo x.n).isEmpty then abortVictims s lo x.n
      else granEffect s m x

/-- A granule at the home of its page: on to the crown, or to the nearest holder for a GET. For a LOST page it goes back to its command. -/
def granHome (s : State) (m : Nat) (e : Env) (x : Gran) : State :=
  let gpn := pageOf x.pa
  let back (s : State) : State :=
    { s with net := s.net ++ [{ e with dst := x.src, msg := ({ x with parked := true } : Gran).msg, at_ := s.now, passed := true }] }
  atEntry s m gpn x.src x.mirr true back (fun s => s) fun s d =>
    let to_ := if x.op = 0x12 then nearest s d else d.crown
    passOn s m e (if to_ = aid s ∧ !readableHere s gpn then d.crown else to_)

/-- FABRIC_GRANULE_ARRIVE. A granule that has come back for a LOST page parks its command (R196). -/
def granArrive (s : State) (m : Nat) (e : Env) (x : Gran) : State :=
  let gpn := pageOf x.pa
  if x.parked then
    (if x.src = aid s ∧ !(issuerParked s fun i => match i with | .engine g f n va => g == x.g && f && n == x.cmd && va == x.va | _ => false) ∧
        e.src = homeAid s gpn then
       issuerFault s (.engine x.g true x.cmd x.va) Tc.pageLost 0 0 (x.op != 0x12)
     else s)
  else if !e.passed then (if homeAid s gpn = aid s then granHome s m e x else s)
  else if (crownHere s gpn ∧ !s.am.released.contains gpn) ∨ (x.op = 0x12 ∧ readableHere s gpn) then granServe s m x
  else if crownComing s gpn then s
  else { dropMsg s m with net := (dropMsg s m).net ++ [{ e with dst := homeAid s gpn, passed := false, at_ := s.now }] }

def execFabricGranuleArrive (m : Nat) (s : State) : Out :=
  match msgAt s m with
  | none => .next s
  | some e => match granOf e.msg with
    | some x => .next (granArrive s m e x)
    | none => .next s

/-! ## Acknowledgements and completions (R165, R217, R222) -/

/-- One acknowledgement: its time and status; the first status that is not 0 stands. -/
def ackCmd (stat : BitVec 8) (time va : Nat) (c : EngCmd) : EngCmd :=
  { c with acks := c.acks - 1, time := max c.time time, stat := if c.stat = 0 then stat else c.stat,
           fin := c.fin || (stat != 0 && stat != 1), outs := c.outs.eraseP (·.1 == va) }

/-- The bytes of a GET, or the old value of an ATOM, go to their local place. -/
def fabricData (s : State) (m g cmd : Nat) (c : EngCmd) (stat : BitVec 8) (time va : Nat) (data : List Byte) : State :=
  let dst := if cmdOpc c = 0x13 then cmdWord c 2 else cmdWord c 2 + (va - cmdWord c 1)
  if cmdParked s g true cmd then s
  else match engWrite s g true cmd (hdrDsram (cmdWord c 0)) dst c.lt data (if stat = 1 then some Tc.amRemotePoison else none) with
  | .wait s => s
  | .fault s f at_ => parkCmd s g true cmd f at_ true
  | .done s ts => modCmd (dropMsg s m) g true cmd (ackCmd stat (max time ts) va)

def execFabricAck (m : Nat) (s : State) : Out :=
  match msgAt s m with
  | some e =>
    .next (match e.msg with
      | .granAck g cmd fab stat time va data => match findCmd s g fab cmd with
        | none => dropMsg s m
        | some c =>
          if c.acks = 0 then dropMsg s m
          else if data.isEmpty then modCmd (dropMsg s m) g fab cmd (ackCmd stat time va)
          else fabricData s m g cmd c stat time va data
      | _ => s)
  | none => .next s

/-- A status other than 0 halts the context, and its commands that have not started end with status 0x06 (R222). -/
def haltEngine (e : Engine) : Engine :=
  { e with halted := true, cmds := e.cmds.map fun c => if c.began then c else { c with stat := 6, fin := true, began := true } }

/-- A command whose accesses are done: its completion word, or its place in the timeline (R217, R222). -/
def completeCmd (s : State) (gi : Nat) (fab : Bool) (c : EngCmd) : State :=
  let e := engOf (groupAt s gi) fab
  let go (e : Engine) : State :=
    let e := { e with cmds := e.cmds.filter fun d => d.num != c.num }
    let e := if c.stat = 0 then e else haltEngine e
    modEng s gi fab fun _ => e
  if !needsWord c then go (markDone e c.num c.time)
  else if e.words.length < 16 ∧ e.held.isEmpty then go (markDone { e with words := e.words ++ [completionWord c] } c.num c.time)
  else if e.held.length < 16 then go { e with held := e.held ++ [(c.num, c.time, completionWord c)] }
  else s

def execEngineCmdComplete (g n : Nat) (fab : Bool) (s : State) : Out :=
  match findCmd s g fab n with
  | some c => .next (if c.fin ∧ c.acks = 0 then completeCmd s g fab c else s)
  | none => .next s

/-- COMPLETION_WORD_PUSH: a held word enters the queue when there is room. -/
def execCompletionWordPush (g : Nat) (fab : Bool) (s : State) : Out := .next (modEng s g fab fun e => refill e 1)

def execFabricTimeout (g n : Nat) (s : State) : Out :=
  match findCmd s g true n with
  | some c => .next (if 0 < c.acks ∧ (c.outs.any fun o => o.2 + 2 ^ 22 ≤ s.now) then
      modCmd s g true n fun c => { c with stat := if c.stat = 0 then 3 else c.stat, acks := 0, outs := [], fin := true } else s)
  | none => .next s

/-! ## Arrival counters (R225, R226) -/

/-- Add a count to an entry: its counter in team SRAM, the counts kept for a team that is out, or the pending entry. None while the
table has no room. -/
def addCount (s : State) (c cid bytes time : Nat) : Option State :=
  match (ctxAt s c).arrivals.find? fun e => e.1 == cid with
  | some (_, some (ti, off), _, _) =>
    let t := s.teams.getD ti default
    if t.state = .out ∨ t.state = .saving then
      some (s.modTeam ti fun t => { t with counts := t.counts ++ [(off, bytes, time)] })
    else
      let ts := max time ((rowTimes t (off / 128)).2 + 1)
      some (s.modTeam ti fun t =>
        let k := counterAt t off
        putCounter t off { k with count := (k.count + bytes) % 2 ^ 64, time := max k.time ts } ts)
  | some (_, none, _, _) =>
    let f (e : Nat × Option (Nat × Nat) × Nat × Nat) : Nat × Option (Nat × Nat) × Nat × Nat :=
      (e.1, none, (e.2.2.1 + bytes) % 2 ^ 64, max e.2.2.2 time)
    some (s.modCtx c fun x => { x with arrivals := modFirst (fun e => e.1 == cid) f x.arrivals })
  | none =>
    if arrivalUsed s < 4096 then some (s.modCtx c fun x => { x with arrivals := x.arrivals ++ [(cid, none, bytes, time)] }) else none

/-- The context a count is for: its own, or the one its space names at this package. -/
def countCtx (s : State) (space : Nat) : Option Nat := if 4096 ≤ space then some (space - 4096) else contextOfSpace s space

def execArrivalCount (m : Nat) (s : State) : Out :=
  match msgAt s m with
  | some e =>
    .next (match e.msg with
      | .count space cid bytes time src g cmd fab va =>
        let answer (s : State) (stat : BitVec 8) : State := send s src (.granAck g cmd fab stat time va [])
        let open_ := 4096 ≤ space || e.src == aid s || (s.hub.spaces.getD (space / 64) 0).getLsbD (space % 64)
        match (if open_ then countCtx s space else none) with
        | none => answer (dropMsg s m) 2
        | some c => match addCount (dropMsg s m) c cid bytes time with
          | some s => answer s 0
          | none => s
      | _ => s)
  | none => .next s

/-- COUNT_TABLE_TIMEOUT: a count that the table has had no room for in 2^20 dc. -/
def execCountTableTimeout (m : Nat) (s : State) : Out :=
  match msgAt s m with
  | some e =>
    .next (match e.msg with
      | .count space cid bytes time src g cmd fab va =>
        if e.at_ + 2 ^ 20 ≤ s.now ∧ ((countCtx s space).all fun c => (addCount s c cid bytes time).isNone) then
          send (dropMsg s m) src (.granAck g cmd fab 7 time va [])
        else s
      | _ => s)
  | none => .next s

end Sys2Proof.Machine
end

