-- ==== Sys2Proof/Machine/Mailbox.lean ====
section
/-! DEFINITION. Step mailboxes (R317 to R322, R326, R328 to R334): MBSEND and MBGEN, the driver's commands, what the mailbox unit does with
messages, queries and posts, and the records it writes. -/

namespace Sys2Proof.Machine

open Sys2Proof

/-! ## Registers and episodes -/

def mbxNum (s : State) (c : Nat) : Nat := (ctxAt s c).mbxCtl.toNat % 2 ^ 15
def mbxOn (s : State) (c : Nat) : Bool := bit (ctxAt s c).mbxCtl.toNat 15
/-- MBX_CTL.GEN (R317). -/
def mbxGen (s : State) (c : Nat) : W32 := BitVec.ofNat 32 ((ctxAt s c).mbxCtl.toNat / 2 ^ 32)
/-- Mailbox record `e` (R317). -/
def recordVa (s : State) (c e : Nat) : Nat := (ctxAt s c).mbxBase.toNat + 1024 * e

def epAt (s : State) (c e : Nat) : Option Episode := (ctxAt s c).eps.find? fun x => x.ix == e
def epState (s : State) (c e : Nat) : EpState := ((epAt s c e).map (·.state)).getD .unbound
def modEp (s : State) (c e : Nat) (f : Episode → Episode) : State :=
  s.modCtx c fun x => { x with eps := modFirst (fun y => y.ix == e) f x.eps }
/-- The code of a state (R321). -/
def epCode : EpState → Nat
  | .unbound => 0 | .start => 1 | .idle => 2 | .action => 3 | .stepping => 4 | .held => 5 | .ended => 6
/-- The place of the next entry into START or ACTION in the order in which episodes are served (R323). -/
def nextEntry (s : State) : Nat := s.ctxs.foldl (fun m x => x.eps.foldl (fun m y => max m y.seq) m) 0 + 1
/-- An observation is owed (R321). -/
def owes (x : EpState) : Bool := x == .start || x == .action || x == .stepping

/-! ## Status words (R319) -/

/-- Bytes 0x40 to 0x5F of the record. -/
def statusBytes (x : Episode) : List Byte :=
  [BitVec.ofNat 8 (epCode x.state), x.lastst] ++ leBytes 2 (x.stage.getD 0xFFFF) ++ leBytes 4 x.step.toNat ++ leBytes 4 x.gen.toNat ++
    leBytes 4 x.errs.toNat ++ leBytes 8 x.mcause.toNat ++ leBytes 8 x.mepc.toNat
/-- Bytes 0x64 to 0x17F of the record. -/
def actionBytes (x : Episode) : List Byte :=
  leBytes 4 x.alen ++ leBytes 2 x.cid.toNat ++ [BitVec.ofNat 8 (x.note.isSome.toNat + 2 * x.lastDone.toNat)] ++ List.replicate 21 0 ++
    (x.act ++ List.replicate (256 - x.act.length) 0)

/-- A store to the record of an episode is parked. -/
def storeParked (s : State) (c e : Nat) : Bool :=
  issuerParked s fun i => match i with | .epCmd a b va => a == c && b == e && va != recordVa s c e | _ => false

/-- An UNBOUND episode whose words are written is forgotten. -/
def cleanEp (s : State) (c e : Nat) : State :=
  let s := modEp s c e fun x => { x with dirty := false }
  if epState s c e = .unbound then s.modCtx c fun x => { x with eps := x.eps.filter fun y => y.ix != e } else s

/-- Write bytes of a record; `next` goes on once they are performed. -/
def recordStore (s : State) (c e off : Nat) (bs : List Byte) (next : State → State) : State :=
  let va := recordVa s c e + off
  match writeAsParty s .cp c (.epCmd c e va) va bs with
  | .wait s => s
  | .fault s f _ => issuerFault s (.epCmd c e va) f.cause f.level f.entry true
  | .done s _ => next s

/-- The status words of an episode go to its record. -/
def flushEp (s : State) (c e : Nat) : State :=
  match epAt s c e with
  | none => s
  | some x =>
    if !x.dirty || storeParked s c e then s
    else recordStore s c e 0x40 (statusBytes x) fun s => recordStore s c e 0x64 (actionBytes x) fun s => cleanEp s c e
/-- A change of an episode, followed by its status words. -/
def changeEp (s : State) (c e : Nat) (f : Episode → Episode) : State := flushEp (modEp s c e fun x => { f x with dirty := true }) c e
/-- Status words that could not be written before. -/
def flushAll (s : State) : State :=
  (List.range s.ctxs.length).foldl (fun s c => ((ctxAt s c).eps.filter (·.dirty)).foldl (fun s x => flushEp s c x.ix) s) s

/-! ## Stages of episodes (R323) -/

/-- A stage that no entry names is EMPTY. -/
def freshStage (st : Nat) : Stage :=
  { st := st, ctx := 0, ep := 0, state := .empty, x := [], f := [], fcsr := 0, pc := 0, resv := none, lt := 0, since := 0, fetchBuf := [] }
def stageOr (s : State) (st : Nat) : Stage := (s.stages.find? fun x => x.st == st).getD (freshStage st)
def putStage (s : State) (x : Stage) : State := { s with stages := x :: s.stages.filter fun y => y.st != x.st }

/-- Records forget an issuer that is gone. -/
def dropIssuers (s : State) (p : Issuer → Bool) : State :=
  let f (r : FaultRec) : FaultRec := { r with issuers := r.issuers.filter fun i => !p i }
  { s with ctxs := s.ctxs.map fun x => { x with faults := x.faults.map f, waitFaults := x.waitFaults.map f } }
def stageIssuer (st : Nat) (i : Issuer) : Bool := match i with | .stage k _ => k == st | _ => false

/-- The stage of an episode is reset: 50 dc, then EMPTY. -/
def resetStage (s : State) (c e : Nat) : State :=
  match (epAt s c e).bind (·.stage) with
  | none => s
  | some st =>
    let s := modEp s c e fun x => { x with stage := none }
    dropIssuers (putStage s { freshStage st with state := .resetting, lt := (stageOr s st).lt, since := s.now }) (stageIssuer st)
/-- The stage of an episode is saved: 300 dc, then EMPTY. -/
def saveStage (s : State) (c e : Nat) : State :=
  match (epAt s c e).bind (·.stage) with
  | none => s
  | some st =>
    if (stageOr s st).state = .saving then s
    else dropIssuers (putStage s { stageOr s st with state := .saving, since := s.now }) (stageIssuer st)

/-! ## Posts (R320 to R322, R326) -/

/-- The header of a post (R320). -/
def headerWords (x : Episode) (status : Nat) (stat info : Word) (cyc : Nat) : List Word :=
  let v := stat.toNat
  [w64 (x.step.toNat + 2 ^ 32 * x.gen.toNat),
   w64 (status + 256 * (bit v 8).toNat + 65536 * (v % 256) + 2 ^ 32 * (v / 2 ^ 32)), info, w64 x.ix, w64 cyc, 0, 0, 0]
/-- A word of q3 (R332). -/
def noteWord (kind : Nat) (step : W32) (st : EpState) (status : BitVec 8) (ix : Nat) : Word :=
  w64 (2 ^ 32 * step.toNat + 2 ^ 30 * kind + 2 ^ 27 * epCode st + 2 ^ 19 * status.toNat + ix)

/-- A post enters the unit: the episode takes its next state, and the header waits to be written. `keep` says that mbx_stat goes with it. The
hub's stores come after those of the stage (R326). -/
def enterPost (s : State) (c e status : Nat) (info : Word) (keep : Bool) (next : EpState) : State :=
  match epAt s c e with
  | none => s
  | some x =>
    let stat := if keep then x.stat else 0
    let w := x.wins.getD 1 (0, 0, 0)
    let p : Post :=
      { num := s.posts.foldl (fun m p => max m p.num) 0 + 1, ctx := c, ep := e, va := w.1, hdr := headerWords x status stat info s.cycle,
        cid := x.cid, bytes := w.2.1, at_ := s.now, written := false, time := 0
        note := x.note.map fun g => (g, noteWord 0 x.step next (BitVec.ofNat 8 status) e) }
    let s := match x.stage with
      | some st => raiseLt s .cp (stageOr s st).lt
      | none => s
    modEp { s with posts := s.posts ++ [p] } c e fun x =>
      { x with
        state := next, stat := 0, lastst := BitVec.ofNat 8 status, lastDone := bit stat.toNat 8, mark := .none, dog := 0
        dogOn := next == .idle || next == .held, since := s.now, dirty := true }

/-- An episode comes to ENDED or UNBOUND: an observation it owes is posted by the hub with `status`, and its stage is reset (R318, R321,
R323). -/
def endEpisode (s : State) (c e status : Nat) (next : EpState) : State :=
  let s := if owes (epState s c e) then enterPost s c e status 0 false next else s
  let s := resetStage s c e
  changeEp s c e fun x => { x with state := next, mark := .none, dog := 0, dogOn := false, since := s.now }

/-- A write of mbx_obs reaches the unit (R321, R325, R326). -/
def obsWrite (s : State) (c e : Nat) (info : Word) : State :=
  match epAt s c e with
  | none => s
  | some x =>
    if x.state = .start ∨ x.state = .stepping then
      match x.mark with
      | .none => flushEp (enterPost s c e 0 info true .idle) c e
      | .truncate => flushEp (resetStage (enterPost s c e 1 info true .ended) c e) c e
      | .hold => flushEp (saveStage (enterPost s c e 0 info true .held) c e) c e
    else changeEp s c e fun x => { x with errs := if x.errs = 0xFFFFFFFF then x.errs else x.errs + 1 }

/-! ## Order at the unit (R328, R333) -/

/-- The context of a set's group. -/
def setCtx (s : State) (a : ASet) : Nat := ((partyGroup a.party).map fun g => ctxIx s (groupAt s g)).getD 0
/-- Message sets of a context that have reached the unit by a CYCLE and that it has not taken. -/
def arrived (s : State) (c cyc : Nat) : List ASet :=
  s.sets.filter fun a => isMessage a && a.phase == .gone && !(a.spans.all (·.done)) && leftAt a + 24 ≤ cyc && setCtx s a == c
/-- The order of a group's message: the dc it reaches the unit, then its party key (R159). -/
def messageKey (s : State) (a : ASet) : Nat :=
  let g := ((partyGroup a.party).map (groupAt s)).getD default
  leftAt a * 2 ^ 32 + (teamOf s g).core * 64 + g.gid
/-- The set is the next message of its context. -/
def nextMessage (s : State) (c : Nat) (a : ASet) : Bool := (arrived s c s.now).all fun b => messageKey s a ≤ messageKey s b
/-- A watchdog of the context has reached its BUDGET (R327). -/
def expired (x : Episode) : Bool := x.dogOn && x.budget ≤ x.dog
def someExpired (s : State) (c : Nat) : Bool := (ctxAt s c).eps.any expired

/-! ## q3 (R332) -/

/-- A word owed to a group: into q3, or behind the words owed; a notice beyond 512 is lost. -/
def giveWord (s : State) (gi : Nat) (w : Word) (notice : Bool) : State :=
  s.modGroup gi fun g =>
    if notice ∧ 512 ≤ g.q3owed.length then { g with q3loss := true }
    else
      let w := if g.q3loss then w ||| 0x40000 else w
      if g.q3.length < 64 ∧ g.q3owed.isEmpty then { g with q3 := g.q3 ++ [w], q3loss := false }
      else { g with q3owed := g.q3owed ++ [w], q3loss := false }

/-- MBX_QUERY_ANSWER. -/
def execMbxQueryAnswer (g : Nat) (s : State) : Out :=
  let x := groupAt s g
  let c := ctxIx s x
  match x.q3asked with
  | [] => .next s
  | q :: r =>
    let e := q.toNat % 2 ^ 14
    let s := s.modGroup g fun y => { y with q3asked := r }
    .next (match (if e < mbxNum s c then epAt s c e else none) with
      | some y => giveWord s g (noteWord 1 y.step y.state y.lastst e) false
      | none => giveWord s g (noteWord 1 0 .unbound 0 e) false)

/-! ## MBSEND and MBGEN (R329 to R331) -/

def mbLen (w : LaneW) : Nat := bits w.imm.toNat 20 12
def mbSram (w : LaneW) : Bool := w.opx.getLsbD 0

/-- Acting lanes of an sram form that fail MBX_SRAM. -/
def mbOutside (x : LaneIn) : List Nat :=
  if !mbSram x.w then []
  else (acting x).filter fun i =>
    let off := source x (laneAt x.g i) 2
    !(laneAt x.g i).helper && (off % 4 != 0 || sramSize x.s x.g < off + mbLen x.w)

def sendChecks (x : LaneIn) : Option LTrap :=
  if mbSram x.w ∧ (mbLen x.w < 4 ∨ 256 < mbLen x.w ∨ mbLen x.w % 4 ≠ 0) then some { cause := Tc.mbxLength }
  else if !mbxOn x.s (ctxIx x.s x.g) then some { cause := Tc.mbxNotEnabled }
  else if !(mbOutside x).isEmpty then some { cause := Tc.mbxSram, lanes := maskOf (mbOutside x) }
  else forbidden x

/-- A message set: one span that the mailbox unit answers. -/
def messageSet (x : LaneIn) (kind : SetKind) (accs : List Acc) (dest : Dest) : ASet :=
  { id := x.s.nextSet, party := .lane x.gi, kind := kind, sram := false, scope := .grp, pc := x.p.lpc, path1 := x.path1, accs := accs,
    spans := [{ line := 2 ^ 70, first := 0, count := 1, sent := false, done := false, wts := 0, rts := 0 }], dest := dest, ifc := 1,
    issued := x.s.now, floor := 0, phase := .ready, region := none, entry := false }

/-- The set issues (R215, R291). -/
def issueMessage (x : LaneIn) (s : State) (a : ASet) : State :=
  let g := advance x (some s.nextSet) (groupAt s x.gi)
  addSet (s.setGroup x.gi { g with ifc := g.ifc.modify 1 (· + 1), prog := 0 }) a

/-- The action of a lane: its word, or its bytes of team SRAM as an LDS of the lane reads them (R158, R330). -/
def actionOf (x : LaneIn) (s : State) (i : Nat) : State × Nat :=
  let v := source x (laneAt x.g i) 2
  if !mbSram x.w then (s, v)
  else
    let fwd := forwarded s { messageSet x .load [] .none with sram := true }
    let r := sramGet s x.g.team v (mbLen x.w) (partyLt s (.lane x.gi))
    (raiseLt r.1 (.lane x.gi) r.2.2, leNat ((List.range (mbLen x.w)).map fun k => ((fwd.lookup (v + k)).map (·.2)).getD (r.2.1.getD k 0)))

/-- The actions of the acting lanes; a helper's is marked and never sent (R23). -/
def actionsOf (x : LaneIn) : State × List Acc :=
  (acting x).foldl (fun a i =>
    let l := laneAt x.g i
    let r := if l.helper then (a.1, 0) else actionOf x a.1 i
    (r.1, a.2 ++ [{ lane := i, va := source x l 1, pa := 0, n := 0, data := r.2, cmp := l.helper.toNat, got := 0, done := false }])) (x.s, [])

def sendEff (x : LaneIn) : State :=
  if (acting x).isEmpty then groupEff (·.g) x
  else
    let r := actionsOf x
    issueMessage x r.1 (messageSet x (.mbsend (BitVec.ofNat 12 x.w.imm.toNat) (x.w.opx.getLsbD 1) (if mbSram x.w then mbLen x.w else 4)) r.2
      (.status x.w.vd))

/-- Room for the set, and no earlier team-SRAM atomic of the stream over the bytes to be read. -/
def sendWaits (x : LaneIn) : Bool :=
  partyFull x.s (.lane x.gi) || (mbSram x.w && (acting x).any fun i =>
    behindAtomic x.s { messageSet x .load [] .none with sram := true } (source x (laneAt x.g i) 2) (mbLen x.w))

def execMbsend (w : LaneW) (s : State) : Out := laneExec 0xA8 w s sendChecks sendWaits sendEff

def genChecks (x : LaneIn) : Option LTrap :=
  if x.w.g ≠ 7 ∨ x.w.n then some { cause := Tc.mbxGuard }
  else if !x.w.i ∧ x.w.va.toNat < 192 then some { cause := Tc.mbxUniform }
  else if !mbxOn x.s (ctxIx x.s x.g) then some { cause := Tc.mbxNotEnabled }
  else forbidden x

def genEff (x : LaneIn) : State :=
  if (acting x).isEmpty then groupEff (·.g) x
  else issueMessage x x.s (messageSet x (.mbgen (BitVec.ofNat 32 (source x default 1))) [] .none)

def execMbgen (w : LaneW) (s : State) : Out := laneExec 0xA9 w s genChecks (fun x => partyFull x.s (.lane x.gi)) genEff

/-! ## Accepting (R330) -/

/-- The refusal of a state (R321). -/
def refusalOf : EpState → Nat
  | .unbound => 4 | .held => 2 | .ended => 3 | .idle => 0 | _ => 1

/-- One lane at the unit: its status, and the action where it is accepted. -/
def acceptLane (s : State) (c gi : Nat) (a : ASet) (cid : BitVec 12) (note : Bool) (alen : Nat) (x : Acc) : State × Acc :=
  let st := if x.cmp = 1 then 6 else if mbxNum s c ≤ x.va then 4 else refusalOf (epState s c x.va)
  let s := if st ≠ 0 then s
    else changeEp s c x.va fun y =>
      { y with
        state := .action, act := leBytes alen x.data, alen := alen, step := y.step + 1, gen := mbxGen s c, cid := cid
        note := if note then some gi else none, lt := a.floor, since := s.now, seq := nextEntry s, claim := none }
  (s, { x with n := 4, got := st })

def acceptSend (s : State) (gi : Nat) (a : ASet) (cid : BitVec 12) (note : Bool) (alen : Nat) : State :=
  let c := setCtx s a
  let r := a.accs.foldl (fun (p : State × List Acc) x => let q := acceptLane p.1 c gi a cid note alen x; (q.1, p.2 ++ [q.2])) (s, [])
  modSet r.1 a.id fun b => spanDone { b with accs := r.2 } 0 0 0

/-- The message may be taken: it has left, has reached the unit, and is the next of its context (R330, R333). -/
def takable (s : State) (a : ASet) (pass : Nat) : Bool :=
  let c := setCtx s a
  a.phase == .gone && !(a.spans.all (·.done)) && leftAt a + 24 + pass ≤ s.now && nextMessage s c a && !someExpired s c

def execMailboxSendAccept (i : Nat) (s : State) : Out :=
  let s := flushAll s
  match setAt s i with
  | some a => match a.kind, partyGroup a.party with
    | .mbsend cid note alen, some gi => .next (if takable s a 0 then acceptSend s gi a cid note alen else s)
    | _, _ => .next s
  | none => .next s

/-! ## Generations (R328) -/

/-- The rule of one episode. -/
def applyRule (s : State) (c e : Nat) : State :=
  match epAt s c e with
  | none => s
  | some x =>
    match x.rule, x.state with
    | 1, .idle => endEpisode s c e 1 .ended
    | 1, .action => endEpisode s c e 1 .ended
    | 1, .start => modEp s c e fun x => { x with mark := .truncate }
    | 1, .stepping => modEp s c e fun x => { x with mark := .truncate }
    | 2, .idle => saveStage (changeEp s c e fun x => { x with state := .held, since := s.now }) c e
    | 2, .start => modEp s c e fun x => { x with mark := .hold }
    | 2, .action => modEp s c e fun x => { x with mark := .hold }
    | 2, .stepping => modEp s c e fun x => { x with mark := .hold }
    | _, _ => s

def setGen (s : State) (c : Nat) (v : W32) : State :=
  s.modCtx c fun x => { x with mbxCtl := w64 (x.mbxCtl.toNat % 2 ^ 32 + 2 ^ 32 * v.toNat) }

/-- A new generation: every episode in ascending index. -/
def applyGen (s : State) (c : Nat) (v : W32) : State :=
  if v = mbxGen s c then s
  else (sortOn id ((ctxAt s c).eps.map (·.ix))).foldl (fun s e => applyRule s c e) (setGen s c v)

def execMbgenApply (i : Nat) (s : State) : Out :=
  let s := flushAll s
  match setAt s i with
  | some a => match a.kind with
    | .mbgen v =>
      let c := setCtx s a
      let pass := if v = mbxGen s c then 0 else ceilDiv (mbxNum s c) 64
      .next (if takable s a pass then modSet (applyGen s c v) a.id fun b => spanDone b 0 0 0 else s)
    | _ => .next s
  | none => .next s

/-- Episodes of the contexts that are enabled, with NUM of context `c` and EN as given (R317). -/
def numSum (s : State) (c num : Nat) (en : Bool) : Nat :=
  (List.range s.ctxs.length).foldl (fun n k =>
    n + (if k = c then (if en then num else 0) else if mbxOn s k then mbxNum s k else 0)) 0

/-- A write of MBX_CTL (R317, R328): no rule is applied; one that would pass the limit changes nothing. -/
def writeMbxCtl (s : State) (c : Nat) (v : Word) : State :=
  let n := v.toNat
  if 16384 < n % 2 ^ 15 ∨ 16384 < numSum s c (n % 2 ^ 15) (bit n 15) then s
  else s.modCtx c fun x => { x with mbxCtl := w64 (n % 2 ^ 16 + n / 2 ^ 32 * 2 ^ 32) }
def execMbxGenWrite (c : Nat) (v : Word) (s : State) : Out := .next (writeMbxCtl s c v)

/-! ## Posts leave the unit (R319, R326) -/

def postAt (s : State) (k : Nat) : Option Post := s.posts.find? fun p => p.num == k
def modPost (s : State) (k : Nat) (f : Post → Post) : State := { s with posts := modFirst (fun p => p.num == k) f s.posts }
def postParked (s : State) (k : Nat) : Bool := issuerParked s fun i => match i with | .post n _ => n == k | _ => false

/-- The header of post `k` is written, after those of earlier posts of its episode, and after the status words of the post: while their store
is parked the post waits (R319). -/
def execObservationPost (k : Nat) (s : State) : Out :=
  let s := flushAll s
  match postAt s k with
  | none => .next s
  | some p =>
    let before := (s.posts.takeWhile fun q => q.num != k).any fun q => q.ctx == p.ctx && q.ep == p.ep && !q.written
    if p.written ∨ before ∨ postParked s k ∨ storeParked s p.ctx p.ep then .next s
    else .next (match writeAsParty s .cp p.ctx (.post k p.va) p.va (p.hdr.flatMap fun w => leBytes 8 w.toNat) with
      | .wait s => s
      | .fault s f _ => issuerFault s (.post k p.va) f.cause f.level f.entry true
      | .done s _ => modPost s k fun p => { p with written := true, time := s.cpLt })

/-- OBSLEN bytes are counted 60 dc after the post, and its notice is given. -/
def execObservationCount (k : Nat) (s : State) : Out :=
  let s := flushAll s
  match postAt s k with
  | none => .next s
  | some p =>
    if !p.written ∨ s.now < p.at_ + 60 then .next s
    else match addCount s p.ctx p.cid.toNat p.bytes p.time with
      | none => .next s
      | some s =>
        let s := { s with posts := s.posts.filter fun q => q.num != k }
        .next (match p.note with | some n => giveWord s n.1 n.2 true | none => s)

/-! ## The driver's commands (R315, R317 to R319) -/

/-- A window descriptor: base, size, rights R, W, X; and whether its fields are right. -/
def parseWin (b : List Byte) : (Nat × Nat × BitVec 3) × Bool :=
  let base := field b 0 8
  let size := field b 8 4
  let r := field b 12 4
  ((base, size, BitVec.ofNat 3 r), base % 64 == 0 && base / 2 ^ 48 == 0 && size % 64 == 0 && r / 8 == 0)

/-- An access of `n` bytes is allowed by some window (R316); right 0 loads, 1 stores, 2 fetches. -/
def windowAllows (ws : List (Nat × Nat × BitVec 3)) (a n right : Nat) : Bool :=
  ws.any fun w => w.1 ≤ a && a + n ≤ w.1 + w.2.1 && w.2.2.getLsbD right

/-- The windows of a record at `va`: the seven of its descriptors, and the record itself. -/
def recordWins (va : Nat) (b : List Byte) : List (Nat × Nat × BitVec 3) :=
  ((List.range 7).map fun k => (parseWin ((b.drop (0x180 + 16 * k)).take 16)).1) ++ [(va, 1024, 1)]

/-- The checks of R315 and R319. -/
def recordOk (va : Nat) (b : List Byte) : Bool :=
  let ws := recordWins va b
  let w0 := ws.getD 0 (0, 0, 0)
  let w1 := ws.getD 1 (0, 0, 0)
  let sized (w : Nat × Nat × BitVec 3) : Bool := 64 ≤ w.2.1 && w.2.1 ≤ 0x1000000
  (List.range 7).all (fun k => (parseWin ((b.drop (0x180 + 16 * k)).take 16)).2) && field b 0x1F0 16 == 0 &&
    w0.2.2.getLsbD 0 && w0.2.2.getLsbD 1 && sized w0 && w1.2.2.getLsbD 1 && !w1.2.2.getLsbD 2 && sized w1 &&
    field b 0 8 % 2 == 0 && windowAllows ws (field b 0 8) 2 2 && 1024 ≤ field b 8 4 && field b 12 1 ≤ 2 && field b 13 51 == 0

/-- An episode as BIND leaves it. -/
def freshEp (s : State) (c e : Nat) (b : List Byte) : Episode :=
  { ix := e, state := .start, wins := recordWins (recordVa s c e) b, entry := w64 (field b 0 8), budget := field b 8 4,
    rule := field b 12 1, step := 0, gen := mbxGen s c, cid := 0, note := none, alen := 0, act := [], stat := 0, errs := 0, lastst := 0,
    lastDone := false, mcause := 0, mepc := 0, mark := .none, stage := none, lt := 0, saved := false, dog := 0, dogOn := false,
    since := s.now, dirty := true, seq := nextEntry s }

/-- A command ends with a result. -/
def endCmd (s : State) (c result : Nat) : State := s.modCtx c fun x => { x with epRes := w64 (1 + 16 * result) }

/-- BIND, and REBIND of an ENDED episode: the record is read and checked. -/
def bindEp (s : State) (c e : Nat) : State :=
  let va := recordVa s c e
  if issuerParked s fun i => match i with | .epCmd a b v => a == c && b == e && v == va | _ => false then s
  else match readAsParty s .cp c .read (.epCmd c e va) va 512 with
  | .wait s => s
  | .fault s f _ => issuerFault s (.epCmd c e va) f.cause f.level f.entry false
  | .done s b =>
    if !recordOk va b then endCmd s c 3
    else
      let s := s.modCtx c fun x => { x with eps := insertOn (·.ix) (freshEp s c e b) (x.eps.filter fun y => y.ix != e) }
      endCmd (flushEp s c e) c 0

/-- Carry out a command (R318). -/
def runCmd (s : State) (c e op : Nat) : State :=
  if mbxNum s c ≤ e then endCmd s c 1
  else match op, epState s c e with
  | 0, .unbound => bindEp s c e
  | 1, .held => endCmd (changeEp s c e fun x => { x with gen := mbxGen s c, state := .idle, since := s.now }) c 0
  | 1, .ended => bindEp s c e
  | 2, .unbound => endCmd s c 2
  | 2, _ => endCmd (endEpisode s c e 4 .unbound) c 0
  | 3, _ => endCmd s c 4
  | _, _ => endCmd s c 2

/-- A write of EP_CMD: it starts the command, or a command under way goes on behind the messages that reached the unit before it; one written
while another is under way is ignored (R317, R333). -/
def writeEpCmd (s : State) (c e op : Nat) : State :=
  let s := flushAll s
  let key := w64 (e % 2 ^ 14 + 2 ^ 16 * op)
  let s := if bit (ctxAt s c).epRes.toNat 0 then s.modCtx c fun x => { x with epCmd := key, epRes := 0 } else s
  if (ctxAt s c).epCmd ≠ key ∨ !(arrived s c s.now).isEmpty ∨ someExpired s c then s else runCmd s c (e % 2 ^ 14) op

def execEpBind (c e : Nat) (s : State) : Out := .next (writeEpCmd s c e 0)
def execEpRebind (c e : Nat) (s : State) : Out := .next (writeEpCmd s c e 1)
def execEpUnbind (c e : Nat) (s : State) : Out := .next (writeEpCmd s c e 2)

/-! ## Expiry (R327) -/

def execEpisodeRunaway (c e : Nat) (s : State) : Out :=
  let s := flushAll s
  .next (if (epAt s c e).any expired then endEpisode s c e 2 .ended else s)

end Sys2Proof.Machine
end

