-- ==== Sys2Proof/Machine/Place.lean ====
section
/-! DEFINITION. What a team has when it starts (R22, R23, R31, R120, R264, R266): its lanes, groups, channels, team SRAM and macros. -/

namespace Sys2Proof.Machine

open Sys2Proof

/-- A compute-in-memory array as granted: EMPTY, everything 0 (R120). -/
def freshCim : Cim :=
  { cells := [], expo := [], pinf := [], ninf := [], nan := [], acc := [], state := .empty, bfmt := 0, ncols := 0, m := 0, next := 0,
    fmtw := 0, aaddr := 0, tag := 0, evt := false, count := 0, first := 0 }

/-- An engine context as a group starts (R217). -/
def freshEngine : Engine :=
  { partWords := [], cmds := [], words := [], held := [], next := 0, time := 0, times := [], halted := false }

/-- The lanes of group `g`: launched below the team's count, helpers in the quads of a launched lane (R23, R264). -/
def freshLanes (width g lanes : Nat) : List Lane :=
  (List.range width).map fun i =>
    let up (k : Nat) : Bool := width * g + k < lanes
    { v := [], p := 0, sr := 0, launched := up i, helper := !up i && up (i - i % 4), exited := false }

/-- A path over every lane of a group. -/
def freshPath (m : Mask) : Path := { lpc := 0, exec := m, laneSet := m, stack := [], look := [], arrived := false }

/-- A group as it starts (R31): `va` is the image's address, `entry` the first word of `.scalar`. -/
def freshGroup (team gid quad pos width lanes va entry image lt : Nat) : Group :=
  let ls := freshLanes width gid lanes
  let m := maskOf ((List.range width).filter fun i => let l := ls.getD i default; l.launched || l.helper)
  { team := team, gid := gid, quad := quad, pos := pos, s := w64 va :: List.replicate 47 0, spc := w64 entry, lanes := ls, part := 0,
    cvmode := 0, cvseed := 0, ifc := [0, 0, 0, 0], pwstat := 0,
    trap := { tcause := 0, tspc := 0, tlpc0 := 0, tlpc1 := 0, tlanes := 0, taddr := 0, tinfo := 0 },
    p0 := freshPath m, p1 := none, dualJ := 0, last1 := false, block := none, queue := [], lastExec := none, slt := lt, llt := lt,
    endLt := 0, copy := freshEngine, fabric := freshEngine, q3 := [], q3owed := [], q3asked := [], q3loss := false, q4 := [], q5 := [],
    region := none, retry := none,
    dstat := { slot := 0, stamp := 0, cts := 0, cause := 0, causeSlot := 0, trapCause := 0, userCode := 0, aborts := 0 },
    wait := .none, prog := 0, gap := 0, pend := none, frame := none, image := image, reached := false, saved := false,
    exiting := false, retired := false }

/-- The share of macros per quadrant (R120). -/
def shareOf (n : Nat) : Nat := ceilDiv n 4

/-- A team of a launch before it is placed (R262). -/
def freshTeam (launch tid core : Nat) (seg : W32 × W32 × W32) (win0 : Word) : Team :=
  { tid := BitVec.ofNat 32 tid, launch := launch, dealt := core, core := core, state := .dealt, segid := seg.1, segrow0 := seg.2.1,
    segrows := seg.2.2, win0 := win0, groups := [], sram := [], rows := [], chans := List.replicate 8 [], cims := [], frozen := false,
    bar := ⟨0, [], 0, 0⟩, request := none, slot := 0, slotGen := 0, counts := [], placed := 0 }

end Sys2Proof.Machine
end

