-- ==== Sys2Proof/Machine/Launch.lean ====
section
/-! DEFINITION. The command processor's side of launches (R252 to R266): queues and device-built records, what the CP chooses, reads and checks,
the deal of teams, their placement on cores, and the end of groups, teams and launches (R256, R266, R276). -/

namespace Sys2Proof.Machine

open Sys2Proof

/-! ## Queues (R252, R253) -/

def ctxOn (s : State) (c : Nat) : Bool := bit (ctxAt s c).ctl.toNat 0
def lqAt (s : State) (c q : Nat) : LaunchQ := (ctxAt s c).queues.getD q LaunchQ.reset
def modLq (s : State) (c q : Nat) (f : LaunchQ → LaunchQ) : State := s.modCtx c fun x => { x with queues := x.queues.modify q f }
/-- The size of a ring, where it is one the CP reads. -/
def lqSize (x : LaunchQ) : Option Nat :=
  let n := x.ctl.toNat % 2 ^ 13
  if 16 ≤ n ∧ n ≤ 4096 ∧ n &&& (n - 1) = 0 then some n else none
def lqPri (x : LaunchQ) : Nat := bits x.ctl.toNat 17 16
/-- The queue has a head record. -/
def lqLive (s : State) (c q : Nat) : Bool :=
  let x := lqAt s c q
  ctxOn s c && bit x.ctl.toNat 24 && (lqSize x).isSome && x.head != x.tail
def headVa (x : LaunchQ) : Nat := x.base.toNat / 4096 * 4096 + 64 * x.head.toNat

/-- Record `n` of a queue has retired: DONE goes to the largest n with no gap below (R252). -/
def lqFinish (x : LaunchQ) (n : Nat) : LaunchQ :=
  let fin := n :: x.fin
  let d := (List.range fin.length).foldl (fun d _ => if fin.contains (d + 1) then d + 1 else d) x.done.toNat
  { x with done := w64 d, fin := fin.filter (d < ·) }
/-- HEAD moves past a record. -/
def lqStep (x : LaunchQ) : LaunchQ := { x with head := BitVec.ofNat 12 ((x.head.toNat + 1) % (lqSize x).getD 4096), next := x.next + 1 }

/-! ## Records (R254, R255) -/

def recWords (b : List Byte) : List Nat := (List.range 8).map fun k => field b (8 * k) 8
def parseRecord (ws : List Nat) : Record :=
  let w (k : Nat) : Nat := ws.getD k 0
  let b (k lo : Nat) : BitVec 8 := BitVec.ofNat 8 (w k / 2 ^ lo)
  { kind := b 0 0, width := b 0 8, regs := b 0 16, cims := b 0 24, groups := b 0 32, flags := b 0 40, status := b 0 48, waitq := b 0 56
    entry := w64 (w 1), teams := BitVec.ofNat 32 (w 2), lanes := BitVec.ofNat 32 (w 2 / 2 ^ 32), sram := BitVec.ofNat 32 (w 3)
    tilerows := BitVec.ofNat 16 (w 3 / 2 ^ 32), wdog := b 3 48, res0 := b 3 56, wintab := w64 (w 4), snaptab := w64 (w 5)
    waitval := w64 (w 6), segtab := w64 (w 7) }
def flagOrder (r : Record) : Bool := r.flags.getLsbD 0
def flagWait (r : Record) : Bool := r.flags.getLsbD 1
def flagCoop (r : Record) : Bool := r.flags.getLsbD 2
/-- The refusal of a record's own fields: 0x02, 0x03, or 0; `own` is the queue and number a wait must not name. -/
def recordStatus (ws : List Nat) (own : Option (Nat × Nat)) : Nat :=
  let r := parseRecord ws
  if r.kind = 0 ∨ 3 < r.kind.toNat then 2
  else if (List.range 8).any fun k => recordWordBad false k (ws.take (k + 1)) then 3
  else if flagWait r ∧ own.any (fun o => r.waitq.toNat % 16 == o.1 && o.2 ≤ r.waitval.toNat) then 3
  else 0

/-! ## Where a record comes from -/

/-- A queue is 16 × c + q; a device-built record has a number above those, its context in bits 9 to 4 as well. -/
def builtSrc (b : Built) : Nat := 1024 * (1 + b.launch * 2 ^ 20 + b.order) + 16 * b.ctx
def builtOf (s : State) (src : Nat) : Option Built := s.built.find? fun b => builtSrc b == src
def srcCtx (src : Nat) : Nat := src / 16 % 64
def srcQueue (src : Nat) : Nat := src % 16
/-- A read of the CP for this record is parked (R304). -/
def cpParked (s : State) (src : Nat) : Bool := issuerParked s fun i => match i with | .cpRead k _ => k == src | _ => false

/-- A read of the CP for a record: a fault parks it as engine 7 (R304). -/
def cpTake (s : State) (src : Nat) (k : Xk) (va n : Nat) : Reach (List Byte) :=
  match readAsParty s .cp (srcCtx src) k (.cpRead src va) va n with
  | .fault s f _ => .wait (issuerFault s (.cpRead src va) f.cause f.level f.entry false)
  | o => o
def Reach.bind {α β : Type} (x : Reach α) (f : State → α → Reach β) : Reach β :=
  match x with
  | .done s v => f s v
  | .wait s => .wait s
  | .fault s e va => .fault s e va

/-! ## Eligibility (R253, R261) -/

/-- Launches of a queue with their record numbers. -/
def queueLaunch (s : State) (c q n : Nat) : Option Launch := s.launches.find? fun l => l.ctx == c && l.queue == some (q, n)
/-- Every team of a launch has been placed. -/
def allPlaced (s : State) (l : Nat) : Bool := s.teams.all fun t => t.launch != l || t.state != .dealt
/-- The record before the head has retired, or all its teams are placed. -/
def beforePlaced (s : State) (c q : Nat) : Bool :=
  let n := (lqAt s c q).next - 1
  (List.range s.launches.length).all fun l =>
    let x := s.launches.getD l default
    !(x.ctx == c && x.queue == some (q, n)) || x.retired || allPlaced s l
/-- The wait of a record holds. -/
def waitHoldsFor (s : State) (c : Nat) (r : Record) : Bool :=
  !flagWait r || r.waitval.toNat ≤ (lqAt s c (r.waitq.toNat % 16)).done.toNat
/-- A record waits for itself: it is refused, and its wait holds nothing up (R255; notes/assumptions/43.md). -/
def waitsForItself (r : Record) (q n : Nat) : Bool := flagWait r && r.waitq.toNat % 16 == q && n ≤ r.waitval.toNat
/-- A queued record is eligible: the three conditions of R253. -/
def queueEligible (s : State) (c q : Nat) (ws : List Nat) : Bool :=
  let x := lqAt s c q
  let r := parseRecord ws
  beforePlaced s c q && (!flagOrder r || x.done.toNat + 1 == x.next) && (waitHoldsFor s c r || waitsForItself r q x.next)
/-- Records that the same run of a builder pushed before have retired. -/
def builtBeforeDone (s : State) (b : Built) : Bool :=
  !(s.built.any fun o => o.launch == b.launch && o.run == b.run && o.order < b.order) &&
    s.launches.all fun l => l.builder != some (b.launch, b.run) || b.order ≤ l.order || l.retired
def builtEligible (s : State) (b : Built) : Bool :=
  let r := parseRecord (b.words.map (·.toNat))
  (!flagOrder r || builtBeforeDone s b) && waitHoldsFor s b.ctx r
def builtPri (s : State) (b : Built) : Nat := (s.launches.getD b.launch default).pri

/-- The words of a head record as this package's memory holds them, where they can be read. -/
def peekRecord (s : State) (c q : Nat) : Option (List Nat) :=
  let va := headVa (lqAt s c q)
  if (partyLook s .cp c va .read).isNone && (tableAway s c va).isSome then none
  else match partyPte s .cp c va .read with
    | .ok e => if pageHere s (pteGpn e) then some (recWords (bytesAt s.mem (podAddr e va) 64)) else none
    | .error _ => none

/-- The place of a candidate in the CP's choice: priority, device-built first, then its turn (R253). -/
def rankOf (s : State) (pri src : Nat) : Nat :=
  let turn := if src < 1024 then 2 ^ 32 + (src + 1024 - ((s.cpLast.lookup pri).getD 1023 + 1)) % 1024
    else s.built.findIdx fun b => builtSrc b == src
  (3 - pri) * 2 ^ 34 + turn
/-- The eligible records, by rank. -/
def recordChoices (s : State) : List Nat :=
  let qs := (List.range 1024).filterMap fun k =>
    if lqLive s (k / 16) (k % 16) ∧ !cpParked s k ∧ (peekRecord s (k / 16) (k % 16)).any (queueEligible s (k / 16) (k % 16)) then
      some (rankOf s (lqPri (lqAt s (k / 16) (k % 16))) k) else none
  let bs := s.built.filterMap fun b =>
    if ctxOn s b.ctx ∧ builtEligible s b ∧ !cpParked s (builtSrc b) then some (rankOf s (builtPri s b) (builtSrc b)) else none
  qs ++ bs
/-- No eligible record comes before. -/
def firstChoice (s : State) (pri src : Nat) : Bool := (recordChoices s).all fun r => rankOf s pri src ≤ r

/-! ## Times (R151, R256) -/

/-- The largest lt released by records of a queue numbered up to `n`. -/
def releasedLt (s : State) (c q n : Nat) : Nat :=
  s.launches.foldl (fun m l => match l.queue with
    | some (k, i) => if l.ctx = c ∧ k = q ∧ i ≤ n ∧ l.retired then max m l.maxLt else m
    | none => m) 0
/-- What a record's wait and its ORDER acquire. -/
def acquiredLt (s : State) (c : Nat) (own : Option (Nat × Nat)) (r : Record) : Nat :=
  let w := if flagWait r then releasedLt s c (r.waitq.toNat % 16) r.waitval.toNat else 0
  match own with
  | some (q, n) => if flagOrder r then max w (releasedLt s c q (n - 1)) else w
  | none => w

/-! ## What a launch reads (R254, R258, R259) -/

/-- The window table: base and size of each window. -/
def readWindows (s : State) (src : Nat) (r : Record) : Reach (List (Word × Word)) :=
  if r.wintab = 0 then .done s (List.replicate 8 (0, 0))
  else (cpTake s src .read r.wintab.toNat 128).bind fun s b =>
    .done s ((List.range 8).map fun k => (w64 (field b (16 * k) 8), w64 (field b (16 * k + 8) 8)))
def windowsBad (ws : List (Word × Word)) : Bool := ws.any fun w => w.2.toNat % 8 != 0 || 2 ^ 24 < w.2.toNat

/-- The snapshot ranges: first byte and bytes. -/
def readSnaps (s : State) (src : Nat) (r : Record) : Reach (List (Nat × Nat)) :=
  let n := r.snaptab.toNat % 256
  if n = 0 then .done s []
  else (cpTake s src .read (r.snaptab.toNat / 256 * 256) (16 * n)).bind fun s b =>
    .done s ((List.range n).map fun k => (field b (16 * k) 8, 65536 * field b (16 * k + 8) 8))

/-- What a team is made with: its segment values and the base of its window 0. -/
abbrev TeamPlan := (W32 × W32 × W32) × Word

/-- The teams of one segment record (R258). -/
def segTeams (r : Record) (base : Word) (seg : Nat × Nat × Nat × Nat) : List TeamPlan :=
  let (id, row0, count, pofs) := seg
  let rows := r.tilerows.toNat
  (List.range (ceilDiv count rows)).map fun j =>
    ((BitVec.ofNat 32 id, BitVec.ofNat 32 (row0 + j * rows), BitVec.ofNat 32 (min rows (count - j * rows))), base + w64 pofs)
def parseSegs (n : Nat) (b : List Byte) : List (Nat × Nat × Nat × Nat) :=
  (List.range n).map fun k => (field b (16 * k) 4, field b (16 * k + 4) 4, field b (16 * k + 8) 4, field b (16 * k + 12) 4)
/-- The plan of a ragged record; none where it is refused. -/
def raggedPlan (r : Record) (base : Word) (segs : List (Nat × Nat × Nat × Nat)) : Option (List TeamPlan) :=
  let total := segs.foldl (fun n g => n + ceilDiv g.2.2.1 r.tilerows.toNat) 0
  if segs.any (fun g => g.2.2.2 % 8 != 0) ∨ 2 ^ 32 - 1 < total then none else some (segs.flatMap (segTeams r base))
/-- The plan of a record, or none where its segments refuse it. -/
def readPlan (s : State) (src : Nat) (r : Record) (ws : List (Word × Word)) : Reach (Option (List TeamPlan)) :=
  let base := (ws.getD 0 (0, 0)).1
  if r.kind = 2 then
    (cpTake s src .read r.segtab.toNat (16 * r.teams.toNat)).bind fun s b => .done s (raggedPlan r base (parseSegs r.teams.toNat b))
  else .done s (some (List.replicate r.teams.toNat ((0, 0, 0), base)))

/-- The image a record names, and the cause its checks fail with (R69). -/
def readLaunchImage (s : State) (src : Nat) (r : Record) : Reach (Image × Option Cause) :=
  let va := r.entry.toNat
  (cpTake s src .fetch va 128).bind fun s h =>
    let total := field h 0x28 4
    (if total ≤ 128 then .done s h else cpTake s src .fetch va total).bind fun s b =>
      .done s (parseImage va b, match checkImage va b with
        | .error c => some c
        | .ok i =>
          if i.width ≠ r.width.toNat then some Tc.widthMismatch
          else if r.regs.toNat < i.regs then some Tc.regsExceeded
          else if r.sram.toNat < i.sram then some Tc.sramExceeded
          else if r.cims.toNat < i.cims then some Tc.cimsExceeded
          else none)

/-! ## The deal (R262) -/

/-- Enabled physical cores of a quartet. -/
def quartetCores (s : State) (k : Nat) : List Nat := (enabledCores s).filter fun p => p / 4 == k
def usableQuartets (s : State) : List Nat := (List.range 18).filter fun k => !(quartetCores s k).isEmpty
/-- The logical core of team `t`. -/
def dealtCore (s : State) (t : Nat) : Nat :=
  let u := usableQuartets s
  let cores := quartetCores s (u.getD (t % u.length) 0)
  (enabledCores s).idxOf (cores.getD (t / u.length % cores.length) 0)

/-! ## Room on a core (R264, R265) -/

def onCore (t : Team) : Bool := t.state == .resident || t.state == .saving
def recordOf (s : State) (t : Team) : Record := (s.launches.getD t.launch default).record
/-- Teams that hold resources of a logical core. -/
def teamsOn (s : State) (core : Nat) : List Nat :=
  (List.range s.teams.length).filter fun i => let t := s.teams.getD i default; onCore t && t.core == core
/-- Groups that hold positions of quadrant `q` of a logical core. -/
def groupsIn (s : State) (core q : Nat) : List Group :=
  (teamsOn s core).flatMap fun i => (((s.teams.getD i default).groups.map (groupAt s)).filter fun g => !g.retired && g.quad % 4 == q)
/-- Groups of a team in quadrant `q`. -/
def shareIn (groups q : Nat) : Nat := ((List.range groups).filter fun g => g % 4 == q).length
/-- `n` teams of a record fit on a core beside what `s` holds there. -/
def fits (s : State) (core : Nat) (r : Record) (n : Nat) : Bool :=
  let ts := (teamsOn s core).map fun i => s.teams.getD i default
  let per := 4 * r.width.toNat * r.regs.toNat
  let regs (g : Group) : Nat := 4 * widthOf g * (recordOf s (teamOf s g)).regs.toNat
  (List.range 4).all (fun q =>
    let gs := groupsIn s core q
    gs.length + n * shareIn r.groups.toNat q ≤ 16 && (gs.map regs).sum + n * shareIn r.groups.toNat q * per ≤ 524288) &&
    (ts.map fun t => (recordOf s t).sram.toNat).sum + ((s.clears.filter fun k => k.1 == core).map (·.2.1)).sum + n * r.sram.toNat ≤ 524288 &&
    (ts.map fun t => shareOf (recordOf s t).cims.toNat).sum + n * shareOf r.cims.toNat ≤ 24 &&
    ((List.range 4).map fun q => (groupsIn s core q).length).sum + n * r.groups.toNat ≤ 64
/-- Teams of a plan dealt to each core. -/
def dealCounts (s : State) (n : Nat) : List (Nat × Nat) :=
  let cores := (List.range n).map (dealtCore s)
  cores.dedup.map fun k => (k, cores.count k)
/-- The machine with no team on any core. -/
def noTeams (s : State) : State := { s with teams := [], clears := [] }
/-- COOP: every team can be resident at once (R265). -/
def coopPossible (s : State) (r : Record) (n : Nat) : Bool := (dealCounts s n).all fun k => fits (noTeams s) k.1 r k.2

/-! ## Taking a record (R253 to R256, R258, R260) -/

/-- The record leaves its queue or the CP. -/
def takeRecord (s : State) (src : Nat) : State :=
  if src < 1024 then modLq s (src / 16) (src % 16) lqStep
  else { s with built := s.built.filter fun b => builtSrc b != src }
/-- A record of a queue counts as retired. -/
def finishRecord (s : State) (c : Nat) (own : Option (Nat × Nat)) : State :=
  match own with
  | some (q, n) => modLq s c q fun x => lqFinish x n
  | none => s
/-- The queue and number of the record. -/
def ownOf (s : State) (src : Nat) : Option (Nat × Nat) := if src < 1024 then some (src % 16, (lqAt s (src / 16) (src % 16)).next) else none
def recVaOf (s : State) (src : Nat) : Nat := if src < 1024 then headVa (lqAt s (src / 16) (src % 16)) else 0

/-- STATUS is written, or dropped where its page faults (R255). -/
def writeStatus (s : State) (c va st : Nat) : Reach Unit :=
  match writeAsParty s .cp c (.cpRead (16 * c) va) (va + 6) [BitVec.ofNat 8 st] with
  | .fault s _ _ => .done s ()
  | o => o

/-- A refused record (R255): STATUS, its refusal record, and its place in the timeline. -/
def refuseRecord (s : State) (src st : Nat) : State :=
  let c := srcCtx src
  let own := ownOf s src
  let va := recVaOf s src
  let end_ (s : State) : State := finishRecord (takeRecord (recordFault s c (refusalFault s va (srcQueue src) st)) src) c own
  if src < 1024 then
    match writeStatus s c va st with
    | .done s _ => end_ s
    | .wait s => s
    | .fault s _ _ => s
  else end_ s
/-- A record that retires as it is read: a wait-only one, or a launch without a team, which takes a LAUNCHID as every launch accepted does
(R256). -/
def retireEmpty (s : State) (src : Nat) (launch : Bool) : State :=
  let c := srcCtx src
  let own := ownOf s src
  let gone (s : State) : State := { takeRecord s src with nextLid := if launch then s.nextLid + 1 else s.nextLid }
  if src < 1024 then
    match writeStatus s c (recVaOf s src) 1 with
    | .done s _ => finishRecord (gone s) c own
    | .wait s => s
    | .fault s _ _ => s
  else gone s

/-- Everything a launch has read. -/
structure LaunchIn where
  own   : Record
  wins  : List (Word × Word)
  snaps : List (Nat × Nat)
  plan  : List TeamPlan
  image : Image
  bad   : Option Cause
  deriving DecidableEq, Repr

/-- Launch rollback is enabled (R348). -/
def rollbackOn (s : State) (c : Nat) : Bool := bit (ctxAt s c).rb.toNat 0

/-- An accepted launch: its LAUNCHID, launch time and teams (R151, R256, R262). -/
def acceptLaunch (s : State) (src : Nat) (x : LaunchIn) (pri : Nat) : State :=
  let c := srcCtx src
  let own := ownOf s src
  let b := builtOf s src
  let from_ := b.map fun b => s.launches.getD b.launch default
  let l := s.launches.length
  let launch : Launch :=
    { ctx := c, queue := own, recVa := recVaOf s src, record := x.own, lid := s.nextLid,
      lambda := max (max (acquiredLt s c own x.own) s.cpLt) (b.elim 0 (·.lt)) + 1, image := s.images.length, wins := x.wins
      depth := from_.elim 0 fun p => p.depth + 1, builder := b.map fun b => (b.launch, b.run), order := b.elim 0 (·.order), bad := x.bad
      left := x.plan.length, crew := [⟨0, [], 0, 0⟩, ⟨0, [], 0, 0⟩], bar := ⟨0, [], 0, 0⟩, replays := 0
      protect := from_.elim (rollbackOn s c) (·.protect), pri := pri, maxLt := 0, retired := false, snaps := x.snaps }
  let team (t : Nat) (p : TeamPlan) : Team := freshTeam l t (dealtCore s t) p.1 p.2
  takeRecord { s with
    images := s.images ++ [x.image], launches := s.launches ++ [launch], nextLid := s.nextLid + 1
    teams := s.teams ++ (List.range x.plan.length).map fun t => team t (x.plan.getD t default) } src

/-- A kernel or ragged record is read in full, and accepted or refused. -/
def readLaunch (s : State) (src pri : Nat) (r : Record) : Reach Unit :=
  (readWindows s src r).bind fun s ws =>
    if windowsBad ws then .done (refuseRecord s src 3) ()
    else (readPlan s src r ws).bind fun s plan => match plan with
      | none => .done (refuseRecord s src 3) ()
      | some plan =>
        if plan.isEmpty then .done (retireEmpty s src true) ()
        else if flagCoop r ∧ !coopPossible s r plan.length then .done (refuseRecord s src 4) ()
        else (readSnaps s src r).bind fun s snaps => (readLaunchImage s src r).bind fun s im =>
          .done (acceptLaunch s src { own := r, wins := ws, snaps := snaps, plan := plan, image := im.1, bad := im.2 } pri) ()
/-- The state a reach leaves. -/
def Reach.state {α : Type} : Reach α → State
  | .done s _ => s
  | .wait s => s
  | .fault s _ _ => s

/-- The CP turns to a record of some kinds: refused, retired, or read in full. -/
def serveRecord (s : State) (src pri : Nat) (ws : List Nat) (kinds : BitVec 8 → Bool) : State :=
  let r := parseRecord ws
  if !kinds r.kind ∨ !firstChoice s pri src then s
  else
    let s := if src < 1024 then { s with cpLast := (pri, src) :: s.cpLast.filter fun p => p.1 != pri } else s
    match recordStatus ws (ownOf s src) with
    | 0 => if r.kind = 3 then retireEmpty s src false else (readLaunch s src pri r).state
    | st => refuseRecord s src st

/-- A record is read where it is the CP's next. -/
def launchStep (src : Nat) (kinds : BitVec 8 → Bool) (s : State) : State :=
  if cpParked s src then s
  else if src < 1024 then
    let c := src / 16
    let q := src % 16
    if !lqLive s c q then s
    else match cpTake s src .read (headVa (lqAt s c q)) 64 with
    | .done t b => if queueEligible t c q (recWords b) then serveRecord t src (lqPri (lqAt t c q)) (recWords b) kinds else s
    | o => o.state
  else match builtOf s src with
    | some b => if ctxOn s b.ctx ∧ builtEligible s b then serveRecord s src (builtPri s b) (b.words.map (·.toNat)) kinds else s
    | none => s

def execLaunchKernel (src : Nat) (s : State) : Out := .next (launchStep src (fun k => k != 2 && k != 3) s)
def execLaunchRagged (src : Nat) (s : State) : Out := .next (launchStep src (· == 2) s)
def execLaunchWaitOnly (src : Nat) (s : State) : Out := .next (launchStep src (· == 3) s)

/-- A write of LQ_BASE (R252): the ring starts anew; launches of the old one no longer move its timeline. -/
def writeLqBase (s : State) (c q : Nat) (v : Word) : State :=
  let s := dropIssuers s fun i => match i with | .cpRead k _ => k == 16 * c + q | _ => false
  let s := modLq s c q fun x => { x with base := w64 (v.toNat / 4096 * 4096), head := 0, tail := 0, done := 0, next := 1, fin := [] }
  { s with launches := s.launches.map fun l => if l.ctx = c ∧ l.queue.any (fun o => o.1 == q) then { l with queue := none } else l }
def execLqBaseWrite (c q : Nat) (v : Word) (s : State) : Out := .next (writeLqBase s c q v)

/-! ## Placement (R264 to R266) -/

/-- No checkpoint of the context is under way or holds its teams out (R347). -/
def mayPlace (s : State) (c : Nat) : Bool := ctxOn s c && bit (ctxAt s c).ckpt.toNat 2 && !(ctxAt s c).held
/-- Teams of a COOP launch are all or none: some are placed and some are not. -/
def halfPlaced (s : State) (l : Nat) : Bool :=
  let ts := s.teams.filter fun t => t.launch == l
  flagCoop (s.launches.getD l default).record && ts.any (fun t => t.state == .dealt) && ts.any fun t => t.state != .dealt
/-- A die is power-gated (R368). -/
def dieGated (s : State) (d : Nat) : Bool := bit s.hub.pmGate.toNat d
/-- The core of a team that waits has room for it, and where COOP asks for it every core has room for all. -/
def teamFits (s : State) (t : Team) : Bool :=
  let r := recordOf s t
  let all := (s.teams.filter fun o => o.launch == t.launch).map (·.dealt)
  if dieGated s (dieOf s t.dealt) ∨ (flagCoop r ∧ all.any fun k => dieGated s (dieOf s k)) then false
  else if flagCoop r ∧ !halfPlaced s t.launch then all.dedup.all fun k => fits s k r (all.count k) else fits s t.dealt r 1
/-- The rank of a waiting team: PRI, then the order of the deal. -/
def teamRank (s : State) (i : Nat) : Nat := (3 - (s.launches.getD (s.teams.getD i default).launch default).pri) * 2 ^ 40 + i
/-- A waiting team that no earlier team of its core holds back, and that fits. -/
def placeable (s : State) (i : Nat) : Bool :=
  let t := s.teams.getD i default
  let waits (j : Nat) : Bool := let o := s.teams.getD j default; o.state == .dealt && mayPlace s (s.launches.getD o.launch default).ctx
  waits i && !((List.range s.teams.length).any fun j =>
      waits j && (s.teams.getD j default).dealt == t.dealt && teamRank s j < teamRank s i) &&
    !((List.range s.launches.length).any fun l => l != t.launch && halfPlaced s l) && teamFits s t

/-- Free positions of a quadrant of a core. -/
def freePos (s : State) (core q : Nat) : List Nat :=
  let used := (groupsIn s core q).map (·.pos)
  (List.range 16).filter fun p => !used.contains p
/-- Quadrant and position of each group of a team on a core. -/
def seats (s : State) (core groups : Nat) : List (Nat × Nat) :=
  (List.range groups).map fun g => (4 * physOf s core + g % 4, (freePos s core (g % 4)).getD (g / 4) 0)
/-- Fresh arrays for each quadrant. -/
def freshCims (r : Record) : List (List Cim) := List.replicate 4 (List.replicate (shareOf r.cims.toNat) freshCim)

/-- The team starts on its core: its groups, and for an image that failed its checks their traps (R69). -/
def placeTeam (s : State) (i : Nat) : State :=
  let t := s.teams.getD i default
  let l := s.launches.getD t.launch default
  let r := l.record
  let im := s.images.getD l.image default
  let lanes := if r.lanes = 0 then r.width.toNat * r.groups.toNat else r.lanes.toNat
  let n := s.groups.length
  let gs := (seats s t.dealt r.groups.toNat).zipIdx.map fun p =>
    freshGroup i p.2 p.1.1 p.1.2 r.width.toNat lanes im.va (im.va + im.sofs) l.image l.lambda
  let place (t : Team) : Team :=
    { t with
      state := .resident, core := t.dealt, groups := (List.range r.groups.toNat).map (n + ·), sram := [], rows := []
      cims := freshCims r, placed := s.cycle + 1 }
  let s := { s with groups := s.groups ++ gs }.modTeam i place
  match l.bad with
  | some c => (List.range r.groups.toNat).foldl (fun s g => scalarTrap s (n + g) (groupAt s (n + g)) c) s
  | none => s

/-- TEAM_PLACE: one team in a dc, the first that can be placed. -/
def execTeamPlace (i : Nat) (s : State) : Out :=
  if s.teams.any (fun t => t.placed == s.cycle + 1) ∨ !placeable s i ∨
      (List.range s.teams.length).any (fun j => placeable s j && teamRank s j < teamRank s i) then .next s
  else .next (placeTeam s i)

/-- The freed team SRAM of a core is cleared at 4096 bytes per dc (R266). -/
def startClear (s : State) (core n : Nat) : State :=
  if n = 0 then s else { s with clears := s.clears ++ [(core, n, s.now + ceilDiv n 4096)] }
def execSramClearDone (k : Nat) (s : State) : Out :=
  .next (if (s.clears[k]?).any fun c => c.2.2 ≤ s.now then { s with clears := s.clears.eraseIdx k } else s)

/-! ## Lane blocks (R24, R276) -/

/-- LANE_BLOCK_START: the oldest block of the queue starts, in single-path mode with every live lane; with none it ends at once. -/
def startBlock (g : Group) (b : Block) : Group :=
  let p : Path := { lpc := b.lofs, exec := liveLanes g, laneSet := liveLanes g, stack := [], look := [], arrived := false }
  let g := { g with block := some b, queue := g.queue.drop 1, p0 := p, p1 := none, llt := max g.llt b.lt, last1 := false, lwait := false }
  if liveLanes g = 0 then { g with block := none, lastExec := some 0, endLt := max g.endLt g.llt } else g
def execLaneBlockStart (gi : Nat) (s : State) : Out :=
  let g := groupAt s gi
  match g.queue with
  | b :: _ =>
    if g.block.isSome ∨ g.pend.isSome ∨ g.retired ∨ g.saved ∨ g.reached ∨ (requested s g ∧ g.frame.isNone) then .next s
    else .next (s.modGroup gi fun g => startBlock g b)
  | [] => .next s

/-! ## Barriers (R277, R278) -/

/-- The teams a barrier level of a team takes in. -/
def levelTeams (s : State) (ti level : Nat) : List Nat :=
  let t := s.teams.getD ti default
  match level with
  | 0 => [ti]
  | 1 => (List.range s.teams.length).filter fun j =>
      let o := s.teams.getD j default
      o.launch == t.launch && dieOf s o.dealt == dieOf s t.dealt && o.state != .retired
  | _ => (List.range s.teams.length).filter fun j => let o := s.teams.getD j default; o.launch == t.launch && o.state != .retired
/-- Every member has arrived: its teams are placed, and their groups stand in the list. -/
def allArrived (s : State) (ti level : Nat) (b : Barrier) : Bool :=
  !b.arrived.isEmpty && (levelTeams s ti level).all fun j =>
    let o := s.teams.getD j default
    !o.groups.isEmpty && o.groups.all fun gi => (groupAt s gi).retired || b.arrived.contains gi
def releaseBarrier (b : Barrier) : Barrier := { gen := b.gen + 1, arrived := [], lt := 0, rel := b.lt }

/-- BARRIER_RELEASE of a level: `t` is a team for level 0, a die for level 1. -/
def execBarrierRelease (l t level : Nat) (s : State) : Out :=
  let teams := (List.range s.teams.length).filter fun j =>
    let o := s.teams.getD j default
    o.launch == l && o.state != .retired && (match level with | 0 => j == t | 1 => dieOf s o.dealt == t | _ => true)
  match teams.head? with
  | none => .next s
  | some ti =>
    let g := { (default : Group) with team := ti }
    .next (if allArrived s ti level (barrierOf s g level) then modBarrier s g level releaseBarrier else s)

/-! ## The end of groups, teams and launches (R256, R276) -/

/-- A retiring member leaves each barrier; where every other member has arrived the release carries its lt too. -/
def leaveBarriers (s : State) (g : Group) : State :=
  [0, 1, 2].foldl (fun s level =>
    if allArrived s g.team level (barrierOf s g level) then modBarrier s g level fun b => { b with lt := max b.lt g.slt } else s) s

/-- Everything of a team goes with its last group (R33, R266). -/
def retireTeam (s : State) (ti : Nat) : State :=
  let t := s.teams.getD ti default
  let s := startClear s t.core (recordOf s t).sram.toNat
  let s := s.modTeam ti fun t => { t with state := .retired, sram := [], rows := [], chans := List.replicate 8 [], cims := [] }
  let forget (x : Ctx) : Ctx := { x with arrivals := x.arrivals.filter fun e => !(e.2.1.any fun p => p.1 == ti) }
  let s := { s with ctxs := s.ctxs.map forget }
  s.modLaunch t.launch fun l => { l with left := l.left - 1 }

/-- GROUP_RETIRE: the group's position, registers and engine contexts are free from now on. -/
def execGroupRetire (gi : Nat) (s : State) : Out :=
  let g := groupAt s gi
  if !g.exiting ∨ g.retired ∨ g.pend.isSome ∨ blocksOutstanding g ∨ s.sets.any (ofGroup gi) ∨ cmdsLeft g.copy ∨ cmdsLeft g.fabric ∨
      g.region.isSome then .next s
  else
    let s := s.modGroup gi fun g => { g with retired := true, exiting := false }
    let s := s.modLaunch (launchIx s g) fun l => { l with maxLt := max l.maxLt g.slt }
    let s := leaveBarriers s g
    .next (if (teamOf s g).groups.all fun k => (groupAt s k).retired then retireTeam s g.team else s)

/-- The launches that share a root, and their records still in the CP, are all retired (R348). -/
def familyDone (s : State) (root : Nat) : Bool :=
  (List.range s.launches.length).all (fun l => shadowRoot s l != root || (s.launches.getD l default).retired) &&
    !(s.built.any fun b => shadowRoot s b.launch == root)
/-- Shadows of finished launches are freed. -/
def freeFamily (s : State) (l : Nat) : State :=
  let root := shadowRoot s l
  if familyDone s root then freeShadows s (fun r _ => r == root) else s

/-- LAUNCH_RETIRE: STATUS, then the timeline (R256). -/
def execLaunchRetire (l : Nat) (s : State) : Out :=
  match s.launches[l]? with
  | none => .next s
  | some x =>
    if x.retired ∨ x.left ≠ 0 then .next s
    else
      let end_ (s : State) : State :=
        freeFamily (finishRecord (s.modLaunch l fun x => { x with retired := true }) x.ctx x.queue) l
      if x.builder.isSome then .next (end_ s)
      else match writeStatus s x.ctx x.recVa 1 with
        | .done s _ => .next (end_ s)
        | o => .next o.state

end Sys2Proof.Machine
end

