-- ==== Sys2Proof/Machine/Riscv.lean ====
section
/-! DEFINITION. The instructions of the marionette cores (R312): RV64IMAFDC with Zicsr, Zifencei, Zba and Zbb, in U mode. Their encodings
and results are those of the RISC-V unprivileged manual, which the specification names and does not repeat
(notes/assumptions/13.md): compressed words become full ones, and every result is a function of the operands. -/

namespace Sys2Proof.Machine

open Sys2Proof

/-! ## Fields of a full word -/

def rvOp (w : Nat) : Nat := w % 128
def rvRd (w : Nat) : Nat := bits w 11 7
def rvF3 (w : Nat) : Nat := bits w 14 12
def rvRs1 (w : Nat) : Nat := bits w 19 15
def rvRs2 (w : Nat) : Nat := bits w 24 20
def rvF7 (w : Nat) : Nat := bits w 31 25
def immI (w : Nat) : Int := signedOf 12 (w / 2 ^ 20)
def immS (w : Nat) : Int := signedOf 12 (rvF7 w * 32 + rvRd w)
def immB (w : Nat) : Int := signedOf 13 (bits w 31 31 * 4096 + bits w 7 7 * 2048 + bits w 30 25 * 32 + bits w 11 8 * 2)
def immU (w : Nat) : Int := signedOf 32 (w / 4096 * 4096)
def immJ (w : Nat) : Int := signedOf 21 (bits w 31 31 * 2 ^ 20 + bits w 19 12 * 4096 + bits w 20 20 * 2048 + bits w 30 21 * 2)

/-! ## Compressed words -/

def encI (op f3 rd rs1 imm : Nat) : Nat := op + rd * 2 ^ 7 + f3 * 2 ^ 12 + rs1 * 2 ^ 15 + imm % 4096 * 2 ^ 20
def encR (op f3 f7 rd rs1 rs2 : Nat) : Nat := op + rd * 2 ^ 7 + f3 * 2 ^ 12 + rs1 * 2 ^ 15 + rs2 * 2 ^ 20 + f7 * 2 ^ 25
def encS (op f3 rs1 rs2 imm : Nat) : Nat := encR op f3 (imm / 32 % 128) (imm % 32) rs1 rs2
def encB (f3 rs1 rs2 imm : Nat) : Nat :=
  0x63 + bits imm 11 11 * 2 ^ 7 + bits imm 4 1 * 2 ^ 8 + f3 * 2 ^ 12 + rs1 * 2 ^ 15 + rs2 * 2 ^ 20 + bits imm 10 5 * 2 ^ 25 +
    bits imm 12 12 * 2 ^ 31
def encJ (rd imm : Nat) : Nat :=
  0x6F + rd * 2 ^ 7 + bits imm 19 12 * 2 ^ 12 + bits imm 11 11 * 2 ^ 20 + bits imm 10 1 * 2 ^ 21 + bits imm 20 20 * 2 ^ 31

/-- Six bits of a compressed word, sign-extended to `n` bits. -/
def cImm (w n : Nat) : Nat := wrapInt n (signedOf 6 (bits w 12 12 * 32 + bits w 6 2))

/-- Quadrant 0. -/
def expand0 (w : Nat) : Option Nat :=
  let rd := 8 + bits w 4 2
  let rs := 8 + bits w 9 7
  let d := bits w 12 10 * 8 + bits w 6 5 * 64
  let h := bits w 12 10 * 8 + bits w 6 6 * 4 + bits w 5 5 * 64
  let sp := bits w 12 11 * 16 + bits w 10 7 * 64 + bits w 6 6 * 4 + bits w 5 5 * 8
  match w / 2 ^ 13 % 8 with
  | 0 => if sp = 0 then none else some (encI 0x13 0 rd 2 sp)
  | 1 => some (encI 0x07 3 rd rs d)
  | 2 => some (encI 0x03 2 rd rs h)
  | 3 => some (encI 0x03 3 rd rs d)
  | 5 => some (encS 0x27 3 rs rd d)
  | 6 => some (encS 0x23 2 rs rd h)
  | 7 => some (encS 0x23 3 rs rd d)
  | _ => none

/-- Quadrant 1. -/
def expand1 (w : Nat) : Option Nat :=
  let rd := bits w 11 7
  let r' := 8 + bits w 9 7
  let r2 := 8 + bits w 4 2
  let sh := bits w 12 12 * 32 + bits w 6 2
  let sp := bits w 12 12 * 512 + bits w 6 6 * 16 + bits w 5 5 * 64 + bits w 4 3 * 128 + bits w 2 2 * 32
  let j := bits w 12 12 * 2048 + bits w 11 11 * 16 + bits w 10 9 * 256 + bits w 8 8 * 1024 + bits w 7 7 * 64 + bits w 6 6 * 128 +
    bits w 5 3 * 2 + bits w 2 2 * 32
  let b := bits w 12 12 * 256 + bits w 11 10 * 8 + bits w 6 5 * 64 + bits w 4 3 * 2 + bits w 2 2 * 32
  match w / 2 ^ 13 % 8 with
  | 0 => some (encI 0x13 0 rd rd (cImm w 12))
  | 1 => if rd = 0 then none else some (encI 0x1B 0 rd rd (cImm w 12))
  | 2 => some (encI 0x13 0 rd 0 (cImm w 12))
  | 3 =>
    if sh = 0 then none
    else if rd = 2 then some (encI 0x13 0 2 2 (wrapInt 12 (signedOf 10 sp)))
    else some (0x37 + rd * 2 ^ 7 + cImm w 20 * 2 ^ 12)
  | 4 => match bits w 11 10 with
    | 0 => some (encI 0x13 5 r' r' sh)
    | 1 => some (encI 0x13 5 r' r' (0x400 + sh))
    | 2 => some (encI 0x13 7 r' r' (cImm w 12))
    | _ => match bits w 12 12, bits w 6 5 with
      | 0, 0 => some (encR 0x33 0 0x20 r' r' r2)
      | 0, 1 => some (encR 0x33 4 0 r' r' r2)
      | 0, 2 => some (encR 0x33 6 0 r' r' r2)
      | 0, _ => some (encR 0x33 7 0 r' r' r2)
      | _, 0 => some (encR 0x3B 0 0x20 r' r' r2)
      | _, 1 => some (encR 0x3B 0 0 r' r' r2)
      | _, _ => none
  | 5 => some (encJ 0 (wrapInt 21 (signedOf 12 j)))
  | 6 => some (encB 0 r' 0 (wrapInt 13 (signedOf 9 b)))
  | _ => some (encB 1 r' 0 (wrapInt 13 (signedOf 9 b)))

/-- Quadrant 2. -/
def expand2 (w : Nat) : Option Nat :=
  let rd := bits w 11 7
  let r2 := bits w 6 2
  let ld := bits w 12 12 * 32 + bits w 6 5 * 8 + bits w 4 2 * 64
  let lw := bits w 12 12 * 32 + bits w 6 4 * 4 + bits w 3 2 * 64
  let sd := bits w 12 10 * 8 + bits w 9 7 * 64
  let sw := bits w 12 9 * 4 + bits w 8 7 * 64
  match w / 2 ^ 13 % 8 with
  | 0 => some (encI 0x13 1 rd rd (bits w 12 12 * 32 + r2))
  | 1 => some (encI 0x07 3 rd 2 ld)
  | 2 => if rd = 0 then none else some (encI 0x03 2 rd 2 lw)
  | 3 => if rd = 0 then none else some (encI 0x03 3 rd 2 ld)
  | 4 =>
    if bits w 12 12 = 0 then
      (if r2 ≠ 0 then some (encR 0x33 0 0 rd 0 r2) else if rd = 0 then none else some (encI 0x67 0 0 rd 0))
    else if r2 ≠ 0 then some (encR 0x33 0 0 rd rd r2)
    else if rd = 0 then some 0x00100073
    else some (encI 0x67 0 1 rd 0)
  | 5 => some (encS 0x27 3 2 r2 sd)
  | 6 => some (encS 0x23 2 2 r2 sw)
  | _ => some (encS 0x23 3 2 r2 sd)

/-- The full word of a compressed one. -/
def expandC (w : Nat) : Option Nat :=
  match w % 4 with
  | 0 => expand0 w
  | 1 => expand1 w
  | 2 => expand2 w
  | _ => none

/-! ## Integer results -/

def sx (n v : Nat) : Word := sext64 n v
/-- Leading and trailing zeros and set bits of an n-bit value. -/
def leadZeros (n v : Nat) : Nat := if v = 0 then n else n - 1 - Nat.log2 v
def trailZeros (n v : Nat) : Nat := ((List.range n).find? fun i => bit v i).getD n
def popBits (n v : Nat) : Nat := ((List.range n).filter fun i => bit v i).length
def rotLeft (n v k : Nat) : Nat := let k := k % n; (v * 2 ^ k + v / 2 ^ (n - k)) % 2 ^ n
def rotRight (n v k : Nat) : Nat := rotLeft n v (n - k % n)
/-- Arithmetic shift right of an n-bit value. -/
def sraBits (n v k : Nat) : Nat := wrapInt n (signedOf n v / (2 ^ k : Nat))
/-- Each byte that is not 0 becomes 0xFF. -/
def orcB (v : Nat) : Nat := leNat ((leBytes 8 v).map fun b => if b = 0 then 0 else 0xFF)

/-- Signed quotient and remainder that round to zero, with the results of RISC-V for a divisor of 0 and for overflow. -/
def divS (n a b : Nat) : Nat :=
  if b % 2 ^ n = 0 then 2 ^ n - 1 else wrapInt n (Int.tdiv (signedOf n a) (signedOf n b))
def remS (n a b : Nat) : Nat := if b % 2 ^ n = 0 then a % 2 ^ n else wrapInt n (Int.tmod (signedOf n a) (signedOf n b))
def divU (n a b : Nat) : Nat := if b % 2 ^ n = 0 then 2 ^ n - 1 else a % 2 ^ n / (b % 2 ^ n)
def remU (n a b : Nat) : Nat := if b % 2 ^ n = 0 then a % 2 ^ n else a % 2 ^ n % (b % 2 ^ n)

/-- OP-IMM. -/
def rvOpImm (w : Nat) (x : Word) : Option Word :=
  let a := x.toNat
  let i := immI w
  let sh := bits w 25 20
  let f6 := w / 2 ^ 26
  let i12 := w / 2 ^ 20
  let v := wrapInt 64 i
  match rvF3 w with
  | 0 => some (w64 (a + v))
  | 1 =>
    if f6 = 0 then some (w64 (a * 2 ^ sh))
    else match i12 with
    | 0x600 => some (w64 (leadZeros 64 a))
    | 0x601 => some (w64 (trailZeros 64 a))
    | 0x602 => some (w64 (popBits 64 a))
    | 0x604 => some (sx 8 a)
    | 0x605 => some (sx 16 a)
    | _ => none
  | 2 => some (if x.toInt < i then 1 else 0)
  | 3 => some (if a < v then 1 else 0)
  | 4 => some (x ^^^ w64 v)
  | 5 =>
    if f6 = 0 then some (w64 (a / 2 ^ sh))
    else if f6 = 0x10 then some (w64 (sraBits 64 a sh))
    else if f6 = 0x18 then some (w64 (rotRight 64 a sh))
    else if i12 = 0x287 then some (w64 (orcB a))
    else if i12 = 0x6B8 then some (w64 (leNat (leBytes 8 a).reverse))
    else none
  | 6 => some (x ||| w64 v)
  | _ => some (x &&& w64 v)

/-- OP-IMM-32. -/
def rvOpImm32 (w : Nat) (x : Word) : Option Word :=
  let a := x.toNat % 2 ^ 32
  let sh := bits w 24 20
  match rvF3 w with
  | 0 => some (sx 32 (a + wrapInt 64 (immI w)))
  | 1 =>
    if rvF7 w = 0 then some (sx 32 (a * 2 ^ sh))
    else if w / 2 ^ 26 = 2 then some (w64 (a * 2 ^ bits w 25 20))
    else match w / 2 ^ 20 with
    | 0x600 => some (w64 (leadZeros 32 a))
    | 0x601 => some (w64 (trailZeros 32 a))
    | 0x602 => some (w64 (popBits 32 a))
    | _ => none
  | 5 =>
    if rvF7 w = 0 then some (sx 32 (a / 2 ^ sh))
    else if rvF7 w = 0x20 then some (sx 32 (sraBits 32 a sh))
    else if rvF7 w = 0x30 then some (sx 32 (rotRight 32 a sh))
    else none
  | _ => none

/-- OP. -/
def rvOpReg (w : Nat) (x y : Word) : Option Word :=
  let a := x.toNat
  let b := y.toNat
  let sh := b % 64
  match rvF7 w, rvF3 w with
  | 0, 0 => some (x + y)
  | 0, 1 => some (w64 (a * 2 ^ sh))
  | 0, 2 => some (if x.toInt < y.toInt then 1 else 0)
  | 0, 3 => some (if a < b then 1 else 0)
  | 0, 4 => some (x ^^^ y)
  | 0, 5 => some (w64 (a / 2 ^ sh))
  | 0, 6 => some (x ||| y)
  | 0, 7 => some (x &&& y)
  | 0x20, 0 => some (x - y)
  | 0x20, 4 => some (~~~(x ^^^ y))
  | 0x20, 5 => some (w64 (sraBits 64 a sh))
  | 0x20, 6 => some (x ||| ~~~y)
  | 0x20, 7 => some (x &&& ~~~y)
  | 1, 0 => some (x * y)
  | 1, 1 => some (w64 (wrapInt 128 (x.toInt * y.toInt) / 2 ^ 64))
  | 1, 2 => some (w64 (wrapInt 128 (x.toInt * (b : Int)) / 2 ^ 64))
  | 1, 3 => some (w64 (a * b / 2 ^ 64))
  | 1, 4 => some (w64 (divS 64 a b))
  | 1, 5 => some (w64 (divU 64 a b))
  | 1, 6 => some (w64 (remS 64 a b))
  | 1, 7 => some (w64 (remU 64 a b))
  | 0x10, 2 => some (w64 (2 * a + b))
  | 0x10, 4 => some (w64 (4 * a + b))
  | 0x10, 6 => some (w64 (8 * a + b))
  | 5, 4 => some (if x.toInt < y.toInt then x else y)
  | 5, 5 => some (if a < b then x else y)
  | 5, 6 => some (if x.toInt < y.toInt then y else x)
  | 5, 7 => some (if a < b then y else x)
  | 0x30, 1 => some (w64 (rotLeft 64 a sh))
  | 0x30, 5 => some (w64 (rotRight 64 a sh))
  | _, _ => none

/-- OP-32. -/
def rvOpReg32 (w : Nat) (x y : Word) : Option Word :=
  let a := x.toNat % 2 ^ 32
  let b := y.toNat % 2 ^ 32
  let sh := b % 32
  match rvF7 w, rvF3 w with
  | 0, 0 => some (sx 32 (a + b))
  | 0, 1 => some (sx 32 (a * 2 ^ sh))
  | 0, 5 => some (sx 32 (a / 2 ^ sh))
  | 0x20, 0 => some (sx 32 (a + 2 ^ 32 - b))
  | 0x20, 5 => some (sx 32 (sraBits 32 a sh))
  | 1, 0 => some (sx 32 (a * b))
  | 1, 4 => some (sx 32 (divS 32 a b))
  | 1, 5 => some (sx 32 (divU 32 a b))
  | 1, 6 => some (sx 32 (remS 32 a b))
  | 1, 7 => some (sx 32 (remU 32 a b))
  | 4, 0 => some (w64 (a + y.toNat))
  | 4, 4 => if rvRs2 w = 0 then some (w64 (a % 65536)) else none
  | 0x10, 2 => some (w64 (2 * a + y.toNat))
  | 0x10, 4 => some (w64 (4 * a + y.toNat))
  | 0x10, 6 => some (w64 (8 * a + y.toNat))
  | 0x30, 1 => some (sx 32 (rotLeft 32 a sh))
  | 0x30, 5 => some (sx 32 (rotRight 32 a sh))
  | _, _ => none

/-- A branch is taken; none where the word is no branch. -/
def rvBranch (w : Nat) (x y : Word) : Option Bool :=
  match rvF3 w with
  | 0 => some (x == y)
  | 1 => some (x != y)
  | 4 => some (x.toInt < y.toInt)
  | 5 => some (y.toInt ≤ x.toInt)
  | 6 => some (x.toNat < y.toNat)
  | 7 => some (y.toNat ≤ x.toNat)
  | _ => none

/-! ## Floating results -/

/-- Format and width of a word's `fmt` field. -/
def rvTy (fmt : Nat) : Option Ty := match fmt with | 0 => some .f32 | 1 => some .f64 | _ => none
/-- A register read in a format: a value of the lesser width is boxed in ones, and is the NaN otherwise. -/
def unbox (t : Ty) (v : Word) : Nat :=
  if t = .f32 then (if v.toNat / 2 ^ 32 = 2 ^ 32 - 1 then v.toNat % 2 ^ 32 else nanBits .f32) else v.toNat
def box (t : Ty) (b : Nat) : Word := if t = .f32 then w64 ((2 ^ 32 - 1) * 2 ^ 32 + b % 2 ^ 32) else w64 b
/-- The rounding mode of `rm`, or of frm; none where it is reserved. -/
def rvRm (rm frm : Nat) : Option Rm :=
  match (if rm = 7 then frm else rm) with
  | 0 => some .rne | 1 => some .rz | 2 => some .rdn | 3 => some .rup | 4 => some .rna | _ => none

/-- Flags: NV 16, DZ 8, OF 4, UF 2, NX 1. -/
def isSnan (t : Ty) (b : Nat) : Bool := (valueOf t b).isNan && b / 2 ^ ((fmtOf t).p - 1) % 2 == 0
def nvOf (t : Ty) (bs : List Nat) (r : Fv) : Nat :=
  if bs.any (isSnan t) || (r.isNan && bs.all fun b => !(valueOf t b).isNan) then 16 else 0
/-- Round a result once, with its OF, UF and NX. -/
def rvRound (t : Ty) (m : Rm) (x : Fv) : Nat × Nat :=
  let b := roundTo t m false 0 x
  match x with
  | .fin neg n e =>
    let f := fmtOf t
    let u : Int := (Nat.log2 n : Int) + e - f.p
    let free : Fv := .fin false (roundUnits m neg n e u 0) u
    let big := fvLt false (valueOf t (maxBits t)) free
    let exact := fvEq (valueOf t b) x
    let tiny := fvLt false free (.fin false 1 (1 - (f.bias : Int)))
    (b, if big then 5 else if exact then 0 else if tiny then 3 else 1)
  | _ => (b, 0)
def rvArith (t : Ty) (m : Rm) (bs : List Nat) (x : Fv) : Nat × Nat :=
  let r := rvRound t m x
  (r.1, r.2 ||| nvOf t bs x)

/-- a * b + c, each factor with its sign. -/
def rvFma (t : Ty) (m : Rm) (negP negC : Bool) (a b c : Nat) : Nat × Nat :=
  let x := valueOf t a
  let y := valueOf t b
  let z := valueOf t c
  let p := fvMul x y
  let p := if negP then p.neg else p
  let r := fvAdd m p (if negC then z.neg else z)
  let bad := !x.isNan && !y.isNan && p.isNan
  let o := rvArith t m [a, b, c] r
  (o.1, if bad then o.2 ||| 16 else o.2)

/-- FMIN and FMAX: a NaN gives way to a number. -/
def rvMinMax (t : Ty) (isMax : Bool) (a b : Nat) : Nat × Nat :=
  let x := valueOf t a
  let y := valueOf t b
  let fl := if isSnan t a || isSnan t b then 16 else 0
  if x.isNan && y.isNan then (nanBits t, fl)
  else if x.isNan then (b, fl)
  else if y.isNan then (a, fl)
  else if fvLt true x y then (if isMax then b else a, fl)
  else (if isMax then a else b, fl)

/-- FLE, FLT, FEQ by f3. -/
def rvCmp (t : Ty) (f3 a b : Nat) : Option (Nat × Nat) :=
  let x := valueOf t a
  let y := valueOf t b
  let some_ := x.isNan || y.isNan
  match f3 with
  | 0 => some (if some_ then 0 else (!fvLt false y x).toNat, if some_ then 16 else 0)
  | 1 => some (if some_ then 0 else (fvLt false x y).toNat, if some_ then 16 else 0)
  | 2 => some (if some_ then 0 else (fvEq x y).toNat, if isSnan t a || isSnan t b then 16 else 0)
  | _ => none

/-- A floating value to an integer of `n` bits: out of range it saturates, and a NaN gives the largest. -/
def rvToInt (n : Nat) (signed : Bool) (m : Rm) (x : Fv) : Nat × Nat :=
  let lo : Int := if signed then -(2 ^ (n - 1) : Nat) else 0
  let hi : Int := if signed then (2 ^ (n - 1) : Nat) - 1 else (2 ^ n : Nat) - 1
  match x with
  | .nan => (wrapInt n hi, 16)
  | .inf neg => (wrapInt n (if neg then lo else hi), 16)
  | .zero _ => (0, 0)
  | .fin neg k e =>
    let q : Int := (roundUnits m neg k e 0 0 : Nat)
    let v := if neg then -q else q
    if v < lo then (wrapInt n lo, 16)
    else if hi < v then (wrapInt n hi, 16)
    else (wrapInt n v, if v ≠ 0 ∧ fvEq (ofInt v) x then 0 else 1)

/-- FCLASS of RISC-V from the mask of R100. -/
def rvClass (t : Ty) (b : Nat) : Nat := let k := fclassBits t b; k / 4 + k % 4 * 256

/-- What a floating word gives: a floating register, an integer register, and the flags it raises. -/
inductive FpRes where
  | f (v : Word) (flags : Nat)
  | x (v : Word) (flags : Nat)
  deriving DecidableEq, Repr

/-- OP-FP, from its two floating registers, its integer register and frm. -/
def rvOpFp (w : Nat) (fa fb xa : Word) (frm : Nat) : Option FpRes :=
  match rvTy (rvF7 w % 4) with
  | none => none
  | some t =>
    let a := unbox t fa
    let b := unbox t fb
    let x := valueOf t a
    let y := valueOf t b
    let n := tyWidth t
    let half := 2 ^ (n - 1)
    let out (r : Nat × Nat) : FpRes := .f (box t r.1) r.2
    let rnd (k : Rm → FpRes) : Option FpRes := (rvRm (rvF3 w) frm).map k
    match rvF7 w / 4 with
    | 0 => rnd fun m => out (rvArith t m [a, b] (fvAdd m x y))
    | 1 => rnd fun m => out (rvArith t m [a, b] (fvAdd m x y.neg))
    | 2 => rnd fun m => out (rvArith t m [a, b] (fvMul x y))
    | 3 => rnd fun m =>
      let r := rvArith t m [a, b] (fvDiv x y)
      out (r.1, if (match x, y with | .fin _ _ _, .zero _ => true | _, _ => false) then r.2 ||| 8 else r.2)
    | 0xB => if rvRs2 w = 0 then rnd fun m => out (rvArith t m [a] (fvSqrt x)) else none
    | 4 => match rvF3 w with
      | 0 => some (out (a % half + b / half * half, 0))
      | 1 => some (out (a % half + (1 - b / half) * half, 0))
      | 2 => some (out (a % half + (a / half + b / half) % 2 * half, 0))
      | _ => none
    | 5 => if rvF3 w < 2 then some (out (rvMinMax t (rvF3 w == 1) a b)) else none
    | 8 => match t, rvRs2 w with
      | .f32, 1 =>
        let d := unbox .f64 fa
        rnd fun m => let r := rvRound .f32 m (valueOf .f64 d); out (r.1, if isSnan .f64 d then 16 else r.2)
      | .f64, 0 =>
        let d := unbox .f32 fa
        rnd fun m => let r := rvRound .f64 m (valueOf .f32 d); out (r.1, if isSnan .f32 d then 16 else r.2)
      | _, _ => none
    | 0x14 => (rvCmp t (rvF3 w) a b).map fun r => .x (w64 r.1) r.2
    | 0x18 =>
      let int (bits : Nat) (signed : Bool) (m : Rm) : FpRes := let r := rvToInt bits signed m x; .x (sx bits r.1) r.2
      match rvRs2 w with
      | 0 => rnd (int 32 true)
      | 1 => rnd (int 32 false)
      | 2 => rnd (int 64 true)
      | 3 => rnd (int 64 false)
      | _ => none
    | 0x1A =>
      let v := xa.toNat
      let from_ (i : Int) (m : Rm) : FpRes := out (rvRound t m (ofInt i))
      match rvRs2 w with
      | 0 => rnd (from_ (signedOf 32 v))
      | 1 => rnd (from_ ((v % 2 ^ 32 : Nat) : Int))
      | 2 => rnd (from_ (signedOf 64 v))
      | 3 => rnd (from_ (v : Int))
      | _ => none
    | 0x1C =>
      if rvRs2 w ≠ 0 then none
      else match rvF3 w with
      | 0 => some (.x (sx n fa.toNat) 0)
      | 1 => some (.x (w64 (rvClass t a)) 0)
      | _ => none
    | 0x1E => if rvRs2 w = 0 ∧ rvF3 w = 0 then some (.f (box t (xa.toNat % 2 ^ n)) 0) else none
    | _ => none

/-- The four fused multiply-adds. -/
def rvFused (w : Nat) (fa fb fc : Word) (frm : Nat) : Option FpRes :=
  match rvTy (bits w 26 25), rvRm (rvF3 w) frm with
  | some t, some m =>
    let negP := rvOp w = 0x4B ∨ rvOp w = 0x4F
    let negC := rvOp w = 0x47 ∨ rvOp w = 0x4F
    let r := rvFma t m negP negC (unbox t fa) (unbox t fb) (unbox t fc)
    some (.f (box t r.1) r.2)
  | _, _ => none

end Sys2Proof.Machine
end

