-- ==== Sys2Proof/Machine/Stages.lean ====
section
/-! DEFINITION. Marionette stages (R312 to R316, R323 to R327, R403): how an episode gets a stage and leaves it, what a stage's
instructions do, the mailbox CSRs, and the exceptions that end an episode. -/

namespace Sys2Proof.Machine

open Sys2Proof

/-! ## Assignment (R323, R324) -/

/-- Episodes that need a stage, as (context, episode), in the order they came to need it. -/
def needStage (s : State) : List (Nat × Nat) :=
  let all := (List.range s.ctxs.length).flatMap fun c => ((ctxAt s c).eps.filter fun x =>
    x.stage.isNone && (x.state == .start || x.state == .action)).map fun x => (x.seq, c, x.ix)
  (sortOn (fun t : Nat × Nat × Nat => t.1) all).map (·.2)
/-- The lowest EMPTY stage. -/
def emptyStage (s : State) : Option Nat := (List.range 512).find? fun k => (stageOr s k).state == .empty
/-- The WAITING stage whose IDLE episode has waited longest. -/
def evictable (s : State) : Option Stage :=
  (sortOn (·.since) (s.stages.filter fun y => y.state == .waiting && epState s y.ctx y.ep == .idle)).head?
/-- A stage is being saved to make room for the episode. -/
def roomComes (s : State) (x : Episode) : Bool := x.claim.any fun st => (stageOr s st).state == .saving

/-- A stage begins an episode at ENTRY, or loads its registers. -/
def beginStage (s : State) (st c e : Nat) (x : Episode) : State :=
  let w0 := x.wins.getD 0 (0, 0, 0)
  let y := { freshStage st with ctx := c, ep := e, lt := (stageOr s st).lt, since := s.now }
  let y := if x.saved then { y with state := .restoring }
    else { y with
      state := .running, pc := x.entry
      x := tset 0 (tset 0 (tset 0 [] 2 (w64 (w0.1 + w0.2.1))) 10 (w64 e)) 11 (w64 (recordVa s c e)) }
  changeEp (putStage s y) c e fun x => { x with stage := some st, claim := none }

/-- One episode is served: the lowest EMPTY stage, or room is made for it by saving the stage that has waited longest. -/
def serveEpisode (s : State) (t : Nat × Nat) : State :=
  match epAt s t.1 t.2 with
  | none => s
  | some x => match emptyStage s with
    | some st => beginStage s st t.1 t.2 x
    | none =>
      if roomComes s x then s
      else match evictable s with
        | some y => modEp (saveStage s y.ctx y.ep) t.1 t.2 fun x => { x with claim := some y.st }
        | none => s

def execStageAssign (s : State) : Out :=
  let s := flushAll s
  .next ((needStage s).foldl serveEpisode s)

/-- The saved registers of a stage: x1 to x31, pc, f0 to f31 (R319). -/
def savedBytes (y : Stage) : List Byte :=
  ((List.range 31).flatMap fun k => leBytes 8 (tget 0 y.x (k + 1)).toNat) ++ leBytes 8 y.pc.toNat ++
    ((List.range 32).flatMap fun k => leBytes 8 (tget 0 y.f k).toNat)

def execStageSaveDone (st : Nat) (s : State) : Out :=
  let s := flushAll s
  let y := stageOr s st
  if y.state ≠ .saving ∨ s.now < y.since + 300 ∨ storeParked s y.ctx y.ep then .next s
  else .next (recordStore s y.ctx y.ep 0x60 (leBytes 4 y.fcsr.toNat) fun s =>
    recordStore s y.ctx y.ep 0x200 (savedBytes y) fun s =>
      changeEp (putStage s { freshStage st with lt := (stageOr s st).lt }) y.ctx y.ep fun x => { x with stage := none, saved := true })

/-- Registers from the bytes of a record. -/
def restoreRegs (b : List Byte) (first n off : Nat) : Tab Word :=
  (List.range n).foldl (fun t k => tset 0 t (first + k) (w64 (field b (off + 8 * k) 8))) []

def execStageRestoreDone (st : Nat) (s : State) : Out :=
  let s := flushAll s
  let y := stageOr s st
  let va := recordVa s y.ctx y.ep
  if y.state ≠ .restoring ∨ s.now < y.since + 300 ∨ storeParked s y.ctx y.ep then .next s
  else match readAsParty s .cp y.ctx .read (.epCmd y.ctx y.ep (va + 0x60)) (va + 0x60) 0x3A0 with
    | .wait s => .next s
    | .fault s f _ => .next (issuerFault s (.epCmd y.ctx y.ep (va + 0x60)) f.cause f.level f.entry false)
    | .done s b =>
      let y := { stageOr s st with
        state := .running, since := s.now, x := restoreRegs b 1 31 0x1A0, pc := w64 (field b 0x298 8)
        f := restoreRegs b 0 32 0x2A0, fcsr := BitVec.ofNat 32 (field b 0 4 % 256) }
      .next (changeEp (putStage s y) y.ctx y.ep fun x => { x with saved := false })

def execStageResetDone (st : Nat) (s : State) : Out :=
  let s := flushAll s
  let y := stageOr s st
  .next (if y.state = .resetting ∧ y.since + 50 ≤ s.now then putStage s { freshStage st with lt := y.lt } else s)

/-! ## Accesses of a stage (R312, R316, R403) -/

/-- What a part of an instruction meets: it is done, it waits or is parked, or it raises an exception. -/
inductive Got (α : Type) where
  | ok (s : State) (v : α)
  | stop (s : State)
  | exc (mc : Nat)
  deriving Repr

/-- A translation or attraction fault parks the stage as engine 6 (R304, R316). -/
def parkStage (s : State) (st : Nat) (f : XFault) (va : Nat) (write fetch atomic : Bool) : State :=
  let y := stageOr s st
  let r := { newFault s f.cause va with
    engine := 6, access := accessByte write fetch atomic, level := BitVec.ofNat 8 f.level, entry := f.entry, who := BitVec.ofNat 8 st
    pcOrIx := BitVec.ofNat 32 y.ep, issuers := [.stage st va] }
  putStage (recordFault s y.ctx r) { y with state := .parked, since := s.now }

def stageWins (s : State) (st : Nat) : List (Nat × Nat × BitVec 3) :=
  let y := stageOr s st
  ((epAt s y.ctx y.ep).map (·.wins)).getD []

/-- Bytes a stage loads, from its core's data cache where they are held within their lease (R403). -/
def stageRead (s : State) (st a n : Nat) : Got (List Byte) :=
  if !windowAllows (stageWins s st) a n 0 then .exc 5
  else match readAsParty s (.stage st) (stageOr s st).ctx .read (.stage st a) a n with
  | .wait s => .stop s
  | .fault s f va => .stop (parkStage s st f va false false false)
  | .done s b => .ok s b

/-- The translation of an access that lies in one page, through the hub's inbound TLB and walker (R316, R403). -/
def stagePte (s : State) (st a n : Nat) (k : Xk) (atomic : Bool) : Got Word :=
  let p : Party := .stage st
  let c := (stageOr s st).ctx
  let park (s : State) (f : XFault) : Got Word := .stop (parkStage s st f a (k == .write) (k == .fetch) atomic)
  match tablesFor s p c k (.stage st a) a n with
  | .wait s => .stop s
  | .fault s f _ => park s f
  | .done s _ => match partyPte s p c a k with
    | .error f => park s f
    | .ok e => .ok (enterPte s p c a k) e
/-- One piece read where its line is held, past the cache `core`, into which it comes: its bytes and time. -/
def stageMiss (s : State) (st a core : Nat) (fetch : Bool) (x : Piece) : Got (List Byte × Nat) :=
  match readPieces s (.stage st) none none (.stage st a) (partyLt s (.stage st)) [x] with
  | .wait s => .stop s
  | .fault s f _ => .stop (parkStage s st f a false fetch false)
  | .done s r => .ok (if cacheable s x.pa x.pte && (heldLine s (x.pa / 128)).isNone then l1Install s core x.pa x.n none else s) r

def stageWrite (s : State) (st a : Nat) (bs : List Byte) : Got Unit :=
  if !windowAllows (stageWins s st) a bs.length 1 then .exc 7
  else match writeAsParty s (.stage st) (stageOr s st).ctx (.stage st a) a bs with
  | .wait s => .stop s
  | .fault s f va => .stop (parkStage s st f va true false false)
  | .done s _ => .ok s ()

/-- The number under which an AMO awaits its entry of a write queue. -/
def queuedFor (s : State) (tok pa : Nat) : Bool := s.wq.any fun e => e.who.any fun w => w.src == aid s && w.id == tok && w.k == pa
/-- A write of a read-modify-write that is performed at once: at the mirror first, where the page has one (R195). -/
def stageSwap (s : State) (st : Nat) (x : Piece) (op : BitVec 8) (ty : Ty) (data : Nat) : Got Nat :=
  let p : Party := .stage st
  let old := loadLe s.mem x.pa x.n
  let bs := leBytes x.n (atomApply op ty old data 0)
  let m := mirrorPiece s p (partyLt s p) x bs
  match m.2 with
  | none => .stop m.1
  | some f =>
    let r := performStore (noteHost m.1 x.pa x.n x.pte true) (partyCache p) x.pa x.n f [(x.pa, bs)]
    .ok (raiseLt r.1 p r.2) old

/-- An AMO or SC of a piece at `.pkg` scope (R161, R312): the old value. It goes through the write queue of its home slice, and is answered once
its entry is applied; where no queue stands before the page (a never-cached one, a pinned frame, the host's), and for an SC, whose reservation
is tested with its write, no entry is before it and its own is applied at once. -/
def stageAtomic (s : State) (st a : Nat) (x : Piece) (op : BitVec 8) (ty : Ty) (data : Nat) (once : Bool) : Got Nat :=
  let p : Party := .stage st
  let tok := partyTok p
  let who : Issuer := .stage st a
  let fail (s : State) (c : Cause) : Got Nat := .stop (parkStage s st ⟨c, 0, 0⟩ a true false true)
  let fin (s : State) (time v : Nat) : Got Nat := .ok (askDone (raiseLt s p time) (pageOf x.pa) who) v
  if queuedFor s tok x.pa then .stop s
  else if (answerTo s tok x.pa).isSome ∧ !mirrorAsked s p x then
    match remotePiece s p x op ty data 0 (partyLt s p) true with
    | .wait s => .stop s
    | .fault s f _ => fail s f.cause
    | .done s (some r) => match answerTo s tok x.pa with
      | some e => fin (forgetAsk s tok x.pa e) r.2 (r.1.headD 0)
      | none => .stop s
    | .done s none => .stop s
  else if mirrorAsked s p x then (if (answerTo s tok x.pa).isSome then stageSwap s st x op ty data else .stop s)
  else
    let s := fillHere (touchHere s (pageOf x.pa) x.pte) x.pte x.pa
    match writePlace s none x.pte false x.pa x.n who with
    | .wait s => .stop (pickWays s)
    | .remote => match remotePiece s p x op ty data 0 (partyLt s p) true with
      | .wait s => .stop s
      | .fault s f _ => fail s f.cause
      | .done s _ => .stop s
    | .here => match poisonAt s (x.pa / 128) with
      | some c => fail s c
      | none =>
        if once ∨ neverCached x.pte ∨ (pinCoreOf s (pageOf x.pa)).isSome ∨ !devicePage (pageOf x.pa) then stageSwap s st x op ty data
        else .stop (enqueue s (op + 0x40) ty true (x.pa / 128) x.pa x.n (partyLt s p)
          [{ acc := 0, pa := x.pa, n := x.n, data := data, cmp := 0 }] { src := aid s, id := tok, k := x.pa }).1

def stageAmo (s : State) (st a n : Nat) (op : BitVec 8) (ty : Ty) (data : Nat) : Got Nat :=
  if a % n ≠ 0 then .exc 6
  else if !windowAllows (stageWins s st) a n 1 then .exc 7
  else match stagePte s st a n .write true with
  | .ok s e => stageAtomic s st a { pa := podAddr e a, n := n, pte := e } op ty data false
  | .stop s => .stop s
  | .exc m => .exc m

/-- LR: the load, made where the line is held, and a reservation on its line (R312). -/
def stageLr (s : State) (st a n : Nat) : Got Nat :=
  if a % n ≠ 0 then .exc 4
  else if !windowAllows (stageWins s st) a n 0 then .exc 5
  else match stagePte s st a n .read false with
  | .ok s e =>
    let pa := podAddr e a
    match stageMiss s st a (dataCache st) false { pa := pa, n := n, pte := e } with
    | .ok s r =>
      let line := if !devicePage (pageOf pa) || readableHere s (pageOf pa) then some (pa / 128) else none
      .ok (putStage (raiseLt s (.stage st) r.2) { stageOr (raiseLt s (.stage st) r.2) st with resv := line }) (leNat r.1)
    | .stop s => .stop s
    | .exc m => .exc m
  | .stop s => .stop s
  | .exc m => .exc m

/-- SC: a swap while the reservation stands; 0 where it stored. -/
def stageSc (s : State) (st a n data : Nat) : Got Nat :=
  let unreserve (s : State) : State := putStage s { stageOr s st with resv := none }
  if a % n ≠ 0 then .exc 6
  else if !windowAllows (stageWins s st) a n 1 then .exc 7
  else match stagePte s st a n .write true with
  | .ok s e =>
    let x : Piece := { pa := podAddr e a, n := n, pte := e }
    let tok := partyTok (.stage st)
    let begun := mirrorAsked s (.stage st) x || (answerTo s tok x.pa).isSome || s.net.any (askedFor tok x.pa)
    if (stageOr s st).resv ≠ some (x.pa / 128) ∧ !begun then .ok (unreserve s) 1
    else match stageAtomic s st a x 6 (if n = 8 then .n64 else .n32) data true with
      | .ok s _ => .ok (unreserve s) 0
      | o => o
  | .stop s => .stop s
  | .exc m => .exc m

/-- Two bytes fetched, through the core's instruction cache (R312): until FENCE.I a fetch may find what an earlier one brought there. -/
def fetchHalf (s : State) (st a : Nat) : Got Nat :=
  let got (s : State) (b : List Byte) : Got Nat :=
    let y := stageOr s st
    .ok (putStage s { y with fetchBuf := tput (a + 1) (b.getD 1 0) (tput a (b.getD 0 0) y.fetchBuf) }) (leNat b)
  if !windowAllows (stageWins s st) a 2 2 then .exc 1
  else match stagePte s st a 2 .fetch false with
  | .ok s e =>
    let pa := podAddr e a
    let held := (l1Find s (codeCache st) (pa / 128)).filter fun l => l.valid &&& wordMask pa 2 == wordMask pa 2
    let s := s.modHub fun h => { h with draws := h.draws + 1 }
    match held.filter fun _ => Config.stalePick s.hub.draws with
    | some l => got s ((List.range 2).map fun k => byteAt l.bytes (pa % 128 + k))
    | none => match stageMiss s st a (codeCache st) true { pa := pa, n := 2, pte := e } with
      | .ok s r => got s r.1
      | .stop s => .stop s
      | .exc m => .exc m
  | .stop s => .stop s
  | .exc m => .exc m

/-- The next word of a stage, expanded, and its length in bytes; 0 stands for no instruction. -/
def stageFetch (s : State) (st : Nat) : Got (Nat × Nat) :=
  let pc := (stageOr s st).pc.toNat
  let s := putStage s { stageOr s st with fetchBuf := [] }
  match fetchHalf s st pc with
  | .ok s h =>
    if h % 4 ≠ 3 then .ok s ((expandC h).getD 0, 2)
    else match fetchHalf s st (pc + 2) with
      | .ok s k => .ok s (h + 65536 * k, 4)
      | .stop s => .stop s
      | .exc m => .exc m
  | .stop s => .stop s
  | .exc m => .exc m

/-! ## Registers and completion -/

def xr (y : Stage) (r : Nat) : Word := if r = 0 then 0 else tget 0 y.x r
def fr (y : Stage) (r : Nat) : Word := tget 0 y.f r
def setX (y : Stage) (r : Nat) (v : Word) : Stage := if r = 0 then y else { y with x := tset 0 y.x r v }
def setF (y : Stage) (r : Nat) (v : Word) : Stage := { y with f := tset 0 y.f r v }
def raiseFlags (y : Stage) (k : Nat) : Stage := { y with fcsr := y.fcsr ||| BitVec.ofNat 32 k }

/-- The instruction of length `n` is done, with `v` in register `rd`. -/
def doneX (s : State) (st n rd : Nat) (v : Word) : Got Unit :=
  let y := stageOr s st
  .ok (putStage s { setX y rd v with pc := y.pc + w64 n }) ()
def doneJump (s : State) (st rd : Nat) (link pc : Word) : Got Unit :=
  .ok (putStage s { setX (stageOr s st) rd link with pc := pc }) ()
def doneF (s : State) (st n rd : Nat) (v : Word) : Got Unit :=
  let y := stageOr s st
  .ok (putStage s { setF y rd v with pc := y.pc + w64 n }) ()
/-- A result that may be missing: the word is then illegal. -/
def orIllegal (v : Option Word) (k : Word → Got Unit) : Got Unit :=
  match v with | some x => k x | none => .exc 2

/-! ## Mailbox CSRs (R325 to R327) -/

/-- mbx_act: the action's length, once its bytes stand in the record (R326), or a block. -/
def actRead (s : State) (st n rd : Nat) : Got Unit :=
  let y := stageOr s st
  match epAt s y.ctx y.ep with
  | none => .stop s
  | some x =>
    let give (s : State) : Got Unit := doneX s st n rd (w64 x.alen)
    match x.state with
    | .stepping => give s
    | .action =>
      if x.dirty then .stop s else
      let s := changeEp s y.ctx y.ep fun x => { x with state := .stepping, dog := 0, dogOn := true, since := s.now }
      give (raiseLt (putStage s { stageOr s st with state := .running }) (.stage st) x.lt)
    | _ =>
      let s := modEp s y.ctx y.ep fun x => if x.state = .idle then { x with dog := 0, dogOn := false } else x
      .stop (if y.state = .waiting then s else putStage s { y with state := .waiting, since := s.now })

/-- mbx_stat keeps USTAT, DONE and REWARD. -/
def statMask : Word := 0xFFFFFFFF000001FF

/-- A CSR word: `f3`, number, the operand, and whether it writes. -/
def csrWord (s : State) (st w n : Nat) : Got Unit :=
  let y := stageOr s st
  let f3 := rvF3 w
  let v := if 4 ≤ f3 then w64 (rvRs1 w) else xr y (rvRs1 w)
  let writes : Bool := f3 % 4 = 1 ∨ rvRs1 w ≠ 0
  let rd := rvRd w
  let new (old : Word) : Word := match f3 % 4 with | 1 => v | 2 => old ||| v | _ => old &&& ~~~v
  let fcsr (old : Nat) (put : Nat → Nat) : Got Unit :=
    let s := if writes then putStage s { y with fcsr := BitVec.ofNat 32 (put (new (w64 old)).toNat) } else s
    doneX s st n rd (w64 old)
  let f := y.fcsr.toNat
  match w / 2 ^ 20, epAt s y.ctx y.ep with
  | 0x001, _ => fcsr (f % 32) fun k => f / 32 * 32 + k % 32
  | 0x002, _ => fcsr (f / 32 % 8) fun k => f % 32 + k % 8 * 32
  | 0x003, _ => fcsr (f % 256) fun k => k % 256
  | 0x800, _ => if writes then .exc 2 else actRead s st n rd
  | 0x801, some x => if writes then .exc 2 else doneX s st n rd (x.step.setWidth 64)
  | 0x802, some x => if writes then .exc 2 else doneX s st n rd (x.gen.setWidth 64)
  | 0x803, some _ =>
    if !writes then doneX s st n rd 0
    else if !(arrived s y.ctx (s.now - 1)).isEmpty then .stop s
    else match doneX s st n rd 0 with
      | .ok s _ => .ok (obsWrite s y.ctx y.ep (new 0)) ()
      | o => o
  | 0x804, some x =>
    let s := if writes then modEp s y.ctx y.ep fun x => { x with stat := new x.stat &&& statMask } else s
    doneX s st n rd x.stat
  | _, _ => .exc 2

/-! ## Instructions (R312, R313) -/

/-- A load into an integer register. -/
def loadWord (s : State) (st w n : Nat) (a : Word) : Got Unit :=
  let size := 2 ^ (rvF3 w % 4)
  if rvF3 w = 7 then .exc 2
  else match stageRead s st a.toNat size with
  | .ok s b => doneX s st n (rvRd w) (if rvF3 w < 4 then sx (8 * size) (leNat b) else w64 (leNat b))
  | .stop s => .stop s
  | .exc m => .exc m
def storeWord (s : State) (st n : Nat) (a : Word) (size v : Nat) : Got Unit :=
  match stageWrite s st a.toNat (leBytes size v) with
  | .ok s _ => doneX s st n 0 0
  | o => o

/-- The AMOs, LR and SC. -/
def amoWord (s : State) (st w n : Nat) : Got Unit :=
  let y := stageOr s st
  let a := (xr y (rvRs1 w)).toNat
  let data := (xr y (rvRs2 w)).toNat
  let size := if rvF3 w = 3 then 8 else 4
  let back (r : Got Nat) (raw : Bool) : Got Unit :=
    match r with
    | .ok s v => doneX s st n (rvRd w) (if raw then w64 v else sx (8 * size) v)
    | .stop s => .stop s
    | .exc m => .exc m
  let sty : Ty := if size = 8 then .i64 else .i32
  let uty : Ty := if size = 8 then .n64 else .n32
  let amo (op : BitVec 8) (ty : Ty) : Got Unit := back (stageAmo s st a size op ty (data % 2 ^ (8 * size))) false
  if rvF3 w ≠ 2 ∧ rvF3 w ≠ 3 then .exc 2
  else match w / 2 ^ 27 with
  | 2 => if rvRs2 w = 0 then back (stageLr s st a size) false else .exc 2
  | 3 => back (stageSc s st a size (data % 2 ^ (8 * size))) true
  | 1 => amo 6 uty
  | 0 => amo 0 uty
  | 4 => amo 5 uty
  | 0xC => amo 3 uty
  | 8 => amo 4 uty
  | 0x10 => amo 1 sty
  | 0x14 => amo 2 sty
  | 0x18 => amo 1 uty
  | 0x1C => amo 2 uty
  | _ => .exc 2

/-- A floating result is written, with its flags. -/
def fpDone (s : State) (st n rd : Nat) (r : Option FpRes) : Got Unit :=
  match r with
  | none => .exc 2
  | some (.f v k) => doneF (putStage s (raiseFlags (stageOr s st) k)) st n rd v
  | some (.x v k) => doneX (putStage s (raiseFlags (stageOr s st) k)) st n rd v

/-- One U-mode instruction of `n` bytes. -/
def stageExec (s : State) (st w n : Nat) : Got Unit :=
  let y := stageOr s st
  let a := xr y (rvRs1 w)
  let b := xr y (rvRs2 w)
  let rd := rvRd w
  let put (v : Option Word) : Got Unit := orIllegal v (doneX s st n rd)
  let off (i : Int) : Word := a + w64 (wrapInt 64 i)
  let rel (i : Int) : Word := y.pc + w64 (wrapInt 64 i)
  let frm := y.fcsr.toNat / 32 % 8
  match rvOp w with
  | 0x13 => put (rvOpImm w a)
  | 0x1B => put (rvOpImm32 w a)
  | 0x33 => put (rvOpReg w a b)
  | 0x3B => put (rvOpReg32 w a b)
  | 0x37 => put (some (w64 (wrapInt 64 (immU w))))
  | 0x17 => put (some (rel (immU w)))
  | 0x6F => doneJump s st rd (y.pc + w64 n) (rel (immJ w))
  | 0x67 => if rvF3 w = 0 then doneJump s st rd (y.pc + w64 n) (off (immI w) &&& ~~~1#64) else .exc 2
  | 0x63 => match rvBranch w a b with
    | some t => if t then doneJump s st 0 0 (rel (immB w)) else doneX s st n 0 0
    | none => .exc 2
  | 0x03 => loadWord s st w n (off (immI w))
  | 0x23 => if rvF3 w < 4 then storeWord s st n (off (immS w)) (2 ^ rvF3 w) b.toNat else .exc 2
  | 0x2F => amoWord s st w n
  | 0x0F => match rvF3 w with
    | 0 => doneX s st n 0 0
    | 1 => doneX { s with l1 := s.l1.filter fun l => l.core != codeCache st } st n 0 0
    | _ => .exc 2
  | 0x07 =>
    let size := 2 ^ rvF3 w
    if rvF3 w ≠ 2 ∧ rvF3 w ≠ 3 then .exc 2
    else match stageRead s st (off (immI w)).toNat size with
    | .ok s v => doneF s st n rd (box (if size = 4 then .f32 else .f64) (leNat v))
    | .stop s => .stop s
    | .exc m => .exc m
  | 0x27 => if rvF3 w = 2 ∨ rvF3 w = 3 then storeWord s st n (off (immS w)) (2 ^ rvF3 w) (fr y (rvRs2 w)).toNat else .exc 2
  | 0x53 => fpDone s st n rd (rvOpFp w (fr y (rvRs1 w)) (fr y (rvRs2 w)) a frm)
  | 0x43 | 0x47 | 0x4B | 0x4F => fpDone s st n rd (rvFused w (fr y (rvRs1 w)) (fr y (rvRs2 w)) (fr y (w / 2 ^ 27)) frm)
  | 0x73 =>
    if rvF3 w = 0 then .exc (if w = 0x73 then 8 else if w = 0x100073 then 3 else 2)
    else if rvF3 w = 4 then .exc 2
    else csrWord s st w n
  | _ => .exc 2

/-! ## Exceptions (R314) -/

/-- A U-mode exception ends the episode: MCAUSE and MEPC go to its record. -/
def stageFault (s : State) (st mc : Nat) : State :=
  let y := stageOr s st
  endEpisode (modEp s y.ctx y.ep fun x => { x with mcause := w64 mc, mepc := y.pc }) y.ctx y.ep 3 .ended

/-! ## Issue (R313, R327) -/

/-- The stage runs, and its watchdog has not expired in an earlier hc (R327, R333). -/
def stageMayIssue (s : State) (st : Nat) : Bool :=
  let y := stageOr s st
  y.state == .running && (epAt s y.ctx y.ep).any fun x => !(x.dogOn && x.budget + 2 ≤ x.dog)

/-- The first fetch at ENTRY starts the watchdog (R327). -/
def startDog (s : State) (st : Nat) : State :=
  let y := stageOr s st
  modEp s y.ctx y.ep fun x => if x.state = .start ∧ !x.dogOn then { x with dog := 0, dogOn := true } else x

/-- The stages of a core that may issue, from the one after the last that issued. -/
def coreOrder (s : State) (k : Nat) : List Nat :=
  let last := tget 3 s.coreRr k
  ((List.range 4).map fun j => (last + 1 + j) % 4).filter fun j => stageMayIssue s (4 * k + j)
/-- A stage issues its next instruction, where it is the core's next and the instruction meets a test. -/
def issueIf (s : State) (st : Nat) (p : Nat → Bool) : State :=
  if (coreOrder s (st / 4)).head? ≠ some (st % 4) then s
  else
    let s0 := s
    let s := startDog { s with coreRr := tset 3 s.coreRr (st / 4) (st % 4) } st
    match stageFetch s st with
    | .stop s => s
    | .exc m => if p 0 then stageFault s st m else s0
    | .ok s (w, n) =>
      if !p w then s0
      else match stageExec s st w n with
        | .ok s _ => s
        | .stop s => s
        | .exc m => stageFault s st m

/-- STAGE_INSTRUCTION_ISSUE. -/
def execStageInstructionIssue (k : Nat) (s : State) : Out :=
  let s := flushAll s
  match coreOrder s k with
  | [] => .next s
  | j :: _ => .next (issueIf s (4 * k + j) fun _ => true)

/-- A CSR word on a register: its number, rd and f3. -/
def isCsr (num w : Nat) : Bool := rvOp w == 0x73 && rvF3 w % 4 != 0 && w / 2 ^ 20 == num
/-- The operand of a CSR word. -/
def csrOperand (s : State) (st w : Nat) : Word := if 4 ≤ rvF3 w then w64 (rvRs1 w) else xr (stageOr s st) (rvRs1 w)

/-- MBX_ACT_READ: a WAITING stage's read returns 20 dc after the action was accepted; a RUNNING stage's read issues. -/
def execMbxActRead (st rd : Nat) (s : State) : Out :=
  let s := flushAll s
  let y := stageOr s st
  if y.state = .waiting then
    let w := leNat ((List.range 4).map fun k => (y.fetchBuf.lookup (y.pc.toNat + k)).getD 0)
    match epAt s y.ctx y.ep with
    | some x => if x.state = .action ∧ !x.dirty ∧ x.since + 20 ≤ s.now ∧ rvRd w = rd then
        .next (match actRead s st 4 rd with | .ok s _ => s | .stop s => s | .exc _ => s)
      else .next s
    | none => .next s
  else .next (issueIf s st fun w => isCsr 0x800 w && rvRd w == rd)

def execMbxStepRead (st rd : Nat) (s : State) : Out := .next (issueIf (flushAll s) st fun w => isCsr 0x801 w && rvRd w == rd)
def execMbxGenRead (st rd : Nat) (s : State) : Out := .next (issueIf (flushAll s) st fun w => isCsr 0x802 w && rvRd w == rd)
def execMbxStatAccess (st rd f : Nat) (v : Word) (s : State) : Out :=
  let s := flushAll s
  .next (issueIf s st fun w => isCsr 0x804 w && rvRd w == rd && rvF3 w == f && csrOperand s st w == v)
def execMbxObsWrite (st : Nat) (v : Word) (s : State) : Out :=
  let s := flushAll s
  .next (issueIf s st fun w => isCsr 0x803 w && (rvF3 w % 4 == 1 || rvRs1 w != 0) && csrOperand s st w == v)

/-- EPISODE_FAULT: the current instruction raises exception `mc` at pc `v`. -/
def execEpisodeFault (st mc : Nat) (v : Word) (s : State) : Out :=
  let s := flushAll s
  let y := stageOr s st
  if (coreOrder s (st / 4)).head? ≠ some (st % 4) ∨ y.pc ≠ v then .next s
  else
    let t := startDog { s with coreRr := tset 3 s.coreRr (st / 4) (st % 4) } st
    match stageFetch t st with
    | .stop _ => .next s
    | .exc m => .next (if m = mc then stageFault t st m else s)
    | .ok t (w, n) => match stageExec t st w n with
      | .exc m => .next (if m = mc then stageFault t st m else s)
      | _ => .next s

end Sys2Proof.Machine
end

