-- ==== Sys2Proof/Machine/Recovery.lean ====
section
/-! DEFINITION. Recovery (10 R291, R292; 13): counters that run out, the delivery of traps, slot tables, pre-emption with its team images,
resume, checkpoints, launch rollback and strike reports. -/

namespace Sys2Proof.Machine

open Sys2Proof

/-! ## Counters that run out (R291, R292) -/

/-- WATCHDOG: the progress counter has reached its period; no trap changes the count (R293). -/
def execWatchdog (gi : Nat) (s : State) : Out :=
  let g := groupAt s gi
  if !mayCount s g ∨ reachesFirst s gi g (duePath g) ∨ g.prog < dogPeriod s g then .next s
  else .next (laneTrap s gi g (duePath g) Tc.watchdog (allMasks g))

/-- SAFEPOINT_GAP: 4096 words have issued since the last safe point and another is due. -/
def execSafepointGap (gi : Nat) (s : State) : Out :=
  let g := groupAt s gi
  if !mayCount s g ∨ reachesFirst s gi g (duePath g) ∨ g.gap < 4096 ∨ !laneMayRun s g (duePath g) then .next s
  else .next (laneTrap s gi g (duePath g) Tc.safepointGap)

/-! ## Traps that waited (R335) -/

/-- A climb for a page that no access set waits for. -/
def climbFree (s : State) (pa : Nat) (pte : Word) : State :=
  if s.am.climbs.any fun c => c.gpn == pageOf pa then s
  else
    let s := startClimb s (pageOf pa) (pa / 128) pte (.set s.nextSet)
    { s with nextSet := s.nextSet + 1 }

/-- The number under which group `gi` reads the pages of its handler that are never cached. -/
def handlerTok (gi : Nat) : Nat := noSet + 2 ^ 41 + gi
/-- What a page of a handler's path sets going where it is away: a walk, a climb, or, for a page that is never cached, a read of it at its master
(notes/assumptions/14.md). -/
def bringHandler (s : State) (gi core c : Nat) (p : Nat × Nat × Word) : State :=
  let (va, pa, pte) := p
  let gpn := pageOf pa
  let tok := handlerTok gi
  if pte = 0 then
    let w := joinWalk s (core / 36) c va
    if w.2 then climbFree w.1 pa 0 else w.1
  else if !neverCached pte then climbFree s pa pte
  else match answerTo s tok gpn with
  | some e => match e.msg with
    | .remoteAns _ _ _ got _ _ _ =>
      let cells := ((fetchAccs 0 65536 (65536 * gpn) pte).zip got).foldl (fun m x => setBytes m x.1.pa (leBytes x.1.n x.2)) []
      { s with net := s.net.erase e, ibuf := (gpn, cells) :: s.ibuf }
    | _ => s
  | none =>
    if s.net.any (askedFor tok gpn) then s
    else
      let parts := (fetchAccs 0 65536 (65536 * gpn) pte).map fun x => { acc := 0, pa := x.pa, n := x.n, data := 0, cmp := 0 : Part }
      send s (homeAid s gpn) (.remote tok gpn 0xF0 .b32 parts 0 false true (pteMirr pte))
/-- A handler that cannot be read here yet: what comes is set going. -/
def handlerComes (s : State) (gi core c : Nat) (cause : Cause) : Option State :=
  match handlerAway s core c cause with
  | some p => some (bringHandler s gi core c p)
  | none => if handlerReady s core c cause then none else some s

/-- TRAP_DELIVERY: every earlier word has completed; the handler comes here first where it is elsewhere. -/
def execTrapDelivery (gi : Nat) (s : State) : Out :=
  let g := groupAt s gi
  match g.pend with
  | none => .next s
  | some p =>
    if g.retired ∨ !quiescent s gi then .next s
    else match handlerComes s gi (g.quad / 4) (ctxIx s g) p.cause with
      | some s => .next s
      | none => .next { takeTrap s gi p with ibuf := [] }

/-! ## Slot tables (R269) -/

/-- A write of CSL_COMMIT: the quadrants named wait, with the CYCLE of the write. -/
def writeCsl (s : State) (v : Word) : State :=
  let n := v.toNat
  let qs := if bit n 9 then List.range 288 else if n % 512 < 288 then [n % 512] else []
  s.modHub fun h => { h with cslReq := h.cslReq ++ qs.map fun q => q + 512 * s.cycle }
def execCslCommit (v : Word) (s : State) : Out := .next (writeCsl s v)

/-- The active table of a quadrant becomes its staged one. -/
def copySlots (h : Hub) (q : Nat) : Hub :=
  { h with active := (List.range 64).foldl (fun t e => tset 0 t (64 * q + e) (tget 0 h.staged (64 * q + e))) h.active }
/-- The copies whose dc has come: the first after the write with CYCLE mod 64 = 0. -/
def applyCsl (s : State) : State :=
  let due (r : Nat) : Bool := 64 * (r / 512 / 64 + 1) ≤ s.cycle
  s.modHub fun h => { ((h.cslReq.filter due).map (· % 512)).foldl copySlots h with cslReq := h.cslReq.filter fun r => !due r }
def execCslCommitApply (s : State) : Out := .next (applyCsl s)

/-! ## Team images (R344) -/

def slotCount (s : State) (c : Nat) : Nat := (ctxAt s c).save.toNat % 4096
def slotBytes (s : State) (c : Nat) : Nat := 65536 * ((ctxAt s c).savesz.toNat % 65536)
/-- The device VA of a save slot. -/
def slotVa (s : State) (c k : Nat) : Nat := (ctxAt s c).save.toNat / 65536 * 65536 + k * slotBytes s c
def teamAt (s : State) (t : Nat) : Team := s.teams.getD t default
def teamCtx (s : State) (t : Nat) : Nat := (s.launches.getD (teamAt s t).launch default).ctx

/-- Bytes of one group's software area; the offsets of the software and macro areas and of team SRAM; the image's bytes. -/
def softBytes (r : Record) : Nat := 4096 * ceilDiv (r.width.toNat * (4 * r.regs.toNat + 1) + 384) 4096
def softAt (r : Record) : Nat := 0x1000 + 0x2000 * r.groups.toNat
def macroAt (r : Record) : Nat := softAt r + softBytes r * r.groups.toNat
def sramAt (r : Record) : Nat := macroAt r + 0x40000 * shareOf r.cims.toNat
def imageBytes (r : Record) : Nat := sramAt r + 4096 * ceilDiv r.sram.toNat 4096

/-- Save slots that teams of a context hold. -/
def slotsHeld (s : State) (c : Nat) : List Nat :=
  (teamsOfCtx s c).filterMap fun t => let x := teamAt s t
    if x.request.isSome ∨ x.state = .saving ∨ x.state = .out then some x.slot else none
/-- A free slot for a team's image; none where the CP never pre-empts the team (R343). -/
def freeSlotFor (s : State) (t : Nat) : Option Nat :=
  let c := teamCtx s t
  if slotBytes s c < imageBytes (recordOf s (teamAt s t)) then none
  else (List.range (slotCount s c - 1)).find? fun k => !(slotsHeld s c).contains k

/-- The request, with the slot that will take the image. -/
def requestTeam (s : State) (t : Nat) : State :=
  match freeSlotFor s t with
  | some k => s.modTeam t fun x => { x with request := some s.now, slot := k }
  | none => s
def mayRequest (s : State) (t : Nat) : Bool :=
  let x := teamAt s t
  x.state == .resident && x.request.isNone && (freeSlotFor s t).isSome

/-! ## Requests (R265, R267, R343) -/

def priOf (s : State) (t : Team) : Nat := (s.launches.getD t.launch default).pri
/-- The machine once every team that has been asked to leave has left. -/
def withoutAsked (s : State) : State :=
  let gone (t : Team) : Team := if t.request.isSome ∨ t.state = .saving then { t with state := .out } else t
  { s with teams := s.teams.map gone }
/-- A team waits for the core of team `t` with a higher priority, and still does not fit. -/
def outranked (s : State) (t : Nat) : Bool :=
  let x := teamAt s t
  (List.range s.teams.length).any fun j => let w := teamAt s j
    w.state == .dealt && mayPlace s (teamCtx s j) && w.dealt == x.core && priOf s x < priOf s w && !teamFits (withoutAsked s) w &&
      (List.range s.teams.length).all fun k => let o := teamAt s k
        !(mayRequest s k && o.core == x.core && priOf s o < priOf s w && x.placed < o.placed)
/-- PREEMPT_REQUEST for a priority placement. -/
def execPreemptRequest (t : Nat) (s : State) : Out := .next (if mayRequest s t ∧ outranked s t then requestTeam s t else s)

/-- TEAM_SWAP_OUT: every group that has not retired is in a blocking wait. -/
def execTeamSwapOut (t : Nat) (s : State) : Out :=
  let live := (teamAt s t).groups.filter fun gi => !(groupAt s gi).retired
  .next (if mayRequest s t ∧ !live.isEmpty ∧ live.all (fun gi => isWaiting s gi (groupAt s gi)) then requestTeam s t else s)

/-! ## The save (R343 to R345) -/

/-- The CP's accesses for the image of team `t` come from a place of their own; a fault parks them as engine 7 (R345). -/
def sealSrc (t c : Nat) : Nat := 2 ^ 60 + 1024 * t + 16 * c
def cpPut (s : State) (src va : Nat) (bs : List Byte) : Reach Unit :=
  match writeAsParty s .cp (srcCtx src) (.cpRead src va) va bs with
  | .fault s f _ => .wait (issuerFault s (.cpRead src va) f.cause f.level f.entry true)
  | o => o

/-- The set is parked, or stands behind a parked set of its party. -/
def behindPark (s : State) (a : ASet) : Bool := s.sets.any fun b => b.party == a.party && b.id ≤ a.id && isParked b
/-- The group has reached the request, and all that both streams issued has committed but for what stands parked. -/
def mayEnter (s : State) (gi : Nat) : Bool :=
  let g := groupAt s gi
  g.frame.isNone && g.pend.isNone && g.region.isNone && !g.exiting && (g.reached || isWaiting s gi g || g.block.isNone) &&
    s.sets.all fun a => !ofGroup gi a || a.role != .access || behindPark s a
/-- What the save keeps of the group's access sets (R308). -/
def keptOf (s : State) (gi : Nat) : List ASet :=
  s.sets.filter fun a => ofGroup gi a && (if a.role = .access then behindPark s a else a.role == .fetch && isParked a)
/-- Where a stream stands: at the first word that is kept, or at its next word. -/
def scalarStand (g : Group) (kept : List ASet) : Nat :=
  (kept.find? fun a => a.role == .access && (match a.party with | .lane _ => false | _ => true)).elim g.spc.toNat (·.pc)
def laneStand (path1 : Bool) (kept : List ASet) (lpc : Nat) : Nat :=
  (kept.find? fun a => a.role == .access && a.path1 == path1 && (match a.party with | .lane _ => true | _ => false)).elim lpc (·.pc)

/-- The group is the saver of its quadrant. -/
def saver (s : State) (g : Group) : Bool :=
  (teamOf s g).groups.all fun k => let o := groupAt s k; o.retired || o.quad != g.quad || g.gid ≤ o.gid
/-- TADDR and TINFO of 0xB7 and 0xB8. -/
def softVa (s : State) (g : Group) : Nat := let r := recordOf s (teamOf s g); slotBase s g + softAt r + softBytes r * g.gid
def cimVa (s : State) (g : Group) : Nat :=
  let r := recordOf s (teamOf s g)
  if saver s g then slotBase s g + macroAt r + 0x10000 * shareOf r.cims.toNat * (g.quad % 4) else 0
/-- The entry to the save or restore handler. -/
def swapTrap (s : State) (g : Group) (kept : List ASet) (cause : Cause) : Pending :=
  { cause := cause, lane := false, path1 := false, spc := w64 (scalarStand g kept), lpc := 0, lanes := 0, addr := w64 (softVa s g),
    info := w64 (cimVa s g) }
/-- The group enters the handler with the kept sets in its frame. -/
def enterSwap (s : State) (gi : Nat) (kept : List ASet) (cause : Cause) : State :=
  let g := groupAt s gi
  let stand (t : TrapRegs) : TrapRegs :=
    { t with
      tlpc0 := BitVec.ofNat 24 (laneStand false kept g.p0.lpc)
      tlpc1 := BitVec.ofNat 24 (g.p1.elim 0 fun p => laneStand true kept p.lpc) }
  let keep (f : Frame) : Frame := { f with sets := kept, spc := g.spc }
  let s := { s with sets := s.sets.filter fun a => !(ofGroup gi a) }
  (takeTrap s gi (swapTrap s g kept cause)).modGroup gi fun h =>
    if h.retired then h else { h with trap := stand h.trap, frame := h.frame.map keep }

/-- The live set (R245, R343): the mask word of the safe point where the lane stream stands, the checkpointed registers at an abort LPC, or every
quad and predicate. -/
def liveSet (s : State) (g : Group) : Nat :=
  let here := (laneWordAt s g g.p0.lpc).any isSafe
  match g.atAbort, (if g.block.isSome ∧ !dual g ∧ here then laneWordAt s g (g.p0.lpc + 1) else none) with
  | some m, _ => m.toNat
  | none, some m => m.toNat % 2 ^ 88
  | none, none => 2 ^ 24 * (2 ^ (regsOf s g / 4) - 1) + 127

def stackBytes : Entry → List Byte
  | .join j m => leBytes 8 (2 ^ 24 * j) ++ leBytes 8 m.toNat
  | .arm lpc m j => leBytes 8 (lpc + 2 ^ 24 * j + 2 ^ 48) ++ leBytes 8 m.toNat
/-- A list of bytes filled up with zeros. -/
def padTo (n : Nat) (bs : List Byte) : List Byte := (bs ++ List.replicate (n - bs.length) 0).take n
def wordsBytes (ws : List Word) : List Byte := ws.flatMap fun w => leBytes 8 w.toNat
def blockBytes (started : Bool) (b : Block) : List Byte :=
  padTo 512 (leBytes 4 b.lofs ++ leBytes 4 started.toNat ++ leBytes 8 b.lt ++ wordsBytes b.snap)
/-- Bytes the manual does not lay out, from draw `n` on. -/
def openBytes (n k : Nat) : List Byte := (List.range k).map fun i => Config.imageByte (n + i)

/-- The control frame from its byte 32 on (R344); s44 to s47 are stored at handler entry. -/
def controlBytes (s : State) (g : Group) (kept : List ASet) : List Byte :=
  let l1 := g.p1.elim 0 fun p => laneStand true kept p.lpc
  let blocks := g.block.toList.map (blockBytes true) ++ g.queue.map (blockBytes false)
  let stack (p : Option Path) : List Byte := padTo 512 ((p.elim [] (·.stack)).flatMap stackBytes)
  let depth (p : Option Path) : Byte := BitVec.ofNat 8 (p.elim [] (·.stack)).length
  leBytes 8 (scalarStand g kept) ++ leBytes 4 (laneStand false kept g.p0.lpc) ++ leBytes 4 l1 ++ leBytes 8 g.p0.exec.toNat ++
    leBytes 8 (g.p1.elim 0 (·.exec.toNat)) ++ leBytes 8 (liveLanes g).toNat ++
    [BitVec.ofNat 8 ((dual g).toNat + 2 * (duePath g).toNat), g.part.setWidth 8, depth (some g.p0), depth g.p1,
      BitVec.ofNat 8 blocks.length, BitVec.ofNat 8 g.q3.length, BitVec.ofNat 8 g.q5.length, BitVec.ofNat 8 g.q4.length] ++
    leBytes 4 g.cvmode.toNat ++ leBytes 4 g.cvseed.toNat ++ leBytes 8 g.slt ++ leBytes 8 g.llt ++ leBytes 4 g.prog ++ leBytes 4 g.gap ++
    leBytes 16 (liveSet s g) ++ padTo 64 (wordsBytes g.q4) ++ List.replicate 64 0 ++ stack (some g.p0) ++ stack g.p1 ++
    padTo 2048 blocks.flatten ++ padTo 256 (g.lanes.flatMap fun l => leBytes 4 l.sr.toNat) ++ padTo 512 (wordsBytes g.q3) ++
    padTo 512 (wordsBytes (g.q5.map (·.1))) ++ openBytes s.hub.draws 2048 ++
    leBytes 8 (g.retry.getD 0) ++ leBytes 8 g.retry.isSome.toNat ++ List.replicate 1520 0

/-- Write the control frames of some groups. -/
def writeControls (src : Nat) : State → List Nat → Reach Unit
  | s, [] => .done s ()
  | s, gi :: r =>
    let g := groupAt s gi
    let at_ := slotBase s g + 0x1000 + 0x2000 * g.gid + 32
    (cpPut s src at_ (controlBytes s g (keptOf s gi))).bind fun s _ =>
      writeControls src (s.modHub fun h => { h with draws := h.draws + 2048 }) r

/-- Every group of the team enters the save handler in one dc. -/
def enterSave (s : State) (t : Nat) (live : List Nat) : State :=
  let kept := live.map fun gi => (gi, keptOf s gi)
  let s := kept.foldl (fun s k => enterSwap s k.1 k.2 Tc.preemptSave) s
  (freezeTeam s t).modTeam t fun x => if x.state = .resident then { x with state := .saving } else x

/-- PREEMPT_SAVE_ENTRY: all groups have reached the request. -/
def execPreemptSaveEntry (t : Nat) (s : State) : Out :=
  let x := teamAt s t
  let c := teamCtx s t
  let live := x.groups.filter fun gi => !(groupAt s gi).retired
  if x.state ≠ .resident ∨ x.request.isNone ∨ live.isEmpty ∨ !live.all (mayEnter s) ∨ cpParked s (sealSrc t c) then .next s
  else match handlerComes s (live.headD 0) (physOf s x.core) c Tc.preemptSave with
    | some s => .next s
    | none => .next (match writeControls (sealSrc t c) s live with
      | .done s _ => enterSave s t live
      | o => o.state)

/-- The first 0x1000 bytes of an image, the CRC still 0. -/
def headerBytes (s : State) (t : Nat) (gen : Nat) : List Byte :=
  let x := teamAt s t
  let r := recordOf s x
  leBytes 4 0x4B585449 ++ leBytes 4 0 ++ leBytes 8 gen ++ leBytes 8 (imageBytes r) ++
    leBytes 4 (s.launches.getD x.launch default).lid.toNat ++ leBytes 4 x.tid.toNat ++
    [BitVec.ofNat 8 (teamCtx s t), r.groups, r.width, r.regs, BitVec.ofNat 8 (shareOf r.cims.toNat), 0, 0, 0] ++
    leBytes 4 r.sram.toNat ++ leBytes 4 x.segid.toNat ++ leBytes 4 x.segrow0.toNat ++ leBytes 4 x.segrows.toNat ++ leBytes 8 x.dealt ++
    openBytes s.hub.draws 64 ++ (x.chans.map fun q => BitVec.ofNat 8 q.length) ++ List.replicate 1912 0 ++
    x.chans.flatMap fun q => padTo 256 (wordsBytes (q.map (·.1)))

/-- The CRC of the image as it stands in its slot is written into it. -/
def sealImage (s : State) (src base n : Nat) : Reach Unit :=
  (cpTake s src .read base n).bind fun s b => cpPut s src (base + 4) (leBytes 4 (crcOmit b 4))

/-! ## Checkpoints (R347) -/

def ckptOn (s : State) (c : Nat) : Bool := !bit (ctxAt s c).ckpt.toNat 2
/-- A checkpoint ends: DONE, and GO reads 0 (notes/assumptions/86.md). -/
def ckptDone (s : State) (c : Nat) : State := s.modCtx c fun x => { x with ckpt := x.ckpt &&& 2 ||| 4 }

/-- Reseal images with one generation. -/
def reseal (c gen : Nat) : State → List Nat → Reach Unit
  | s, [] => .done s ()
  | s, t :: r =>
    let base := slotVa s c (teamAt s t).slot
    (cpPut s (sealSrc t c) (base + 8) (leBytes 8 gen)).bind fun s _ =>
      (sealImage s (sealSrc t c) base (imageBytes (recordOf s (teamAt s t)))).bind fun s _ => reseal c gen s r

/-- The launch table in the last slot; the layout of its entries is open. -/
def writeTable (s : State) (c : Nat) : Reach Unit :=
  if slotCount s c = 0 then .done s ()
  else (cpPut s (sealSrc (2 ^ 40) c) (slotVa s c (slotCount s c - 1)) (openBytes s.hub.draws 4096)).bind fun s _ =>
    .done (s.modHub fun h => { h with draws := h.draws + 4096 }) ()

/-- Once every team of the context is out: one generation for all images, the launch table, CKGEN, DONE. -/
def finishCkpt (s : State) (c : Nat) : State :=
  let teams := teamsOfCtx s c
  let out := teams.filter fun t => (teamAt s t).state == .out
  if !ckptOn s c ∨ teams.any (fun t => onCore (teamAt s t)) ∨ s.ctxs.length ≤ c ∨ out.any (fun t => cpParked s (sealSrc t c)) ∨
      cpParked s (sealSrc (2 ^ 40) c) then s
  else
    let gen := (ctxAt s c).sealGen + 1
    match (reseal c gen s out).bind fun s _ => writeTable s c with
    | .done s _ =>
      let s := out.foldl (fun s t => s.modTeam t fun x => { x with slotGen := gen }) s
      ckptDone (s.modCtx c fun x => { x with sealGen := gen, ckgen := w64 gen, held := bit x.ckpt.toNat 1 }) c
    | o => o.state

/-- A team of the context is asked to leave for the checkpoint; none where one cannot be. -/
def requestAll (s : State) : List Nat → Option State
  | [] => some s
  | t :: r =>
    if (teamAt s t).request.isSome ∨ (teamAt s t).state = .saving then requestAll s r
    else if mayRequest s t then requestAll (requestTeam s t) r
    else none

/-- A write of CTX_CKPT; GO written again while a checkpoint is under way only lets it go on. HOLD written 0 ends a hold. -/
def writeCkpt (s : State) (c : Nat) (v : Word) : State :=
  let s := s.modCtx c fun x => { x with ckpt := x.ckpt &&& 5 ||| v &&& 2, held := x.held && bit v.toNat 1 }
  if !bit v.toNat 0 then s
  else if ckptOn s c then finishCkpt s c
  else
    let s := s.modCtx c fun x => { x with ckpt := x.ckpt &&& 2 ||| 1 }
    match requestAll s ((teamsOfCtx s c).filter fun t => onCore (teamAt s t)) with
    | some s => finishCkpt s c
    | none => ckptDone s c
def execCheckpointGo (c : Nat) (v : Word) (s : State) : Out := .next (writeCkpt s c v)

/-- CHECKPOINT_HOLD_CLEAR: the held teams may be placed again. -/
def execCheckpointHoldClear (c : Nat) (s : State) : Out :=
  .next (s.modCtx c fun x => { x with ckpt := x.ckpt &&& 5, held := false })

/-! ## The seal (R345) -/

/-- The team leaves its core. -/
def leaveCore (s : State) (t gen : Nat) : State :=
  let x := teamAt s t
  let s := startClear s x.core (recordOf s x).sram.toNat
  s.modTeam t fun x => { x with state := .out, request := none, frozen := false, cims := [], slotGen := gen }

/-- TEAM_SEAL: every group is saved; the image is written and sealed, and the core is free. A checkpoint ends with its last team. -/
def execTeamSeal (t : Nat) (s : State) : Out :=
  let x := teamAt s t
  let c := teamCtx s t
  let live := x.groups.filter fun gi => !(groupAt s gi).retired
  let base := slotVa s c x.slot
  let r := recordOf s x
  let gen := (ctxAt s c).sealGen + 1
  let running := s.units.any fun u => u.2.run.any fun k => x.groups.contains k.g
  if x.state = .out then .next (finishCkpt s c)
  else if x.state ≠ .saving ∨ live.isEmpty ∨ !live.all (fun gi => (groupAt s gi).saved) ∨ running ∨ cpParked s (sealSrc t c) then .next s
  else
    let write := (cpPut s (sealSrc t c) base (headerBytes s t gen)).bind fun s _ =>
      (cpPut s (sealSrc t c) (base + sramAt r) (bytesAt x.sram 0 (4096 * ceilDiv r.sram.toNat 4096))).bind fun s _ =>
        sealImage s (sealSrc t c) base (imageBytes r)
    .next (match write with
      | .done s _ =>
        let s := s.modHub fun h => { h with draws := h.draws + 64 }
        finishCkpt (leaveCore (s.modCtx c fun y => { y with sealGen := gen }) t gen) c
      | o => o.state)

/-! ## Resume (R267, R346) -/

/-- The core a team comes back to. -/
def resumeCore (s : State) (x : Team) : Option Nat :=
  let r := recordOf s x
  if dieGated s (dieOf s x.dealt) then none
  else if fits s x.dealt r 1 then some x.dealt
  else (List.range (coreCount s)).find? fun k => dieOf s k == dieOf s x.dealt && fits s k r 1

/-- A waited memory word is read again. -/
def rewait (w : Wait) : Wait := match w with | .word w => .word { w with placed := false, woken := true, pa := 0 } | o => o

/-- The group on its new seat with the trapped state of its frame; its registers read 0 until the handler restores them (R266). -/
def reseated (g : Group) (f : Frame) (seat : Nat × Nat) : Group :=
  { g with
    quad := seat.1, pos := seat.2, s := List.replicate 48 0, spc := f.spc, frame := none, p0 := f.p0, p1 := f.p1, dualJ := f.dualJ
    block := f.block, queue := f.queue, part := f.part, cvmode := f.cvmode, cvseed := f.cvseed, prog := f.prog, gap := f.gap
    image := f.image, wait := rewait f.wait, reached := false, saved := false
    lanes := (List.range g.lanes.length).map fun i => { laneAt g i with v := [], p := 0, sr := f.sr.getD i 0 } }

/-- The seat of each live group on a core, in order of number. -/
def resumeSeats (s : State) (core : Nat) (live : List Nat) : List (Nat × Nat × Nat) :=
  live.map fun gi =>
    let q := (groupAt s gi).gid % 4
    let k := (live.filter fun o => (groupAt s o).gid % 4 == q && (groupAt s o).gid < (groupAt s gi).gid).length
    (gi, 4 * physOf s core + q, (freePos s core q).getD k 0)

/-- Counts kept while the team was out are folded into its counters (R227). -/
def foldCounts (t : Team) : Team :=
  t.counts.foldl (fun t e =>
    let ts := max e.2.2 ((rowTimes t (e.1 / 128)).2 + 1)
    let k := counterAt t e.1
    putCounter t e.1 { k with count := (k.count + e.2.1) % 2 ^ 64, time := max k.time ts } ts) { t with counts := [] }

/-- The team stands on its core, and each group enters the restore handler; a waited word is read and its entry placed anew. -/
def resumeTeam (s : State) (t core : Nat) (image : List Byte) : State :=
  let x := teamAt s t
  let r := recordOf s x
  let live := x.groups.filter fun gi => !(groupAt s gi).retired
  let seats := resumeSeats s core live
  let kept := live.map fun gi => (gi, (groupAt s gi).frame.elim [] (·.sets))
  let back (y : Team) : Team :=
    foldCounts { y with
      state := .resident, core := core, request := none, cims := freshCims r, placed := s.cycle + 1
      sram := setBytes [] 0 ((image.drop (sramAt r)).take r.sram.toNat) }
  let s := { s with waits := s.waits.filter fun w => w.src != aid s || !x.groups.contains w.g }
  let s := seats.foldl (fun s k => s.modGroup k.1 fun g => match g.frame with | some f => reseated g f k.2 | none => g) (s.modTeam t back)
  kept.foldl (fun s k => enterSwap s k.1 k.2 Tc.resumeRestore) s

/-- A team with a higher priority waits for the core. -/
def coreWanted (s : State) (core pri : Nat) : Bool :=
  (List.range s.teams.length).any fun j => let w := teamAt s j
    w.state == .dealt && w.dealt == core && pri < priOf s w && mayPlace s (teamCtx s j)

/-- TEAM_RESUME: the image is read and checked. -/
def execTeamResume (t : Nat) (s : State) : Out :=
  let x := teamAt s t
  let c := teamCtx s t
  let n := imageBytes (recordOf s x)
  let others := (List.range s.launches.length).any fun l => l != x.launch && halfPlaced s l
  if x.state ≠ .out ∨ others ∨ !mayPlace s c ∨ cpParked s (sealSrc t c) then .next s
  else match resumeCore s x with
    | none => .next s
    | some core =>
      if coreWanted s core (priOf s x) then .next s
      else match handlerComes s (x.groups.headD 0) (physOf s core) c Tc.resumeRestore with
        | some s => .next s
        | none => .next (match cpTake s (sealSrc t c) .read (slotVa s c x.slot) n with
          | .done s b =>
            if crcOmit b 4 ≠ field b 4 4 ∨ field b 8 8 ≠ x.slotGen then fatal s c Tc.imageSeal (s.launches.getD x.launch default).lid
            else resumeTeam s t core b
          | o => o.state)

/-! ## Launch rollback (R348, R349) -/

/-- The launches that share a root. -/
def familyOf (s : State) (root : Nat) : List Nat := (List.range s.launches.length).filter fun l => shadowRoot s l == root
/-- The teams of some launches. -/
def teamsOf (s : State) (ls : List Nat) : List Nat := (List.range s.teams.length).filter fun t => ls.contains (teamAt s t).launch

/-- A store-class set of which some span has been performed or sent: it commits before the launch is restored. -/
def halfDone (a : ASet) : Bool := a.phase == .gone && a.spans.any fun p => p.sent || p.done
/-- An engine stops: parked commands and those that have not started end with status 0x06. -/
def stopEngine (s : State) (gi : Nat) (fab : Bool) (e : Engine) : Engine :=
  let e := haltEngine e
  { e with cmds := e.cmds.map fun c => if cmdParked s gi fab c.num then { c with stat := 6, fin := true, buf := none } else c }
/-- Everything of a family stops: its sets that have not been performed and its parked accesses, its streams, the commands that have not
started, its built records. -/
def stopFamily (s : State) (root : Nat) : State :=
  let ls := familyOf s root
  let ts := teamsOf s ls
  let gis := ts.flatMap fun t => (teamAt s t).groups
  let keep := s.sets.filter fun a => gis.any (fun gi => ofGroup gi a) && halfDone a
  let s := gis.foldl (fun s gi => (removeGroup s gi).modGroup gi fun g =>
    { g with copy := stopEngine s gi false g.copy, fabric := stopEngine s gi true g.fabric }) s
  let s := { s with
    sets := keep ++ s.sets
    units := s.units.map fun (u : Nat × MatUnit) => (u.1, { u.2 with run := u.2.run.filter fun k => !gis.contains k.g })
    built := s.built.filter fun b => !ls.contains b.launch }
  let s := ts.foldl (fun s t => if (teamAt s t).state = .resident ∨ (teamAt s t).state = .saving then s
    else s.modTeam t fun x => { x with state := .retired }) s
  ls.foldl (fun s l => s.modLaunch l fun x => { x with stopping := true }) s

/-- An engine command or an access set of the family is still being performed. -/
def familyBusy (s : State) (root : Nat) : Bool :=
  (teamsOf s (familyOf s root)).any fun t => (teamAt s t).groups.any fun gi =>
    let busy (e : Engine) : Bool := e.cmds.any fun c => !(c.fin && c.acks == 0)
    busy (groupAt s gi).copy || busy (groupAt s gi).fabric || s.sets.any fun a => ofGroup gi a && !isParked a

/-- The CP's time rises above every access of the family. -/
def aboveFamily (s : State) (root : Nat) : State :=
  (teamsOf s (familyOf s root)).foldl (fun s t => (teamAt s t).groups.foldl (fun s gi =>
    let g := groupAt s gi
    let cmds := (g.copy.cmds ++ g.fabric.cmds).foldl (fun m c => max m c.time) 0
    let done := (g.copy.times ++ g.fabric.times).foldl (fun m c => max m c.2) 0
    raiseLt s .cp (max (max g.slt g.llt) (max cmds done) + 1)) s) s

/-- Shadows are written back, each freed as it is. -/
def writeShadows (root src : Nat) : Nat → State → Reach Unit
  | 0, s => .done s ()
  | fuel + 1, s => match s.am.shadows.find? fun x => x.1 == root with
    | none => .done s ()
    | some (_, gpn, cells) =>
      match writePa s .cp (.cpRead src 0) (65536 * gpn) ((List.range 65536).map fun k => tget 0 cells k) with
      | .done s _ => writeShadows root src fuel (freeShadows s fun r g => r == root && g == gpn)
      | .fault s f _ => .wait (issuerFault s (.cpRead src 0) f.cause f.level f.entry true)
      | .wait s => .wait s

/-- The launch starts anew from its record: the teams of its deal, the same LAUNCHID, a new launch time, one more replay. Its old teams
leave it. -/
def replay (s : State) (root : Nat) : State :=
  let ls := familyOf s root
  let ts := teamsOf s ls
  let old := (ts.filter fun t => (teamAt s t).launch == root).map (teamAt s)
  let again (x : Team) : Team := { freshTeam root 0 x.dealt (x.segid, x.segrow0, x.segrows) x.win0 with tid := x.tid }
  let leave (s : State) (t : Nat) : State :=
    let x := teamAt s t
    let s := if onCore x then startClear s x.core (recordOf s x).sram.toNat else s
    (removeTeam s t).modTeam t fun x => { x with launch := 2 ^ 40, cims := [] }
  let forget (x : Ctx) : Ctx := { x with arrivals := x.arrivals.filter fun e => !(e.2.1.any fun p => ts.contains p.1) }
  let s := ts.foldl leave s
  let s := { s with ctxs := s.ctxs.map forget }
  let s := ls.foldl (fun s l => s.modLaunch l fun x => { x with stopping := false, retired := x.retired || l != root }) s
  let s := s.modLaunch root fun x =>
    { x with
      lambda := max x.lambda s.cpLt + 1, left := old.length, replays := x.replays + 1, crew := [⟨0, [], 0, 0⟩, ⟨0, [], 0, 0⟩]
      bar := ⟨0, [], 0, 0⟩ }
  { s with teams := s.teams ++ old.map again }

/-- A fourth error ends the context; the launch retires, its record with STATUS 0x05 (R255, R347). -/
def rollbackLimit (s : State) (root : Nat) : State :=
  let x := s.launches.getD root default
  match writeStatus s x.ctx x.recVa 5 with
  | .done s _ =>
    let s := fatal s x.ctx Tc.rollbackLimit x.lid
    freeFamily (finishRecord (s.modLaunch root fun x => { x with retired := true, left := 0 }) x.ctx x.queue) root
  | o => o.state

/-- The replay waits until what was performed has settled and the shadows are back. -/
def rollbackStep (s : State) (root : Nat) : State :=
  let src := sealSrc (2 ^ 41 + root) (s.launches.getD root default).ctx
  if familyBusy s root ∨ cpParked s src then s
  else match writeShadows root src (s.am.shadows.length + 1) (aboveFamily s root) with
    | .done s _ => replay s root
    | o => o.state

/-- The precise trap of an error that no rollback takes: in the scalar stream for a scalar register, else at the lane word where a block
runs. -/
def errorTrap (s : State) (gi : Nat) (cause : Cause) : State :=
  let g := groupAt s gi
  if g.pend.isSome then s
  else if cause = Tc.ueScalarReg ∨ g.block.isNone then scalarTrap s gi g cause else laneTrap s gi g (duePath g) cause

/-- LAUNCH_ROLLBACK: a group has consumed an uncorrectable error of `cause`; a stop under way goes on. -/
def execLaunchRollback (gi : Nat) (cause : Cause) (s : State) : Out :=
  let g := groupAt s gi
  let root := shadowRoot s (launchIx s g)
  let x := s.launches.getD root default
  if cause.toNat < 0xB0 ∨ 0xB6 < cause.toNat ∨ s.groups.length ≤ gi then .next s
  else if x.stopping then .next (rollbackStep s root)
  else if g.retired then .next s
  else if !x.protect ∨ !rollbackOn s x.ctx then .next (errorTrap s gi cause)
  else if 3 ≤ x.replays then .next (rollbackLimit s root)
  else .next (rollbackStep (stopFamily s root) root)

/-! ## Strikes (R350) -/

/-- How much later the events of a quadrant fall after a report: 64 dc, or, where a restore is under way, what its sequence loses by starting
anew (R350). -/
def strikeDelay (s : State) (q : Nat) : Nat :=
  ((s.hub.strikes.find? fun k => k.1 == q && s.now < k.2 + 17).map fun k => s.now - k.2).getD 64
/-- STRIKE_REPORT: the last 48 dc of a quadrant run again, so that what has not left it comes 64 dc later and no further word issues until then
(notes/assumptions/12.md). -/
def execStrikeReport (q : Nat) (s : State) : Out :=
  let mine (p : Party) : Bool := (partyGroup p).any fun gi => (groupAt s gi).quad == q
  let d := strikeDelay s q
  let later (a : ASet) : ASet := if mine a.party ∧ a.phase ≠ .gone ∧ s.now < a.issued + 48 then { a with issued := a.issued + d } else a
  let cmd (c : MatCmd) : MatCmd := { c with t0 := c.t0 + d }
  .next { s.modHub fun h => { h with strikes := (q, s.now) :: h.strikes.filter (·.1 != q) } with
    sets := s.sets.map later
    units := s.units.map fun (u : Nat × MatUnit) => if u.1 = q then (u.1, { u.2 with run := u.2.run.map cmd }) else u }

end Sys2Proof.Machine
end

