-- ==== Sys2Proof/Machine/FaultQueue.lean ====
section
/-! DEFINITION. The fault queue (R295, R304 to R308), TLB invalidation (R303), and the host's accesses (R296, R354, R360). -/

namespace Sys2Proof.Machine

open Sys2Proof

/-! ## Records (R306, R307) -/

/-- Faults that were held while the buffer was full enter it. -/
def drainWaiting : Nat → Ctx → Ctx
  | 0, x => x
  | fuel + 1, x => match x.waitFaults with
    | [] => x
    | r :: rest => if 64 ≤ (unwritten x).length then x else drainWaiting fuel (bufferFault { x with waitFaults := rest } r)
/-- A record that is written, and whose issuers are all done with, is forgotten. -/
def tidyFaults (x : Ctx) : Ctx :=
  let x := drainWaiting x.waitFaults.length x
  { x with faults := x.faults.filter fun r => !(r.written && r.issuers.isEmpty) }

/-- Size and next indexes of a context's fault ring, where it is one the hub writes. -/
def fqRoom (x : Ctx) : Option Nat :=
  match ringSize x.fqCtl with
  | some n => if x.fqHold ∨ (x.fqTail.toNat + 1) % n = x.fqHead.toNat % n then none else some n
  | none => none

/-- A completion the host receives: its status (0 successful, 1 unsupported request, 2 snoop answer, 4 completer abort) and data. -/
def hostAnswer (s : State) (stat : Nat) (v : Word) : State := s.modHub fun h => { h with hostOut := h.hostOut ++ [(stat, v)] }
/-- The host access of a record that is written is over: a read is answered with a Completer Abort (R296). -/
def answerHost (s : State) (i : Issuer) : State := match i with | .host _ _ false => hostAnswer s 4 0 | _ => s
def hostIssuer (i : Issuer) : Bool := match i with | .host _ _ _ => true | _ => false

/-- FAULT_RECORD_WRITE: the oldest unwritten record, 96 dc after its fault or as soon as the ring has room; TAIL and the vector follow. -/
def execFaultRecordWrite (c : Nat) (s : State) : Out :=
  let x := ctxAt s c
  match (unwritten x).head?, fqRoom x with
  | some r, some n =>
    if s.now < r.at_ + 96 then .next s
    else match ringAt x.fqBase (some c) with
      | .none => .next s
      | ring => .next (match ringWrite s c ring (64 * (x.fqTail.toNat % n)) (faultBytes r) with
        | .wait s => s
        | .fault s _ _ => holdRing s c
        | .done s _ =>
          let put (y : Ctx) : Ctx :=
            tidyFaults { y with
              faults := modFirst (fun o => !o.written)
                (fun o => { o with written := true, issuers := o.issuers.filter fun i => !hostIssuer i }) y.faults
              fqTail := BitVec.ofNat 12 ((y.fqTail.toNat + 1) % n) }
          sendVector (r.issuers.foldl answerHost (s.modCtx c put)) c (bits x.fqCtl.toNat 26 16))
  | _, _ => .next s

/-- Records in order of a new ring: unwritten ones are numbered from 1; written ones can be named no more. -/
def renumber : Nat → List FaultRec → List FaultRec × Nat
  | n, [] => ([], n)
  | n, r :: rest =>
    if r.written then let t := renumber n rest; ({ r with seq := r.seq % 2 ^ 32 + 2 ^ 32 } :: t.1, t.2)
    else let t := renumber (n + 1) rest; ({ r with seq := n } :: t.1, t.2)

/-- A write of FQ_BASE (R295, R358): the ring starts anew, SEQ at 1, and a hold ends. -/
def writeFqBase (s : State) (c : Nat) (v : Word) : State :=
  s.modCtx c fun x =>
    let r := renumber 1 x.faults
    { x with
      fqBase := w64 (v.toNat / 4096 * 4096), fqHead := 0, fqTail := 0, faults := r.1, seq := r.2, fqHold := false }
def execFqBaseWrite (c : Nat) (v : Word) (s : State) : Out := .next (writeFqBase s c v)

/-! ## Release (R307) -/

/-- A write that reaches the hub from the host is a release that every walker acquires (R151). -/
def hostRelease (s : State) : State := { s with walkLt := s.walkLt.map fun t => max t s.hostLt }
/-- Records of a context that meet a test are released, or killed; a refusal record parks nothing. -/
def releaseWhere (s : State) (c : Nat) (kill : Bool) (p : FaultRec → Bool) : State :=
  let f (r : FaultRec) : FaultRec :=
    if p r && !r.released && r.status == 0 then { r with released := true, kill := kill, at_ := s.now } else r
  (hostRelease s).modCtx c fun x => { x with faults := x.faults.map f }

/-- Release one record, or all of them. -/
def execFqReplaySeq (c seq : Nat) (s : State) : Out := .next (releaseWhere s c false fun r => r.seq == seq)
def execFqReplayAll (c : Nat) (s : State) : Out := .next (releaseWhere s c false fun _ => true)

/-- A parked set in a group's frame, with its group (R308). -/
def framedSet (s : State) (id : Nat) : Option Nat :=
  (List.range s.groups.length).find? fun gi => ((groupAt s gi).frame.elim [] (·.sets)).any fun a => a.id == id

/-- A released set goes on: from its translation, or with the spans not yet performed; a fetch or a waited translation is made afresh. -/
def retrySet (cyc : Nat) (a : ASet) : Option ASet :=
  if !isParked a then some a
  else if a.role ≠ .access then none
  else if storeClass a.kind ∧ a.spans.any (·.done) then
    some { a with phase := .gone, spans := a.spans.map fun p => if p.done then p else { p with sent := false, owe := 0 } }
  else some { a with phase := .xlate, issued := cyc, spans := [] }
def retryIn (s : State) (id : Nat) (l : List ASet) : List ASet :=
  l.filterMap fun a => if a.id = id then retrySet s.now a else some a

/-- A granule of a command that came back parked. -/
def isReturned (s : State) (g cmd va : Nat) (e : Env) : Bool :=
  match granOf e.msg with
  | some x => e.dst == aid s && x.src == aid s && x.g == g && x.cmd == cmd && x.va == va && x.parked
  | none => false
def unpark (m : Msg) : Msg := match granOf m with | some x => ({ x with parked := false } : Gran).msg | none => m

/-- One released issuer retries (R304): what holds no access set of its own just tries again with its next step. -/
def retryIssuer (s : State) (i : Issuer) : State :=
  match i with
  | .set id =>
    let kept (g : Group) : Group := { g with frame := g.frame.map fun f => { f with sets := retryIn s id f.sets } }
    let s := match framedSet s id with | some gi => s.modGroup gi kept | none => s
    { s with sets := retryIn s id s.sets }
  | .engine g fab num va =>
    if fab then
      let home (e : Env) : Env :=
        if isReturned s g num va e then
          { e with msg := unpark e.msg, dst := ((granOf e.msg).elim e.dst fun x => homeAid s (pageOf x.pa)), at_ := s.now } else e
      { s with net := s.net.map home }
    else s
  | .granule src cmd g va =>
    let mine (e : Env) : Bool := match granOf e.msg with
      | some x => e.dst == aid s && x.src == src && x.cmd == cmd && x.g == g && x.va == va && x.parked
      | none => false
    { s with net := s.net.map fun (e : Env) => if mine e then { e with msg := unpark e.msg } else e }
  | .stage st _ => if (stageAt s st).state = .parked then modStage s st fun y => { y with state := .running, since := s.now } else s
  | _ => s

/-! ## KILL (R307) -/

/-- The CP's access for a team image or a shadow is refused (R345). -/
def killSeal (s : State) (src : Nat) : State :=
  let t := (src - 2 ^ 60) / 1024
  fatal s (srcCtx src) Tc.imageSeal (s.launches.getD (s.teams.getD t default).launch default).lid

/-- A mailbox access is refused: a command ends, status words are given up, a stage's save ends, an episode that cannot be restored ends. -/
def killRecord (s : State) (c e va : Nat) : State :=
  let st := ((epAt s c e).bind (·.stage)).map (stageOr s)
  match va - recordVa s c e with
  | 0 => endCmd s c 5
  | 0x40 => cleanEp s c e
  | 0x64 => cleanEp s c e
  | _ => match st with
    | some y =>
      if y.state = .saving then changeEp (putStage s { freshStage y.st with lt := y.lt }) c e fun x => { x with stage := none }
      else if y.state = .restoring then endEpisode s c e 4 .ended
      else s
    | none => s

/-- One issuer is ended instead of retried; false where it must wait for its group to come back. -/
def killIssuer (s : State) (r : FaultRec) (i : Issuer) : State × Bool :=
  match i with
  | .set id => match setAt s id with
    | some a => match a.phase with
      | .parked addr lanes _ => (trapOfSet s a r.cause lanes addr (windowInfo s a), true)
      | _ => (s, true)
    | none => (s, (framedSet s id).isNone)
  | .engine g fab num va =>
    let back := (s.net.filter (isReturned s g num va)).length
    let s := { s with net := s.net.filter fun e => !(fab && isReturned s g num va e) }
    let s := modCmd s g fab num fun c => { c with stat := 6, fin := true, buf := none, acks := c.acks - (if fab then back else 0) }
    (modEng s g fab haltEngine, true)
  | .granule src cmd g va =>
    let mine (e : Env) : Bool := match granOf e.msg with
      | some x => e.dst == aid s && x.src == src && x.cmd == cmd && x.g == g && x.va == va && x.parked
      | none => false
    match (s.net.find? mine).bind fun e => granOf e.msg with
    | some x => (ackGran { s with net := s.net.filter fun e => !mine e } x 2 0 [], true)
    | none => (s, true)
  | .stage st _ =>
    let y := stageAt s st
    (if y.state = .parked then endEpisode s y.ctx y.ep 4 .ended else s, true)
  | .cpRead src _ => (if src < 2 ^ 60 then refuseRecord s src 3 else killSeal s src, true)
  | .epCmd c e va => (killRecord s c e va, true)
  | .post k _ => (modPost s k fun p => { p with written := true, time := s.cpLt }, true)
  | _ => (s, true)

/-- Issuers of a killed record are ended; those whose groups are out stay. -/
def killAll (r : FaultRec) : State → List Issuer → State × List Issuer
  | s, [] => (s, [])
  | s, i :: rest =>
    let a := killIssuer s r i
    let b := killAll r a.1 rest
    (b.1, if a.2 then b.2 else i :: b.2)
def setIssuers (s : State) (c seq : Nat) (l : List Issuer) : State :=
  s.modCtx c fun x => tidyFaults { x with faults := modFirst (fun r => r.seq == seq) (fun r => { r with issuers := l }) x.faults }
/-- A record's issuers, taken from it first, are killed. -/
def killRecordNow (s : State) (c : Nat) (r : FaultRec) : State :=
  let k := killAll r (s.modCtx c fun x => { x with faults := modFirst (fun o => o.seq == r.seq) (fun o => { o with issuers := [] }) x.faults }) r.issuers
  setIssuers k.1 c r.seq k.2

/-- Bits [31:0] name a record to be killed, bit 32 all of them. -/
def killWhere (s : State) (c seq : Nat) : State :=
  let hit (r : FaultRec) : Bool := (bit seq 32 || r.seq == seq % 2 ^ 32) && !r.released && r.status == 0
  let rs := (ctxAt s c).faults.filter hit
  rs.foldl (fun s r => killRecordNow s c r) (releaseWhere s c true hit)
def execFqReplayKill (c seq : Nat) (s : State) : Out := .next (killWhere s c seq)

/-- FAULT_RETRY of record `k`, 40 dc after its release. -/
def execFaultRetry (c k : Nat) (s : State) : Out :=
  match (ctxAt s c).faults.find? fun r => r.seq == k && r.released && !r.issuers.isEmpty with
  | none => .next s
  | some r =>
    if r.kill then .next (killRecordNow s c r)
    else if s.now < r.at_ + 40 then .next s
    else .next (r.issuers.foldl retryIssuer (setIssuers s c k []))

/-! ## TLB invalidation (R303) -/

/-- A page lies in the range that TLBI_VA and TLBI_CTL give. -/
def inTlbi (r : Word × Word) (vpn : Nat) : Bool :=
  let v := bits r.1.toNat 47 16
  bit r.2.toNat 16 || (v ≤ vpn && vpn < v + r.2.toNat % 65536)
/-- The PTE of a pinned page pins it no more. -/
def unpinned (s : State) (c vpn gpn : Nat) : Bool :=
  match translate s c (65536 * vpn) .read with
  | .ok e => pteGpn e != gpn || pteHome e < 2
  | .error _ => true
/-- A pin ends: a page's lines are written back and its frame is free (R147). -/
def dropPin (s : State) (p : Pin) : State :=
  let s := if s.pins.contains p then unpinPage s p.gpn else { s with l2pins := s.l2pins.filter (· != p) }
  if pinnedHere s p.gpn then s else modTag s p.gpn fun t => { t with pin := false }
/-- The entries of a range leave every TLB, and the pins of PTEs that have been changed end. -/
def dropEntries (s : State) (c : Nat) (r : Word × Word) : State :=
  let hit (e : TlbEntry) : Bool := e.ctx == c && inTlbi r e.vpn
  let pins := (s.pins ++ s.l2pins).filter fun p => p.ctx == c && inTlbi r p.vpn && unpinned s c p.vpn p.gpn
  pins.foldl dropPin { s with
    l1tlb := s.l1tlb.filter fun e => !hit e.2
    dieTlb := s.dieTlb.filter fun e => !hit e.2
    hubTlb := s.hubTlb.filter fun e => !hit e }

/-- A write of TLBI_CTL: its fields, and with GO, which is ignored while DONE = 0, an invalidation of the range as it then stands: no translation
uses an entry of it from now on. GO reads 1 until DONE (notes/assumptions/86.md). -/
def writeTlbiCtl (s : State) (c : Nat) (v : Word) : State :=
  let x := ctxAt s c
  let busy := !bit x.tlbiCtl.toNat 18
  let s := s.modCtx c fun x => { x with tlbiCtl := x.tlbiCtl &&& 0x60000 ||| v &&& 0x1FFFF }
  if busy ∨ !bit v.toNat 17 then s
  else
    let r := (x.tlbiVa, v &&& 0x1FFFF)
    (hostRelease (dropEntries s c r)).modCtx c fun x =>
      { x with tlbiCtl := v &&& 0x1FFFF ||| 0x20000, tlbiGo := s.now, tlbiAt := s.nextSet, tlbiRange := r }
def execTlbiGo (c : Nat) (v : Word) (s : State) : Out := .next (writeTlbiCtl s c v)

/-- An access set translated before an invalidation, through its range. -/
def usedOld (s : State) (c : Nat) (x : Ctx) (a : ASet) : Bool :=
  a.id < x.tlbiAt && a.phase != .xlate && !a.sram && setCtx s a == c && a.accs.any fun y => y.n != 0 && inTlbi x.tlbiRange (y.va / 65536)
/-- The party under whose number a request for a piece travels belongs to a context, or may. -/
def tokenOf (s : State) (c tok : Nat) : Bool :=
  let k := tok - noSet
  if tok < noSet ∨ 2 ^ 40 ≤ k then false
  else if 0x10000 ≤ k then ctxIx s (groupAt s ((k - 0x10000) / 2)) == c
  else if 0x100 ≤ k then (stageOr s (k - 0x100)).ctx == c
  else true
/-- A piece or granule that this package asked another for, translated before an invalidation and not yet answered. -/
def askedOld (s : State) (c : Nat) (x : Ctx) (e : Env) : Bool :=
  e.src == aid s && decide (e.at_ ≤ x.tlbiGo) && (match e.msg with | .remote id _ _ _ _ _ _ _ _ => tokenOf s c id | _ => false)
def granulesOld (s : State) (c : Nat) (x : Ctx) (g : Group) : Bool :=
  ctxIx s g == c && g.fabric.cmds.any fun k => k.outs.any fun o => decide (o.2 ≤ x.tlbiGo) && inTlbi x.tlbiRange (o.1 / 65536)
/-- TLBI_DONE: the entries have been dropped, and the accesses that used them have committed or been performed at their target. -/
def execTlbiDone (c : Nat) (s : State) : Out :=
  let x := ctxAt s c
  let n := x.tlbiRange.2.toNat
  let drop := if bit n 16 then 600 else 120 + ceilDiv (n % 65536) 16
  let old := s.sets.any (usedOld s c x) || s.net.any (askedOld s c x) || s.groups.any (granulesOld s c x)
  .next (if bit x.tlbiCtl.toNat 18 ∨ s.now < x.tlbiGo + drop ∨ old then s
    else s.modCtx c fun x => { x with tlbiCtl := x.tlbiCtl &&& 0x1FFFF ||| 0x40000 })

/-! ## The host (R296, R354, R360) -/

/-- HOST_APERTURE_ACCESS of `n` bytes at offset `off` of the aperture BAR. -/
def execHostApertureAccess (off n : Nat) (wr : Bool) (v : Word) (s : State) : Out :=
  let c := off / 2 ^ 32
  let w := ((ctxAt s c).wins.getD (off / 2 ^ 30 % 4) 0).toNat
  let o := off % 2 ^ 30
  let va := bits w 47 16 * 65536 + o
  let who : Issuer := .host off va wr
  if 64 ≤ c then .next s
  else if !bit w 0 ∨ 2 ^ (bits w 12 8) ≤ o then .next (issuerFault s who Tc.windowRange 0 0 wr)
  else if wr then
    .next (match writeAsParty s .host c who va (leBytes n v.toNat) with
      | .done s _ => s
      | .wait s => s
      | .fault s f _ => issuerFault s who f.cause f.level f.entry true)
  else
    .next (match readAsParty s .host c .read who va n with
      | .done s b => hostAnswer s 0 (w64 (leNat b))
      | .wait s => s
      | .fault s f _ => issuerFault s who f.cause f.level f.entry false)

/-- HOST_ATOMIC_INBOUND: Unsupported Request. -/
def execHostAtomicInbound (_off : Nat) (s : State) : Out := .next (hostAnswer s 1 0)

/-- HOST_SNOOP of the 64-byte host line at `a` (R354): the answer says whether this device held it, and whether modified, with its data then
written back; it then holds it no more. The lines of a gated die stand in the same record. -/
def execHostSnoop (a : Nat) (s : State) : Out :=
  let line := (0xFFF * 2 ^ 52 + a % 2 ^ 52) / 64
  let held := s.hub.hostLines.contains line
  .next ((hostAnswer s 2 (w64 (held.toNat + 2 * (s.hub.hostDirty.contains line).toNat))).modHub fun h =>
    { h with hostLines := h.hostLines.filter (· != line), hostDirty := h.hostDirty.filter (· != line) })

end Sys2Proof.Machine
end

