-- ==== Sys2Proof/Machine/Boundary.lean ====
section
/-! DEFINITION. The boundaries (13, 14): the fault-address queue and bank tests, self-refresh, hub register writes, stations and lost packages,
power, thermal limits, bring-up and SPDM. -/

namespace Sys2Proof.Machine

open Sys2Proof

/-! ## The AMC fault-address queue (R193, R197, R351) -/

/-- A record: KIND, then stack, set, way and line as bytes 2 to 9, the GPN and CYCLE. Bits [63:56] of `a` hold the line's low byte. -/
def faqWords (s : State) (kind a gpn : Nat) : List Word :=
  let b := leBytes 2 kind ++ leBytes 8 a ++ List.replicate 6 0
  [w64 (field b 0 8), w64 (field b 8 8), w64 gpn, w64 s.cycle]

/-- The hub keeps 256 unwritten records and counts what comes beyond them. -/
def keepFaq (s : State) (r : List Word) : State :=
  s.modHub fun h => if 256 ≤ h.faq.length then { h with faqLost := h.faqLost + 1 } else { h with faq := h.faq ++ [r] }

/-- The frame of a fault: set and way as `a` gives them. -/
def faqSet (a : Nat) : Nat := bits a 47 16
def faqWay (a : Nat) : Nat := bits a 55 48

/-- What a failure does beside its record: kinds 3 and 4 poison the block of four lines, and kind 5 retires the way. -/
def faqEffect (s : State) (kind a gpn : Nat) : State :=
  let block := 512 * gpn + bits a 64 56 / 4 * 4
  let poison (cause : Cause) : State :=
    s.modAm fun m =>
      { m with poison := (List.range 4).map (fun k => (block + k, cause)) ++ m.poison.filter fun p => p.1 / 4 != block / 4 }
  match kind with
  | 3 => bumpStat (bumpStat (poison Tc.amMetaUe) 9) 10
  | 4 => bumpStat (poison Tc.amBlockPoison) 9
  | 5 =>
    let lost := (tagAt s (faqSet a) (faqWay a)).filter fun t => t.state != .retired && t.state != .shadow
    retireFrame ((lost.map fun t => dropPage s t.gpn).getD s) (faqSet a) (faqWay a)
  | _ => s

/-- Unwritten records go into the ring while it has room, each with MVEC. -/
def flushFaq : Nat → State → State
  | 0, s => s
  | fuel + 1, s =>
    let h := s.hub
    match h.faq, ringSize h.faqSize, ringAt h.faqBase none with
    | _, _, .none => s
    | r :: rest, some n, ring =>
      if h.faqHold ∨ (h.faqTail.toNat + 1) % n = h.faqHead.toNat % n then s
      else match ringWrite s 65 ring (32 * (h.faqTail.toNat % n)) (r.flatMap fun w => leBytes 8 w.toNat) with
        | .done s _ =>
          flushFaq fuel (sendMvec (s.modHub fun h => { h with faq := rest, faqTail := BitVec.ofNat 12 ((h.faqTail.toNat + 1) % n) }))
        | .wait s => s
        | .fault s _ _ => holdRing s 65
    | _, _, _ => s
def writeFaq (s : State) : State := flushFaq s.hub.faq.length s

/-- FAQ_RECORD: a failure of kind 1 to 5 and its record; with any other number the hub only goes on writing what it keeps. -/
def execFaqRecord (kind a gpn : Nat) (s : State) : Out :=
  .next (if 1 ≤ kind ∧ kind ≤ 5 then writeFaq (keepFaq (faqEffect s kind a gpn) (faqWords s kind a gpn)) else writeFaq s)

/-! ## Ring bases (R358) -/

def writeAmqBase (s : State) (v : Word) : State := s.modHub fun h => { h with amqBase := w64 (v.toNat / 4096 * 4096), amqHold := false }
def writeFaqBase (s : State) (v : Word) : State :=
  writeFaq (s.modHub fun h => { h with faqBase := w64 (v.toNat / 4096 * 4096), faqHold := false })
/-- RING_BASE_WRITE at a register's offset. -/
def execRingBaseWrite (off : Nat) (v : Word) (s : State) : Out :=
  .next (if off = 0x50000 then writeAmqBase s v
    else if off = 0x70000 then writeFaqBase s v
    else if 0x40000 ≤ off ∧ off < 0x48000 ∧ off % 0x200 = 0x18 then writeFqBase s ((off - 0x40000) / 0x200) v
    else s)

/-! ## Bank tests, the bad-frame list and self-refresh (R352, R353, R355) -/

/-- Some way of the bank holds a page. -/
def bankHolds (s : State) (b : Nat × Nat) : Bool :=
  s.am.tags.any fun t => bankOf t.set t.way == b && t.state != .invalid && t.state != .retired
/-- A write of BT_CTL: its fields, and with GO a test; GO reads 1 until DONE, and is ignored while DONE = 0 (notes/assumptions/86.md). -/
def writeBtCtl (s : State) (v : Word) : State :=
  let n := v.toNat
  let b := (n % 8, bits n 13 8)
  let arg := n % 8 + 2 ^ 8 * bits n 13 8
  if !bit n 16 ∨ !bit s.hub.btCtl.toNat 17 then s.modHub fun h => { h with btCtl := w64 (arg + h.btCtl.toNat / 2 ^ 16 % 8 * 2 ^ 16) }
  else if s.am.parked.contains b ∧ !bankHolds s b then s.modHub fun h => { h with btCtl := w64 (arg + 2 ^ 16), btAt := s.now }
  else s.modHub fun h => { h with btCtl := w64 (arg + 2 ^ 17 + 2 ^ 18) }
def execBankTestGo (v : Word) (s : State) : Out := .next (writeBtCtl s v)
/-- BANK_TEST_DONE: the test took 5,242,880 dc; `v` is what it found (BT_RES). -/
def execBankTestDone (v : Word) (s : State) : Out :=
  .next (if bit s.hub.btCtl.toNat 17 ∨ s.now < s.hub.btAt + 5242880 then s
    else s.modHub fun h => { h with btCtl := h.btCtl &&& 0x4FFFF ||| 0x20000, btRes := w64 (v.toNat % 2 ^ 55) })

/-- TMC_BADFRAME_APPEND: a full list refuses. -/
def execTmcBadframeAppend (v : Word) (s : State) : Out :=
  .next (if 4096 ≤ s.hub.badFrames.length then s else s.modHub fun h => { h with badFrames := h.badFrames ++ [w64 (v.toNat % 2 ^ 26)] })

/-- SELF_REFRESH_ENTRY of a pseudo-channel idle for 2^16 dc. -/
def execSelfRefreshEntry (stack pc : Nat) (s : State) : Out :=
  let key := 32 * stack + pc
  .next (if 8 ≤ stack ∨ 32 ≤ pc ∨ s.hub.selfRef.contains key ∨ s.cycle < tget 0 s.hub.chanUse key + 2 ^ 16 then s
    else s.modHub fun h => { h with selfRef := key :: h.selfRef })

/-! ## Stations and lost packages (R363 to R365) -/

/-- The package finds itself lost: no station of it is up again. -/
def selfLost (s : State) : Bool := s.am.lost.contains (aid s)
/-- STATION_STATE_CHANGE of station `k`. Number 16 stands for a station that meets a switch reporting another package with this AID (R364). -/
def execStationStateChange (k : Nat) (up : Bool) (s : State) : Out :=
  .next (if k = 16 then sendMvec (s.modHub fun h => { h with stnUp := 0, aidClash := true })
    else if 16 ≤ k ∨ (up ∧ (selfLost s ∨ s.hub.aidClash)) then s
    else s.modHub fun h => { h with stnUp := if up then h.stnUp ||| (1#16 <<< k) else h.stnUp &&& ~~~(1#16 <<< k) })

/-- A fabric command names an AID (R220). -/
def namesAid (lost : List Nat) (c : EngCmd) : Bool :=
  let w (k : Nat) : Nat := (c.words.getD k 0).toNat
  (w 0 % 256 == 0x14 && lost.contains (w 1 % 1024)) || (w 0 % 256 == 0x11 && hdrCnt (w 0) && lost.contains (w 4 % 1024))
/-- Commands that name a lost package complete with status 0x04. -/
def loseCommands (lost : List Nat) (e : Engine) : Engine :=
  { e with cmds := e.cmds.map fun c =>
      if namesAid lost c && !(c.fin && c.acks == 0) then { c with stat := 4, fin := true, began := true, acks := 0, buf := none } else c }

/-- A write of POD_LOST register `k` (R361, R365). -/
def writePodLost (s : State) (k : Nat) (v : Word) : State :=
  let old := s.hub.podLost.getD k 0
  let new := ((List.range 64).filter fun j => v.getLsbD j && !old.getLsbD j).map (64 * k + ·)
  if 16 ≤ k ∨ new.isEmpty then s
  else
    let s := s.modHub fun h => { h with podLost := h.podLost.set k (old ||| v) }
    let s := losePackages s new
    let s := { s with groups := s.groups.map fun g => { g with fabric := loseCommands new g.fabric } }
    let s := if new.contains (aid s) then s.modHub fun h => { h with stnUp := 0 } else s
    sendMvec s
def execPodLost (k : Nat) (v : Word) (s : State) : Out := .next (writePodLost s k v)

/-- POOL_PORT_STATE_CHANGE (R362). -/
def execPoolPortStateChange (up : Bool) (s : State) : Out := .next (s.modHub fun h => { h with poolUp := up })

/-! ## Dies (R354, R368, R370) -/

def dieBusy (s : State) (d : Nat) : Bool := s.teams.any fun t => onCore t && dieOf s t.core == d
/-- A team waits for a core of the die. -/
def dieWanted (s : State) (d : Nat) : Bool :=
  (List.range s.teams.length).any fun i => let t := teamAt s i
    (t.state == .dealt || t.state == .out) && mayPlace s (teamCtx s i) && dieOf s t.dealt == d

/-- The lines of a die go back to their frames (R152), narrow ones to their slices first, and its caches are empty; its dirty host lines are
written back, and its shared ones stay recorded (R354). -/
def drainDie (s : State) (d : Nat) : State :=
  let mine (l : L1Line) : Bool := l.core / 36 == d
  let held (l : L1Line) : Bool := mine l && (l.narrow.isSome || pinCoreOf s (l.line / 512) == some l.core)
  let s := (s.l1.filter held).foldl giveTimes s
  let lines := ((s.sectors.map (·.1 / 4)).dedup).filter fun l => homeSlice (128 * l) / 48 == d && (tagOf s (l / 512)).isSome
  let s := s.modHub fun h => { h with hostDirty := h.hostDirty.filter fun k => homeSlice (64 * k) / 48 != d }
  lines.foldl evictLine { s with
    l1 := s.l1.filter fun l => !mine l
    l1tlb := s.l1tlb.filter fun e => e.1 / 36 != d
    dieTlb := s.dieTlb.filter fun e => e.1 != d }

/-- DIE_GATE: no team has been resident on the die for 2^20 dc. -/
def execDieGate (d : Nat) (s : State) : Out :=
  .next (if 2 ≤ d ∨ dieGated s d ∨ !bit s.hub.pmGate.toNat 8 ∨ dieBusy s d ∨ dieWanted s d ∨ s.cycle < s.hub.busyAt.getD d 0 + 2 ^ 20 then s
    else (drainDie s d).modHub fun h => { h with pmGate := h.pmGate ||| (1#64 <<< d), gateAt := h.gateAt.set d none })

/-- Ungating begins. -/
def beginUngate (s : State) (d : Nat) : State :=
  if dieGated s d ∧ (s.hub.gateAt.getD d none).isNone then s.modHub fun h => { h with gateAt := h.gateAt.set d (some s.now) } else s
/-- DIE_UNGATE: it begins when a team waits for the die, and takes 28,000 dc. -/
def execDieUngate (d : Nat) (s : State) : Out :=
  .next (match s.hub.gateAt.getD d none with
    | none => if dieWanted s d then beginUngate s d else s
    | some t =>
      if s.now < t + 28000 then s
      else s.modHub fun h =>
        { h with pmGate := h.pmGate &&& ~~~(1#64 <<< d), gateAt := h.gateAt.set d none, busyAt := h.busyAt.set d s.cycle })

/-- A write of PM_GATE. -/
def writePmGate (s : State) (v : Word) : State :=
  let s := s.modHub fun h => { h with pmGate := w64 (h.pmGate.toNat % 4 + 2 ^ 8 * (bit v.toNat 8).toNat) }
  if bit v.toNat 8 then s else beginUngate (beginUngate s 0) 1
def execPmGateWrite (v : Word) (s : State) : Out := .next (writePmGate s v)

/-! ## Limits (R369, R370) -/

/-- PM_THROT after an evaluation: module power in W, junction and HBM temperatures in °C. -/
def throttle (limit throt w tj th : Nat) : Nat :=
  let duty := throt % 64
  let pwr := limit < w
  let hot := 95 < tj
  let hbm := 85 < th
  if pwr ∨ hot ∨ hbm then
    min 63 (duty + 1) + 2 ^ 8 * (decide pwr).toNat + 2 ^ 9 * (decide hot).toNat + 2 ^ 10 * (decide hbm).toNat
  else if 100 * w ≤ 95 * limit ∧ tj ≤ 92 ∧ th ≤ 82 then duty - 1 else duty

/-- THERMAL_EVAL, once in a dc with CYCLE mod 2^14 = 0. -/
def execThermalEval (w tj th : Nat) (s : State) : Out :=
  let h := s.hub
  let old := h.pmThrot.toNat
  let new := throttle (h.pmLimit.toNat % 2 ^ 12) old w tj th
  if s.cycle % 2 ^ 14 ≠ 0 ∨ s.cycle ≤ h.pmAt then .next s
  else
    let s := s.modHub fun h =>
      { h with
        pmThrot := w64 new, pmPower := w64 (w % 2 ^ 12), pmTemp := w64 (tj % 256 + 256 * (th % 256)), pmAt := s.cycle }
    .next (if new / 2 ^ 8 ≠ old / 2 ^ 8 ∨ (new % 64 = 0) ≠ (old % 64 = 0) then sendMvec s else s)

/-- THERMAL_SHUTDOWN at a junction temperature of 110 °C: the event is reported, and the module is off. -/
def execThermalShutdown (tj : Nat) (s : State) : Out :=
  .next (if tj < 110 then s else (sendMvec s).modHub fun h => { h with power := .off })

/-! ## Power states and bring-up (R367, R368) -/

/-- Every context is off and no team is resident. -/
def quietModule (s : State) : Bool := s.ctxs.all (fun x => !bit x.ctl.toNat 0) && !s.teams.any onCore
def execD3hotEntry (s : State) : Out :=
  .next (if s.hub.power = .d0 ∧ quietModule s then s.modHub fun h => { h with power := .d3hot, selfRef := List.range 256 } else s)
def execD3hotExit (s : State) : Out :=
  .next (if s.hub.power = .d3hot then s.modHub fun h => { h with power := .d0, selfRef := [] } else s)
/-- D3COLD_ENTRY: main power goes. -/
def execD3coldEntry (s : State) : Out :=
  .next (if s.hub.power = .off then s else s.modHub fun h => { h with power := .d3cold })

/-- A frame of the bad-frame list is RETIRED (R352). -/
def badTag (v : Word) : Tag :=
  { set := bits v.toNat 21 3, way := bits v.toNat 25 22, gpn := 0, state := .retired, heat := 0, epoch := 0, pin := false, comp := false,
    transit := false, shared := false, fwt := 0, fle := 0 }

/-- The module after its reset values, with what lies outside it or outlives a reset: host and pool memory, what has been sent, the
bad-frame list, the fuses, the AID and pod size from the TMC, the schedule. -/
def bringUp (s : State) (coh : Bool) (pod : BitVec 21) (h0 h1 : BitVec 36) : State :=
  let r := State.reset
  let hub : Hub :=
    { r.hub with
      hostCtl := w64 coh.toNat, podId := pod.setWidth 64, harvest0 := h0, harvest1 := h1, badFrames := s.hub.badFrames
      draws := s.hub.draws, vectors := s.hub.vectors, spdm := s.hub.spdm, hostOut := s.hub.hostOut }
  { r with
    sched := s.sched, mem := s.mem.filter fun c => 0xFFE * 2 ^ 52 ≤ c.1, net := s.net.filter fun e => e.dst != aid s, hub := hub
    am := { r.am with tags := s.hub.badFrames.map badTag } }

/-- POWER_ON: from no power, every step of bring-up. -/
def execPowerOn (coh : Bool) (pod : BitVec 21) (h0 h1 : BitVec 36) (s : State) : Out :=
  .next (if s.hub.power = .off then bringUp s coh pod h0 h1 else s)
/-- MODULE_RESET of a powered module. -/
def execModuleReset (coh : Bool) (s : State) : Out :=
  .next (if s.hub.power = .off ∨ s.hub.power = .d3cold then s
    else bringUp s coh (s.hub.podId.setWidth 21) s.hub.harvest0 s.hub.harvest1)
/-- D3COLD_EXIT: bring-up from its step 2. -/
def execD3coldExit (coh : Bool) (pod : BitVec 21) (s : State) : Out :=
  .next (if s.hub.power = .d3cold then bringUp s coh pod s.hub.harvest0 s.hub.harvest1 else s)

/-! ## SPDM (R372) -/

/-- A request is answered; the payload is free (notes/assumptions/6.md). -/
def answerSpdm (s : State) (req : Nat) : State :=
  s.modHub fun h => { h with spdm := h.spdm ++ [(req, Config.spdmPayload req h.draws)], draws := h.draws + 1 }
def execGetVersion (s : State) : Out := .next (answerSpdm s 0)
def execGetCapabilities (s : State) : Out := .next (answerSpdm s 1)
def execNegotiateAlgorithms (s : State) : Out := .next (answerSpdm s 2)
def execGetDigests (s : State) : Out := .next (answerSpdm s 3)
def execGetCertificate (s : State) : Out := .next (answerSpdm s 4)
def execChallenge (s : State) : Out := .next (answerSpdm s 5)
def execGetMeasurements (s : State) : Out := .next (answerSpdm s 6)

/-! ## Hub registers (R357) -/

/-- A write in the CP block (R252, R268, R269). -/
def writeCp (s : State) (off : Nat) (v : Word) : State :=
  let n := v.toNat
  if 0x10000 ≤ off ∧ off < 0x20000 then
    let c := (off - 0x10000) / 0x400
    let q := off % 0x400 / 0x40
    match off % 0x40 with
    | 0x00 => writeLqBase s c q v
    | 0x08 => modLq s c q fun x => { x with ctl := v &&& 0x1031FFF }
    | 0x10 => modLq s c q fun x => { x with tail := BitVec.ofNat 12 n }
    | _ => s
  else if 0x20000 ≤ off ∧ off < 0x24800 then
    s.modHub fun h =>
      { h with staged := (List.range 8).foldl (fun t k => tset 0 t (off - 0x20000 + k) (BitVec.ofNat 8 (n / 2 ^ (8 * k)))) h.staged }
  else if off = 0x24800 then writeCsl s v
  else s

/-- A write of CTX_CTL; a SPACE that no context may have leaves the field (R295). -/
def ctlWrite (old v : Nat) : Word :=
  w64 (v % 8 + 2 ^ 16 * (if 0xFFD ≤ bits v 27 16 then bits old 27 16 else bits v 27 16))
/-- A write in a context's registers (R295, R336), at offset `o` among them. -/
def writeCtxReg (s : State) (c o : Nat) (v : Word) : State :=
  let n := v.toNat
  match o with
  | 0x00 => s.modCtx c fun x => { x with ctl := ctlWrite x.ctl.toNat n }
  | 0x08 => s.modCtx c fun x => { x with ptroot := w64 (n / 2 ^ 11 * 2 ^ 11) }
  | 0x10 => s.modCtx c fun x =>
      let drop := bit x.msix.toNat 63 && !bit n 63
      { x with msix := w64 (n % 2 ^ 11 + 2 ^ 16 * min 2048 (bits n 27 16) + 2 ^ 63 * drop.toNat) }
  | 0x18 => writeFqBase s c v
  | 0x20 => s.modCtx c fun x => { x with fqCtl := v &&& 0x7FF1FFF }
  | 0x30 => s.modCtx c fun x => { x with fqHead := BitVec.ofNat 12 n }
  | 0x38 =>
      if bit n 33 then killWhere s c (n % 2 ^ 33)
      else releaseWhere s c false fun r => bit n 32 || r.seq == n % 2 ^ 32
  | 0x40 => s.modCtx c fun x => { x with tlbiVa := w64 (bits n 47 16 * 65536) }
  | 0x48 => writeTlbiCtl s c v
  | 0x60 => s.modCtx c fun x => { x with wins := x.wins.set 0 (v &&& 0xFFFFFFFF1F01) }
  | 0x68 => s.modCtx c fun x => { x with wins := x.wins.set 1 (v &&& 0xFFFFFFFF1F01) }
  | 0x70 => s.modCtx c fun x => { x with wins := x.wins.set 2 (v &&& 0xFFFFFFFF1F01) }
  | 0x78 => s.modCtx c fun x => { x with wins := x.wins.set 3 (v &&& 0xFFFFFFFF1F01) }
  | 0x80 => s.modCtx c fun x => { x with tvec := w64 (n / 4096 * 4096 + n % 2), checked := [] }
  | 0x88 => s.modCtx c fun x => { x with harea := w64 (n / 4096 * 4096) }
  | 0x90 => s.modCtx c fun x => { x with save := w64 (n / 65536 * 65536 + n % 4096) }
  | 0x98 => s.modCtx c fun x => { x with savesz := w64 (n % 65536) }
  | 0xA0 => s.modCtx c fun x => { x with rb := w64 (n % 2) }
  | 0xA8 => writeCkpt s c v
  | 0xB8 => s.modCtx c fun x => { x with fatal := if bit n 8 then x.fatal &&& ~~~256#64 else x.fatal }
  | _ => s
/-- A write in the CTX block (R295, R298, R336). -/
def writeCtx (s : State) (off : Nat) (v : Word) : State :=
  if off < 0x48000 then writeCtxReg s ((off - 0x40000) / 0x200) (off % 0x200) v
  else if off < 0x48200 then
    let i := (off - 0x48000) / 8
    s.modHub fun h => { h with spaces := h.spaces.set i (if i = 63 then v &&& 0x1FFFFFFFFFFFFFFF else v) }
  else s

/-- A write in the MBX block (R317). -/
def writeMbx (s : State) (off : Nat) (v : Word) : State :=
  let c := (off - 0x60000) / 0x40
  let n := v.toNat
  match off % 0x40 with
  | 0x00 => s.modCtx c fun x => { x with mbxBase := w64 (bits n 47 10 * 1024) }
  | 0x08 => writeMbxCtl s c v
  | 0x10 => writeEpCmd s c (n % 2 ^ 14) (bits n 17 16)
  | _ => s

/-- A write in the LINK block (R361). -/
def writeLink (s : State) (off : Nat) (v : Word) : State :=
  let n := v.toNat
  match off with
  | 0x80000 => s.modHub fun h => { h with hostCtl := w64 (h.hostCtl.toNat % 2 + 2 * bits n 14 1) }
  | 0x80008 => s.modHub fun h => { h with poolBase := w64 (n / 65536 * 65536) }
  | 0x80010 =>
      let used := s.am.poolPg.map (·.2)
      (s.modHub fun h => { h with poolPart := v }).modAm fun a =>
        { a with poolFree := ((List.range (n / 2 ^ 32)).map (n % 2 ^ 32 + ·)).filter fun p => !used.contains p }
  | _ => if 0x80040 ≤ off ∧ off < 0x800C0 then writePodLost s ((off - 0x80040) / 8) v else s

/-- A write of a hub register of the AM, RAS or PM block (R198, R351, R353, R370). -/
def writeHubReg (s : State) (off : Nat) (v : Word) : State :=
  let n := v.toNat
  match off with
  | 0x50000 => writeAmqBase s v
  | 0x50008 => s.modHub fun h => { h with amqSize := w64 (n % 2 ^ 13) }
  | 0x50010 => s.modHub fun h => { h with amqTail := BitVec.ofNat 12 n }
  | 0x70000 => writeFaqBase s v
  | 0x70008 => writeFaq (s.modHub fun h => { h with faqSize := w64 (n % 2 ^ 13) })
  | 0x70018 => writeFaq (s.modHub fun h => { h with faqHead := BitVec.ofNat 12 n })
  | 0x70040 => writeBtCtl s v
  | 0x90000 => s.modHub fun h => { h with pmLimit := w64 (max 300 (min 2100 (n % 2 ^ 12))) }
  | 0x90028 => writePmGate s v
  | _ => s

/-- The fields of a launch queue's, and of a context's, registers as they read (R252, R295, R336): FQ_REPLAY reads 0. -/
def readLq (x : LaunchQ) (o : Nat) : Word :=
  match o with
  | 0x00 => x.base
  | 0x08 => x.ctl
  | 0x10 => x.tail.setWidth 64
  | 0x18 => x.head.setWidth 64
  | 0x20 => x.done
  | _ => 0
def readCtxReg (x : Ctx) (o : Nat) : Word :=
  match o with
  | 0x00 => x.ctl
  | 0x08 => x.ptroot
  | 0x10 => x.msix
  | 0x18 => x.fqBase
  | 0x20 => x.fqCtl
  | 0x28 => x.fqTail.setWidth 64
  | 0x30 => x.fqHead.setWidth 64
  | 0x40 => x.tlbiVa
  | 0x48 => x.tlbiCtl
  | 0x60 => x.wins.getD 0 0
  | 0x68 => x.wins.getD 1 0
  | 0x70 => x.wins.getD 2 0
  | 0x78 => x.wins.getD 3 0
  | 0x80 => x.tvec
  | 0x88 => x.harea
  | 0x90 => x.save
  | 0x98 => x.savesz
  | 0xA0 => x.rb
  | 0xA8 => x.ckpt
  | 0xB0 => x.ckgen
  | 0xB8 => x.fatal
  | _ => 0
/-- The mailbox registers of a context (R317): EP_CMD reads 0. -/
def readMbxReg (x : Ctx) (o : Nat) : Word :=
  match o with
  | 0x00 => x.mbxBase
  | 0x08 => x.mbxCtl
  | 0x18 => x.epRes
  | _ => 0
/-- A register of the AM, RAS, LINK or PM block (R198, R351, R353, R361, R370). -/
def readHubReg (h : Hub) (off : Nat) : Word :=
  match off with
  | 0x50000 => h.amqBase
  | 0x50008 => h.amqSize
  | 0x50010 => h.amqTail.setWidth 64
  | 0x50018 => h.amqHead.setWidth 64
  | 0x70000 => h.faqBase
  | 0x70008 => h.faqSize
  | 0x70010 => h.faqTail.setWidth 64
  | 0x70018 => h.faqHead.setWidth 64
  | 0x70040 => h.btCtl
  | 0x70048 => h.btRes
  | 0x80000 => h.hostCtl
  | 0x80008 => h.poolBase
  | 0x80010 => h.poolPart
  | 0x80018 => h.podId
  | 0x80020 => h.stnUp.setWidth 64
  | 0x90000 => h.pmLimit
  | 0x90008 => h.pmPower
  | 0x90010 => h.pmTemp
  | 0x90018 => h.pmThrot
  | 0x90020 => w64 h.pmOffdc
  | 0x90028 => h.pmGate
  | _ => if 0x80040 ≤ off ∧ off < 0x800C0 then h.podLost.getD ((off - 0x80040) / 8) 0 else 0
/-- A hub register as it reads (R6, R357): what is write-only, and what lies outside the blocks, reads 0. -/
def readRegister (s : State) (off : Nat) : Word :=
  if off < 0x10000 then w64 (leNat ((List.range 8).map fun k => lptabByte s (off + k)))
  else if off < 0x20000 then readLq (lqAt s ((off - 0x10000) / 0x400) (off % 0x400 / 0x40)) (off % 0x40)
  else if off < 0x24800 then w64 (leNat ((List.range 8).map fun k => tget 0 s.hub.staged (off - 0x20000 + k)))
  else if off < 0x40000 then 0
  else if off < 0x48000 then readCtxReg (ctxAt s ((off - 0x40000) / 0x200)) (off % 0x200)
  else if off < 0x48200 then s.hub.spaces.getD ((off - 0x48000) / 8) 0
  else if 0x60000 ≤ off ∧ off < 0x61000 then readMbxReg (ctxAt s ((off - 0x60000) / 0x40)) (off % 0x40)
  else readHubReg s.hub off
/-- A read of the register BAR by the host: of 8 aligned bytes its value, of any other Unsupported Request. -/
def hostRead (s : State) (off n : Nat) : State :=
  if n ≠ 8 ∨ off % 8 ≠ 0 ∨ 2 ^ 24 ≤ off then hostAnswer s 1 0 else hostAnswer s 0 (readRegister s off)

/-- REGISTER_WRITE: 8 bytes at an offset of the register BAR; a misaligned one completes with Unsupported Request. -/
def execRegisterWrite (off : Nat) (v : Word) (s : State) : Out :=
  .next (if off % 8 ≠ 0 ∨ 2 ^ 24 ≤ off then hostAnswer s 1 0
    else if off < 0x40000 then writeCp s off v
    else if off < 0x50000 then writeCtx s off v
    else if 0x60000 ≤ off ∧ off < 0x61000 then writeMbx s off v
    else if 0x80000 ≤ off ∧ off < 0x81000 then writeLink s off v
    else writeHubReg s off v)

end Sys2Proof.Machine
end

