-- ==== Sys2Proof/Machine/Dispatch.lean ====
section
/-! DEFINITION. The meaning of every instruction and step: one arm for each constructor, a direct call of its meaning. -/

namespace Sys2Proof.Machine

open Sys2Proof

def exec (i : Instr) (s : State) : Host.Outcome State Fault Refusal :=
  match i with
  | .saddReg d a b => Sys2Proof.Machine.execSaddReg d a b s
  | .ssub d a b => Sys2Proof.Machine.execSsub d a b s
  | .smulReg d a b => Sys2Proof.Machine.execSmulReg d a b s
  | .smulh d a b u => Sys2Proof.Machine.execSmulh d a b u s
  | .sdivReg d a b u => Sys2Proof.Machine.execSdivReg d a b u s
  | .sremReg d a b u => Sys2Proof.Machine.execSremReg d a b u s
  | .sandReg d a b => Sys2Proof.Machine.execSandReg d a b s
  | .sorReg d a b => Sys2Proof.Machine.execSorReg d a b s
  | .sxorReg d a b => Sys2Proof.Machine.execSxorReg d a b s
  | .sshlReg d a b => Sys2Proof.Machine.execSshlReg d a b s
  | .sshrReg d a b => Sys2Proof.Machine.execSshrReg d a b s
  | .ssraReg d a b => Sys2Proof.Machine.execSsraReg d a b s
  | .sminReg d a b u => Sys2Proof.Machine.execSminReg d a b u s
  | .smaxReg d a b u => Sys2Proof.Machine.execSmaxReg d a b u s
  | .scmp d a b c => Sys2Proof.Machine.execScmp d a b c s
  | .ssel d a b => Sys2Proof.Machine.execSsel d a b s
  | .smovReg d a => Sys2Proof.Machine.execSmovReg d a s
  | .saddImm d a imm => Sys2Proof.Machine.execSaddImm d a imm s
  | .smulImm d a imm => Sys2Proof.Machine.execSmulImm d a imm s
  | .sdivImm d a imm => Sys2Proof.Machine.execSdivImm d a imm s
  | .sremImm d a imm => Sys2Proof.Machine.execSremImm d a imm s
  | .sandImm d a imm => Sys2Proof.Machine.execSandImm d a imm s
  | .sorImm d a imm => Sys2Proof.Machine.execSorImm d a imm s
  | .sxorImm d a imm => Sys2Proof.Machine.execSxorImm d a imm s
  | .sshlImm d a imm => Sys2Proof.Machine.execSshlImm d a imm s
  | .sshrImm d a imm => Sys2Proof.Machine.execSshrImm d a imm s
  | .ssraImm d a imm => Sys2Proof.Machine.execSsraImm d a imm s
  | .sminImm d a imm => Sys2Proof.Machine.execSminImm d a imm s
  | .smaxImm d a imm => Sys2Proof.Machine.execSmaxImm d a imm s
  | .smovImm d imm => Sys2Proof.Machine.execSmovImm d imm s
  | .sld64 d a imm => Sys2Proof.Machine.execSld64 d a imm s
  | .sldN32 d a imm => Sys2Proof.Machine.execSldN32 d a imm s
  | .sldI32 d a imm => Sys2Proof.Machine.execSldI32 d a imm s
  | .sst64 d a imm => Sys2Proof.Machine.execSst64 d a imm s
  | .sstN32 d a imm => Sys2Proof.Machine.execSstN32 d a imm s
  | .sldw d w imm => Sys2Proof.Machine.execSldw d w imm s
  | .sbr c a b o => Sys2Proof.Machine.execSbr c a b o s
  | .sjmp o => Sys2Proof.Machine.execSjmp o s
  | .sjmpi a => Sys2Proof.Machine.execSjmpi a s
  | .scall o => Sys2Proof.Machine.execScall o s
  | .sret a => Sys2Proof.Machine.execSret a s
  | .lrun o => Sys2Proof.Machine.execLrun o s
  | .lsync => Sys2Proof.Machine.execLsync s
  | .sbar lvl => Sys2Proof.Machine.execSbar lvl s
  | .waittl a f => Sys2Proof.Machine.execWaittl a f s
  | .arma d a b c => Sys2Proof.Machine.execArma d a b c s
  | .waita a => Sys2Proof.Machine.execWaita a s
  | .waitcmp d a b sc w c => Sys2Proof.Machine.execWaitcmp d a b sc w c s
  | .waitif a n => Sys2Proof.Machine.execWaitif a n s
  | .sfence f sc => Sys2Proof.Machine.execSfence f sc s
  | .sget d ix => Sys2Proof.Machine.execSget d ix s
  | .sset a ix => Sys2Proof.Machine.execSset a ix s
  | .strap a c => Sys2Proof.Machine.execStrap a c s
  | .sexit => Sys2Proof.Machine.execSexit s
  | .eret => Sys2Proof.Machine.execEret s
  | .snop => Sys2Proof.Machine.execSnop s
  | .limm imm => Sys2Proof.Machine.execLimm imm s
  | .vadd w => Sys2Proof.Machine.execVadd w s
  | .vsub w => Sys2Proof.Machine.execVsub w s
  | .vmul w => Sys2Proof.Machine.execVmul w s
  | .vmulh w => Sys2Proof.Machine.execVmulh w s
  | .vmad w => Sys2Proof.Machine.execVmad w s
  | .vdiv w => Sys2Proof.Machine.execVdiv w s
  | .vrem w => Sys2Proof.Machine.execVrem w s
  | .vand w => Sys2Proof.Machine.execVand w s
  | .vor w => Sys2Proof.Machine.execVor w s
  | .vxor w => Sys2Proof.Machine.execVxor w s
  | .vandn w => Sys2Proof.Machine.execVandn w s
  | .vshl w => Sys2Proof.Machine.execVshl w s
  | .vshr w => Sys2Proof.Machine.execVshr w s
  | .vsra w => Sys2Proof.Machine.execVsra w s
  | .vrot w => Sys2Proof.Machine.execVrot w s
  | .vmin w => Sys2Proof.Machine.execVmin w s
  | .vmax w => Sys2Proof.Machine.execVmax w s
  | .vabs w => Sys2Proof.Machine.execVabs w s
  | .vneg w => Sys2Proof.Machine.execVneg w s
  | .vclz w => Sys2Proof.Machine.execVclz w s
  | .vpopc w => Sys2Proof.Machine.execVpopc w s
  | .vbrev w => Sys2Proof.Machine.execVbrev w s
  | .vbfe w => Sys2Proof.Machine.execVbfe w s
  | .vbfi w => Sys2Proof.Machine.execVbfi w s
  | .vsel w => Sys2Proof.Machine.execVsel w s
  | .vmov w => Sys2Proof.Machine.execVmov w s
  | .vcmp w => Sys2Proof.Machine.execVcmp w s
  | .vplog w => Sys2Proof.Machine.execVplog w s
  | .vaddc w => Sys2Proof.Machine.execVaddc w s
  | .fadd w => Sys2Proof.Machine.execFadd w s
  | .fsub w => Sys2Proof.Machine.execFsub w s
  | .fmul w => Sys2Proof.Machine.execFmul w s
  | .ffma w => Sys2Proof.Machine.execFfma w s
  | .fdiv w => Sys2Proof.Machine.execFdiv w s
  | .fsqrt w => Sys2Proof.Machine.execFsqrt w s
  | .fmin w => Sys2Proof.Machine.execFmin w s
  | .fmax w => Sys2Proof.Machine.execFmax w s
  | .fcmp w => Sys2Proof.Machine.execFcmp w s
  | .fclass w => Sys2Proof.Machine.execFclass w s
  | .frnd w => Sys2Proof.Machine.execFrnd w s
  | .fscale w => Sys2Proof.Machine.execFscale w s
  | .frcp w => Sys2Proof.Machine.execFrcp w s
  | .frsq w => Sys2Proof.Machine.execFrsq w s
  | .fexp2 w => Sys2Proof.Machine.execFexp2 w s
  | .flog2 w => Sys2Proof.Machine.execFlog2 w s
  | .fsinpi w => Sys2Proof.Machine.execFsinpi w s
  | .fcospi w => Sys2Proof.Machine.execFcospi w s
  | .cvtf w => Sys2Proof.Machine.execCvtf w s
  | .cvti w => Sys2Proof.Machine.execCvti w s
  | .cvtfi w => Sys2Proof.Machine.execCvtfi w s
  | .cvtn w => Sys2Proof.Machine.execCvtn w s
  | .cvtw w => Sys2Proof.Machine.execCvtw w s
  | .mxscale w => Sys2Proof.Machine.execMxscale w s
  | .mxpack w => Sys2Proof.Machine.execMxpack w s
  | .mxunpack w => Sys2Proof.Machine.execMxunpack w s
  | .bpnsplit w => Sys2Proof.Machine.execBpnsplit w s
  | .bpnjoin w => Sys2Proof.Machine.execBpnjoin w s
  | .vshfl w => Sys2Proof.Machine.execVshfl w s
  | .qxch w => Sys2Proof.Machine.execQxch w s
  | .vvote w => Sys2Proof.Machine.execVvote w s
  | .vmatch w => Sys2Proof.Machine.execVmatch w s
  | .vred w => Sys2Proof.Machine.execVred w s
  | .vscan w => Sys2Proof.Machine.execVscan w s
  | .vbcast w => Sys2Proof.Machine.execVbcast w s
  | .vtos w => Sys2Proof.Machine.execVtos w s
  | .pairWord w => Sys2Proof.Machine.execPairWord w s
  | .ldg w => Sys2Proof.Machine.execLdg w s
  | .stg w => Sys2Proof.Machine.execStg w s
  | .lds w => Sys2Proof.Machine.execLds w s
  | .sts w => Sys2Proof.Machine.execSts w s
  | .ldx w => Sys2Proof.Machine.execLdx w s
  | .pref w => Sys2Proof.Machine.execPref w s
  | .atomg w => Sys2Proof.Machine.execAtomg w s
  | .atoms w => Sys2Proof.Machine.execAtoms w s
  | .redg w => Sys2Proof.Machine.execRedg w s
  | .cas128 w => Sys2Proof.Machine.execCas128 w s
  | .mldb w => Sys2Proof.Machine.execMldb w s
  | .mma w => Sys2Proof.Machine.execMma w s
  | .mdrain w => Sys2Proof.Machine.execMdrain w s
  | .mfill w => Sys2Proof.Machine.execMfill w s
  | .mdrainb w => Sys2Proof.Machine.execMdrainb w s
  | .mfillb w => Sys2Proof.Machine.execMfillb w s
  | .mstat w => Sys2Proof.Machine.execMstat w s
  | .mresume w => Sys2Proof.Machine.execMresume w s
  | .mclr w => Sys2Proof.Machine.execMclr w s
  | .dbegin w => Sys2Proof.Machine.execDbegin w s
  | .dcommit w => Sys2Proof.Machine.execDcommit w s
  | .dabort w => Sys2Proof.Machine.execDabort w s
  | .dstat w => Sys2Proof.Machine.execDstat w s
  | .mbsend w => Sys2Proof.Machine.execMbsend w s
  | .mbgen w => Sys2Proof.Machine.execMbgen w s
  | .vbr w => Sys2Proof.Machine.execVbr w s
  | .vjmp w => Sys2Proof.Machine.execVjmp w s
  | .vjmpi w => Sys2Proof.Machine.execVjmpi w s
  | .vcall w => Sys2Proof.Machine.execVcall w s
  | .vcalli w => Sys2Proof.Machine.execVcalli w s
  | .vret w => Sys2Proof.Machine.execVret w s
  | .vjoin w => Sys2Proof.Machine.execVjoin w s
  | .vland w => Sys2Proof.Machine.execVland w s
  | .vexit w => Sys2Proof.Machine.execVexit w s
  | .lend w => Sys2Proof.Machine.execLend w s
  | .vnop w => Sys2Proof.Machine.execVnop w s
  | .vgets w => Sys2Proof.Machine.execVgets w s
  | .setexec w => Sys2Proof.Machine.execSetexec w s
  | .setpart w => Sys2Proof.Machine.execSetpart w s
  | .setcvm w => Sys2Proof.Machine.execSetcvm w s
  | .vtrap w => Sys2Proof.Machine.execVtrap w s
  | .vgett w => Sys2Proof.Machine.execVgett w s
  | .laneBlockStart g => Sys2Proof.Machine.execLaneBlockStart g s
  | .matrixCmdAccept q => Sys2Proof.Machine.execMatrixCmdAccept q s
  | .mldbComplete q => Sys2Proof.Machine.execMldbComplete q s
  | .mmaComplete q => Sys2Proof.Machine.execMmaComplete q s
  | .mclrComplete q => Sys2Proof.Machine.execMclrComplete q s
  | .matrixEventPush q => Sys2Proof.Machine.execMatrixEventPush q s
  | .matrixStop q => Sys2Proof.Machine.execMatrixStop q s
  | .storeSetLeave id => Sys2Proof.Machine.execStoreSetLeave id s
  | .loadSetCommit id => Sys2Proof.Machine.execLoadSetCommit id s
  | .storeSetCommit id => Sys2Proof.Machine.execStoreSetCommit id s
  | .homeSliceLoad id k => Sys2Proof.Machine.execHomeSliceLoad id k s
  | .homeSliceStore id k => Sys2Proof.Machine.execHomeSliceStore id k s
  | .homeSliceAtomic id k => Sys2Proof.Machine.execHomeSliceAtomic id k s
  | .writeQueueApply slice => Sys2Proof.Machine.execWriteQueueApply slice s
  | .publish line => Sys2Proof.Machine.execPublish line s
  | .amcTagLookup c => Sys2Proof.Machine.execAmcTagLookup c s
  | .tagScrub set => Sys2Proof.Machine.execTagScrub set s
  | .hintLookup c => Sys2Proof.Machine.execHintLookup c s
  | .directoryLookup m => Sys2Proof.Machine.execDirectoryLookup m s
  | .registration m => Sys2Proof.Machine.execRegistration m s
  | .holderRead m => Sys2Proof.Machine.execHolderRead m s
  | .notHeldAnswer m => Sys2Proof.Machine.execNotHeldAnswer m s
  | .staleAnswer m => Sys2Proof.Machine.execStaleAnswer m s
  | .registrationAck m => Sys2Proof.Machine.execRegistrationAck m s
  | .pageInstall m => Sys2Proof.Machine.execPageInstall m s
  | .takeBack m => Sys2Proof.Machine.execTakeBack m s
  | .climbTimeout c => Sys2Proof.Machine.execClimbTimeout c s
  | .dirFullTimeout m => Sys2Proof.Machine.execDirFullTimeout m s
  | .crownTransaction m => Sys2Proof.Machine.execCrownTransaction m s
  | .invalidation m => Sys2Proof.Machine.execInvalidation m s
  | .invalidationAck m => Sys2Proof.Machine.execInvalidationAck m s
  | .crownRelease m => Sys2Proof.Machine.execCrownRelease m s
  | .crownGrant m => Sys2Proof.Machine.execCrownGrant m s
  | .crownCompletion m => Sys2Proof.Machine.execCrownCompletion m s
  | .crownHoldExpire gpn => Sys2Proof.Machine.execCrownHoldExpire gpn s
  | .freeFrameSummary => Sys2Proof.Machine.execFreeFrameSummary s
  | .injectionOffer m => Sys2Proof.Machine.execInjectionOffer m s
  | .injectionAnswer m => Sys2Proof.Machine.execInjectionAnswer m s
  | .injectionConfirm m => Sys2Proof.Machine.execInjectionConfirm m s
  | .poolInjection gpn => Sys2Proof.Machine.execPoolInjection gpn s
  | .injectionRetry gpn => Sys2Proof.Machine.execInjectionRetry gpn s
  | .transitTimeout id => Sys2Proof.Machine.execTransitTimeout id s
  | .directoryRebuild gpn => Sys2Proof.Machine.execDirectoryRebuild gpn s
  | .recallQuery m => Sys2Proof.Machine.execRecallQuery m s
  | .rebuildTimeout id => Sys2Proof.Machine.execRebuildTimeout id s
  | .amQuery => Sys2Proof.Machine.execAmQuery s
  | .amStats => Sys2Proof.Machine.execAmStats s
  | .amPark => Sys2Proof.Machine.execAmPark s
  | .amUnpark => Sys2Proof.Machine.execAmUnpark s
  | .amRetire => Sys2Proof.Machine.execAmRetire s
  | .amDiscard => Sys2Proof.Machine.execAmDiscard s
  | .waitEntryPlace g => Sys2Proof.Machine.execWaitEntryPlace g s
  | .wake g => Sys2Proof.Machine.execWake g s
  | .waitcmpRepoll g => Sys2Proof.Machine.execWaitcmpRepoll g s
  | .copy g => Sys2Proof.Machine.execCopy g s
  | .fill g => Sys2Proof.Machine.execFill g s
  | .copy2d g => Sys2Proof.Machine.execCopy2d g s
  | .bpnprefix g => Sys2Proof.Machine.execBpnprefix g s
  | .put g => Sys2Proof.Machine.execPut g s
  | .get g => Sys2Proof.Machine.execGet g s
  | .atom g => Sys2Proof.Machine.execAtom g s
  | .signal g => Sys2Proof.Machine.execSignal g s
  | .engineCmdComplete g n fab => Sys2Proof.Machine.execEngineCmdComplete g n fab s
  | .completionWordPush g fab => Sys2Proof.Machine.execCompletionWordPush g fab s
  | .fabricGranuleArrive m => Sys2Proof.Machine.execFabricGranuleArrive m s
  | .fabricAck m => Sys2Proof.Machine.execFabricAck m s
  | .fabricTimeout g n => Sys2Proof.Machine.execFabricTimeout g n s
  | .arrivalCount m => Sys2Proof.Machine.execArrivalCount m s
  | .countTableTimeout m => Sys2Proof.Machine.execCountTableTimeout m s
  | .dbeginSlotGrant g => Sys2Proof.Machine.execDbeginSlotGrant g s
  | .dominoEdgeRequest id k => Sys2Proof.Machine.execDominoEdgeRequest id k s
  | .dominoAbortComplete slot => Sys2Proof.Machine.execDominoAbortComplete slot s
  | .dominoCommitStart slot => Sys2Proof.Machine.execDominoCommitStart slot s
  | .dominoCommitComplete slot => Sys2Proof.Machine.execDominoCommitComplete slot s
  | .recallHoldTimeout gpn => Sys2Proof.Machine.execRecallHoldTimeout gpn s
  | .preemptDeferTimeout g => Sys2Proof.Machine.execPreemptDeferTimeout g s
  | .lqBaseWrite c q v => Sys2Proof.Machine.execLqBaseWrite c q v s
  | .launchKernel src => Sys2Proof.Machine.execLaunchKernel src s
  | .launchRagged src => Sys2Proof.Machine.execLaunchRagged src s
  | .launchWaitOnly src => Sys2Proof.Machine.execLaunchWaitOnly src s
  | .teamPlace t => Sys2Proof.Machine.execTeamPlace t s
  | .sramClearDone k => Sys2Proof.Machine.execSramClearDone k s
  | .groupRetire g => Sys2Proof.Machine.execGroupRetire g s
  | .launchRetire l => Sys2Proof.Machine.execLaunchRetire l s
  | .cslCommit v => Sys2Proof.Machine.execCslCommit v s
  | .cslCommitApply => Sys2Proof.Machine.execCslCommitApply s
  | .barrierRelease l t level => Sys2Proof.Machine.execBarrierRelease l t level s
  | .watchdog g => Sys2Proof.Machine.execWatchdog g s
  | .safepointGap g => Sys2Proof.Machine.execSafepointGap g s
  | .preemptRequest t => Sys2Proof.Machine.execPreemptRequest t s
  | .teamSwapOut t => Sys2Proof.Machine.execTeamSwapOut t s
  | .preemptSaveEntry t => Sys2Proof.Machine.execPreemptSaveEntry t s
  | .teamSeal t => Sys2Proof.Machine.execTeamSeal t s
  | .teamResume t => Sys2Proof.Machine.execTeamResume t s
  | .trapDelivery g => Sys2Proof.Machine.execTrapDelivery g s
  | .checkpointGo c v => Sys2Proof.Machine.execCheckpointGo c v s
  | .checkpointHoldClear c => Sys2Proof.Machine.execCheckpointHoldClear c s
  | .launchRollback g cause => Sys2Proof.Machine.execLaunchRollback g cause s
  | .strikeReport q => Sys2Proof.Machine.execStrikeReport q s
  | .pageWalk id => Sys2Proof.Machine.execPageWalk id s
  | .walkTimeout id => Sys2Proof.Machine.execWalkTimeout id s
  | .faultRecordWrite c => Sys2Proof.Machine.execFaultRecordWrite c s
  | .fqBaseWrite c v => Sys2Proof.Machine.execFqBaseWrite c v s
  | .fqReplaySeq c seq => Sys2Proof.Machine.execFqReplaySeq c seq s
  | .fqReplayAll c => Sys2Proof.Machine.execFqReplayAll c s
  | .fqReplayKill c seq => Sys2Proof.Machine.execFqReplayKill c seq s
  | .faultRetry c k => Sys2Proof.Machine.execFaultRetry c k s
  | .tlbiGo c v => Sys2Proof.Machine.execTlbiGo c v s
  | .tlbiDone c => Sys2Proof.Machine.execTlbiDone c s
  | .hostApertureAccess off n wr v => Sys2Proof.Machine.execHostApertureAccess off n wr v s
  | .hostAtomicInbound off => Sys2Proof.Machine.execHostAtomicInbound off s
  | .hostSnoop a => Sys2Proof.Machine.execHostSnoop a s
  | .epBind c e => Sys2Proof.Machine.execEpBind c e s
  | .epRebind c e => Sys2Proof.Machine.execEpRebind c e s
  | .epUnbind c e => Sys2Proof.Machine.execEpUnbind c e s
  | .mbxGenWrite c v => Sys2Proof.Machine.execMbxGenWrite c v s
  | .mailboxSendAccept id => Sys2Proof.Machine.execMailboxSendAccept id s
  | .mbgenApply id => Sys2Proof.Machine.execMbgenApply id s
  | .mbxQueryAnswer g => Sys2Proof.Machine.execMbxQueryAnswer g s
  | .stageAssign => Sys2Proof.Machine.execStageAssign s
  | .stageSaveDone st => Sys2Proof.Machine.execStageSaveDone st s
  | .stageRestoreDone st => Sys2Proof.Machine.execStageRestoreDone st s
  | .stageResetDone st => Sys2Proof.Machine.execStageResetDone st s
  | .mbxActRead st rd => Sys2Proof.Machine.execMbxActRead st rd s
  | .mbxStepRead st rd => Sys2Proof.Machine.execMbxStepRead st rd s
  | .mbxGenRead st rd => Sys2Proof.Machine.execMbxGenRead st rd s
  | .mbxStatAccess st rd f v => Sys2Proof.Machine.execMbxStatAccess st rd f v s
  | .mbxObsWrite st v => Sys2Proof.Machine.execMbxObsWrite st v s
  | .observationPost k => Sys2Proof.Machine.execObservationPost k s
  | .observationCount k => Sys2Proof.Machine.execObservationCount k s
  | .episodeRunaway c e => Sys2Proof.Machine.execEpisodeRunaway c e s
  | .episodeFault st mc v => Sys2Proof.Machine.execEpisodeFault st mc v s
  | .faqRecord kind a gpn => Sys2Proof.Machine.execFaqRecord kind a gpn s
  | .ringBaseWrite off v => Sys2Proof.Machine.execRingBaseWrite off v s
  | .bankTestGo v => Sys2Proof.Machine.execBankTestGo v s
  | .bankTestDone v => Sys2Proof.Machine.execBankTestDone v s
  | .tmcBadframeAppend v => Sys2Proof.Machine.execTmcBadframeAppend v s
  | .selfRefreshEntry stack pc => Sys2Proof.Machine.execSelfRefreshEntry stack pc s
  | .powerOn coh pod h0 h1 => Sys2Proof.Machine.execPowerOn coh pod h0 h1 s
  | .moduleReset coh => Sys2Proof.Machine.execModuleReset coh s
  | .stationStateChange k up => Sys2Proof.Machine.execStationStateChange k up s
  | .podLost k v => Sys2Proof.Machine.execPodLost k v s
  | .dieGate d => Sys2Proof.Machine.execDieGate d s
  | .dieUngate d => Sys2Proof.Machine.execDieUngate d s
  | .pmGateWrite v => Sys2Proof.Machine.execPmGateWrite v s
  | .d3hotEntry => Sys2Proof.Machine.execD3hotEntry s
  | .d3coldEntry => Sys2Proof.Machine.execD3coldEntry s
  | .thermalEval w tj th => Sys2Proof.Machine.execThermalEval w tj th s
  | .thermalShutdown tj => Sys2Proof.Machine.execThermalShutdown tj s
  | .getVersion => Sys2Proof.Machine.execGetVersion s
  | .getCapabilities => Sys2Proof.Machine.execGetCapabilities s
  | .negotiateAlgorithms => Sys2Proof.Machine.execNegotiateAlgorithms s
  | .getDigests => Sys2Proof.Machine.execGetDigests s
  | .getCertificate => Sys2Proof.Machine.execGetCertificate s
  | .challenge => Sys2Proof.Machine.execChallenge s
  | .getMeasurements => Sys2Proof.Machine.execGetMeasurements s
  | .registerWrite off v => Sys2Proof.Machine.execRegisterWrite off v s
  | .stageInstructionIssue k => Sys2Proof.Machine.execStageInstructionIssue k s
  | .poolPortStateChange up => Sys2Proof.Machine.execPoolPortStateChange up s
  | .d3coldExit coh pod => Sys2Proof.Machine.execD3coldExit coh pod s
  | .d3hotExit => Sys2Proof.Machine.execD3hotExit s

end Sys2Proof.Machine
end

