-- ==== Sys2Proof/Machine/Load.lean ====
section
/-! DEFINITION. A program placed from outside the machine (notes/assumptions/4.md): what a launch of a one-group team leaves, with a
kernel image whose scalar or lane section holds given bytes, so that the next step runs its first word. -/

namespace Sys2Proof.Machine

open Sys2Proof

/-- The GPN of the page that holds the placed image, and that of its tables: pages 1 and 2 of space 1. -/
def placedGpn : Nat := 2 ^ 36 + 1
def placedTables : Nat := (2 ^ 36 + 2) * 65536
/-- The VA of the placed image. -/
def placedVa : Nat := 0x10000

/-- The tables that map the placed VA: an entry at each level (R299, R300), readable, writable and executable. -/
def placeTables (m : Memory) : Memory :=
  let t := placedTables
  let m := storeLe m t 8 (t + 0x800 + 1)
  let m := storeLe m (t + 0x800) 8 (t + 0x1000 + 1)
  let m := storeLe m (t + 0x1000) 8 (t + 0x1800 + 1)
  storeLe m (t + 0x1808) 8 (placedGpn * 65536 + 7)

/-- The placed image: `.scalar` at offset 256 with two words, `.lane` at offset 512 with two words, 192 registers, no VTOS. -/
def placedImage : Image :=
  { va := placedVa, width := 8, regs := 192, cims := 4, wins := 0, sram := 256, sofs := 256, slen := 8, lofs := 512, lwords := 2,
    dofs := 1024, dlen := 0, total := 1024, vtos := 0 }

/-- The record of the placed launch: one team of one group of 8 lanes. -/
def placedRecord : Record :=
  { kind := 1, width := 8, regs := 192, cims := 4, groups := 1, flags := 0, status := 0, waitq := 0, entry := w64 placedVa, teams := 1,
    lanes := 8, sram := 256, tilerows := 0, wdog := 0, res0 := 0, wintab := 0, snaptab := 0, waitval := 0, segtab := 0 }

def placedLaunch (ctx img : Nat) : Launch :=
  { ctx := ctx, queue := none, recVa := 0, record := placedRecord, lid := 0, lambda := 1, image := img,
    wins := List.replicate 8 (0, 0), depth := 0, builder := none, order := 0, bad := none, left := 1,
    crew := [⟨0, [], 0, 0⟩, ⟨0, [], 0, 0⟩], bar := ⟨0, [], 0, 0⟩, replays := 0, protect := false, pri := 0, maxLt := 0,
    retired := false }

/-- The placed team and group. -/
def placedTeam (launch group : Nat) : Team :=
  { freshTeam launch 0 0 (0, 0, 0) 0 with state := .resident, groups := [group], cims := List.replicate 4 [freshCim] }
/-- The placed group, with an empty lane block running from lane word 0 for a lane word. -/
def placedGroup (team img : Nat) (lane : Bool) : Group :=
  let g := freshGroup team 0 0 0 8 8 placedVa (placedVa + 256) img 1
  if lane then { g with block := some { lofs := 0, snap := g.s, lt := 1 } } else g

/-- A page stands here as a master, with its entry in the directory and no line of it poisoned. -/
def placePage (s : State) (gpn : Nat) : State :=
  let clean (a : Am) : Am :=
    { a with
      tags := a.tags.filter fun t => t.gpn != gpn
      dir := newEntry gpn (aid s) :: a.dir.filter fun e => e.gpn != gpn
      released := a.released.filter (· != gpn)
      seconds := a.seconds.filter (· != gpn)
      crowns := a.crowns.filter fun r => r.gpn != gpn
      injects := a.injects.filter fun x => x.gpn != gpn
      poison := a.poison.filter fun p => p.1 / 512 != gpn }
  putTag (s.modAm clean) (newTag s (setIndex gpn) 0 gpn .master false false false 0 0)

/-- The module runs, no dc is off, and every slot is shared. -/
def readyHub (h : Hub) : Hub := { h with power := .d0, pmThrot := 0, active := [] }

/-- The state with a program placed in context 0 and its first word due next: scalar bytes at the image's `.scalar`, or lane bytes
at its `.lane`. -/
def placeProgram (s : State) (lane : Bool) (bs : List Byte) : State :=
  let gi := s.groups.length
  let at_ := placedGpn * 65536 + (if lane then 512 else 256)
  let s := { s with
    mem := setBytes (placeTables s.mem) at_ bs
    images := s.images ++ [placedImage]
    launches := s.launches ++ [placedLaunch 0 s.images.length]
    teams := s.teams ++ [placedTeam s.launches.length gi]
    groups := s.groups ++ [placedGroup s.teams.length s.images.length lane]
    served := []
    rrLane := [(0, { lastCtx := 63, lastPos := [(0, 15)] })]
    rrScalar := [(0, { lastCtx := 63, lastPos := [(0, 15)] })]
    sched := { dc := 1, act := if lane then .lane gi false else .scalar gi } :: s.sched }
  let s := placePage (placePage (s.modHub readyHub) placedGpn) (placedGpn + 1)
  s.modCtx 0 fun c => { c with ctl := 0x10007, ptroot := w64 placedTables }

end Sys2Proof.Machine
end

