-- ==== Sys2Proof/Machine/Auto.lean ====
section
/-! DEFINITION. One turn of the schedule: the dc that pass, the counters that count them (R291, R327, R368, R370), and the move. -/

namespace Sys2Proof.Machine

open Sys2Proof

/-! ## The dc that pass -/

/-- A group is in no blocking wait, park or handler (R291, R304, R338). -/
def progressing (s : State) (gi : Nat) (g : Group) : Bool :=
  !g.retired && (teamOf s g).state == .resident && g.wait == .none && !g.lwait && g.frame.isNone &&
    !(s.sets.any fun a => ofGroup gi a && isParked a)
/-- The progress counters (R291). -/
def tickGroups (dc : Nat) (s : State) : State :=
  { s with
    groups := (List.range s.groups.length).map fun i =>
      let g := groupAt s i
      if progressing s i g then { g with prog := g.prog + dc } else g }

/-- The stage of an episode runs episode code, or is parked in it (R327). -/
def dogRuns (s : State) (x : Episode) : Bool :=
  x.dogOn && x.stage.any fun k => let y := stageOr s k; y.state == .running || y.state == .parked
/-- The watchdogs of episodes (R327). -/
def tickDogs (dc : Nat) (s : State) : State :=
  let f (x : Episode) : Episode := if dogRuns s x then { x with dog := x.dog + dc } else x
  let g (c : Ctx) : Ctx := { c with eps := c.eps.map f }
  { s with ctxs := s.ctxs.map g }

/-- Off dc among the first `n` of a run of 64, from dc `c` of it (R370). -/
def offIn (duty c n : Nat) : Nat := ((List.range n).filter fun k => bitReverse6 ((c + k) % 64) < duty).length
/-- PM_OFFDC, and the dies that have a resident team (R368, R370). -/
def tickHub (dc : Nat) (s : State) : State :=
  let duty := s.hub.pmThrot.toNat % 64
  s.modHub fun h =>
    { h with
      pmOffdc := h.pmOffdc + dc / 64 * duty + offIn duty (s.cycle % 64) (dc % 64)
      busyAt := (List.range 2).map fun d => if dieBusy s d then s.cycle + dc else h.busyAt.getD d 0 }

/-- The scrubs of a tag after CYCLE `old`, up to `new`: each AMC scrubs a set once in 2^25 dc (R191). -/
def scrubTag (old new : Nat) (t : Tag) : Tag :=
  let o := 64 * scrubIndex t.set
  let upTo (c : Nat) : Nat := (c + 2 ^ 25 - o) / 2 ^ 25
  let epoch (k : Nat) : Nat := (o + 2 ^ 25 * k) / 2 ^ 22 % 16
  if upTo new = upTo old then t
  else
    let d := decay (epoch (upTo old)) t
    { d with heat := d.heat >>> (8 * (upTo new - upTo old - 1)), epoch := BitVec.ofNat 4 (epoch (upTo new - 1)) }

/-- `dc` pass: CYCLE, the counters, the rows of the matrix units (R130), the slot tables (R269) and the scrubs of the tags; in a new dc nothing has
been served yet. -/
def tick (dc : Nat) (s : State) : State :=
  let t := tickGroups dc (tickDogs dc (tickHub dc s))
  let t := { t with cycle := t.cycle + dc, served := if dc = 0 then t.served else [] }
  let t := if dc = 0 then t else t.modAm fun a => { a with tags := a.tags.map (scrubTag s.cycle (s.cycle + dc)) }
  advanceUnits (applyCsl t)

/-! ## The move -/

/-- Bytes that the host or another package writes to host or pool memory. A host line that changes is held by this device no more. -/
def outsideWrite (s : State) (pa : Nat) (bs : List Byte) : State :=
  if pa < 0xFFE * 2 ^ 52 ∨ 2 ^ 64 < pa + bs.length then s
  else
    let one (s : State) (b : Byte × Nat) : State :=
      let a := pa + b.2
      let r := performStore s none a 1 s.hostLt [(a, [b.1])]
      { (raiseLt r.1 .host r.2).modHub fun h => { h with
          hostLines := h.hostLines.filter (· != a / 64), hostDirty := h.hostDirty.filter (· != a / 64) } with
        l1 := r.1.l1.filter fun l => l.line != a / 128 }
    bs.zipIdx.foldl one s
/-- A line of host or pool memory answers normally, with an error, or with poison (R193, R214, R362). -/
def outsideLine (s : State) (line stat : Nat) : State :=
  let cause : Cause := if line / 2 ^ 45 = 0xFFE then Tc.amPoolPoison else if stat = 1 then Tc.amHostError else Tc.amHostPoison
  if line / 2 ^ 45 = 0xFFE ∨ line / 2 ^ 45 = 0xFFF then
    s.modAm fun a => { a with poison := (if stat = 0 then [] else [(line, cause)]) ++ a.poison.filter fun p => p.1 != line }
  else s

/-- Perform one move. -/
def runAct (a : Act) (s : State) : Out :=
  match a with
  | .event i => exec i s
  | .scalar g => slotStep exec false g false s
  | .lane g p => slotStep exec true g p s
  | .slot q l => stepSlot exec q l s
  | .inbound e => .next { s with net := s.net ++ [{ e with at_ := s.now }] }
  | .hostRead off n => .next (hostRead s off n)
  | .outsideLine line stat => .next (outsideLine s line stat)
  | .outside pa bs => .next (outsideWrite s pa bs)
  | .idle => .next s

/-- Main power is on (R368). -/
def powered (s : State) : Bool := s.hub.power == .d0 || s.hub.power == .d3hot
/-- What still moves without main power: bring-up, the TMC's list, and what lies outside (R352, R367, R368). -/
def unpoweredAct (a : Act) (s : State) : Out :=
  match a with
  | .event (.powerOn coh pod h0 h1) => exec (.powerOn coh pod h0 h1) s
  | .event (.d3coldExit coh pod) => exec (.d3coldExit coh pod) s
  | .event (.tmcBadframeAppend v) => exec (.tmcBadframeAppend v) s
  | .outside pa bs => .next (outsideWrite s pa bs)
  | _ => .next s

/-- The first turn of the schedule; without one, a dc passes. -/
def turn (s : State) : Out :=
  match s.sched with
  | [] => if powered s then .next (tick 1 s) else .fault .unpowered
  | t :: r =>
    let s := { s with sched := r }
    if powered s then runAct t.act (tick t.dc s) else unpoweredAct t.act s

end Sys2Proof.Machine
end

