-- ==== Sys2Proof/Machine/Step.lean ====
section
/-! DEFINITION. One step of the machine, and a state whose next step fetches and runs a given instruction. -/

namespace Sys2Proof.Machine

open Sys2Proof

/-- One step: the next turn of the schedule. -/
def step (s : State) : Host.Outcome State Fault Refusal := turn s

/-- `s` with an instruction's bits, numbered as the opcode table numbers them, placed where the next step fetches: a word of up to
32 bits in a scalar stream, a longer one in a lane stream (notes/assumptions/4.md). -/
def State.withFetchWord (s : State) (nbits w : Nat) : State :=
  if nbits ≤ 32 then placeProgram s false (leBytes 8 (w % 2 ^ nbits)) else placeProgram s true (leBytes 24 (w % 2 ^ nbits))

end Sys2Proof.Machine
end

