-- ==== Sys2Proof/Safety.lean ====
section
/-! DEFINITION. What counts as a safe run: a step answers a next state, and a run is safe when every step of it does. And the terms
claims use: when nothing holds a word back. -/

namespace Sys2Proof

/-- The outcome is a next state, neither a fault nor a refusal. -/
def Safe (o : Machine.Out) : Prop := ∃ t, o = .next t

/-- Every one of the first `k` steps from `s` answers a next state. -/
def SafeRun : Nat → Machine.State → Prop
  | 0, _ => True
  | k + 1, s => ∃ t, Machine.step s = .next t ∧ SafeRun k t

namespace Machine

/-! ## Words that nothing holds back -/

/-- Nothing holds a scalar word back: its group may issue, no check fails, nothing it needs is owed, its ports have what it asks. -/
structure ScalGo (o : ScalOp) (s : State) (g : Group) (s1 : State) (vs : List Word) : Prop where
  group  : s.groups[s.cur]? = some g
  run    : scalarMayRun g = true
  pre    : o.pre.or (portFails o.srcs o.dst) = none
  own    : o.own { s := s, gi := s.cur, g := g, s0 := s } = none
  free   : (scalarHeld s s.cur g o || o.hold { s := s, gi := s.cur, g := g, s0 := s } || regionHolds s g o) = false
  room   : (noRoom s s.cur o || o.wait { s := s, gi := s.cur, g := g, s0 := s }) = false
  srcs   : readSources s.cur o.srcs s = some (s1, vs)

/-- What a lane meaning sees in a state. -/
def laneIn (maj : Nat) (w : LaneW) (s : State) (g : Group) : LaneIn :=
  { s := s, gi := s.cur, g := g, path1 := s.path1, p := pathOf g s.path1, maj := maj, row := rowD maj w.opx, w := w }

/-- Nothing holds a lane word back and no common check fails. -/
structure LaneGo (maj : Nat) (w : LaneW) (s : State) (g : Group) : Prop where
  group  : s.groups[s.cur]? = some g
  run    : laneMayRun s g s.path1 = true
  gap    : (g.frame.isNone && decide (4096 ≤ g.gap)) = false
  checks : laneChecks (laneIn maj w s g) = none
  free   : interlocked (laneIn maj w s g) = false

end Machine

end Sys2Proof
end

