-- ==== Sys2Proof/Certificates/Slice0/Obligations.lean ====
section
/-! DEFINITION. The statements about the machine, with the terms they use: words that nothing holds back, the results that the
manual's tables give, and what an instruction leaves as it was. -/

namespace Sys2Proof.Claim

open Sys2Proof Sys2Proof.Machine

/-! ## Terms -/

/-- The scalar stream of the group whose turn it is may issue and waits for nothing: no set of it is uncommitted, no lane block is
outstanding, no region is open. -/
structure ScalarIdle (s : State) (g : Group) : Prop where
  group : s.groups[s.cur]? = some g
  run   : scalarMayRun g = true
  quiet : ∀ a ∈ s.sets, a.party ≠ .scalar s.cur
  lanes : blocksOutstanding g = false
  calm  : g.region = none

/-- A field names a register, s0 to s47, and no queue port. -/
abbrev plain (r : SReg) : Prop := r.toNat < 48

/-- The group after a word of `len` bytes that writes `v` to register `d`. -/
def wrote (d : SReg) (v : Word) (len : Nat) (g : Group) : Group :=
  { setSreg g d.toNat v with spc := g.spc + BitVec.ofNat 64 len, wait := .none }
/-- The group after a word that writes no register and goes to `next`. -/
def went (next : Word) (g : Group) : Group := { g with spc := next, wait := .none }

/-- Nothing but the groups differs, and of those none but the one whose turn it is. -/
abbrev OnlyGroup (s t : State) : Prop :=
  t = { s with groups := t.groups } ∧ ∀ i, i ≠ s.cur → t.groups[i]? = s.groups[i]?

/-- Every byte of memory reads as before. -/
def SameMemory (s t : State) : Prop := ∀ a, byteAt t.mem a = byteAt s.mem a

/-- A group with the same scalar registers but `d`, the same lanes, mode registers, in-flight counters, trap registers and parameter status. -/
def SameBut (d : Option SReg) (g h : Group) : Prop :=
  (∀ r, (∀ x, d = some x → r ≠ x.toNat) → sreg h r = sreg g r) ∧ h.lanes = g.lanes ∧ h.part = g.part ∧ h.cvmode = g.cvmode ∧
    h.cvseed = g.cvseed ∧ h.ifc = g.ifc ∧ h.trap = g.trap ∧ h.pwstat = g.pwstat ∧ h.frame = g.frame

/-- A message that this package sends now. -/
def mail (s : State) (dst : Nat) (m : Msg) : Env := { src := aid s, dst := dst, msg := m, at_ := s.now }

end Sys2Proof.Claim

open Sys2Proof Sys2Proof.Machine

/-! ## Scalar arithmetic (R45, R92, R93) -/

namespace Sys2Proof.Claim

open Sys2Proof Sys2Proof.Machine

/-- Quotient and remainder of 64-bit values (R92): a zero divisor gives all ones and the dividend. -/
def quot (u : Bool) (a b : Word) : Word :=
  if b = 0 then BitVec.allOnes 64 else if u then a / b else BitVec.ofInt 64 (a.toInt.tdiv b.toInt)
def remn (u : Bool) (a b : Word) : Word :=
  if b = 0 then a else if u then a % b else BitVec.ofInt 64 (a.toInt.tmod b.toInt)
/-- A condition of R46 on two 64-bit values. -/
def holds (c : BitVec 3) (a b : Word) : Bool :=
  match c.toNat with
  | 0 => a == b
  | 1 => a != b
  | 2 => decide (a.toInt < b.toInt)
  | 3 => decide (b.toInt ≤ a.toInt)
  | 4 => decide (a.toNat < b.toNat)
  | _ => decide (b.toNat ≤ a.toNat)

/-- The register form of R92: destination, the registers named, and the result. -/
def regForm : Instr → Option (SReg × List SReg × (Group → Word))
  | .saddReg d a b => some (d, [a, b], fun g => sreg g a.toNat + sreg g b.toNat)
  | .ssub d a b => some (d, [a, b], fun g => sreg g a.toNat - sreg g b.toNat)
  | .smulReg d a b => some (d, [a, b], fun g => sreg g a.toNat * sreg g b.toNat)
  | .smulh d a b u => some (d, [a, b], fun g =>
      if u = 1 then w64 ((sreg g a.toNat).toNat * (sreg g b.toNat).toNat / 2 ^ 64)
      else BitVec.ofInt 64 ((sreg g a.toNat).toInt * (sreg g b.toNat).toInt / 2 ^ 64))
  | .sdivReg d a b u => some (d, [a, b], fun g => quot (u == 1) (sreg g a.toNat) (sreg g b.toNat))
  | .sremReg d a b u => some (d, [a, b], fun g => remn (u == 1) (sreg g a.toNat) (sreg g b.toNat))
  | .sandReg d a b => some (d, [a, b], fun g => sreg g a.toNat &&& sreg g b.toNat)
  | .sorReg d a b => some (d, [a, b], fun g => sreg g a.toNat ||| sreg g b.toNat)
  | .sxorReg d a b => some (d, [a, b], fun g => sreg g a.toNat ^^^ sreg g b.toNat)
  | .sshlReg d a b => some (d, [a, b], fun g => sreg g a.toNat <<< ((sreg g b.toNat).toNat % 64))
  | .sshrReg d a b => some (d, [a, b], fun g => sreg g a.toNat >>> ((sreg g b.toNat).toNat % 64))
  | .ssraReg d a b => some (d, [a, b], fun g => (sreg g a.toNat).sshiftRight ((sreg g b.toNat).toNat % 64))
  | .sminReg d a b u => some (d, [a, b], fun g =>
      if (if u = 1 then (sreg g a.toNat).ult (sreg g b.toNat) else (sreg g a.toNat).slt (sreg g b.toNat)) then sreg g a.toNat
      else sreg g b.toNat)
  | .smaxReg d a b u => some (d, [a, b], fun g =>
      if (if u = 1 then (sreg g a.toNat).ult (sreg g b.toNat) else (sreg g a.toNat).slt (sreg g b.toNat)) then sreg g b.toNat
      else sreg g a.toNat)
  | .scmp d a b c => if 6 ≤ c.toNat then none
      else some (d, [a, b], fun g => if holds c (sreg g a.toNat) (sreg g b.toNat) then 1 else 0)
  | .ssel d a b => some (d, [a, b], fun g => if sreg g d.toNat ≠ 0 then sreg g a.toNat else sreg g b.toNat)
  | .smovReg d a => some (d, [a], fun g => sreg g a.toNat)
  | _ => none

/-- The immediate form: destination, sources, the fourteen bits, and the result for an extended immediate. -/
def immVal : Instr → Option (SReg × List SReg × BitVec 14 × (Word → Group → Word))
  | .saddImm d a i => some (d, [a], i, fun v g => sreg g a.toNat + v)
  | .smulImm d a i => some (d, [a], i, fun v g => sreg g a.toNat * v)
  | .sdivImm d a i => some (d, [a], i, fun v g => quot false (sreg g a.toNat) v)
  | .sremImm d a i => some (d, [a], i, fun v g => remn false (sreg g a.toNat) v)
  | .sandImm d a i => some (d, [a], i, fun v g => sreg g a.toNat &&& v)
  | .sorImm d a i => some (d, [a], i, fun v g => sreg g a.toNat ||| v)
  | .sxorImm d a i => some (d, [a], i, fun v g => sreg g a.toNat ^^^ v)
  | .sshlImm d a i => some (d, [a], i, fun v g => sreg g a.toNat <<< (v.toNat % 64))
  | .sshrImm d a i => some (d, [a], i, fun v g => sreg g a.toNat >>> (v.toNat % 64))
  | .ssraImm d a i => some (d, [a], i, fun v g => (sreg g a.toNat).sshiftRight (v.toNat % 64))
  | .sminImm d a i => some (d, [a], i, fun v g => if (sreg g a.toNat).slt v then sreg g a.toNat else v)
  | .smaxImm d a i => some (d, [a], i, fun v g => if (sreg g a.toNat).slt v then v else sreg g a.toNat)
  | .smovImm d i => some (d, [], i, fun v _ => v)
  | _ => none

/-- The result of an immediate form on its own immediate. -/
def immForm (i : Instr) : Option (SReg × List SReg × (Group → Word)) :=
  (immVal i).map fun x => (x.1, x.2.1, x.2.2.2 (x.2.2.1.signExtend 64))

end Sys2Proof.Claim

/-- R92, R45: the thirty register and immediate forms of scalar arithmetic, SCMP, SSEL and SMOV on registers s0 to s47 write the result
of the manual's table to sd, move SPC to the next word, and change nothing else of the machine. -/
def Obligations.ScalarArithmeticResults : Prop :=
  ∀ (i : Instr) (s : State) (g : Group) (d : SReg) (rs : List SReg) (f : Group → Word),
    (Claim.regForm i = some (d, rs, f) ∨ Claim.immForm i = some (d, rs, f)) → Claim.ScalarIdle s g →
    Claim.plain d → (∀ r ∈ rs, Claim.plain r) →
    exec i s = .next (s.modGroup s.cur (Claim.wrote d (f g) 4))

/-- The frame of the same forms: every other register, the lanes, the mode registers, counters, trap registers, other groups and every
byte of memory stand as they were. -/
def Obligations.ScalarArithmeticFrame : Prop :=
  ∀ (i : Instr) (s : State) (g : Group) (d : SReg) (rs : List SReg) (f : Group → Word),
    (Claim.regForm i = some (d, rs, f) ∨ Claim.immForm i = some (d, rs, f)) → Claim.ScalarIdle s g →
    Claim.plain d → (∀ r ∈ rs, Claim.plain r) →
    ∃ t h, exec i s = .next t ∧ t.groups[s.cur]? = some h ∧ Claim.SameBut (some d) g h ∧ Claim.OnlyGroup s t ∧ Claim.SameMemory s t

/-- R32 to R34, R93: where a source field of SADD names a queue port, the word popped from the port stands for the register: the sum is that of the words read in order, and all that popping leaves stands. Where sd of SMOV names a port with room, and the
port's checks take the word, the word is sent to the port; where the port has no room, the group enters a blocking wait. SSEL with a port in sd traps SD_QUEUE, whatever its sources name. -/
def Obligations.ScalarPorts : Prop :=
  ∀ (s : State) (g : Group) (d a b : SReg),
    (∀ s1 x y, Claim.ScalarIdle s g → Claim.plain d → portFails [a, b] (some d) = none → readSources s.cur [a, b] s = some (s1, [x, y]) →
      exec (.saddReg d a b) s = .next (s1.modGroup s.cur (Claim.wrote d (x + y) 4))) ∧
    (Claim.ScalarIdle s g → isPort d = true → Claim.plain a → portFails [a] (some d) = none → pushRoom s s.cur (portOf d) = true →
      pushCheck s s.cur (portOf d) (sreg g a.toNat) = none →
      exec (.smovReg d a) s = .next ((sendPush s s.cur (portOf d) g.spc.toNat s.now (sreg g a.toNat)).modGroup s.cur fun h =>
        { h with spc := h.spc + 4, wait := .none })) ∧
    (Claim.ScalarIdle s g → isPort d = true → Claim.plain a → portFails [a] (some d) = none → pushRoom s s.cur (portOf d) = false →
      exec (.smovReg d a) s = .next (enterWait s s.cur)) ∧
    (s.groups[s.cur]? = some g → scalarMayRun g = true → portFails [a, b] (some d) = none → isPort d = true →
      exec (.ssel d a b) s = .next (scalarTrap s s.cur g Tc.sdQueue))

/-! ## Scalar control, special registers and traps (R25, R46, R273 to R278, R309, R335 to R342) -/

namespace Sys2Proof.Claim

open Sys2Proof Sys2Proof.Machine

/-- The scalar stream may issue, and no set of it may still stop: lane blocks may run beside it. -/
structure ScalarMay (s : State) (g : Group) : Prop where
  group : s.groups[s.cur]? = some g
  run   : scalarMayRun g = true
  firm  : ∀ a ∈ s.sets, a.party = .scalar s.cur → unsettled a = false

/-- The group after a word that writes no register but moves SPC by 4 and has done `f` besides. -/
def nextWord (f : Group → Group) (g : Group) : Group := { f g with spc := g.spc + 4, wait := .none }

/-- The handler of a cause for a group: what finding it leaves, the image and SPC that the vector names (R337). -/
def handler (s : State) (g : Group) (c : Cause) : Option (State × Nat × Word) :=
  handlerFor (handlerWalks s (g.quad / 4) (ctxIx s g) c) (g.quad / 4) (ctxIx s g) c

/-- A trap is delivered at once: no set of the group is uncommitted, no region is open, no handler runs, and the vector names `img` and
`spc` in a handler image that is here. -/
structure Delivers (s : State) (gi : Nat) (g : Group) (c : Cause) (s2 : State) (img : Nat) (spc : Word) : Prop where
  sets   : ∀ a ∈ s.sets, ofGroup gi a = false
  region : g.region = none
  frame  : g.frame = none
  here   : handlerReady s (g.quad / 4) (ctxIx s g) c = true
  vector : handler s g c = some (s2, img, spc)

/-- The access set of a scalar word at SPC: one access of `n` bytes at `va`. -/
def scalarAccess (s : State) (g : Group) (kind : SetKind) (va n data : Nat) (dest : Dest) : ASet :=
  { id := 0, party := .scalar s.cur, kind := kind, sram := false, scope := .grp, pc := g.spc.toNat, path1 := false,
    accs := splitPage { lane := 0, va := va, pa := 0, n := n, data := data, cmp := 0, got := 0, done := false },
    spans := [], dest := dest, ifc := 4, issued := s.now, floor := 0, phase := .xlate, region := none, entry := false }

/-- An access set may issue: every page of it is in a TLB of its core and allows the access, and the checks after translation pass. -/
structure Issues (s : State) (g : Group) (a : ASet) : Prop where
  pages  : allTranslated s (g.quad / 4) (ctxIx s g) (kindX a.kind) a.accs = true
  checks : afterChecks s (withPages s (g.quad / 4) (ctxIx s g) a) = none

/-- The barrier of a level as the group sees it. -/
def level (s : State) (g : Group) (k : BitVec 2) : Barrier := barrierOf s g k.toNat

end Sys2Proof.Claim

/-- R273, R46: SBR goes to SPC + 4 × SignExtend(off) where its condition holds and to the next word otherwise, SJMP always; SCALL also
puts SPC + 4 in s47; SJMPI and SRET go to the address in sa; SNOP goes to the next word. Nothing else changes. -/
def Sys2Proof.Claim.ScalarTransfers : Prop :=
  ∀ (s : State) (g : Group), Claim.ScalarIdle s g →
    (∀ (c : BitVec 3) (a b : SReg) (o : BitVec 11), c.toNat < 6 → Claim.plain a → Claim.plain b →
      exec (.sbr c a b o) s = .next (s.modGroup s.cur (Claim.went
        (if Claim.holds c (sreg g a.toNat) (sreg g b.toNat) then g.spc + 4 * o.signExtend 64 else g.spc + 4)))) ∧
    (∀ o : BitVec 26, exec (.sjmp o) s = .next (s.modGroup s.cur (Claim.went (g.spc + 4 * o.signExtend 64)))) ∧
    (∀ o : BitVec 26, exec (.scall o) s = .next (s.modGroup s.cur fun h =>
      { setSreg h 47 (g.spc + 4) with spc := g.spc + 4 * o.signExtend 64, wait := .none })) ∧
    (∀ a : SReg, Claim.plain a → (sreg g a.toNat).toNat % 4 = 0 →
      exec (.sjmpi a) s = .next (s.modGroup s.cur (Claim.went (sreg g a.toNat))) ∧
      exec (.sret a) s = .next (s.modGroup s.cur (Claim.went (sreg g a.toNat)))) ∧
    exec .snop s = .next (s.modGroup s.cur (Claim.went (g.spc + 4)))

/-- R46: a jump to an address that is no multiple of 4 traps FETCH_MISALIGNED at the jumping word; a reserved condition of SBR or SCMP
traps COND_RESERVED. -/
def Sys2Proof.Claim.ScalarTransferTraps : Prop :=
  ∀ (s : State) (g : Group), Claim.ScalarIdle s g →
    (∀ a : SReg, Claim.plain a → (sreg g a.toNat).toNat % 4 ≠ 0 →
      exec (.sjmpi a) s = .next (scalarTrap s s.cur g Tc.fetchMisaligned) ∧
      exec (.sret a) s = .next (scalarTrap s s.cur g Tc.fetchMisaligned)) ∧
    (∀ (c : BitVec 3) (a b d : SReg) (o : BitVec 11), 6 ≤ c.toNat →
      exec (.sbr c a b o) s = .next (scalarTrap s s.cur g Tc.condReserved) ∧
      exec (.scmp d a b c) s = .next (scalarTrap s s.cur g Tc.condReserved))

/-- Scalar branches, jumps, calls, returns and where they trap: ScalarTransfers and ScalarTransferTraps together. -/
def Obligations.ScalarTransfersAndTraps : Prop := Claim.ScalarTransfers ∧ Claim.ScalarTransferTraps

/-- R24, R25, R274: LRUN with fewer than four blocks outstanding puts a block with its lane offset, the scalar registers and the scalar
lt at the end of the queue and goes to the next word. It waits while a scalar load is uncommitted and, where the image has VTOS registers,
for every earlier block. With four blocks outstanding it enters a blocking wait. An offset at or past `.lanes` traps FETCH_BOUNDS. -/
def Sys2Proof.Claim.LrunEnqueues : Prop :=
  ∀ (s : State) (g : Group) (o : BitVec 24), Claim.ScalarMay s g → g.region = none →
    let open_ := anyLoadPending s s.cur = true ∨ ((imageOf s g).vtos ≠ 0 ∧ blocksOutstanding g = true)
    ((imageOf s g).lwords ≤ o.toNat → exec (.lrun o) s = .next (scalarTrap s s.cur g Tc.fetchBounds)) ∧
    (o.toNat < (imageOf s g).lwords → open_ → exec (.lrun o) s = .next s) ∧
    (o.toNat < (imageOf s g).lwords → ¬open_ → g.queue.length + g.block.isSome.toNat < 4 →
      exec (.lrun o) s = .next (s.modGroup s.cur (Claim.nextWord fun h =>
        { h with queue := h.queue ++ [{ lofs := o.toNat, snap := g.s, lt := g.slt }] }))) ∧
    (o.toNat < (imageOf s g).lwords → ¬open_ → 4 ≤ g.queue.length + g.block.isSome.toNat →
      exec (.lrun o) s = .next (enterWait s s.cur))

/-- R275, R160: LSYNC with no block outstanding raises the scalar lt to that of the ended blocks and goes on; with one it waits. -/
def Obligations.LsyncWaitsForBlocks : Prop :=
  ∀ (s : State) (g : Group), Claim.ScalarMay s g →
    (blocksOutstanding g = false →
      exec .lsync s = .next (s.modGroup s.cur (Claim.nextWord fun h => { h with slt := max h.slt g.endLt }))) ∧
    (blocksOutstanding g = true → exec .lsync s = .next (enterWait s s.cur))

/-- R277, R278: SBAR of a level the group may use arrives at that level's barrier and waits; once the barrier's generation has passed the
one it arrived at, it takes the lt of the release and goes to the next word. A crew or launch barrier outside a cooperative launch traps
BARRIER_SCOPE. -/
def Sys2Proof.Claim.BarrierArrivesAndCompletes : Prop :=
  ∀ (s : State) (g : Group) (k : BitVec 2), Claim.ScalarIdle s g → k.toNat < 3 →
    ((k = 0 ∨ coop s g = true) → (∀ l n, g.wait ≠ .barrier l n) →
      exec (.sbar k) s = .next ((modBarrier s g k.toNat fun b =>
        { b with arrived := b.arrived ++ [s.cur], lt := max b.lt g.slt }).modGroup s.cur fun h =>
          { h with wait := .barrier k.toNat (Claim.level s g k).gen, gap := 0, prog := 0 })) ∧
    ((k = 0 ∨ coop s g = true) → ∀ l n, g.wait = .barrier l n → n < (Claim.level s g k).gen →
      exec (.sbar k) s = .next (s.modGroup s.cur (Claim.nextWord fun h => { h with slt := max h.slt (Claim.level s g k).rel }))) ∧
    (k ≠ 0 → coop s g = false → exec (.sbar k) s = .next (scalarTrap s s.cur g Tc.barrierScope))

/-- LRUN queues a lane block; SBAR arrives, waits and completes: LrunEnqueues and BarrierArrivesAndCompletes together. -/
def Obligations.BlocksAndBarriersOfScalar : Prop := Claim.LrunEnqueues ∧ Claim.BarrierArrivesAndCompletes

/-- R309, R42: SGET of a special register the group may read puts its value in sd: the identities of group, team and launch, the counters
and timelines, PWSTAT, the mask the last block ended with, the mode registers, the trap registers. -/
def Sys2Proof.Claim.SgetReadsSpecial : Prop :=
  ∀ (s : State) (g : Group) (d : SReg) (ix : BitVec 8) (v : Word), Claim.ScalarIdle s g → Claim.plain d →
    (ix.toNat, v) ∈ [(0x01, w64 g.gid), (0x02, (teamOf s g).tid.setWidth 64), (0x04, (launchOf s g).lid.setWidth 64),
      (0x09, w64 (aid s)), (0x0B, (teamOf s g).segid.setWidth 64), (0x0E, w64 (g.ifc.getD 0 0 % 4096)),
      (0x11, w64 (g.ifc.getD 3 0 % 4096)), (0x12, w64 g.copy.time), (0x13, w64 g.fabric.time), (0x14, g.pwstat.setWidth 64),
      (0x20, g.lastExec.getD (liveLanes g)), (0x21, g.part.setWidth 64), (0x22, g.cvmode.setWidth 64),
      (0x23, g.cvseed.setWidth 64), (0x30, g.trap.tcause.setWidth 64), (0x31, g.trap.tspc), (0x32, g.trap.tlpc0.setWidth 64),
      (0x33, g.trap.tlpc1.setWidth 64), (0x34, g.trap.tlanes), (0x35, g.trap.taddr), (0x36, g.trap.tinfo)] →
    exec (.sget d ix) s = .next (s.modGroup s.cur (Claim.wrote d v 4))

/-- R309, R310, R42: CYCLE and the placement registers are read only where CTX_CTL allows it, and trap PRIV_SPECIAL otherwise; an index
that names no register traps SPECIAL_UNDEFINED. -/
def Sys2Proof.Claim.SgetPrivilege : Prop :=
  ∀ (s : State) (g : Group) (d : SReg) (ix : BitVec 8), Claim.ScalarIdle s g → Claim.plain d →
    ((ctxOf s g).ctl.getLsbD 2 = true → exec (.sget d 0x0A) s = .next (s.modGroup s.cur (Claim.wrote d (w64 s.cycle) 4))) ∧
    ((ctxOf s g).ctl.getLsbD 2 = false → exec (.sget d 0x0A) s = .next (scalarTrap s s.cur g Tc.privSpecial)) ∧
    ((ctxOf s g).ctl.getLsbD 1 = true →
      exec (.sget d 0x07) s = .next (s.modGroup s.cur (Claim.wrote d (w64 (physOfGroup g / 36)) 4))) ∧
    ((ctxOf s g).ctl.getLsbD 1 = false → ix ∈ [0x03#8, 0x06, 0x07, 0x08, 0x15, 0x16] →
      exec (.sget d ix) s = .next (scalarTrap s s.cur g Tc.privSpecial)) ∧
    (0x37 ≤ ix.toNat → exec (.sget d ix) s = .next (scalarTrap s s.cur g Tc.specialUndefined))

/-- R309, R39, R42, R86: SSET clears the bits of PWSTAT that sa has set, writes EXEC for the next block within the live lanes, PART,
CVMODE, and CVSEED with every SR counter at 0; in a handler it writes the trap registers. It changes nothing else. -/
def Sys2Proof.Claim.SsetWritesSpecial : Prop :=
  ∀ (s : State) (g : Group) (a : SReg), Claim.ScalarIdle s g → Claim.plain a →
    let v := sreg g a.toNat
    exec (.sset a 0x14) s = .next (s.modGroup s.cur (Claim.nextWord fun h => { h with pwstat := h.pwstat &&& ~~~(v.setWidth 8) })) ∧
    exec (.sset a 0x20) s = .next (s.modGroup s.cur (Claim.nextWord fun h => { h with lastExec := some (v &&& liveLanes h) })) ∧
    (v.toNat % 8 < 5 → exec (.sset a 0x21) s = .next (s.modGroup s.cur (Claim.nextWord fun h => { h with part := v.setWidth 3 }))) ∧
    (cvmodeOk (v.toNat % 2 ^ 32) = true →
      exec (.sset a 0x22) s = .next (s.modGroup s.cur (Claim.nextWord fun h => { h with cvmode := v.setWidth 32 }))) ∧
    exec (.sset a 0x23) s = .next (s.modGroup s.cur (Claim.nextWord fun h =>
      { h with cvseed := v.setWidth 32, lanes := h.lanes.map fun l => { l with sr := 0 } })) ∧
    (g.frame.isSome = true →
      exec (.sset a 0x31) s = .next (s.modGroup s.cur (Claim.nextWord fun h => { h with trap := { h.trap with tspc := v } })) ∧
      exec (.sset a 0x36) s = .next (s.modGroup s.cur (Claim.nextWord fun h => { h with trap := { h.trap with tinfo := v } }))) ∧
    (g.frame = none → exec (.sset a 0x31) s = .next (scalarTrap s s.cur g Tc.specialReadonly))

/-- SGET and SSET of every kind of special register, with their privilege: SgetReadsSpecial, SgetPrivilege and SsetWritesSpecial together. -/
def Obligations.ScalarSpecialRegisters : Prop := Claim.SgetReadsSpecial ∧ Claim.SgetPrivilege ∧ Claim.SsetWritesSpecial

/-- R335, R337, R338, R339: taking a trap outside a handler writes TCAUSE, TSPC, TLPC0, TLANES, TADDR and TINFO, keeps the trapped stream
aside, puts the frame area in s47, the cause in s46 and 0 in s45 and s44, starts the handler at the vector's SPC with the lane stream
empty, PART, CVMODE and CVSEED 0, and adds one store of s44 to s47 to the frame area. No other group and no byte of memory changes. -/
def Obligations.TrapEntry : Prop :=
  ∀ (s : State) (gi : Nat) (g : Group) (p : Pending) (s2 : State) (img : Nat) (spc : Word),
    s.groups[gi]? = some g → g.frame = none → g.s.length = 48 → g.p1 = none →
    Claim.handler s g p.cause = some (s2, img, spc) → p.cause ≠ Tc.resumeRestore →
    ∃ h, (takeTrap s gi p).groups[gi]? = some h ∧
      h.trap.tcause = p.cause ∧ h.trap.tspc = p.spc ∧ h.trap.tlpc0 = BitVec.ofNat 24 (if p.lane then p.lpc else g.p0.lpc) ∧
      h.trap.tlanes = p.lanes ∧ h.trap.taddr = p.addr ∧
      h.trap.tinfo = w64 (p.info.toNat % 2 ^ 56 + if p.lane then 2 ^ 63 else 0) ∧
      sreg h 47 = w64 (frameArea s g p.cause) ∧ sreg h 46 = p.cause.setWidth 64 ∧ sreg h 45 = 0 ∧ sreg h 44 = 0 ∧
      (∀ r, r < 44 → sreg h r = sreg g r) ∧ h.spc = spc ∧ h.image = img ∧ h.frame.isSome = true ∧
      h.block = none ∧ h.queue = [] ∧ h.part = 0 ∧ h.cvmode = 0 ∧ h.cvseed = 0 ∧ h.p0.exec = liveLanes g ∧ h.p1 = none ∧
      (∃ a ∈ (takeTrap s gi p).sets, a.party = .scalar gi ∧ a.kind = .store ∧
        a.accs.map (fun (x : Acc) => (x.va, x.n, x.data)) = (List.range 4).map fun k =>
          (frameArea s g p.cause + 8 * k, 8, (sreg g (44 + k)).toNat)) ∧
      (∀ i, i ≠ gi → (takeTrap s gi p).groups[i]? = s.groups[i]?) ∧ Claim.SameMemory s (takeTrap s gi p)

/-- R337, R338, R347: a trap in a handler is fatal HANDLER_TRAP and one without a usable vector is fatal VECTOR_INVALID: CTX_FATAL takes the
cause, VALID and the LAUNCHID, and the context is disabled. -/
def Sys2Proof.Claim.TrapFatal : Prop :=
  ∀ (s : State) (gi : Nat) (g : Group) (p : Pending), s.groups[gi]? = some g →
    (g.frame.isSome = true → takeTrap s gi p = fatal s (ctxIx s g) Tc.handlerTrap (launchOf s g).lid) ∧
    (g.frame = none → Claim.handler s g p.cause = none →
      takeTrap s gi p = fatal s (ctxIx s g) Tc.vectorInvalid (launchOf s g).lid)

/-- R342, R345: ERET at the end of a handler, with its blocks and sets ended, issues the load set of the 32 bytes at the frame area, and the commit of
that set is the return: SPC goes to TSPC and the LPC of each path to TLPC0 and TLPC1 (the trapping path's is TLPC0), but for a stream whose parked access
the save kept; s44 to s47 are the bytes read, and PART, CVMODE, CVSEED, blocks and counters those of the trap frame. In the save handler ERET marks the
group saved; outside a handler it traps ERET_OUTSIDE; before its blocks and sets have ended it waits. -/
def Sys2Proof.Claim.EretReturns : Prop :=
  ∀ (s : State) (g : Group), s.groups[s.cur]? = some g → scalarMayRun g = true →
    (g.frame = none → exec .eret s = .next (scalarTrap s s.cur g Tc.eretOutside)) ∧
    (∀ f, g.frame = some f → (∃ a ∈ s.sets, ofGroup s.cur a = true) → exec .eret s = .next s) ∧
    (∀ f, g.frame = some f → (∀ a ∈ s.sets, ofGroup s.cur a = false) → blocksOutstanding g = true →
      exec .eret s = .next (enterWait s s.cur)) ∧
    (∀ f, g.frame = some f → (∀ a ∈ s.sets, ofGroup s.cur a = false) → blocksOutstanding g = false → f.cause = Tc.preemptSave →
      exec .eret s = .next (s.modGroup s.cur fun h => { h with saved := true, wait := .none })) ∧
    (∀ f, g.frame = some f → (∀ a ∈ s.sets, ofGroup s.cur a = false) → blocksOutstanding g = false → f.cause ≠ Tc.preemptSave →
      Claim.Issues s g (Claim.scalarAccess s g .load f.area 32 0 .reload) →
      exec .eret s = .next (issueSet s (Claim.scalarAccess s g .load f.area 32 0 .reload))) ∧
    (∀ f a, g.frame = some f → setAt s a.id = some a → a.dest = .reload → a.party = .scalar s.cur → a.kind = .load → a.phase = .ready →
      a.sram = false → a.ifc = 4 → mayCommit s a = true → leasesRun a g.slt = true → g.s.length = 48 →
      ∃ t h, exec (.loadSetCommit a.id) s = .next t ∧ t.groups[s.cur]? = some h ∧ h.frame = none ∧
        h.spc = (if keptAt f false false g.trap.tspc.toNat then f.spc else g.trap.tspc) ∧
        (let l := (if f.swap then g.trap.tlpc1 else g.trap.tlpc0).toNat;
          h.p0.lpc = (if keptAt f true false l then f.p0.lpc else l) ∧ h.p0.exec = f.p0.exec) ∧
        (∀ q, f.p1 = some q → ∃ r, h.p1 = some r ∧ r.exec = q.exec ∧
          let l := (if f.swap then g.trap.tlpc0 else g.trap.tlpc1).toNat
          r.lpc = (if keptAt f true true l then q.lpc else l)) ∧
        h.part = f.part ∧ h.cvmode = f.cvmode ∧ h.cvseed = f.cvseed ∧ h.block = f.block ∧ h.queue = f.queue ∧ h.image = f.image ∧
        h.slt = max g.slt (setTime a) ∧ (∀ k, k < 4 → sreg h (44 + k) = w64 (laneGot a 0 / 2 ^ (64 * k))) ∧
        (∀ r, r < 44 → sreg h r = sreg g r) ∧ h.trap = g.trap ∧ setAt t a.id = none ∧
        (∀ i, i ≠ s.cur → t.groups[i]? = s.groups[i]?) ∧ Claim.SameMemory s t)

/-- R276, R217: SEXIT of a group whose blocks, sets and region have ended, with no engine command left but for its completion word, marks it exiting, to
retire; before that it waits. Words of an unfinished engine command trap ENGINE_PARTIAL, those of an unfinished launch record LAUNCH_RECORD with 8 in
TINFO; words on their way to a port count as there. -/
def Sys2Proof.Claim.SexitEnds : Prop :=
  ∀ (s : State) (g : Group), s.groups[s.cur]? = some g → scalarMayRun g = true →
    let e := landedGroup s s.cur
    let whole := e.copy.partWords = [] ∧ e.fabric.partWords = []
    let busy := blocksOutstanding g || s.sets.any (ofGroup s.cur) || cmdsLeft g.copy || cmdsLeft g.fabric || regionLive s g
    (¬whole → exec .sexit s = .next (scalarTrap s s.cur g Tc.enginePartial)) ∧
    (whole → e.q4 ≠ [] → exec .sexit s = .next (scalarTrap s s.cur g Tc.launchRecord 0 8)) ∧
    (whole → e.q4 = [] → busy = true → exec .sexit s = .next s) ∧
    (whole → e.q4 = [] → busy = false →
      exec .sexit s = .next (s.modGroup s.cur fun h => { h with exiting := true, prog := 0, wait := .none }))

/-- Fatal traps, the return from a handler, the end of a group: TrapFatal, EretReturns and SexitEnds together. -/
def Obligations.HandlersAndExits : Prop := Claim.TrapFatal ∧ Claim.EretReturns ∧ Claim.SexitEnds

/-! ## Scalar memory and waits (R205, R206, R215, R216, R224 to R228) -/

namespace Sys2Proof.Claim

open Sys2Proof Sys2Proof.Machine

/-- The scalar load words: destination, base, immediate, bytes, signed. -/
def loadForm : Instr → Option (SReg × SReg × BitVec 14 × Nat × Bool)
  | .sld64 d a i => some (d, a, i, 8, false)
  | .sldN32 d a i => some (d, a, i, 4, false)
  | .sldI32 d a i => some (d, a, i, 4, true)
  | _ => none
/-- The scalar store words: source, base, immediate, bytes. -/
def storeForm : Instr → Option (SReg × SReg × BitVec 14 × Nat)
  | .sst64 d a i => some (d, a, i, 8)
  | .sstN32 d a i => some (d, a, i, 4)
  | _ => none

/-- Where an arrival counter has reached its target (R227). -/
abbrev reached (k : Counter) : Prop := k.armed = true ∧ k.target ≤ k.count

end Sys2Proof.Claim

/-- R156, R301: issuing a set of accesses whose pages are in the TLBs and whose checks pass puts it behind the uncommitted sets, under the next
number, ready, with the spans of its lines; it changes no earlier set, no group and no byte of memory. -/
def Obligations.IssueAddsOneSet : Prop :=
  ∀ (s : State) (g : Group) (a : ASet) (gi : Nat), partyGroup a.party = some gi → s.groups[gi]? = some g → a.sram = false →
    a.accs.flatMap splitPage = a.accs → (∀ b ∈ s.sets, b.id < s.nextSet) → Claim.Issues s g a →
    (∃ b, (issueSet s a).sets = s.sets ++ [b] ∧ b.id = s.nextSet ∧ b.party = a.party ∧ b.kind = a.kind ∧ b.dest = a.dest ∧
      b.phase = .ready ∧ b.pc = a.pc) ∧ (issueSet s a).nextSet = s.nextSet + 1 ∧
      (issueSet s a).groups = s.groups ∧ Claim.SameMemory s (issueSet s a)

/-- R204 to R206: SLD and SST at an address of 2^48 or above trap ADDR_NONCANON with that address in TADDR. SLDW of an unbound window traps PARAM_UNBOUND, of an offset that is no multiple of 8 PARAM_ALIGN. -/
def Sys2Proof.Claim.ScalarAccessTraps : Prop :=
  ∀ (i : Instr) (s : State) (g : Group) (d a : SReg) (imm : BitVec 14), Claim.ScalarIdle s g → Claim.plain d → Claim.plain a →
    (((∃ n sg, Claim.loadForm i = some (d, a, imm, n, sg)) ∨ ∃ n, Claim.storeForm i = some (d, a, imm, n)) →
      2 ^ 48 ≤ (sreg g a.toNat + imm.signExtend 64).toNat →
      exec i s = .next (scalarTrap s s.cur g Tc.addrNoncanon (sreg g a.toNat + imm.signExtend 64))) ∧
    (∀ w : BitVec 3, (windowOf s g w.toNat).2 = 0 → exec (.sldw d w imm) s = .next (scalarTrap s s.cur g Tc.paramUnbound)) ∧
    (∀ w : BitVec 3, (windowOf s g w.toNat).2 ≠ 0 → imm.toNat % 8 ≠ 0 → exec (.sldw d w imm) s = .next (scalarTrap s s.cur g Tc.paramAlign))

/-- R9, R34, R205: a scalar load into a queue port issues its access set and keeps its word until the value is known. When that set commits, the whole word
happens: its sources are popped, the value is checked and sent to the port, and SPC goes on; a value that fails the port's checks traps at the load with nothing
popped, and a port that has lost its room has the word done again. -/
def Sys2Proof.Claim.PortLoads : Prop :=
  ∀ (s : State) (g : Group), s.groups[s.cur]? = some g →
    (∀ i d a m n sg, Claim.loadForm i = some (d, a, m, n, sg) → Claim.ScalarIdle s g → isPort d = true → Claim.plain a →
      portFails [a] (some d) = none → pushRoom s s.cur (portOf d) = true → (sreg g a.toNat + m.signExtend 64).toNat < 2 ^ 48 →
      Claim.Issues s g (Claim.scalarAccess s g .load (sreg g a.toNat + m.signExtend 64).toNat n 0 (.sreg d n sg)) →
      exec i s = .next (enterWait (issueSet s { Claim.scalarAccess s g .load (sreg g a.toNat + m.signExtend 64).toNat n 0 (.sreg d n sg) with
        pops := [a], len := 4 }) s.cur)) ∧
    (∀ (x : ASet) (d : SReg) (n : Nat) (sg : Bool) (r : State) (vs : List Word),
      let v := scalarGot n sg (laneGot x 0)
      let t := max g.slt (setTime x)
      setAt s x.id = some x → x.dest = .sreg d n sg → isPort d = true → x.party = .scalar s.cur → x.kind = .load → x.phase = .ready →
      x.sram = false → mayCommit s x = true → leasesRun x g.slt = true → regionLive s g = false → readSources s.cur x.pops s = some (r, vs) →
      (pushCheck r s.cur (portOf d) v = none → pushRoom r s.cur (portOf d) = true →
        exec (.loadSetCommit x.id) s = .next ((sendPush (retireSet (raiseLt r x.party t) x) s.cur (portOf d) x.pc x.issued v).modGroup s.cur
          fun h => { h with spc := h.spc + BitVec.ofNat 64 x.len, wait := .none })) ∧
      (pushCheck r s.cur (portOf d) v = none → pushRoom r s.cur (portOf d) = false →
        exec (.loadSetCommit x.id) s = .next (dropSet s x.id)) ∧
      (∀ k, pushCheck r s.cur (portOf d) v = some k →
        exec (.loadSetCommit x.id) s = .next (trapOfSet s x k.cause 0 k.addr.toNat k.info)))

/-- R215, R224: WAITIF goes on when its in-flight counter is at most sa, taking the lane lt; WAITTL goes on when the engine's timeline has reached sa,
taking the largest time of the commands up to it. Both wait otherwise, and WAITTL past the last command pushed traps TIMELINE_AHEAD. -/
def Sys2Proof.Claim.CounterWaits : Prop :=
  ∀ (s : State) (g : Group) (a : SReg) (n : BitVec 2) (f : BitVec 1), Claim.ScalarIdle s g → Claim.plain a →
    let v := (sreg g a.toNat).toNat
    let e := if f = 1 then g.fabric else g.copy
    let last := lastPushed (if f = 1 then (landedGroup s s.cur).fabric else (landedGroup s s.cur).copy)
    (g.ifc.getD n.toNat 0 ≤ v → exec (.waitif a n) s = .next (s.modGroup s.cur (Claim.nextWord fun h => { h with slt := max h.slt g.llt }))) ∧
    (v < g.ifc.getD n.toNat 0 → exec (.waitif a n) s = .next (enterWait s s.cur)) ∧
    (v ≤ last → v ≤ e.time → exec (.waittl a f) s = .next (s.modGroup s.cur (Claim.nextWord fun h =>
      { h with slt := max h.slt (timelineTime e v) }))) ∧
    (v ≤ last → e.time < v → exec (.waittl a f) s = .next (enterWait s s.cur)) ∧
    (last < v → exec (.waittl a f) s = .next (scalarTrap s s.cur g Tc.timelineAhead))

/-- R225, R226: ARMA binds the counter at its offset to its id, with COUNT kept (and what arrived before the binding added) or cleared by C, TARGET as given,
ARMED unless TARGET is 0, which releases the id; TIME is the larger of its own and that of what arrived before, or 0 by C; the scalar lt passes the row's
stamp. An id bound to this counter already is bound anew. The id's range, the offset's alignment and bounds, the table's room and a binding elsewhere are checked in
that order. Nothing else of the group, no other group and no byte of memory changes. -/
def Sys2Proof.Claim.ArmaBinds : Prop :=
  ∀ (s : State) (g : Group) (d a b : SReg) (c : BitVec 1), Claim.ScalarIdle s g → Claim.plain d → Claim.plain a → Claim.plain b →
    let off := (sreg g a.toNat).toNat
    let tgt := (sreg g b.toNat).toNat
    let id := (sreg g d.toNat).toNat
    let entry := (ctxOf s g).arrivals.find? fun e => e.1 == id
    let early : Nat × Nat := match entry with
      | some (_, none, n, time) => (n, time)
      | _ => (0, 0)
    let old := counterAt (teamOf s g) off
    let fits := off % 32 = 0 ∧ off + 32 ≤ (launchOf s g).record.sram.toNat
    let room := entry.isSome = true ∨ arrivalUsed s < 4096
    let elsewhere := ∃ h n time, entry = some (id, some h, n, time) ∧ h ≠ (g.team, off)
    (4096 ≤ id → exec (.arma d a b c) s = .next (scalarTrap s s.cur g Tc.counterIdRange)) ∧
    (id < 4096 → ¬fits → exec (.arma d a b c) s = .next (scalarTrap s s.cur g Tc.counterAlign)) ∧
    (id < 4096 → fits → ¬room → exec (.arma d a b c) s = .next (scalarTrap s s.cur g Tc.counterTableFull)) ∧
    (id < 4096 → fits → elsewhere → exec (.arma d a b c) s = .next (scalarTrap s s.cur g Tc.counterBusy)) ∧
    (id < 4096 → fits → room → ¬elsewhere → g.team < s.teams.length → ctxIx s g < s.ctxs.length →
      ∃ t k, exec (.arma d a b c) s = .next t ∧ counterAt (teamOf t g) off = k ∧ k.target = tgt ∧ k.id = id ∧
        (k.armed = true ↔ tgt ≠ 0) ∧ k.count = (if c = 1 then 0 else (old.count + early.1) % 2 ^ 64) ∧
        k.time = (if c = 1 then 0 else max old.time early.2 % 2 ^ 64) ∧
        (ctxAt t (ctxIx s g)).arrivals.find? (fun e => e.1 == id) = (if tgt = 0 then none else some (id, some (g.team, off), 0, 0)) ∧
        t.groups[s.cur]? = some { g with spc := g.spc + 4, wait := .none,
                                         slt := max g.slt ((rowTimes (teamOf s g) (off / 128)).2 + 1) } ∧
        (∀ i, i ≠ s.cur → t.groups[i]? = s.groups[i]?) ∧ Claim.SameMemory s t)

/-- R227: WAITA goes on when its armed counter has reached TARGET, taking the counter's TIME; it waits while the counter is short of it, and traps
COUNTER_ALIGN or COUNTER_UNARMED where the offset or the counter is not one to wait for. -/
def Sys2Proof.Claim.WaitaReleases : Prop :=
  ∀ (s : State) (g : Group) (a : SReg), Claim.ScalarIdle s g → Claim.plain a →
    let off := (sreg g a.toNat).toNat
    let k := counterAt (teamOf s g) off
    (counterBad s g off = true → exec (.waita a) s = .next (scalarTrap s s.cur g Tc.counterAlign)) ∧
    (counterBad s g off = false → k.armed = false → exec (.waita a) s = .next (scalarTrap s s.cur g Tc.counterUnarmed)) ∧
    (counterBad s g off = false → Claim.reached k →
      exec (.waita a) s = .next (s.modGroup s.cur (Claim.nextWord fun h => { h with slt := max h.slt k.time }))) ∧
    (counterBad s g off = false → k.armed = true → k.count < k.target → exec (.waita a) s = .next (enterWait s s.cur))

/-- ARMA binds an arrival counter; WAITA waits for it: ArmaBinds and WaitaReleases together. -/
def Obligations.ArrivalCounterWords : Prop := Claim.ArmaBinds ∧ Claim.WaitaReleases

/-- R228: WAITCMP with a condition and a scope of the table issues the read of its word and holds sb, sd, condition and scope in the wait, with SPC where it
stands; a misaligned word traps WAIT_ALIGN, a reserved condition COND_RESERVED, a scope other than .die, .pkg and .pod SCOPE_RESERVED. -/
def Sys2Proof.Claim.WaitcmpBegins : Prop :=
  ∀ (s : State) (g : Group) (d a b : SReg) (sc : BitVec 3) (w : BitVec 1) (c : BitVec 3), Claim.ScalarIdle s g → Claim.plain d →
    Claim.plain a → Claim.plain b → (∀ x, g.wait ≠ .word x) →
    let n := if w = 1 then 4 else 8
    let va := (sreg g a.toNat).toNat
    let inTable := 2 ≤ sc.toNat ∧ sc.toNat ≤ 4
    (6 ≤ c.toNat → exec (.waitcmp d a b sc w c) s = .next (scalarTrap s s.cur g Tc.condReserved)) ∧
    (c.toNat < 6 → ¬inTable → exec (.waitcmp d a b sc w c) s = .next (scalarTrap s s.cur g Tc.scopeReserved)) ∧
    (c.toNat < 6 → inTable → va % n ≠ 0 → exec (.waitcmp d a b sc w c) s = .next (scalarTrap s s.cur g Tc.waitAlign)) ∧
    (c.toNat < 6 → inTable → va % n = 0 → 2 ^ 48 ≤ va → exec (.waitcmp d a b sc w c) s = .next (scalarTrap s s.cur g Tc.addrNoncanon (sreg g a.toNat))) ∧
    (c.toNat < 6 → inTable → va % n = 0 → va < 2 ^ 48 → Claim.Issues s g (Claim.scalarAccess s g .load va n 0 .waitcmp) →
      exec (.waitcmp d a b sc w c) s = .next ((issueSet s (Claim.scalarAccess s g .load va n 0 .waitcmp)).modGroup s.cur fun h =>
        { h with gap := 0, wait := .word { va := va, n := n, want := sreg g b.toNat, mask := sreg g d.toNat, c := c, sc := sc, pa := 0,
                                           t := 0, placed := false, woken := false, at_ := s.now } }))

/-- R216: SFENCE waits for the scalar sets (all committed here) and, with F, for the fabric commands; at scope .team it widens the group's narrow lines to its
team, at wider scopes it publishes the group's and the team's narrow lines; then it goes on. A reserved scope traps SCOPE_RESERVED. -/
def Sys2Proof.Claim.SfencePublishes : Prop :=
  ∀ (s : State) (g : Group) (f : BitVec 1) (sc : BitVec 3), Claim.ScalarIdle s g →
    (6 ≤ sc.toNat → exec (.sfence f sc) s = .next (scalarTrap s s.cur g Tc.scopeReserved)) ∧
    (f = 0 → sc = 0 → exec (.sfence f sc) s = .next (s.modGroup s.cur (Claim.nextWord id))) ∧
    (f = 0 → sc = 1 → exec (.sfence f sc) s = .next
      ({ s with l1 := s.l1.map fun (l : L1Line) =>
        if l.narrow = some (Scope.grp, s.cur) then { l with narrow := some (Scope.team, g.team) } else l }.modGroup s.cur
          (Claim.nextWord id))) ∧
    (f = 0 → 2 ≤ sc.toNat → sc.toNat < 6 →
      exec (.sfence f sc) s = .next (((narrowLines s s.cur).foldl publishLine s).modGroup s.cur (Claim.nextWord id))) ∧
    (f = 1 → g.fabric.cmds = [] → sc = 0 →
      exec (.sfence f sc) s = .next (s.modGroup s.cur (Claim.nextWord fun h => { h with slt := max h.slt (fabricTime g) })))

/-- WAITIF, WAITTL, WAITCMP and SFENCE: CounterWaits, WaitcmpBegins and SfencePublishes together. -/
def Obligations.ScalarWaits : Prop := Claim.CounterWaits ∧ Claim.WaitcmpBegins ∧ Claim.SfencePublishes

namespace Sys2Proof.Claim

open Sys2Proof Sys2Proof.Machine

/-- The group after a word of `len` bytes that writes no register and has done `f` besides. -/
def wordBy (len : Nat) (f : Group → Group) (g : Group) : Group := { f g with spc := g.spc + BitVec.ofNat 64 len, wait := .none }

/-- `o` is what the SI word `i` does with its fourteen immediate bits extended by `ext`, as `len` bytes: an arithmetic word writes its result; a load or store issues one access set at sa + immediate; SLDW reads its window at the
immediate, or puts 0 in sd and sets the window's bit of PWSTAT where the eight bytes do not lie inside. -/
structure SiRuns (o : Out) (s : State) (g : Group) (i : Instr) (ext : BitVec 14 → Word) (len : Nat) : Prop where
  alu   : ∀ d rs m f, immVal i = some (d, rs, m, f) → plain d → (∀ r ∈ rs, plain r) →
            o = .next (s.modGroup s.cur (wrote d (f (ext m) g) len))
  load  : ∀ d a m n sg, loadForm i = some (d, a, m, n, sg) → plain d → plain a → (sreg g a.toNat + ext m).toNat < 2 ^ 48 →
            Issues s g (scalarAccess s g .load (sreg g a.toNat + ext m).toNat n 0 (.sreg d n sg)) →
            o = .next ((issueSet s (scalarAccess s g .load (sreg g a.toNat + ext m).toNat n 0 (.sreg d n sg))).modGroup s.cur (wordBy len id))
  store : ∀ d a m n, storeForm i = some (d, a, m, n) → plain d → plain a → (sreg g a.toNat + ext m).toNat < 2 ^ 48 →
            Issues s g (scalarAccess s g .store (sreg g a.toNat + ext m).toNat n ((sreg g d.toNat).toNat % 2 ^ (8 * n)) .none) →
            o = .next ((issueSet s (scalarAccess s g .store (sreg g a.toNat + ext m).toNat n
              ((sreg g d.toNat).toNat % 2 ^ (8 * n)) .none)).modGroup s.cur (wordBy len fun h => { h with prog := 0 }))
  param : ∀ d w m, i = .sldw d w m → plain d → (windowOf s g w.toNat).2 ≠ 0 → (ext m).toNat % 8 = 0 →
            ((ext m).toInt < 0 ∨ ((windowOf s g w.toNat).2 : Int) < (ext m).toInt + 8) →
            o = .next (s.modGroup s.cur fun h => { wrote d 0 len h with pwstat := h.pwstat ||| (1#8 <<< w.toNat) })
  read  : ∀ d w m, i = .sldw d w m → plain d → (ext m).toNat % 8 = 0 → 0 ≤ (ext m).toInt →
            (ext m).toInt + 8 ≤ ((windowOf s g w.toNat).2 : Int) → (windowOf s g w.toNat).1 + (ext m).toNat < 2 ^ 48 →
            Issues s g (scalarAccess s g .load ((windowOf s g w.toNat).1 + (ext m).toNat) 8 0 (.sreg d 8 false)) →
            o = .next ((issueSet s (scalarAccess s g .load ((windowOf s g w.toNat).1 + (ext m).toNat) 8 0 (.sreg d 8 false))).modGroup
              s.cur (wordBy len id))

end Sys2Proof.Claim

/-- R45: the immediate of an SI word is its fourteen bits sign-extended; directly behind a LIMM it is the 40-bit value of LIMM's 26 bits above them, sign-extended from bit 39, and both words go by as one. Every SI word does the same with either: arithmetic and logic, SLD, SST, SLDW. -/
def Obligations.ImmediateWords : Prop :=
  ∀ (s : State) (g : Group) (i : Instr), Claim.ScalarIdle s g →
    Claim.SiRuns (exec i s) s g i (fun m => m.signExtend 64) 4 ∧
    ∀ (hi : BitVec 26) (bs : List Byte), scalarInside s g (g.spc + 4).toNat = true → coreRead s (g.quad / 4) (ctxIx s g) (g.spc + 4).toNat 4 .fetch = .ok bs →
      isSi (BitVec.ofNat 32 (leNat bs)) = true → decodeScalar (BitVec.ofNat 32 (leNat bs)) = .ok i →
      Claim.SiRuns (exec (.limm hi) s) s g i (fun m => (hi ++ m).signExtend 64) 8

/-- R46, R47: a word behind LIMM that is no SI word traps ILLEGAL_PREFIX, a LIMM that is the last word of `.scalar` FETCH_BOUNDS, both at the LIMM. -/
def Sys2Proof.Claim.LimmTraps : Prop :=
  ∀ (s : State) (g : Group) (hi : BitVec 26) (bs : List Byte), Claim.ScalarIdle s g →
    (scalarInside s g (g.spc + 4).toNat = true → coreRead s (g.quad / 4) (ctxIx s g) (g.spc + 4).toNat 4 .fetch = .ok bs →
      isSi (BitVec.ofNat 32 (leNat bs)) = false → exec (.limm hi) s = .next (scalarTrap s s.cur g Tc.illegalPrefix)) ∧
    (scalarInside s g (g.spc + 4).toNat = false → exec (.limm hi) s = .next (scalarTrap s s.cur g Tc.fetchBounds))

/-- Where scalar accesses, parameter reads and LIMM trap; loads into queue ports: ScalarAccessTraps, PortLoads and LimmTraps together. -/
def Obligations.ScalarAccessAndLimmTraps : Prop := Claim.ScalarAccessTraps ∧ Claim.PortLoads ∧ Claim.LimmTraps

/-! ## Lane results (R88, R95 to R116) -/

namespace Sys2Proof.Claim

open Sys2Proof Sys2Proof.Machine

/-- The sources of a lane word in a lane: VA, VB, VC, or the immediate that replaces one (R52, R87). -/
def srcA (x : LaneIn) (l : Lane) : Nat := source x l 1
def srcB (x : LaneIn) (l : Lane) : Nat := source x l 2
def srcC (x : LaneIn) (l : Lane) : Nat := source x l 3
/-- The integer a source stands for in the word's type. -/
def intA (x : LaneIn) (l : Lane) : Int := asInt x.w.ty (srcA x l)
def intB (x : LaneIn) (l : Lane) : Int := asInt x.w.ty (srcB x l)
def intC (x : LaneIn) (l : Lane) : Int := asInt x.w.ty (srcC x l)
/-- An exact result modulo the width of the type, or clamped into its range with SAT (R95). -/
def fit (x : LaneIn) (n : Int) : Nat :=
  wrapInt (tyWidth x.w.ty) (if x.w.opx.getLsbD 0 then max (intMin x.w.ty) (min (intMax x.w.ty) n) else n)
/-- A result in VD with the width of TYPE (R71), a 32-bit result, a predicate result. -/
def inType (f : LaneIn → Lane → Nat) (x : LaneIn) (_ : Nat) (l : Lane) : Lane := writeTy x.w.ty l x.w.vd.toNat (f x l)
def in32 (f : LaneIn → Lane → Nat) (x : LaneIn) (_ : Nat) (l : Lane) : Lane := l.setV x.w.vd.toNat (BitVec.ofNat 32 (f x l))
def inPred (f : LaneIn → Lane → Bool) (x : LaneIn) (_ : Nat) (l : Lane) : Lane := l.setP (x.w.vd.toNat % 8) (f x l)
/-- The shift count of a lane word: VB modulo the width (R95). -/
def count (x : LaneIn) (l : Lane) : Nat := srcB x l % tyWidth x.w.ty

/-- The integer and logic words with what each does to an acting lane (R95 to R97). -/
def intForm : Instr → Option (Nat × LaneW × (LaneIn → Nat → Lane → Lane))
  | .vadd w => some (0x01, w, inType fun x l => fit x (intA x l + intB x l))
  | .vsub w => some (0x02, w, inType fun x l => fit x (intA x l - intB x l))
  | .vmul w => some (0x03, w, inType fun x l => srcA x l * srcB x l)
  | .vmulh w => some (0x04, w, inType fun x l => wrapInt (tyWidth x.w.ty) (intA x l * intB x l / (2 ^ tyWidth x.w.ty : Nat)))
  | .vmad w => some (0x05, w, inType fun x l => fit x (intA x l * intB x l + intC x l))
  | .vdiv w => some (0x06, w, inType fun x l => (intDiv (tyWidth x.w.ty) (tySigned x.w.ty) (srcA x l) (srcB x l)).1)
  | .vrem w => some (0x07, w, inType fun x l => (intDiv (tyWidth x.w.ty) (tySigned x.w.ty) (srcA x l) (srcB x l)).2)
  | .vand w => some (0x08, w, inType fun x l => srcA x l &&& srcB x l)
  | .vor w => some (0x09, w, inType fun x l => srcA x l ||| srcB x l)
  | .vxor w => some (0x0A, w, inType fun x l => srcA x l ^^^ srcB x l)
  | .vandn w => some (0x0B, w, inType fun x l => srcA x l &&& (2 ^ tyWidth x.w.ty - 1 - srcB x l))
  | .vshl w => some (0x0C, w, inType fun x l => srcA x l <<< count x l)
  | .vshr w => some (0x0D, w, inType fun x l => srcA x l >>> count x l)
  | .vsra w => some (0x0E, w, inType fun x l => sra (tyWidth x.w.ty) (srcA x l) (count x l))
  | .vrot w => some (0x0F, w, inType fun x l =>
      rotl (tyWidth x.w.ty) (srcA x l) (if x.w.opx.getLsbD 0 then tyWidth x.w.ty - count x l else count x l))
  | .vmin w => some (0x10, w, inType fun x l => if intA x l ≤ intB x l then srcA x l else srcB x l)
  | .vmax w => some (0x11, w, inType fun x l => if intB x l ≤ intA x l then srcA x l else srcB x l)
  | .vabs w => some (0x12, w, inType fun x l => fit x ((intA x l).natAbs : Nat))
  | .vneg w => some (0x13, w, inType fun x l => fit x (-intA x l))
  | .vclz w => some (0x14, w, in32 fun x l => clz (tyWidth x.w.ty) (srcA x l))
  | .vpopc w => some (0x15, w, in32 fun x l => ((List.range (tyWidth x.w.ty)).filter fun i => (srcA x l).testBit i).length)
  | .vbrev w => some (0x16, w, inType fun x l => brev (tyWidth x.w.ty) (srcA x l))
  | .vbfe w => some (0x17, w, inType fun x l => bfe (tyWidth x.w.ty) (x.w.opx.getLsbD 0) (srcA x l) (srcB x l))
  | .vbfi w => some (0x18, w, inType fun x l => bfi (tyWidth x.w.ty) (srcA x l) (srcB x l) (srcC x l))
  | .vsel w => some (0x19, w, inType fun x l => if predSource l x.w.vc then srcA x l else srcB x l)
  | .vmov w => some (0x1A, w, inType srcA)
  | .vcmp w => some (0x1B, w, inPred fun x l => vcmpBit x.w.ty x.w.opx (srcA x l) (srcB x l))
  | .vplog w => some (0x1C, w, inPred fun x l => x.w.imm.getLsbD
      (4 * (l.pred (x.w.va.toNat % 8)).toNat + 2 * (l.pred (x.w.vb.toNat % 8)).toNat + (l.pred (x.w.vc.toNat % 8)).toNat))
  | .vaddc w => some (0x1D, w, fun x _ l =>
      let r := addCarry (tyWidth x.w.ty) (x.w.opx.getLsbD 0) (srcA x l) (srcB x l) (l.pred (x.w.vc.toNat % 8))
      (writeTy x.w.ty l x.w.vd.toNat r.1).setP (x.w.vc.toNat % 8) r.2)
  | _ => none

/-- A floating result: an exact value rounded once into the type (R98). -/
def rounded (f : LaneIn → Lane → Fv) : LaneIn → Nat → Lane → Lane :=
  inType fun x l => roundTo x.w.ty (rmArith x.w.rnd) false 0 (f x l)
def fvA (x : LaneIn) (l : Lane) : Fv := valueOf x.w.ty (srcA x l)
def fvB (x : LaneIn) (l : Lane) : Fv := valueOf x.w.ty (srcB x l)
def fvC (x : LaneIn) (l : Lane) : Fv := valueOf x.w.ty (srcC x l)

/-- The floating words (R98 to R100). -/
def fpForm : Instr → Option (Nat × LaneW × (LaneIn → Nat → Lane → Lane))
  | .fadd w => some (0x30, w, rounded fun x l => fvAdd (rmArith x.w.rnd) (fvA x l) (fvB x l))
  | .fsub w => some (0x31, w, rounded fun x l => fvAdd (rmArith x.w.rnd) (fvA x l) (fvB x l).neg)
  | .fmul w => some (0x32, w, rounded fun x l => fvMul (fvA x l) (fvB x l))
  | .ffma w => some (0x33, w, rounded fun x l => fvAdd (rmArith x.w.rnd) (fvMul (fvA x l) (fvB x l)) (fvC x l))
  | .fdiv w => some (0x34, w, rounded fun x l => fvDiv (fvA x l) (fvB x l))
  | .fsqrt w => some (0x35, w, rounded fun x l => fvSqrt (fvA x l))
  | .fmin w => some (0x36, w, rounded fun x l => fvMinMax false (x.w.opx.getLsbD 0) (fvA x l) (fvB x l))
  | .fmax w => some (0x37, w, rounded fun x l => fvMinMax true (x.w.opx.getLsbD 0) (fvA x l) (fvB x l))
  | .fcmp w => some (0x38, w, inPred fun x l => fcmpBit x.w.opx (fvA x l) (fvB x l))
  | .fclass w => some (0x39, w, in32 fun x l => fclassBits x.w.ty (srcA x l))
  | .frnd w => some (0x3A, w, rounded fun x l => fvRint (rmArith x.w.rnd) (fvA x l))
  | .fscale w => some (0x3B, w, rounded fun x l => fvScale (fvA x l) (signedOf 32 (srcB x l)))
  | .frcp w => some (0x3C, w, rounded fun x l => fvDiv (.fin false 1 0) (fvA x l))
  | .frsq w => some (0x3D, w, rounded fun x l => fvRsqrt (fvA x l))
  | .fexp2 w => some (0x3E, w, rounded fun x l => fvExp2 (fvA x l))
  | .flog2 w => some (0x3F, w, rounded fun x l => fvLog2 (fvA x l))
  | .fsinpi w => some (0x40, w, rounded fun x l => fvSinpi (fvA x l))
  | .fcospi w => some (0x41, w, rounded fun x l => fvCospi (fvA x l))
  | _ => none

/-- The voting lanes of a lane's tile by their index in it, with a test. -/
def votes (x : LaneIn) (i : Nat) : List (Nat × Bool) := (tileVotes x i).map fun j => (j - tileBase x.g i, votePred x j)

/-- The cross-lane words that read only the tile (R106 to R113); a NaN that a scan gives is the canonical one (R70). -/
def crossForm : Instr → Option (Nat × LaneW × (LaneIn → Nat → Lane → Lane))
  | .vshfl w => some (0x60, w, fun x i l =>
      let T := tileWidth x.g
      let k := shuffleFrom x.w.opx.toNat T (i % T) (srcB x l)
      writeTy x.w.ty l x.w.vd.toNat (if k = i % T then srcA x l else supply x (tileBase x.g i + k)))
  | .qxch w => some (0x61, w, fun x i l => writeTy x.w.ty l x.w.vd.toNat (supply x (i - i % 4 +
      match x.w.opx.toNat with | 0 => (i % 4) ^^^ 1 | 1 => (i % 4) ^^^ 2 | 2 => (i % 4) ^^^ 3 | _ => x.w.imm.toNat % 4)))
  | .vvote w => some (0x62, w, fun x i l =>
      let vs := votes x i
      let ones := (vs.filter (·.2)).length
      match x.w.opx.toNat with
      | 0 => l.setP (x.w.vd.toNat % 8) (ones == vs.length)
      | 1 => l.setP (x.w.vd.toNat % 8) (ones != 0)
      | 2 => l.setP (x.w.vd.toNat % 8) (ones == 0 || ones == vs.length)
      | _ => writeTy x.w.ty l x.w.vd.toNat ((vs.filter (·.2)).foldl (fun a v => a + 2 ^ v.1) 0))
  | .vmatch w => some (0x63, w, fun x i l =>
      l.setWide 64 x.w.vd.toNat (((tileVotes x i).filter fun j => srcA x (laneAt x.g j) == srcA x l).foldl
        (fun a j => a + 2 ^ (j - tileBase x.g i)) 0))
  | .vred w => some (0x64, w, fun x i l =>
      writeTy x.w.ty l x.w.vd.toNat (treeReduce (redOp x.w.ty x.w.rnd x.w.opx.toNat) 7 (leaves x (tileBase x.g i))))
  | .vscan w => some (0x65, w, fun x i l =>
      let y := scanTree (redOp x.w.ty x.w.rnd x.w.opx.toNat) 7 1 (leaves x (tileBase x.g i))
      let j := i % tileWidth x.g
      let v := if x.w.imm.getLsbD 0 then (if j = 0 then redIdentity x.w.ty x.w.opx.toNat else y.getD (j - 1) 0) else y.getD j 0
      writeTy x.w.ty l x.w.vd.toNat (if tyFloat x.w.ty = true ∧ valueOf x.w.ty v = .nan then nanBits x.w.ty else v))
  | _ => none

/-- The conversions (R101 to R105): the pairs and places the manual lists, and what an acting lane holds afterwards. -/
def cvtForm : Instr → Option (Nat × LaneW × (Group → Bool) × (LaneIn → Nat → Lane → Lane))
  | .cvtf w => some (0x48, w, fun _ => (tyFloat (stype w) || tyInt (stype w)) && stype w != w.ty, fun x i l =>
      let r := cvtElem x i l w.ty (tyFloat (stype w)) (w.opx.getLsbD 0) (valueAny (stype w) (srcA x l))
      writeTy w.ty r.2 w.vd.toNat r.1)
  | .cvti w => some (0x49, w, fun _ => tyInt (stype w) && stype w != w.ty, fun x _ l =>
      writeTy w.ty l w.vd.toNat (wrapSat w.ty (cvtSat x.g w.ty false (w.opx.getLsbD 0)) (asInt (stype w) (srcA x l))))
  | .cvtfi w => some (0x4A, w, fun _ => tyFloat (stype w), fun x i l =>
      let r := cvtElem x i l w.ty true (w.opx.getLsbD 0) (valueOf (stype w) (srcA x l))
      writeTy (bpnAsI8 w.ty) r.2 w.vd.toNat r.1)
  | .cvtn w => some (0x4B, w, fun _ => stype w == .f32 && decide (2 * tyWidth w.ty * (w.opx.toNat / 2 + 1) ≤ 32), fun x i l =>
      let e := tyWidth w.ty
      let lo := 2 * e * (w.opx.toNat / 2)
      let a := cvtElem x i l w.ty true (w.opx.getLsbD 0) (valueOf .f32 (srcA x l))
      let b := cvtElem x i a.2 w.ty true (w.opx.getLsbD 0) (valueOf .f32 (srcB x l))
      b.2.setV w.vd.toNat (BitVec.ofNat 32 (putBits (putBits (l.vreg w.vd.toNat).toNat e lo a.1) e (lo + e) b.1)))
  | .cvtw w => some (0x4C, w, fun _ =>
      (([Ty.bf16, .e4m3, .e5m2, .e2m1].contains (stype w) && w.ty == .f32) ||
        ([Ty.i8, .n8, .i16, .n16].contains (stype w) && w.ty == .i32)) && decide (tyWidth (stype w) * (elemIx w + 1) ≤ 32), fun x _ l =>
      let e := tyWidth (stype w)
      let v := srcA x l / 2 ^ (e * elemIx w) % 2 ^ e
      l.setV w.vd.toNat (BitVec.ofNat 32 (if [Ty.bf16, .e4m3, .e5m2, .e2m1].contains (stype w)
        then roundTo .f32 .rne false 0 (valueOf (stype w) v) else wrapInt 32 (asInt (stype w) v))))
  | .mxscale w => some (0x4D, w, fun g => stype w == .f32 && !blockBad g, fun x i l =>
      l.setV w.vd.toNat (BitVec.ofNat 32 (mxScale w.ty (((voting x).filter fun j => j / 32 == i / 32).map fun j =>
        valueOf .f32 (srcA x (laneAt x.g j))))))
  | .mxpack w => some (0x4E, w, fun _ => stype w == .f32, fun x i l =>
      let X := srcB x l % 256
      let r := cvtElem x i l w.ty true (w.opx.getLsbD 0)
        (if X = 255 then .nan else fvScale (valueOf .f32 (srcA x l)) (127 - (X : Int)))
      writeTy w.ty r.2 w.vd.toNat r.1)
  | .mxunpack w => some (0x4F, w, fun _ => [Ty.e2m1, .e4m3, .e5m2].contains (stype w), fun x i l =>
      let X := srcB x l % 256
      let r := cvtElem x i l .f32 true false (if X = 255 then .nan else fvScale (valueOf (stype w) (srcA x l)) ((X : Int) - 127))
      r.2.setV w.vd.toNat (BitVec.ofNat 32 r.1))
  | .bpnsplit w => some (0x50, w, fun g => stype w == .i8 && !blockBad g, fun x i l =>
      l.setV w.vd.toNat (BitVec.ofNat 32 (((voting x).filter fun j => j / 32 == i / 32).foldl (fun acc j =>
        acc + (if (srcA x (laneAt x.g j)).testBit (elemIx w) then 2 ^ (j % 32) else 0)) 0)))
  | _ => none

/-- A lane word that goes by: its lanes as `f` gives them, its path at the next word. -/
def laneDone (maj : Nat) (w : LaneW) (s : State) (g : Group) (f : LaneIn → Nat → Lane → Lane) : State :=
  s.setGroup s.cur (advance (laneIn maj w s g) none (mapLanes g (acting (laneIn maj w s g)) (f (laneIn maj w s g))))

end Sys2Proof.Claim

/-- R95 to R97, R88: the twenty-nine integer and logic words give each acting lane the result of the manual's table and go to the next word. -/
def Obligations.LaneIntegerResults : Prop :=
  ∀ (i : Instr) (maj : Nat) (w : LaneW) (f : LaneIn → Nat → Lane → Lane) (s : State) (g : Group),
    Claim.intForm i = some (maj, w, f) → LaneGo maj w s g → exec i s = .next (Claim.laneDone maj w s g f)

/-- R98 to R100: the floating words give each acting lane the exact result of their operation, rounded once as RND says. -/
def Obligations.LaneFloatResults : Prop :=
  ∀ (i : Instr) (maj : Nat) (w : LaneW) (f : LaneIn → Nat → Lane → Lane) (s : State) (g : Group),
    Claim.fpForm i = some (maj, w, f) → LaneGo maj w s g → exec i s = .next (Claim.laneDone maj w s g f)

/-- R106 to R115: the cross-lane words give each acting lane the value the manual takes from its tile or quad; VBCAST takes a uniform index or the lowest
voting lane; VTOS writes the scalar register its image lists from the lowest voting lane. -/
def Sys2Proof.Claim.CrossLaneResults : Prop :=
  (∀ (i : Instr) (maj : Nat) (w : LaneW) (f : LaneIn → Nat → Lane → Lane) (s : State) (g : Group),
    Claim.crossForm i = some (maj, w, f) → LaneGo maj w s g → exec i s = .next (Claim.laneDone maj w s g f)) ∧
  (∀ (w : LaneW) (s : State) (g : Group), LaneGo 0x66 w s g → (w.opx ≠ 0 ∨ w.i = true ∨ 192 ≤ w.vb.toNat) →
    exec (.vbcast w) s = .next (Claim.laneDone 0x66 w s g fun x i l => writeTy w.ty l w.vd.toNat
      (if w.opx = 0 then supply x (tileBase g i + Claim.srcB x l % tileWidth g)
       else ((tileVotes x i).head?.map fun j => supply x j).getD 0))) ∧
  (∀ (w : LaneW) (s : State) (g : Group) (j : Nat), LaneGo 0x67 w s g → 192 ≤ w.vd.toNat →
    (imageOf s g).vtos.getLsbD (w.vd.toNat - 192) = true → g.region = none → (voting (laneIn 0x67 w s g)).head? = some j →
    let v := Claim.srcA (laneIn 0x67 w s g) (laneAt g j)
    exec (.vtos w) s = .next (s.setGroup s.cur (advance (laneIn 0x67 w s g) none
      (setSreg g (w.vd.toNat - 192) (if w.ty = .i32 then sext64 32 v else w64 v)))))

/-- R101 to R105: a conversion of a listed pair (and, where it uses blocks, in a width that has them) gives each acting lane its result; a pair that is not
listed traps CVT_PAIR. -/
def Sys2Proof.Claim.ConversionResults : Prop :=
  (∀ (i : Instr) (maj : Nat) (w : LaneW) (ok : Group → Bool) (f : LaneIn → Nat → Lane → Lane) (s : State) (g : Group),
    Claim.cvtForm i = some (maj, w, ok, f) → LaneGo maj w s g → ok g = true → exec i s = .next (Claim.laneDone maj w s g f)) ∧
  (∀ (w : LaneW) (s : State) (g : Group), LaneGo 0x51 w s g → stype w = .b32 →
    exec (.bpnjoin w) s = .next (Claim.laneDone 0x51 w s g fun x i l =>
      let p := tyWidth w.ty
      let k := elemIx w
      let t := (Claim.srcA x l).testBit (i % 32)
      if k < 8 - p then l
      else
        let one := putBits (l.vreg w.vd.toNat).toNat 1 (k - (8 - p)) t.toNat
        l.setV w.vd.toNat (BitVec.ofNat 32 (if k = 7 then putBits one (32 - p) p (if t then 2 ^ (32 - p) - 1 else 0) else one)))) ∧
  (∀ (w : LaneW) (s : State) (g : Group), LaneGo 0x4A w s g → tyFloat (stype w) = false →
    exec (.cvtfi w) s = .next (laneTrap s s.cur g s.path1 Tc.cvtPair))

/-- Cross-lane words take their values from tile and quad; conversions of the listed pairs: CrossLaneResults and ConversionResults together. -/
def Obligations.CrossLaneAndConversions : Prop := Claim.CrossLaneResults ∧ Claim.ConversionResults

/-- The frame of every lane word above that gives lanes a register or predicate: the lanes that do not act, the scalar registers, mode registers, counters
and trap registers stand as they were, and so do the other groups and every byte of memory. -/
def Obligations.LaneResultFrame : Prop :=
  ∀ (i : Instr) (maj : Nat) (w : LaneW) (f : LaneIn → Nat → Lane → Lane) (s : State) (g : Group),
    (Claim.intForm i = some (maj, w, f) ∨ Claim.fpForm i = some (maj, w, f) ∨ Claim.crossForm i = some (maj, w, f)) → LaneGo maj w s g →
    ∃ t h, exec i s = .next t ∧ t.groups[s.cur]? = some h ∧ Claim.OnlyGroup s t ∧ Claim.SameMemory s t ∧
      h.s = g.s ∧ h.spc = g.spc ∧ h.part = g.part ∧ h.cvmode = g.cvmode ∧ h.cvseed = g.cvseed ∧ h.ifc = g.ifc ∧ h.trap = g.trap ∧
      h.lanes.length = g.lanes.length ∧
      (∀ k, k < g.lanes.length → k ∉ acting (laneIn maj w s g) → laneAt h k = laneAt g k) ∧
      (∀ k, k < g.lanes.length → (laneAt h k).launched = (laneAt g k).launched ∧ (laneAt h k).helper = (laneAt g k).helper ∧
        (laneAt h k).exited = (laneAt g k).exited ∧ (laneAt h k).sr = (laneAt g k).sr ∧
        ∀ r, r ≠ w.vd.toNat → r ≠ w.vd.toNat + 1 → (laneAt h k).vreg r = (laneAt g k).vreg r) ∧
      (pathOf h s.path1).lpc = nextLpc (pathOf g s.path1).lpc w.safe + (pathOf g s.path1).skip ∧
      (pathOf h s.path1).exec = (pathOf g s.path1).exec

namespace Sys2Proof.Claim

open Sys2Proof Sys2Proof.Machine

/-- What a sub-operation of a pair word computes in a lane of the group as it stood before the word, by OP (R53, R95 to R100): in 32 bits, .f32 or .bf16,
with the word's SAT for VADD and VSUB and its rounding for the floating ones; FFMA adds VD. -/
def pairResult (w : PairW) (u : SubOp) (g : Group) (l : Lane) : Nat :=
  let t := subTy u
  let a := readReg g l u.va (tyWidth t)
  let b := readReg g l u.vb (tyWidth t)
  let exact (n : Int) : Nat := wrapInt 32 (if w.sat && u.cls == 0 then max (intMin t) (min (intMax t) n) else n)
  let rm := rmArith (pairRnd w.rnd)
  let once (v : Fv) : Nat := roundTo t rm false 0 v
  let x := valueOf t a
  let y := valueOf t b
  match u.op.toNat with
  | 0x01 => exact (asInt t a + asInt t b)
  | 0x02 => exact (asInt t a - asInt t b)
  | 0x03 => a * b
  | 0x08 => a &&& b
  | 0x09 => a ||| b
  | 0x0A => a ^^^ b
  | 0x0B => a &&& (2 ^ 32 - 1 - b)
  | 0x0C => a <<< (b % 32)
  | 0x0D => a >>> (b % 32)
  | 0x0E => sra 32 a (b % 32)
  | 0x10 => if asInt t a ≤ asInt t b then a else b
  | 0x11 => if asInt t b ≤ asInt t a then a else b
  | 0x1A => a
  | 0x30 => once (fvAdd rm x y)
  | 0x31 => once (fvAdd rm x y.neg)
  | 0x32 => once (fvMul x y)
  | 0x33 => once (fvAdd rm (fvMul x y) (valueOf t (readReg g l u.vd (tyWidth t))))
  | 0x36 => once (fvMinMax false false x y)
  | _ => once (fvMinMax true false x y)

/-- The effect of a sub-operation on lane `k`, read from `old`: where its guard holds, its result in VD. -/
def pairStep (w : PairW) (u : SubOp) (g : Group) (exec : Mask) (k : Nat) (l : Lane) : Lane :=
  if k ∈ actingBy g exec u.g u.n then writeTy (subTy u) l u.vd.toNat (pairResult w u g (laneAt g k)) else l

/-- The registers a pair word names. -/
def pairNames (w : PairW) : List Nat := subSources w.a ++ subSources w.b ++ [w.a.vd.toNat, w.b.vd.toNat]

end Sys2Proof.Claim

/-- R53, R54: a pair word gives each lane the results of its two sub-operations, each where its own guard holds and both on the registers before the word, and goes to the next word; the
other registers, the scalar registers, the modes, the other groups and every byte of memory stand. A field out of range traps its cause, a word that breaks a pairing rule PAIR_CONFLICT, a named register
that an open window will write LOOKAHEAD_DEP; a word that names a register still owed waits. -/
def Obligations.PairWordResults : Prop :=
  ∀ (w : PairW) (s : State) (g : Group), s.groups[s.cur]? = some g → laneMayRun s g s.path1 = true →
    (g.frame.isNone && decide (4096 ≤ g.gap)) = false →
    let p := pathOf g s.path1
    let fields := (subFields (regsOf s g) w.a).or (subFields (regsOf s g) w.b)
    let open_ := ∃ k ∈ p.look, 0 < k.left ∧ ∃ r ∈ k.dests, r ∈ Claim.pairNames w
    let owes (a : ASet) := ∃ r ∈ owedBy a, r ∈ Claim.pairNames w
    (∀ c, fields = some c → exec (.pairWord w) s = .next (laneTrap s s.cur g s.path1 c)) ∧
    (fields = none → pairBad w = true → exec (.pairWord w) s = .next (laneTrap s s.cur g s.path1 Tc.pairConflict)) ∧
    (fields = none → pairBad w = false → open_ → exec (.pairWord w) s = .next (laneTrap s s.cur g s.path1 Tc.lookaheadDep)) ∧
    (fields = none → pairBad w = false → ¬open_ → (∃ a ∈ s.sets, a.party = .lane s.cur ∧ owes a) → exec (.pairWord w) s = .next s) ∧
    (fields = none → pairBad w = false → ¬open_ → (∀ a ∈ s.sets, a.party = .lane s.cur → unsettled a = false ∧ ¬owes a) →
      ∃ h, exec (.pairWord w) s = .next (s.setGroup s.cur h) ∧ h.lanes.length = g.lanes.length ∧
        (∀ k, k < g.lanes.length → laneAt h k = Claim.pairStep w w.b g p.exec k (Claim.pairStep w w.a g p.exec k (laneAt g k))) ∧
        h.s = g.s ∧ h.spc = g.spc ∧ h.part = g.part ∧ h.cvmode = g.cvmode ∧ h.cvseed = g.cvseed ∧ h.ifc = g.ifc ∧ h.trap = g.trap ∧
        (pathOf h s.path1).exec = p.exec ∧ (pathOf h s.path1).stack = p.stack ∧ (pathOf h s.path1).lpc = p.lpc + 1 + p.skip)

/-! ## Lane memory, control and special words (R116, R117, R202 to R213, R280 to R289, R309, R341) -/

namespace Sys2Proof.Claim

open Sys2Proof Sys2Proof.Machine

/-- The lane memory words: major, word, kind of set, where its result goes, its in-flight counter (R207 to R215). -/
def memForm : Instr → Option (Nat × LaneW × SetKind × Dest × Nat)
  | .ldg w => some (0x70, w, .load, .lane w.ty w.vd, 0)
  | .stg w => some (0x71, w, .store, .none, 1)
  | .lds w => some (0x72, w, .load, .lane w.ty w.vd, 2)
  | .sts w => some (0x73, w, .store, .none, 2)
  | .ldx w => some (0x74, w, .gather, .lane w.ty w.vd, 3)
  | .atomg w => some (0x76, w, .atom (opCode w) w.ty, .lane w.ty w.vd, 1)
  | .atoms w => some (0x77, w, .atom (opCode w) w.ty, .lane w.ty w.vd, 2)
  | .redg w => some (0x78, w, .redg (opCode w) w.ty, .none, 1)
  | .cas128 w => some (0x79, w, .cas128, .quad w.vd, 1)
  | _ => none

/-- The group once a control word has gone by: its path at `lpc` with `exec` and `stack`; lanes, scalar registers and modes as before. -/
structure Moved (g h : Group) (path1 : Bool) (lpc : Nat) (exec : Mask) (stack : List Entry) : Prop where
  lpc   : (pathOf h path1).lpc = lpc
  exec  : (pathOf h path1).exec = exec
  stack : (pathOf h path1).stack = stack
  lanes : h.lanes = g.lanes
  regs  : h.s = g.s
  part  : h.part = g.part
  other : h.p1.isSome = g.p1.isSome

/-- The next lane word of a path (R55). -/
def after (g : Group) (path1 : Bool) (w : LaneW) : Nat := nextLpc (pathOf g path1).lpc w.safe

end Sys2Proof.Claim

/-- R207 to R213, R215: a lane memory word whose checks pass issues one set with an access for every acting lane at its effective address, raises its in-flight
counter, and goes to the next word; a word with no acting lane only goes to the next word. -/
def Sys2Proof.Claim.LaneMemoryIssues : Prop :=
  ∀ (i : Instr) (maj : Nat) (w : LaneW) (kind : SetKind) (dest : Dest) (k : Nat) (s : State) (g : Group),
    Claim.memForm i = some (maj, w, kind, dest, k) → LaneGo maj w s g → memChecks (laneIn maj w s g) = none →
    (setsOf s (.lane s.cur)).length < 16 →
    let x := laneIn maj w s g
    let a := laneSet x kind dest k
    (acting x = [] → exec i s = .next (s.setGroup s.cur (advance x none g))) ∧
    (memAccs x kind ≠ [] → ∃ h, exec i s = .next (issueSet (s.setGroup s.cur h) a) ∧
      h.ifc = g.ifc.modify k (· + 1) ∧ h.lanes = g.lanes ∧ h.s = g.s ∧ h.prog = (if storeClass kind then 0 else g.prog) ∧
      (pathOf h s.path1).lpc = Claim.after g s.path1 w + (pathOf g s.path1).skip) ∧
    (∀ n, n ∈ acting x → (laneAt g n).helper = false → ∃ c ∈ memAccs x kind, c.lane = n ∧ c.va = effAddr x (laneAt g n) ∧
      c.n = accessBytes x)

/-- R202: the effective address of a lane is base + index + displacement modulo 2^64: the base is the snapshot register in VA, or for a global word with A64 the pair at VA, or 32 bits; the index is VB where IDX is set (and always for LDX), else 0; the displacement is IMM,
or its low 24 bits in the majors that keep an operation code above them, sign-extended. -/
def Sys2Proof.Claim.EffectiveAddress : Prop :=
  ∀ (maj : Nat) (w : LaneW) (s : State) (g : Group) (l : Lane), maj ∈ [0x70, 0x71, 0x72, 0x73, 0x74, 0x75, 0x76, 0x77, 0x78, 0x79] →
    effAddr (laneIn maj w s g) l =
      ((((if 192 ≤ w.va.toNat then (snapReg g w.va).toNat
          else if w.opx.getLsbD 0 = true ∧ maj ∉ [0x72, 0x73, 0x77] then (l.vreg w.va.toNat).toNat + 2 ^ 32 * (l.vreg (w.va.toNat + 1)).toNat
          else (l.vreg w.va.toNat).toNat) +
        (if maj = 0x74 ∨ w.opx.getLsbD 1 = true then readReg g l w.vb 32 else 0) : Nat) : Int) +
        (if 0x76 ≤ maj then (w.imm.setWidth 24).toInt else w.imm.toInt)) % 2 ^ 64

/-- R204, R230: a store to a global address of 2^48 or above traps ADDR_NONCANON with the failing lanes and the lowest one's address; an atomic whose address is no
multiple of its width traps ATOMIC_ALIGN. -/
def Sys2Proof.Claim.LaneAddressTraps : Prop :=
  ∀ (w : LaneW) (s : State) (g : Group) (n : Nat), acting (laneIn 0x71 w s g) = [n] → (laneAt g n).helper = false →
    (LaneGo 0x71 w s g → 2 ^ 48 ≤ effAddr (laneIn 0x71 w s g) (laneAt g n) →
      exec (.stg w) s = .next (laneTrap s s.cur g s.path1 Tc.addrNoncanon (maskOf [n])
        (w64 (effAddr (laneIn 0x71 w s g) (laneAt g n))))) ∧
    (LaneGo 0x76 w s g → opFails 0x76 w = none → effAddr (laneIn 0x76 w s g) (laneAt g n) < 2 ^ 48 →
      effAddr (laneIn 0x76 w s g) (laneAt g n) % accessBytes (laneIn 0x76 w s g) ≠ 0 →
      exec (.atomg w) s = .next (laneTrap s s.cur g s.path1 Tc.atomicAlign (maskOf [n])
        (w64 (effAddr (laneIn 0x76 w s g) (laneAt g n)))))

/-- The effective address of a lane, and where it traps: EffectiveAddress and LaneAddressTraps together. -/
def Obligations.EffectiveAddresses : Prop := Claim.EffectiveAddress ∧ Claim.LaneAddressTraps

/-- R209: PREF has no trap of its own and no counter: it prefetches for its acting lanes and goes to the next word, with every byte of memory, the lanes and the scalar
registers as they were, and, where no region is open that a line leaving the L2 could end, every access set and counter too. -/
def Sys2Proof.Claim.PrefKeepsState : Prop :=
  ∀ (w : LaneW) (s : State) (g : Group), LaneGo 0x75 w s g →
    ∃ t h, exec (.pref w) s = .next t ∧ t.groups[s.cur]? = some h ∧ h.lanes = g.lanes ∧ h.s = g.s ∧
      (pathOf h s.path1).lpc = Claim.after g s.path1 w + (pathOf g s.path1).skip ∧ (s.dom.slots = [] → t.sets = s.sets ∧ h.ifc = g.ifc) ∧
      Claim.SameMemory s t

/-- Lane memory words issue one set; PREF changes nothing a program sees: LaneMemoryIssues and PrefKeepsState together. -/
def Obligations.LaneMemoryIssues : Prop := Claim.LaneMemoryIssues ∧ Claim.PrefKeepsState

/-- R282, R283, R287: VBR goes on where no lane takes it and to its target where every voter does; with both, at the outer level it makes two paths and otherwise it
pushes its join and the fall-through arm. VJMP goes to its target, VLAND and VNOP to the next word. -/
def Sys2Proof.Claim.LaneBranches : Prop :=
  ∀ (w : LaneW) (s : State) (g : Group),
    (LaneGo 0xB0 w s g → (pathOf g s.path1).skip = 0 → immTarget w < (imageOf s g).lwords → joinField w < (imageOf s g).lwords →
      let x := laneIn 0xB0 w s g
      let take := withHelpers x (voting x)
      let fall := x.p.exec &&& ~~~take
      (voting x = [] → ∃ h, exec (.vbr w) s = .next (s.setGroup s.cur h) ∧
        Claim.Moved g h s.path1 (Claim.after g s.path1 w) x.p.exec x.p.stack) ∧
      (voting x ≠ [] → (voting x).length = (pathVoters x).length → ∃ h, exec (.vbr w) s = .next (s.setGroup s.cur h) ∧
        Claim.Moved g h s.path1 (immTarget w) x.p.exec x.p.stack) ∧
      (voting x ≠ [] → (voting x).length ≠ (pathVoters x).length → g.p1 = none → g.p0.stack = [] → s.path1 = false →
        ∃ h, exec (.vbr w) s = .next (s.setGroup s.cur h) ∧ h.p0.lpc = immTarget w ∧ h.p0.exec = take ∧ h.p0.laneSet = take ∧
          (∃ q, h.p1 = some q ∧ q.lpc = Claim.after g s.path1 w ∧ q.exec = fall ∧ q.laneSet = fall ∧ q.stack = []) ∧
          h.dualJ = joinField w ∧ h.lanes = g.lanes) ∧
      (voting x ≠ [] → (voting x).length ≠ (pathVoters x).length → (g.p1.isSome = true ∨ x.p.stack ≠ []) →
        x.p.stack.length ≤ 30 →
        ∃ h, exec (.vbr w) s = .next (s.setGroup s.cur h) ∧ Claim.Moved g h s.path1 (immTarget w) take
          (.arm (Claim.after g s.path1 w) fall (joinField w) :: .join (joinField w) x.p.exec :: x.p.stack)) ∧
      (voting x ≠ [] → (voting x).length ≠ (pathVoters x).length → 31 ≤ x.p.stack.length →
        exec (.vbr w) s = .next (laneTrap s s.cur g s.path1 Tc.pathOverflow x.p.exec))) ∧
    (LaneGo 0xB1 w s g → (pathOf g s.path1).skip = 0 → w.g = 7 → w.n = false → immTarget w < (imageOf s g).lwords →
      ∃ h, exec (.vjmp w) s = .next (s.setGroup s.cur h) ∧
        Claim.Moved g h s.path1 (immTarget w) (pathOf g s.path1).exec (pathOf g s.path1).stack) ∧
    (LaneGo 0xB7 w s g → (pathOf g s.path1).skip = 0 → w.g = 7 → w.n = false → ∃ h, exec (.vland w) s = .next (s.setGroup s.cur h) ∧
      Claim.Moved g h s.path1 (Claim.after g s.path1 w) (pathOf g s.path1).exec (pathOf g s.path1).stack) ∧
    (LaneGo 0xBA w s g → (pathOf g s.path1).skip = 0 → ∃ h, exec (.vnop w) s = .next (s.setGroup s.cur h) ∧
      Claim.Moved g h s.path1 (Claim.after g s.path1 w) (pathOf g s.path1).exec (pathOf g s.path1).stack)

/-- R284 to R286: VJMPI with one common target goes there; with several it pushes its join and the later arms and runs the lowest target first. VCALL and VCALLI put the
byte offset of the next word in VD of the acting lanes and go to their target, all voters together. VRET goes to the lane offset in VA, or arrives at its join. -/
def Sys2Proof.Claim.LaneIndirect : Prop :=
  ∀ (w : LaneW) (s : State) (g : Group),
    (LaneGo 0xB2 w s g → (pathOf g s.path1).skip = 0 → badTargetTrap (laneIn 0xB2 w s g) = none →
      let x := laneIn 0xB2 w s g
      (jmpiArms x = [] → ∃ h, exec (.vjmpi w) s = .next (s.setGroup s.cur h) ∧
        Claim.Moved g h s.path1 (Claim.after g s.path1 w) x.p.exec x.p.stack) ∧
      (∀ t m, jmpiArms x = [(t, m)] → ∃ h, exec (.vjmpi w) s = .next (s.setGroup s.cur h) ∧
        Claim.Moved g h s.path1 t x.p.exec x.p.stack) ∧
      (∀ t m u n, jmpiArms x = [(t, m), (u, n)] → immTarget w < (imageOf s g).lwords → x.p.stack.length ≤ 30 →
        ∃ h, exec (.vjmpi w) s = .next (s.setGroup s.cur h) ∧
          Claim.Moved g h s.path1 t m (.arm u n (immTarget w) :: .join (immTarget w) x.p.exec :: x.p.stack))) ∧
    (LaneGo 0xB3 w s g → (pathOf g s.path1).skip = 0 → immTarget w < (imageOf s g).lwords →
      let x := laneIn 0xB3 w s g
      voting x ≠ [] → fallers x = [] → ∃ h, exec (.vcall w) s = .next (s.setGroup s.cur h) ∧
        (pathOf h s.path1).lpc = immTarget w ∧ (pathOf h s.path1).stack = x.p.stack ∧ h.s = g.s ∧
        ∀ n, n ∈ acting x → (laneAt h n).vreg w.vd.toNat = BitVec.ofNat 32 (12 * Claim.after g s.path1 w)) ∧
    (LaneGo 0xB4 w s g → (pathOf g s.path1).skip = 0 → badTargetTrap (laneIn 0xB4 w s g) = none →
      let x := laneIn 0xB4 w s g
      ∀ t, targets x = [t] → fallers x = [] → ∃ h, exec (.vcalli w) s = .next (s.setGroup s.cur h) ∧
        (pathOf h s.path1).lpc = t / 12 ∧ (pathOf h s.path1).stack = x.p.stack ∧ h.s = g.s ∧
        ∀ n, n ∈ acting x → (laneAt h n).vreg w.vd.toNat = BitVec.ofNat 32 (12 * Claim.after g s.path1 w)) ∧
    (LaneGo 0xB5 w s g → (pathOf g s.path1).skip = 0 → w.g = 7 → w.n = false → retChecks (laneIn 0xB5 w s g) = none →
      ∀ n off r, offsets (laneIn 0xB5 w s g) = (n, off) :: r → joinPoint g s.path1 ≠ some (off / 12) →
        ∃ h, exec (.vret w) s = .next (s.setGroup s.cur h) ∧
          Claim.Moved g h s.path1 (off / 12) (pathOf g s.path1).exec (pathOf g s.path1).stack)

/-- Lane branches, jumps, calls and returns: LaneBranches and LaneIndirect together. -/
def Obligations.LaneBranchesAndCalls : Prop := Claim.LaneBranches ∧ Claim.LaneIndirect

/-- R281, R287: VJOIN at the join point of its path takes the entry on top of its stack: an arm runs next in its mask, a join continues behind the word in the lanes of its mask
that are live; anywhere else it goes to the next word. -/
def Sys2Proof.Claim.VjoinMerges : Prop :=
  ∀ (w : LaneW) (s : State) (g : Group), LaneGo 0xB6 w s g → (pathOf g s.path1).skip = 0 → w.g = 7 → w.n = false →
    let p := pathOf g s.path1
    (joinPoint g s.path1 ≠ some p.lpc → ∃ h, exec (.vjoin w) s = .next (s.setGroup s.cur h) ∧
      Claim.Moved g h s.path1 (Claim.after g s.path1 w) p.exec p.stack) ∧
    (∀ u m r, p.stack = .arm u m p.lpc :: r → m ≠ 0 → ∃ h, exec (.vjoin w) s = .next (s.setGroup s.cur h) ∧
      Claim.Moved g h s.path1 u m r) ∧
    (∀ m r, p.stack = .join p.lpc m :: r → m &&& liveLanes g ≠ 0 → ∃ h, exec (.vjoin w) s = .next (s.setGroup s.cur h) ∧
      Claim.Moved g h s.path1 (Claim.after g s.path1 w) (m &&& liveLanes g) r)

/-- R276, R288, R289: VEXIT takes its acting lanes, and the helpers of quads that are done, out of EXEC and the LaneSet for good; the last one ends the block. LEND with a single path
and no open entry ends the running block, once the lane sets have committed, and hands the lane lt to LSYNC; a path that is not single traps LEND_DIVERGED. -/
def Sys2Proof.Claim.LaneEnds : Prop :=
  ∀ (w : LaneW) (s : State) (g : Group),
    (LaneGo 0xB8 w s g → g.region = none → (pathOf g s.path1).skip = 0 → lastExit (laneIn 0xB8 w s g) = false →
      let x := laneIn 0xB8 w s g
      (exitSet x = [] → ∃ h, exec (.vexit w) s = .next (s.setGroup s.cur h) ∧
        Claim.Moved g h s.path1 (Claim.after g s.path1 w) x.p.exec x.p.stack) ∧
      (exitSet x ≠ [] → x.p.exec &&& ~~~(maskOf (exitSet x)) ≠ 0 → ∃ h, exec (.vexit w) s = .next (s.setGroup s.cur h) ∧
        (pathOf h s.path1).exec = x.p.exec &&& ~~~(maskOf (exitSet x)) ∧
        (∀ n, n ∈ exitSet x → (laneAt h n).exited = true) ∧ (∀ n, n < g.lanes.length → n ∉ exitSet x → laneAt h n = laneAt g n) ∧
        h.block = g.block)) ∧
    (LaneGo 0xB8 w s g → g.region = none → lastExit (laneIn 0xB8 w s g) = true → setsOf s (.lane s.cur) = [] →
      ∃ h, exec (.vexit w) s = .next (s.setGroup s.cur h) ∧ liveLanes h = 0 ∧ h.block = none ∧ h.lastExec = some 0) ∧
    (LaneGo 0xB9 w s g → w.g = 7 → w.n = false → g.p1 = none → (pathOf g s.path1).stack = [] → g.region = none →
      setsOf s (.lane s.cur) = [] → ∃ h, exec (.lend w) s = .next (s.setGroup s.cur h) ∧ h.block = none ∧
        h.lastExec = some (pathOf g s.path1).exec ∧ h.endLt = max g.endLt g.llt ∧ h.lanes = g.lanes ∧ h.s = g.s ∧ h.queue = g.queue) ∧
    (LaneGo 0xB9 w s g → w.g = 7 → w.n = false → (pathOf g s.path1).stack ≠ [] →
      exec (.lend w) s = .next (laneTrap s s.cur g s.path1 Tc.lendDiverged))

/-- Joins, lane exit and the end of a block: VjoinMerges and LaneEnds together. -/
def Obligations.LaneJoinsAndEnds : Prop := Claim.VjoinMerges ∧ Claim.LaneEnds

/-- R116, R117, R309, R341: VGETS and VGETT give each acting lane the special or trap register of IMM (index 0 the lane number); SETEXEC, SETPART and SETCVM with a uniform source and no
guard write the path's EXEC within its LaneSet, PART, CVMODE, or CVSEED with the SR counters at 0. -/
def Obligations.LaneSpecialMoves : Prop :=
  ∀ (w : LaneW) (s : State) (g : Group),
    (LaneGo 0xC0 w s g → privBad s g (w.imm.toNat % 256) = false →
      exec (.vgets w) s = .next (Claim.laneDone 0xC0 w s g fun x n l => writeTy w.ty l w.vd.toNat
        (if w.imm.toNat % 256 = 0 then n else ((specialValue s g x.p.exec (w.imm.toNat % 256)).getD 0).toNat))) ∧
    (LaneGo 0xC0 w s g → privBad s g (w.imm.toNat % 256) = true →
      exec (.vgets w) s = .next (laneTrap s s.cur g s.path1 Tc.privSpecial)) ∧
    (LaneGo 0xC5 w s g → exec (.vgett w) s = .next (Claim.laneDone 0xC5 w s g fun _ _ l =>
      writeTy w.ty l w.vd.toNat (trapReg g.trap (w.imm.toNat % 256)).toNat)) ∧
    ((w.i = true ∨ 192 ≤ w.va.toNat) → w.g = 7 → w.n = false →
      let v := if w.i then w.imm.setWidth 64 else snapReg g w.va
      (LaneGo 0xC1 w s g → ∃ h, exec (.setexec w) s = .next (s.setGroup s.cur h) ∧ h.lanes = g.lanes ∧ h.s = g.s ∧
        (pathOf h s.path1).exec = (match w.opx.toNat with
          | 0 => v | 1 => (pathOf g s.path1).exec &&& v | 2 => (pathOf g s.path1).exec ||| v
          | _ => (pathOf g s.path1).exec &&& ~~~v) &&& (pathOf g s.path1).laneSet) ∧
      (LaneGo 0xC2 w s g → v.toNat % 8 < 5 → ∃ h, exec (.setpart w) s = .next (s.setGroup s.cur h) ∧ h.part = v.setWidth 3 ∧
        h.lanes = g.lanes ∧ h.cvmode = g.cvmode ∧ h.s = g.s) ∧
      (LaneGo 0xC3 w s g → w.opx = 0 → cvmodeOk (v.toNat % 2 ^ 32) = true → ∃ h, exec (.setcvm w) s = .next (s.setGroup s.cur h) ∧
        h.cvmode = v.setWidth 32 ∧ h.cvseed = g.cvseed ∧ h.lanes = g.lanes) ∧
      (LaneGo 0xC3 w s g → w.opx ≠ 0 → ∃ h, exec (.setcvm w) s = .next (s.setGroup s.cur h) ∧ h.cvseed = v.setWidth 32 ∧
        h.cvmode = g.cvmode ∧ ∀ n, n < g.lanes.length → (laneAt h n).sr = 0)) ∧
    (LaneGo 0xC1 w s g → w.i = false → w.va.toNat < 192 →
      exec (.setexec w) s = .next (laneTrap s s.cur g s.path1 Tc.uniformSource))

/-- R340: the software check causes are 0x29 to 0x2F, 0x5E, 0x5F, 0x7B to 0x7F, 0x89 to 0x8F, 0x9C to 0x9F, 0xA6 to 0xAF, 0xBE and 0xBF. STRAP with one takes that trap, TSPC at the next word and the low 32 bits of sa (or of the word its port gives) in TINFO; any other code traps ILLEGAL_MINOR. VTRAP
with acting lanes takes its trap with TLPC0 at the next word, those lanes in TLANES and the operand of the lowest in TINFO; with none it goes to the next word. -/
def Obligations.SoftwareTraps : Prop :=
  (∀ c : BitVec 8, Tc.software c = true ↔ c.toNat ∈ [0x29, 0x2A, 0x2B, 0x2C, 0x2D, 0x2E, 0x2F, 0x5E, 0x5F, 0x7B, 0x7C, 0x7D, 0x7E, 0x7F,
    0x89, 0x8A, 0x8B, 0x8C, 0x8D, 0x8E, 0x8F, 0x9C, 0x9D, 0x9E, 0x9F, 0xA6, 0xA7, 0xA8, 0xA9, 0xAA, 0xAB, 0xAC, 0xAD, 0xAE, 0xAF, 0xBE, 0xBF]) ∧
  decodeScalar 0xC800C02D#32 = .ok (.strap 3 0x2D) ∧
  (∃ w : LaneW, decodeLane 0xC4010002_80000000_0000002C#96 = .ok (.vtrap w) ∧ w.g = 1 ∧ w.n = false ∧ w.va = 5 ∧ w.imm = 0x2C) ∧
  (∀ (s s1 : State) (g g1 : Group) (a : SReg) (c : BitVec 8) (v : Word) (s2 : State) (img : Nat) (spc : Word), Claim.ScalarIdle s g →
    (Tc.software c = true → portFails [a] none = none → readSources s.cur [a] s = some (s1, [v]) → s1.groups[s.cur]? = some g1 →
      Claim.Delivers (s1.setGroup s.cur (Claim.went (g1.spc + 4) g1)) s.cur (Claim.went (g1.spc + 4) g1) c s2 img spc →
      exec (.strap a c) s = .next (takeTrap (s1.setGroup s.cur (Claim.went (g1.spc + 4) g1)) s.cur
        { cause := c, lane := false, path1 := false, spc := g1.spc + 4, lpc := 0, lanes := 0, addr := 0,
          info := w64 (v.toNat % 2 ^ 32) })) ∧
    (Tc.software c = false → exec (.strap a c) s = .next (scalarTrap s s.cur g Tc.illegalMinor))) ∧
  (∀ (w : LaneW) (s : State) (g : Group) (s2 : State) (img : Nat) (spc : Word),
    let x := laneIn 0xC4 w s g
    let h := advance x none g
    (LaneGo 0xC4 w s g → acting x = [] → exec (.vtrap w) s = .next (s.setGroup s.cur h)) ∧
    (∀ n r, LaneGo 0xC4 w s g → acting x = n :: r → Claim.Delivers (s.setGroup s.cur h) s.cur h (w.imm.setWidth 8) s2 img spc →
      exec (.vtrap w) s = .next (takeTrap (s.setGroup s.cur h) s.cur
        { cause := w.imm.setWidth 8, lane := true, path1 := s.path1, spc := g.spc, lpc := (pathOf h s.path1).lpc,
          lanes := maskOf (n :: r), addr := 0, info := w64 (Claim.srcA x (laneAt g n)) })))

/-! ## Matrix arrays (R119 to R144) -/

namespace Sys2Proof.Claim

open Sys2Proof Sys2Proof.Machine

/-- A span of arrays stands ready for a matrix word of group `g`: no region, the span inside the group's share, the team not frozen. -/
structure SpanFree (s : State) (g : Group) (first count : Nat) : Prop where
  region : g.region = none
  team   : g.team < s.teams.length
  some_  : count ≠ 0
  inside : first + count ≤ (sharesOf s g).length
  thaw   : (teamOf s g).frozen = false

/-- Two arrays with the same status words, as the arrays of one stopped span have. -/
abbrev sameStatus (a b : Cim) : Prop :=
  a.state = b.state ∧ a.m = b.m ∧ a.next = b.next ∧ a.fmtw = b.fmtw ∧ a.aaddr = b.aaddr ∧ a.tag = b.tag ∧ a.evt = b.evt ∧
    a.count = b.count ∧ a.first = b.first

/-- Bits of a word of a raw kind (R141). -/
def rawBits (kind : Nat) : Nat := match kind with | 0 => 20 | 1 => 16 | 2 | 3 => 32 | _ => 1

/-- The unit of the group's quadrant is idle and no command waits for it. -/
abbrev unitIdle (s : State) (g : Group) : Prop := (unitOf s g.quad).run = none ∧ (unitOf s g.quad).fifo = []

/-- The state a fetched lane word runs in: the answer to its fetch is taken, and the translation of its bytes stands in the TLBs. -/
def laneState (s : State) (gi : Nat) (p : Bool) : State :=
  let g := groupAt s gi
  enterRange (fetchDone (takeFetched { s with cur := gi, path1 := p } gi true p) gi true p) (g.quad / 4) (ctxIx s g)
    (laneVa s g (pathOf g p).lpc) 12 .fetch

/-- A lane word has been fetched: its path may run, its counters have not run out, the bytes of its section are here, and nothing keeps the stream from
its next word. -/
structure LaneFetch (s : State) (gi : Nat) (p : Bool) (g : Group) (bs : List Byte) : Prop where
  group : s.groups[gi]? = some g
  run   : laneMayRun { s with cur := gi, path1 := p } g p = true
  slot  : slotAllows s g.quad (ctxIx s g) = true
  free  : fetchParked { s with cur := gi, path1 := p } gi true p = false
  calm  : requested s g = false
  count : counterTrap s g = none
  lane  : (pathOf g p).lpc < (imageOf s g).lwords
  here  : fetchWaits (takeFetched { s with cur := gi, path1 := p } gi true p) gi true p (laneVa s g 0) (12 * (imageOf s g).lwords) = none
  clean : rangePoison (laneState s gi p) (g.quad / 4) (ctxIx s g) (laneVa s g (pathOf g p).lpc) 12 .fetch = none
  bytes : coreRead (laneState s gi p) (g.quad / 4) (ctxIx s g) (laneVa s g (pathOf g p).lpc) 12 .fetch = .ok bs

end Sys2Proof.Claim

/-- R121, R137, R138, R140: with the unit idle a matrix word is accepted. MLDB makes its array BUSY and the command's source, column count and format are those of the word. MMA makes its span BUSY with the row count,
row 0 next, the format word, the address, TAG, EVT, count and first array in every status. MCLR clears the accumulators, and with OPX[0] everything. -/
def Sys2Proof.Claim.MatrixCommands : Prop :=
  ∀ (w : LaneW) (s : State) (g : Group), Claim.unitIdle s g →
    (LaneGo 0x90 w s g → Claim.SpanFree s g w.vd.toNat 1 → 192 ≤ w.va.toNat → (w.i = true ∨ 192 ≤ w.vb.toNat) →
      let x := laneIn 0x90 w s g
      acting x ≠ [] → 0 < mldbCols x → mldbCols x ≤ (if formatCode w.ty = 4 then 16 else 64) → mldbSrc x % 256 = 0 →
      mldbSrc x + tileBytes (formatCode w.ty) (mldbCols x) ≤ sramBytes x → (cimAt s g w.vd.toNat).state ≠ .stopped →
      ∃ t c, exec (.mldb w) s = .next t ∧ (unitOf t g.quad).run = some c ∧ c.kind = .mldb ∧ c.g = s.cur ∧ c.first = w.vd.toNat ∧
        c.n = mldbCols x ∧ c.fmt = formatCode w.ty ∧ c.src = mldbSrc x ∧ c.t0 = s.now ∧
        (cimAt t g w.vd.toNat).state = .busy ∧ (cimAt t g w.vd.toNat).cells = (cimAt s g w.vd.toNat).cells) ∧
    (LaneGo 0x91 w s g → Claim.SpanFree s g w.vd.toNat (spanCount w) → 192 ≤ w.vb.toNat → 192 ≤ w.vc.toNat →
      let x := laneIn 0x91 w s g
      let fw := formatWord x 0
      convergence x = none → formatFails fw = none → 0 < mmaRows x → mmaRows x ≤ 64 → mmaAddr x % 64 = 0 →
      mmaAddr x + rowsBytes fw (mmaRows x) ≤ sramBytes x →
      (∀ k ∈ spanCims s g w.vd.toNat (spanCount w), k.state ≠ .stopped ∧ k.state ≠ .empty ∧ k.bfmt.toNat = fwB fw) →
      ∃ t c, exec (.mma w) s = .next t ∧ (unitOf t g.quad).run = some c ∧ c.kind = .mma ∧ c.n = mmaRows x ∧ c.fmtw = fw ∧
        c.src = mmaAddr x ∧ c.row0 = 0 ∧ c.first = w.vd.toNat ∧ c.count = spanCount w ∧
        ∀ k, w.vd.toNat ≤ k → k < w.vd.toNat + spanCount w → (cimAt t g k).state = .busy ∧ (cimAt t g k).next = 0 ∧
          (cimAt t g k).m = BitVec.ofNat 7 (mmaRows x) ∧ (cimAt t g k).fmtw = BitVec.ofNat 15 fw ∧
          (cimAt t g k).first = BitVec.ofNat 5 w.vd.toNat ∧ (cimAt t g k).acc = (cimAt s g k).acc) ∧
    (LaneGo 0x98 w s g → Claim.SpanFree s g w.vd.toNat (spanCount w) → acting (laneIn 0x98 w s g) ≠ [] →
      ∃ t c, exec (.mclr w) s = .next t ∧ (unitOf t g.quad).run = some c ∧ c.kind = .mclr ∧
        ∀ k, w.vd.toNat ≤ k → k < w.vd.toNat + spanCount w → (cimAt t g k).acc = [] ∧
          (w.opx.getLsbD 0 = true → (cimAt t g k).state = .empty ∧ (cimAt t g k).cells = []) ∧
          (w.opx.getLsbD 0 = false → (cimAt t g k).cells = (cimAt s g k).cells)) ∧
    (LaneGo 0x97 w s g → Claim.SpanFree s g w.vd.toNat 1 → acting (laneIn 0x97 w s g) ≠ [] →
      let k := cimAt s g w.vd.toNat
      k.state = .stopped → k.first.toNat = w.vd.toNat → 0 < k.count.toNat → w.vd.toNat + k.count.toNat ≤ (sharesOf s g).length →
      (∀ j, w.vd.toNat ≤ j → j < w.vd.toNat + k.count.toNat → Claim.sameStatus (cimAt s g j) k) → k.aaddr.toNat + rowsBytes k.fmtw.toNat k.m.toNat ≤
        (launchOf s g).record.sram.toNat →
      ∃ t c, exec (.mresume w) s = .next t ∧ (unitOf t g.quad).run = some c ∧ c.kind = .mma ∧ c.n = k.m.toNat ∧
        c.row0 = min k.next.toNat k.m.toNat ∧ c.fmtw = k.fmtw.toNat ∧ c.src = k.aaddr.toNat ∧
        ∀ j, w.vd.toNat ≤ j → j < w.vd.toNat + k.count.toNat → (cimAt t g j).state = .busy ∧ (cimAt t g j).acc = (cimAt s g j).acc)

/-- R121, R144, R143: a matrix word finds its unit busy and joins the waiters, a blocking wait; inside a region it traps DOMINO_FORBIDDEN, and before that MACRO_NONE where the group
has no arrays. Shown of MCLR. -/
def Sys2Proof.Claim.MatrixWordWaitsAndTraps : Prop :=
  ∀ (w : LaneW) (s : State) (g : Group) (c : MatCmd), LaneGo 0x98 w s g →
    ((unitOf s g.quad).run = some c → (unitOf s g.quad).fifo = [] → Claim.SpanFree s g w.vd.toNat (spanCount w) →
      acting (laneIn 0x98 w s g) ≠ [] →
      ∃ t, exec (.mclr w) s = .next t ∧ (unitOf t g.quad).fifo = [(s.cur, s.path1)] ∧ (unitOf t g.quad).run = some c ∧
        (groupAt t s.cur).lwait = true ∧ pathOf (groupAt t s.cur) s.path1 = pathOf g s.path1) ∧
    (sharesOf s g = [] → exec (.mclr w) s = .next (laneTrap s s.cur g s.path1 Tc.cimNone)) ∧
    (sharesOf s g ≠ [] → g.region.isSome = true → exec (.mclr w) s = .next (laneTrap s s.cur g s.path1 Tc.dominoForbidden))

/-- Matrix commands: what they set up, where they wait and trap: MatrixCommands and MatrixWordWaitsAndTraps together. -/
def Obligations.MatrixCommands : Prop := Claim.MatrixCommands ∧ Claim.MatrixWordWaitsAndTraps

/-- R140 to R142: MDRAIN gives each acting lane the accumulator word of its column, MFILL writes it from each acting lane that is no helper; MDRAINB and MFILLB move raw words of a kind; MSTAT gives lanes 0 to 3
the status words S0 to S3 and the others 0. -/
def Obligations.MatrixMoves : Prop :=
  ∀ (w : LaneW) (s : State) (g : Group) (maj hi rows : Nat), (maj ≠ 0x96 → w.i = true ∨ 192 ≤ w.vb.toNat) → Claim.SpanFree s g (moveCim w) 1 →
    let x := laneIn maj w s g
    let r := moveRow x hi
    let k := cimAt s g (moveCim w)
    LaneGo maj w s g → partBad x = false → cimInUse x = false → r < rows →
    (maj = 0x92 → hi = 13 → rows = 64 → w.ty ≠ .f64 → exec (.mdrain w) s = .next (Claim.laneDone 0x92 w s g fun _ i l =>
      writeTy .b32 l w.vd.toNat (accRead k false r (columnOf x i)))) ∧
    (maj = 0x92 → hi = 13 → rows = 64 → w.ty = .f64 → exec (.mdrain w) s = .next (Claim.laneDone 0x92 w s g fun _ i l =>
      if columnOf x i < 16 then writeTy .f64 l w.vd.toNat (accRead k true r (columnOf x i)) else l)) ∧
    (maj = 0x93 → hi = 13 → rows = 64 → ∃ t, exec (.mfill w) s = .next t ∧
      (∀ i ∈ fillers x, (w.ty = .f64 → columnOf x i < 16) →
        accRead (cimAt t g (moveCim w)) (w.ty = .f64) r (columnOf x i) = source x (laneAt g i) 1 % 2 ^ (if w.ty = .f64 then 64 else 32)) ∧
      (cimAt t g (moveCim w)).cells = k.cells ∧ (groupAt t s.cur).lanes = g.lanes ∧ Claim.SameMemory s t) ∧
    (maj = 0x94 → hi = 15 → rows = kindRows (rawKind w) → exec (.mdrainb w) s = .next (Claim.laneDone 0x94 w s g fun _ i l =>
      l.setV w.vd.toNat (BitVec.ofNat 32 (rawRead k (rawKind w) r (columnOf x i))))) ∧
    (maj = 0x95 → hi = 15 → rows = kindRows (rawKind w) → rawKind w ≠ 5 → ∃ t, exec (.mfillb w) s = .next t ∧
      (∀ i ∈ fillers x, rawRead (cimAt t g (moveCim w)) (rawKind w) r (columnOf x i) = source x (laneAt g i) 1 % 2 ^ Claim.rawBits (rawKind w)) ∧
      (cimAt t g (moveCim w)).acc = k.acc ∧ Claim.SameMemory s t) ∧
    (maj = 0x95 → hi = 15 → rows = 1 → rawKind w = 5 → statusFails x = none → ∃ t, exec (.mfillb w) s = .next t ∧
      (∀ j, j < 4 → (statusWord (cimAt t g (moveCim w)) j).toNat = source x (laneAt g j) 1) ∧
      (cimAt t g (moveCim w)).acc = k.acc ∧ (cimAt t g (moveCim w)).cells = k.cells ∧ Claim.SameMemory s t) ∧
    (maj = 0x96 → exec (.mstat w) s = .next (Claim.laneDone 0x96 w s g fun _ i l =>
      l.setV w.vd.toNat (if i < 4 then statusWord k i else 0)))

/-- R121, R130, R131, R133, R143: the unit's steps. An idle unit lets its first waiter's word issue again. A command whose completion dc has come leaves the unit: MLDB's array holds its tile, MMA's arrays are LOADED with
every row done; EVT pushes an event word to q5, which a full q5 holds back; a frozen multiplication's arrays enter STOPPED with the rows begun as NEXT. -/
def Obligations.MatrixUnitSteps : Prop :=
  ∀ (s : State) (q : Nat),
    (∀ gi p r g bs w, (unitOf s q).run = none → (unitOf s q).fifo = (gi, p) :: r → Claim.LaneFetch s gi p g bs →
      decodeLaneBytes bs = .ok (.mclr w) → g.quad = q → r = [] → LaneGo 0x98 w (Claim.laneState s gi p) g →
      Claim.SpanFree s g w.vd.toNat (spanCount w) → acting (laneIn 0x98 w (Claim.laneState s gi p) g) ≠ [] →
      ∃ t c, exec (.matrixCmdAccept q) s = .next t ∧ (unitOf t q).run = some c ∧ c.kind = .mclr ∧ (unitOf t q).fifo = []) ∧
    (∀ c, (unitOf s q).run = some c → c.g < s.groups.length → c.evt = false →
      (c.kind = .mldb → doneAt c ≤ s.now → c.waiting = false → c.count = 1 → c.first < (sharesOf s (groupAt s c.g)).length →
        (groupAt s c.g).team < s.teams.length →
        ∃ t, exec (.mldbComplete q) s = .next t ∧ (unitOf t q).run = none ∧
          cimAt t (groupAt s c.g) c.first = loadTile c.fmt c.n c.buf.flatten (cimAt s (groupAt s c.g) c.first)) ∧
      (c.kind = .mma → doneAt c ≤ s.now → c.waiting = false → c.frozen = none →
        c.first + c.count ≤ (sharesOf s (groupAt s c.g)).length → (groupAt s c.g).team < s.teams.length →
        ∃ t, exec (.mmaComplete q) s = .next t ∧ (unitOf t q).run = none ∧ ∀ k, c.first ≤ k → k < c.first + c.count →
          (cimAt t (groupAt s c.g) k).state = .loaded ∧
          (cimAt t (groupAt s c.g) k).next = (cimAt s (groupAt s c.g) k).m) ∧
      (c.kind = .mclr → doneAt c ≤ s.now → c.waiting = false →
        ∃ t, exec (.mclrComplete q) s = .next t ∧ (unitOf t q).run = none ∧ t.teams = s.teams ∧ t.groups = s.groups) ∧
      (∀ u, c.kind = .mma → c.frozen = some u → stopAt c u ≤ s.now →
        c.first + c.count ≤ (sharesOf s (groupAt s c.g)).length → (groupAt s c.g).team < s.teams.length →
        ∃ t, exec (.matrixStop q) s = .next t ∧ (unitOf t q).run = none ∧ ∀ k, c.first ≤ k → k < c.first + c.count →
          (cimAt t (groupAt s c.g) k).state = .stopped ∧
          (cimAt t (groupAt s c.g) k).next = BitVec.ofNat 7 (c.row0 + c.begun))) ∧
    (∀ c, (unitOf s q).run = some c → c.g < s.groups.length → c.evt = true → c.frozen = none →
      (c.kind = .mldb → 64 ≤ (groupAt s c.g).q5.length → doneAt c ≤ s.now → c.waiting = false →
        ∃ t d, exec (.mldbComplete q) s = .next t ∧ (unitOf t q).run = some d ∧ d.waiting = true ∧ t.groups = s.groups) ∧
      (c.kind = .mma → 64 ≤ (groupAt s c.g).q5.length → doneAt c ≤ s.now → c.waiting = false →
        ∃ t d, exec (.mmaComplete q) s = .next t ∧ (unitOf t q).run = some d ∧ d.waiting = true ∧ t.groups = s.groups) ∧
      ((groupAt s c.g).q5.length < 64 → c.waiting = true →
        ∃ t, exec (.matrixEventPush q) s = .next t ∧ (unitOf t q).run = none ∧
          (groupAt t c.g).q5 = (groupAt s c.g).q5 ++ [(eventWord s c, c.lt)]))

/-! ## Domino regions (R231 to R251) -/

namespace Sys2Proof.Claim

open Sys2Proof Sys2Proof.Machine

/-- A domino word of a single path without a guard. -/
abbrev ungarded (w : LaneW) (g : Group) : Prop := w.g = 7 ∧ w.n = false ∧ g.p1 = none

end Sys2Proof.Claim

/-- R231, R234, R241, R244, R248 to R250: DBEGIN with a free slot and room on its core opens a LIVE region with its stamp, abort LPC and checkpoint; in a region it nests; with no slot free it waits. DCOMMIT of the outer
level enters COMMITTING, or WAITING behind a live predecessor; of an inner level it lowers the nest count. DABORT aborts the region with cause 7 and keeps its code. DSTAT gives its word to the acting lanes. None of
them does anything where no lane acts. -/
def Obligations.DominoWords : Prop :=
  ∀ (w : LaneW) (s : State) (g : Group), Claim.ungarded w g →
    (LaneGo 0xA0 w s g → w.safe = true → domTarget (laneIn 0xA0 w s g) = none → acting (laneIn 0xA0 w s g) ≠ [] →
      let x := laneIn 0xA0 w s g
      let quads := (ckptQuads ((maskAfter x).setWidth 88)).length
      (∀ n, g.region = none → freeSlotNo s = some n → coreRoom s (g.quad / 4) quads = true → heldBack s s.cur = false →
        ∃ t y, exec (.dbegin w) s = .next t ∧ (groupAt t s.cur).region = some n ∧ slotAt t n = some y ∧ y.state = .live ∧ y.g = s.cur ∧
          y.stamp = g.retry.getD s.dom.stamp ∧ y.nest = 0 ∧ y.abort = immTarget w ∧ y.ckpt.lanes = g.lanes ∧
          y.ckpt.exec = g.p0.exec ∧ y.lines = 8 * quads ∧ (groupAt t s.cur).lanes = g.lanes ∧ Claim.SameMemory s t) ∧
      (∀ n y, g.region = some n → slotAt s n = some y → y.nest < 255 →
        ∃ t z, exec (.dbegin w) s = .next t ∧ slotAt t n = some z ∧ z = { y with nest := y.nest + 1 } ∧
          (groupAt t s.cur).region = some n) ∧
      (g.region = none → freeSlotNo s = none → ∃ t, exec (.dbegin w) s = .next t ∧ s.cur ∈ t.dom.fifo ∧
        (groupAt t s.cur).lwait = true ∧ (groupAt t s.cur).p0 = g.p0)) ∧
    (∀ n y, g.region = some n → slotAt s n = some y → y.slot = n → y.state = .live →
      (LaneGo 0xA1 w s g → acting (laneIn 0xA1 w s g) ≠ [] →
        (y.nest = 0 → regionPerformed s n = true → predsOf s n = [] → ∃ t z, exec (.dcommit w) s = .next t ∧ slotAt t n = some z ∧
          z.state = .committing ∧ z.cts = commitTime s y ∧ (groupAt t s.cur).region = some n) ∧
        (y.nest = 0 → regionPerformed s n = true → predsOf s n ≠ [] → ∃ t z, exec (.dcommit w) s = .next t ∧ slotAt t n = some z ∧
          z.state = .waiting) ∧
        (y.nest ≠ 0 → ∃ t z, exec (.dcommit w) s = .next t ∧ slotAt t n = some z ∧ z = { y with nest := y.nest - 1 })) ∧
      (LaneGo 0xA2 w s g → acting (laneIn 0xA2 w s g) ≠ [] → y.g = s.cur → s.dom.reach = [] →
        ∃ t z, exec (.dabort w) s = .next t ∧ slotAt t n = some z ∧ z.state = .aborting ∧ z.cause = 7 ∧
          (groupAt t s.cur).dstat.userCode = w.imm.setWidth 8 ∧ (groupAt t s.cur).dstat.cause = 7)) ∧
    (LaneGo 0xA3 w s g → exec (.dstat w) s = .next (Claim.laneDone 0xA3 w s g fun _ _ l =>
      l.setWide 64 w.vd.toNat (dsWord s g (w.opx.toNat % 4)))) ∧
    (LaneGo 0xA1 w s g → acting (laneIn 0xA1 w s g) ≠ [] → g.region = none →
      exec (.dcommit w) s = .next (laneTrap s s.cur g s.path1 Tc.dominoNone)) ∧
    (LaneGo 0xA0 w s g → w.safe = true → domTarget (laneIn 0xA0 w s g) = none → acting (laneIn 0xA0 w s g) = [] →
      exec (.dbegin w) s = .next (s.setGroup s.cur (advance (laneIn 0xA0 w s g) none g))) ∧
    (LaneGo 0xA1 w s g → acting (laneIn 0xA1 w s g) = [] →
      exec (.dcommit w) s = .next (s.setGroup s.cur (advance (laneIn 0xA1 w s g) none g))) ∧
    (LaneGo 0xA2 w s g → acting (laneIn 0xA2 w s g) = [] →
      exec (.dabort w) s = .next (s.setGroup s.cur (advance (laneIn 0xA2 w s g) none g)))

/-- R238 to R244: the domino table's steps. A waiting DBEGIN issues again; a request records its edge; a WAITING region without live predecessors enters COMMITTING; 40 dc and an eighth of its spans after that, with every mirror's answer come, its bytes are in memory, its slot is
free, its group's lane lt covers the commit time; 12 dc and its checkpointed quads after its cause an abort restores the checkpoint at the abort LPC. A recall held 2^14 dc, or a pre-emption deferred 2^16 dc, aborts the regions in the way. -/
def Obligations.DominoSteps : Prop :=
  ∀ (s : State) (n : Nat) (y : DomSlot),
    (∀ g gr bs w k, g ∈ s.dom.fifo → Claim.LaneFetch s g false gr bs → decodeLaneBytes bs = .ok (.dbegin w) →
      LaneGo 0xA0 w (Claim.laneState s g false) gr → Claim.ungarded w gr → w.safe = true →
      domTarget (laneIn 0xA0 w (Claim.laneState s g false) gr) = none → acting (laneIn 0xA0 w (Claim.laneState s g false) gr) ≠ [] →
      gr.region = none → freeSlotNo (Claim.laneState s g false) = some k →
      coreRoom (Claim.laneState s g false) (gr.quad / 4) (ckptQuads ((maskAfter (laneIn 0xA0 w (Claim.laneState s g false) gr)).setWidth 88)).length = true →
      heldBack (Claim.laneState s g false) g = false →
      ∃ t, exec (.dbeginSlotGrant g) s = .next t ∧ (groupAt t g).region = some k ∧ g ∉ t.dom.fifo) ∧
    (∀ i k a p z, setAt s i = some a → a.region = some n → slotAt s n = some y → y.slot = n → a.spans[k]? = some p → p.done = false →
      cycleHeld s n = false → storeClass a.kind = true → a.phase = .gone → regionAt s a p = true → ownWords s a p.line n = false →
      edgeTurn s y = true → (i, k, z.slot) ∉ s.dom.stalls → edgesNeeded s n (readsToo a.kind) (storeClass a.kind) (spanLo p) (spanLen p) = [(z.slot, false)] →
      slotAt s z.slot = some z → edgeFate s z y false = .record →
      ∃ t, exec (.dominoEdgeRequest i k) s = .next t ∧ (z.slot, n) ∈ t.dom.reach ∧ t.groups = s.groups ∧ t.sets = s.sets) ∧
    (slotAt s n = some y → y.slot = n →
      (y.state = .waiting → predsOf s n = [] → ∃ t z, exec (.dominoCommitStart n) s = .next t ∧ slotAt t n = some z ∧
        z.state = .committing ∧ z.cts = commitTime s y) ∧
      (y.state = .committing → y.since + 40 + (y.wspans.length + 7) / 8 ≤ s.now → commitMirrored s n = true → y.g < s.groups.length →
        ∃ t, exec (.dominoCommitComplete n) s = .next t ∧ slotAt t n = none ∧ (groupAt t y.g).region = none ∧
          (groupAt t y.g).llt = max (groupAt s y.g).llt y.cts ∧ (groupAt t y.g).dstat.cts = w64 y.cts ∧
          (∀ a, (∀ v ∈ y.wr, v.1 ≠ a) → byteAt t.mem a = byteAt s.mem a) ∧ (∀ a b, y.wr = [(a, b)] → byteAt t.mem a = b)) ∧
      (y.state = .aborting → y.since + 12 + (ckptQuads y.ckpt.mask).length ≤ s.now → y.g < s.groups.length →
        ∃ t, exec (.dominoAbortComplete n) s = .next t ∧ slotAt t n = none ∧ (groupAt t y.g).region = none ∧
          (groupAt t y.g).p0.lpc = y.abort ∧ (groupAt t y.g).p0.exec = y.ckpt.exec ∧ (groupAt t y.g).part = y.ckpt.part ∧
          (groupAt t y.g).cvmode = y.ckpt.cvmode ∧ (groupAt t y.g).s = (groupAt s y.g).s ∧ Claim.SameMemory s t) ∧
      (y.state = .live → s.dom.reach = [] → s.dom.slots = [y] →
        (∀ gpn at_ e, s.dom.holds = [(gpn, at_, e)] → at_ + 2 ^ 14 ≤ s.now → (∃ w ∈ y.rd, w / 16384 = gpn) →
          ∃ t z, exec (.recallHoldTimeout gpn) s = .next t ∧ slotAt t n = some z ∧ z.state = .aborting ∧ z.cause = 5) ∧
        (∀ gi u, (groupAt s gi).region = some n → (teamOf s (groupAt s gi)).request = some u → u + 2 ^ 16 ≤ s.now →
          ∃ t z, exec (.preemptDeferTimeout gi) s = .next t ∧ slotAt t n = some z ∧ z.state = .aborting ∧ z.cause = 6)))

/-! ## Steps of access sets, walks and waits (R153 to R163, R228, R229, R300 to R304) -/

namespace Sys2Proof.Claim

open Sys2Proof Sys2Proof.Machine

/-- A set outside regions whose span `k` covers the one access `x`, which lies in one line; its request has come to the slice, and every crown
request of the package has its way. -/
structure OneAccess (s : State) (i k : Nat) (a : ASet) (p : Span) (x : Acc) : Prop where
  set    : setAt s i = some a
  role   : a.role = .access
  quiet  : setAnswer s i = none
  span   : a.spans[k]? = some p
  fresh  : p.done = false ∧ p.sent = false
  plain  : a.region = none ∧ a.sram = false
  accs   : a.accs = [x]
  some_  : 0 < x.n
  line   : x.pa / 128 = p.line
  fits   : x.pa + x.n ≤ 128 * p.line + 128
  device : gpnSpace (pageOf (spanLo p)) ≠ 0xFFD
  order  : overtakes s a k = false
  ways   : ∀ r ∈ s.am.crowns, r.effective = true ∨ r.pick.isSome = true

/-- The values of one access as a part of a request or of a queue entry. -/
def partOf (x : Acc) : Part := { acc := 0, pa := x.pa, n := x.n, data := x.data % 2 ^ (8 * x.n), cmp := x.cmp }

/-- Every byte outside a range reads as before. -/
def SameOutside (s t : State) (lo n : Nat) : Prop := ∀ b, (b < lo ∨ lo + n ≤ b) → byteAt t.mem b = byteAt s.mem b

/-- A set stands at the head of its party with every span answered. -/
structure Ripe (s : State) (i : Nat) (a : ASet) : Prop where
  set   : setAt s i = some a
  role  : a.role = .access
  head  : isHead s a = true
  spans : ∀ p ∈ a.spans, p.done = true
  plain : a.region = none ∧ a.sram = false

/-- A group waits for a memory word, and may read it again. -/
structure MayReread (s : State) (gi : Nat) (w : WordWait) : Prop where
  wait  : (groupAt s gi).wait = .word w
  calm  : (groupAt s gi).pend = none ∧ (groupAt s gi).saved = false ∧ (groupAt s gi).reached = false
  quiet : waitReading s gi = false
  room  : (setsOf s (.scalar gi)).length < 16

/-- The re-read of a waited word: the wait forgets its wake and its entry, and counts from now, and one set is issued. -/
def reread (s : State) (gi : Nat) (w : WordWait) : State :=
  let t := s.modGroup gi fun g => { g with wait := .word { w with woken := false, placed := false, at_ := s.now } }
  issueSet t (waitRead t gi w.va w.n)

end Sys2Proof.Claim

/-- R153: a load's span at its home slice, where the page and line are here, takes the bytes of memory, or those of its party's earlier stores that are not performed yet, and a lease of at least 64 past its party's time, and changes no byte
of memory. -/
def Sys2Proof.Claim.HomeSliceLoads : Prop :=
  ∀ (s : State) (i k : Nat) (a : ASet) (p : Span) (x : Acc), Claim.OneAccess s i k a p x → a.kind = .load → a.phase = .ready →
    x.got = 0 → behindAtomic s a (spanLo p) (spanLen p) = false →
    readPlace s (partyGroup a.party) (spanPte a p) (spanLo p) (spanLen p) (.set a.id) = .here → poisonAt s p.line = none →
    ∃ t b q, exec (.homeSliceLoad i k) s = .next t ∧ setAt t i = some b ∧ b.spans[k]? = some q ∧ q.done = true ∧
      b.accs = [{ x with got := leNat ((List.range x.n).map fun j => seenByte s a (x.pa + j)) }] ∧
      (a.fwd = [] → b.accs = [{ x with got := loadLe s.mem x.pa x.n }]) ∧
      max a.floor (partyLt s a.party) + 64 ≤ q.rts ∧ Claim.SameMemory s t

/-- R154, R157, R161, R163, R210 to R212: a store's span at its home slice writes its bytes above its floor. An atomic performed at once gives the old value and writes the result of its operation, CAS128 the new value where the old one matches, a reduction its combination with the word; any other enters the
slice's write queue, a reduction being done with its entry's time. When an entry's turn comes it is applied to its word, and its asker gets the old value. No other byte changes. -/
def Sys2Proof.Claim.HomeSliceWrites : Prop :=
  (∀ (s : State) (i k : Nat) (a : ASet) (p : Span) (x : Acc), Claim.OneAccess s i k a p x → a.phase = .gone →
    mirroredHere s (p.line / 512) = false → spanLo p ≤ x.pa → x.pa + x.n ≤ spanLo p + spanLen p → storeTurn s a p.line = true →
    (a.kind = .store →
      writePlace s (partyGroup a.party) (spanPte a p) false (spanLo p) (spanLen p) (.set a.id) = .here →
      ∃ t b q, exec (.homeSliceStore i k) s = .next t ∧ setAt t i = some b ∧ b.spans[k]? = some q ∧ q.done = true ∧
        a.floor ≤ q.wts ∧ loadLe t.mem x.pa x.n = x.data % 2 ^ (8 * x.n) ∧ Claim.SameOutside s t x.pa x.n) ∧
    (writePlace s (partyGroup a.party) (spanPte a p) (a.scope = .pod) (spanLo p) (spanLen p) (.set a.id) = .here → poisonAt s p.line = none →
      (atomicDirect s a p.line (spanPte a p) = true → ((narrowFor s 0 a.scope).isSome = true → queued s (128 * p.line) 128 = false) →
        (∀ op ty, a.kind = .atom op ty → ∃ t b q, exec (.homeSliceAtomic i k) s = .next t ∧ setAt t i = some b ∧ b.spans[k]? = some q ∧
          q.done = true ∧ a.floor ≤ q.wts ∧ b.accs = [{ x with got := loadLe s.mem x.pa x.n }] ∧
          loadLe t.mem x.pa x.n = atomApply op ty (loadLe s.mem x.pa x.n) x.data x.cmp % 2 ^ (8 * x.n) ∧ Claim.SameOutside s t x.pa x.n) ∧
        (a.kind = .cas128 → ∃ t b, exec (.homeSliceAtomic i k) s = .next t ∧ setAt t i = some b ∧
          b.accs = [{ x with got := loadLe s.mem x.pa x.n }] ∧
          loadLe t.mem x.pa x.n = (if loadLe s.mem x.pa x.n = x.cmp then x.data else loadLe s.mem x.pa x.n) % 2 ^ (8 * x.n) ∧
          Claim.SameOutside s t x.pa x.n) ∧
        (∀ op ty, a.kind = .redg op ty → x.n = tyWidth ty / 8 → ∃ t b q, exec (.homeSliceAtomic i k) s = .next t ∧ setAt t i = some b ∧
          b.spans[k]? = some q ∧ q.done = true ∧
          loadLe t.mem x.pa x.n = reduceApply op ty (loadLe s.mem x.pa x.n) [x.data] % 2 ^ (8 * x.n) ∧ Claim.SameOutside s t x.pa x.n)) ∧
      (atomicDirect s a p.line (spanPte a p) = false →
        (∀ op ty, a.kind = .atom op ty → ∃ t b q e, exec (.homeSliceAtomic i k) s = .next t ∧ setAt t i = some b ∧ b.spans[k]? = some q ∧
          q.done = false ∧ q.owe = 1 ∧ t.wq = s.wq ++ [e] ∧ e.line = p.line ∧ e.ret = true ∧ (e.op, e.ty) = (op, ty) ∧
          e.parts = [Claim.partOf x] ∧ e.who = [{ src := aid s, id := a.id, k := k }] ∧ a.floor ≤ e.t ∧ Claim.SameMemory s t) ∧
        (∀ op ty, a.kind = .redg op ty → ∃ t b q e, exec (.homeSliceAtomic i k) s = .next t ∧ setAt t i = some b ∧ b.spans[k]? = some q ∧
          q.done = true ∧ q.wts = e.t ∧ e ∈ t.wq ∧ e.line = p.line ∧ e.ret = false ∧ (e.op, e.ty) = (op, ty) ∧ Claim.partOf x ∈ e.parts ∧
          a.floor ≤ e.t ∧ Claim.SameMemory s t)))) ∧
  (∀ (s : State) (slice : Nat) (e : WqEntry) (v : Part), (s.wq.find? fun e => e.slice == slice) = some e → e.parts = [v] →
    v.pa / 128 = e.line → v.pa + v.n ≤ 128 * e.line + 128 → 0 < v.n → plainWriteHeld s v.pa v.n = false → plainVictims s v.pa v.n = [] →
    mirroredHere s (pageOf v.pa) = false →
    (e.ret = false → v.n = tyWidth e.ty / 8 →
      ∃ t, exec (.writeQueueApply slice) s = .next t ∧ t.wq = s.wq.erase e ∧
        loadLe t.mem v.pa v.n = reduceApply e.op e.ty (loadLe s.mem v.pa v.n) [v.data] % 2 ^ (8 * v.n) ∧ Claim.SameOutside s t v.pa v.n) ∧
    (∀ i k a q, e.ret = true → e.who = [{ src := aid s, id := i, k := k }] → i < noSet → setAt s i = some a → a.spans[k]? = some q →
      ∃ t b r, exec (.writeQueueApply slice) s = .next t ∧ t.wq = s.wq.erase e ∧ setAt t i = some b ∧ b.spans[k]? = some r ∧ r.done = true ∧
        r.wts = e.t ∧ b.accs = a.accs.modify v.acc (fun y => { y with got := loadLe s.mem v.pa v.n }) ∧
        loadLe t.mem v.pa v.n = (if e.op = 0xF2 then (if loadLe s.mem v.pa v.n = v.cmp then v.data else loadLe s.mem v.pa v.n)
          else atomApply e.op e.ty (loadLe s.mem v.pa v.n) v.data v.cmp) % 2 ^ (8 * v.n) ∧ Claim.SameOutside s t v.pa v.n))

/-- R162: publishing a line that an L1 holds narrow takes it out of narrow mode, and its slice's times cover the holder's; memory stands as it was. -/
def Sys2Proof.Claim.PublishEndsNarrow : Prop :=
  ∀ (s : State) (line : Nat) (l : L1Line), (s.l1.find? fun x => x.line == line && x.narrow.isSome) = some l →
    ∃ t, exec (.publish line) s = .next t ∧ (l1Find t l.core line).map (·.narrow) = some none ∧ Claim.SameMemory s t ∧
      ∀ k, k < 4 → sectorTimes t (4 * line + k) =
        (max (sectorTimes s (4 * line + k)).1 (l.wts.getD k 0), max (sectorTimes s (4 * line + k)).2 (l.rts.getD k 0))

/-- Loads, stores, atomics, reductions and publication at a home slice: HomeSliceLoads, HomeSliceWrites and PublishEndsNarrow together. -/
def Obligations.HomeSlices : Prop := Claim.HomeSliceLoads ∧ Claim.HomeSliceWrites ∧ Claim.PublishEndsNarrow

/-- R156, R158, R205: the oldest store-class set leaves its quadrant with its party's time as floor; in team SRAM it is performed as it leaves, and a word for a queue reaches its port. A load commits once every lease runs at its party's time: its registers take the value and its in-flight counter falls; a
lease that has run out is asked for again. A store-class set commits with the largest ts of its spans. -/
def Obligations.SetsLeaveAndCommit : Prop :=
  ∀ (s : State) (i : Nat) (a : ASet) (gi : Nat), gi < s.groups.length →
    (setAt s i = some a → mayLeave s a = true → matrixHolds s a = false → isMessage a = false → a.sram = false → (∀ q x, a.kind ≠ .push q x) →
      ∃ t, exec (.storeSetLeave i) s = .next t ∧ setAt t i = some (numberSpans s { a with floor := partyLt s a.party, phase := .gone }) ∧
        Claim.SameMemory s t) ∧
    (∀ x, setAt s i = some a → mayLeave s a = true → matrixHolds s a = false → a.kind = .store → a.sram = true → partyGroup a.party = some gi →
      a.accs = [x] → 0 < x.n → a.spans = spansOf [x] → x.pa % 128 + x.n ≤ 128 → (groupAt s gi).team < s.teams.length →
      ∃ t, exec (.storeSetLeave i) s = .next t ∧
        loadLe (teamOf t (groupAt s gi)).sram x.pa x.n = x.data % 2 ^ (8 * x.n) ∧ t.mem = s.mem) ∧
    (∀ q x, setAt s i = some a → mayLeave s a = true → matrixHolds s a = false → a.kind = .push q x → a.party = .scalar gi → q < 8 →
      exec (.storeSetLeave i) s = .next (modSet (pushPort s gi q x) i fun _ => { a with floor := (groupAt s gi).slt, phase := .gone })) ∧
    (Claim.Ripe s i a → a.kind = .load → a.phase = .ready →
      (∀ d n sg x, a.party = .scalar gi → (∀ p ∈ a.spans, (groupAt s gi).slt ≤ p.rts) → a.dest = .sreg d n sg → Claim.plain d →
        (groupAt s gi).s.length = 48 → a.accs = [x] → x.lane = 0 → x.n = n → a.ifc = 4 →
        ∃ t h, exec (.loadSetCommit i) s = .next t ∧ t.groups[gi]? = some h ∧ setAt t i = none ∧ Claim.SameMemory s t ∧
          sreg h d.toNat = (if sg then sext64 (8 * n) (x.got % 2 ^ (8 * n)) else w64 (x.got % 2 ^ (8 * n))) ∧
          h.slt = max (groupAt s gi).slt (setTime a) ∧ ∀ r, r ≠ d.toNat → sreg h r = sreg (groupAt s gi) r) ∧
      (∀ ty vd, a.party = .lane gi → (∀ p ∈ a.spans, (groupAt s gi).llt ≤ p.rts) → a.dest = .lane ty vd → a.ifc < 4 →
        ∃ t h, exec (.loadSetCommit i) s = .next t ∧ t.groups[gi]? = some h ∧ setAt t i = none ∧ Claim.SameMemory s t ∧
          h.lanes = (mapLanes (groupAt s gi) (lanesAnswered a) fun k l => writeTy ty l vd.toNat (laneGot a k)).lanes ∧
          h.ifc = (groupAt s gi).ifc.modify a.ifc (· - 1) ∧ h.s = (groupAt s gi).s) ∧
      ((∃ p ∈ a.spans, p.rts < partyLt s a.party) →
        ∃ t, exec (.loadSetCommit i) s = .next t ∧ setAt t i = some (renew s a (partyLt s a.party)) ∧ t.groups = s.groups)) ∧
    (Claim.Ripe s i a → storeClass a.kind = true → a.phase = .gone → a.party = .lane gi → a.dest = .none → a.ifc < 4 →
      ∃ t h, exec (.storeSetCommit i) s = .next t ∧ t.groups[gi]? = some h ∧ setAt t i = none ∧
        h.llt = max (groupAt s gi).llt (setTime a) ∧ h.ifc = (groupAt s gi).ifc.modify a.ifc (· - 1) ∧
        h.lanes = (groupAt s gi).lanes ∧ Claim.SameMemory s t)

/-- R299 to R304: the walk of a set's page that succeeds gives the access its pod address and makes the set ready; one that fails parks the set at its address, as does a table read that has had no answer for 2^20 dc. A helper lane's load whose walk fails gives 0 and records nothing. -/
def Sys2Proof.Claim.PageWalks : Prop :=
  ∀ (s : State) (i : Nat) (a : ASet) (x : Acc) (gi : Nat), setAt s i = some a → a.phase = .xlate → partyGroup a.party = some gi →
    gi < s.groups.length → a.accs = [x] → 0 < x.n → a.role = .access → a.entry = false → a.sram = false →
    let c := ctxIx s (groupAt s gi)
    let core := (groupAt s gi).quad / 4
    (tlbLook s core c x.va (kindX a.kind) = none → tableAway s c x.va = none → walkHeld s c x.va = false →
      (∀ e, translate s c x.va (kindX a.kind) = .ok e →
        afterChecks s { a with accs := [{ x with pa := podAddr e x.va, pte := e }] } = none →
        ∃ t b, exec (.pageWalk i) s = .next t ∧ setAt t i = some b ∧ b.phase = .ready ∧
          b.accs.map (fun (y : Acc) => (y.pa, y.pte)) = [(podAddr e x.va, e)] ∧ Claim.SameMemory s t) ∧
      (∀ f, translate s c x.va (kindX a.kind) = .error f → x.help = false →
        ∃ t b ls, exec (.pageWalk i) s = .next t ∧ setAt t i = some b ∧ b.phase = .parked x.va ls s.now ∧ Claim.SameMemory s t) ∧
      (∀ f, translate s c x.va (kindX a.kind) = .error f → x.help = true →
        ∃ t b, exec (.pageWalk i) s = .next t ∧ setAt t i = some b ∧ b.phase = .ready ∧ b.accs = [{ x with n := 0, got := 0 }] ∧
          t.ctxs = s.ctxs ∧ Claim.SameMemory s t)) ∧
    (∀ l, walkLate s (core / 36) c x.va = some l → x.help = false → (∀ b ∈ s.sets, b.entry = false ∧ (b.id = i → b = a)) →
      ∃ t b ls, exec (.walkTimeout i) s = .next t ∧ setAt t i = some b ∧ b.phase = .parked x.va ls s.now ∧ Claim.SameMemory s t)

/-- R228, R229: a wait whose word was read is entered in the table of the word's home slice, or, at scope .pod for a page whose crown is elsewhere, sent to the page's home; a wake, or 4096 dc without one, reads the word again. -/
def Sys2Proof.Claim.WaitedWords : Prop :=
  ∀ (s : State) (gi : Nat) (w : WordWait), gi < s.groups.length →
    (inboundMsg s (fun m => match m with | .waitPlace _ _ g _ => g == gi | _ => false) = none → (groupAt s gi).wait = .word w →
      w.placed = false → w.woken = false → waitReading s gi = false → w.pa ≠ 0 →
      let others := s.waits.filter fun e => !(e.g == gi && e.src == aid s)
      let away := w.sc = 4 ∧ devicePage (pageOf w.pa) = true ∧ (tagOf s (pageOf w.pa)).any crowned = false
      (¬away → (others.filter fun e => homeSlice e.pa == homeSlice w.pa).length < 1024 → waitStale s w.pa w.t = false →
        ∃ t, exec (.waitEntryPlace gi) s = .next t ∧ t.waits = others ++ [{ pa := w.pa, g := gi, time := w.t, src := aid s }] ∧
          (groupAt t gi).wait = .word { w with placed := true }) ∧
      (away → ∃ t, exec (.waitEntryPlace gi) s = .next t ∧
        t.net = s.net ++ [Claim.mail s (homeAid s (pageOf w.pa)) (.waitPlace (w.pa / 128) w.t gi (aid s))] ∧
        (groupAt t gi).wait = .word { w with placed := true })) ∧
    (Claim.MayReread s gi w → inboundMsg s (· == .wake gi) = none → w.woken = true →
      exec (.wake gi) s = .next (Claim.reread s gi w)) ∧
    (Claim.MayReread s gi w → w.at_ + 4096 ≤ s.now → exec (.waitcmpRepoll gi) s = .next (Claim.reread s gi w))

/-- Page walks, and waits for a word of memory: PageWalks and WaitedWords together. -/
def Obligations.WalksAndWaits : Prop := Claim.PageWalks ∧ Claim.WaitedWords

/-! ## Attraction memory: climbs, the home, the holder, crowns (R173 to R194) -/

namespace Sys2Proof.Claim

open Sys2Proof Sys2Proof.Machine

/-- The messages once message `m` has been taken and others sent, in order. -/
def replied (s : State) (m : Nat) (l : List (Nat × Msg)) : List Env :=
  s.net.eraseIdx m ++ l.map fun x => { src := aid s, dst := x.1, msg := x.2, at_ := s.now }

/-- The home's entry of a page, with no transaction and no rebuild on it, for which message `m` is the next request. -/
structure Entry (s : State) (m gpn : Nat) (e : DirEntry) : Prop where
  first : firstFor s m gpn = true
  here  : dirFind s gpn = some e
  still : e.tx = none ∧ (e.mode = .precise ∨ e.mode = .coarse)

/-- The home has no entry of a page and room for one, and message `m` is the next request for it. -/
structure Fresh (s : State) (m gpn : Nat) : Prop where
  first : firstFor s m gpn = true
  calm  : placing s gpn = false ∧ reportsDue s gpn = false
  away  : dirFind s gpn = none
  room  : (storeOf s (storeSet gpn)).length < 16

/-- Every byte of a page of memory `m` is that of `d`, keyed by its offset. -/
def PageIs (m : Memory) (gpn : Nat) (d : Nat → Byte) : Prop := ∀ o, o < 65536 → byteAt m (65536 * gpn + o) = d o

end Sys2Proof.Claim

/-- R181 to R183, R191: the local step of a climb. A held page gives its line to L2 and ends the climb; a page that is not held takes a way, which stays in TRANSIT while the hub is asked, or picks the way whose master is sent away. The hub reads at the hinted holder and registers at the home, or asks the home. In its dc, TAG_SCRUB halves HEAT once
for each epoch that has passed. -/
def Sys2Proof.Claim.ClimbLocalSteps : Prop :=
  ∀ (s : State) (c : Nat) (k : Climb), climbAt s c = some k →
    (k.stage = .amc → readableHere s k.gpn = true → (∀ w ∈ k.who, ∀ core cx va sc, w ≠ .pref core cx va sc) →
      ∃ t, exec (.amcTagLookup c) s = .next t ∧ climbAt t c = none ∧ inL2 t k.line = true ∧ Claim.SameMemory s t) ∧
    (∀ s1 w, k.stage = .amc → readableHere s k.gpn = false → tagOf s k.gpn = none → firstComing s k.gpn = false → climbFor s k.gpn = none →
      wayFor (decaySet s (setIndex k.gpn)) k.gpn = .free s1 w → s1.am.climbs = s.am.climbs →
      ∃ t d y, exec (.amcTagLookup c) s = .next t ∧ climbAt t c = some d ∧ d.stage = .hint ∧ d.way = w ∧ tagOf t k.gpn = some y ∧
        y.transit = true ∧ y.state = .replica ∧ y.way = w) ∧
    (∀ s1 w, k.stage = .amc → readableHere s k.gpn = false → tagOf s k.gpn = none → firstComing s k.gpn = false → climbFor s k.gpn = none →
      wayFor (decaySet s (setIndex k.gpn)) k.gpn = .pick s1 w → s1.am.climbs = s.am.climbs →
      ∃ t d, exec (.amcTagLookup c) s = .next t ∧ climbAt t c = some d ∧ d.stage = .hint ∧ d.way = w ∧ d.pick = some w) ∧
    (∀ h, k.stage = .hint → hintOf s k.gpn = some h → h ≠ aid s → h ∉ s.am.lost →
      ∃ t d, exec (.hintLookup c) s = .next t ∧ climbAt t c = some d ∧ d.stage = .hinted ∧ t.net = s.net ++
        [{ src := aid s, dst := h, msg := .read k.gpn (aid s) true k.pin, at_ := s.now },
         { src := aid s, dst := homeAid s k.gpn, msg := .register k.gpn (aid s) h k.mirr k.pin, at_ := s.now }]) ∧
    (k.stage = .hint → (∀ h, hintOf s k.gpn = some h → h = aid s ∨ h ∈ s.am.lost) →
      ∃ t d, exec (.hintLookup c) s = .next t ∧ climbAt t c = some d ∧ d.stage = .sent ∧ t.net = s.net ++
        [{ src := aid s, dst := homeAid s k.gpn, msg := .homeRead k.gpn (aid s) none k.mirr k.pin, at_ := s.now }]) ∧
    (∀ set, exec (.tagScrub set) s = .next (if s.cycle % 2 ^ 25 = 64 * (set % 2 + 2 * (set / 8 % 16) + 32 * (set / 256)) then
      { s with am := { s.am with tags := s.am.tags.map fun t =>
        if t.set = set then { t with heat := t.heat >>> ((epochOf s + 16 - t.epoch.toNat) % 16), epoch := BitVec.ofNat 4 (epochOf s) }
        else t } } else s))

/-- R177 to R180, R182: the home of a page. A request for a page without an entry makes one with the requester as crown and answers a first touch of zeros; a request for one with an entry records the requester and goes on to the nearest holder; a page in the pool is taken back by the requester; a registration at a
recorded holder is acknowledged, one at a package that is not recorded is stale and its read goes to the crown. A take-back that has been read ends with the new crown. A request without room for its entry faults after 2^20 dc. -/
def Sys2Proof.Claim.HomeAnswers : Prop :=
  ∀ (s : State) (m : Nat) (v : Env) (gpn req : Nat), msgAt s m = some v →
    (∀ nh pin, v.msg = .homeRead gpn req nh false pin → Claim.Fresh s m gpn →
      ∃ t, exec (.directoryLookup m) s = .next t ∧ dirFind t gpn = some (newEntry gpn req) ∧
        t.net = Claim.replied s m [(req, .page gpn [] 0 0 1024 false true false)]) ∧
    (∀ holder pin, v.msg = .register gpn req holder false pin → Claim.Fresh s m gpn →
      ∃ t, exec (.registration m) s = .next t ∧ dirFind t gpn = some (newEntry gpn req) ∧
        t.net = Claim.replied s m [(req, .page gpn [] 0 0 1024 false true false), (req, .stale gpn)]) ∧
    (∀ e mirr pin, v.msg = .homeRead gpn req none mirr pin → Claim.Entry s m gpn e → e.pool = none → req < 1024 →
      ∃ t e2, exec (.directoryLookup m) s = .next t ∧ dirFind t gpn = some e2 ∧ recorded e2 req = true ∧ e2.crown = e.crown ∧
        t.net = Claim.replied s m [(if pin = false ∧ req ≠ aid s ∧ aid s ∈ e.reps then aid s else e.crown, .read gpn req false pin)]) ∧
    (∀ e pool nh mirr pin, v.msg = .homeRead gpn req nh mirr pin → Claim.Entry s m gpn e → e.pool = some pool →
      ∃ t e2 tx, exec (.directoryLookup m) s = .next t ∧ dirFind t gpn = some e2 ∧ e2.tx = some tx ∧ tx.req = req ∧
        t.net = Claim.replied s m [(req, .takeBack gpn pool e.floor e.crown)]) ∧
    (∀ e holder mirr pin, v.msg = .register gpn req holder mirr pin → Claim.Entry s m gpn e → e.pool = none → req < 1024 →
      ∃ t e2, exec (.registration m) s = .next t ∧ dirFind t gpn = some e2 ∧ recorded e2 req = true ∧
        t.net = Claim.replied s m (if recorded e holder then [(req, .regAck gpn)] else [(req, .stale gpn), (e.crown, .read gpn req false pin)])) ∧
    (∀ e tx, v.msg = .taken gpn req → dirFind s gpn = some e → e.tx = some tx → req < 1024 →
      ∃ t e2, exec (.directoryLookup m) s = .next t ∧ dirFind t gpn = some e2 ∧ e2.crown = req ∧ e2.pool = none ∧ e2.tx = none ∧
        t.net = Claim.replied s m [(tx.old, .poolFree (e.pool.getD 0)), (req, .complete gpn e.floor req e.mirror)]) ∧
    (∀ nh mirr pin, v.msg = .homeRead gpn req nh mirr pin → v.at_ + 2 ^ 20 ≤ s.now → dirFind s gpn = none → placing s gpn = false →
      dirAdd s (newEntry gpn req) = none →
      ∃ t, exec (.dirFullTimeout m) s = .next t ∧ t.net = Claim.replied s m [(req, .amFault gpn Tc.amDirFull)])

/-- A climb in its own package, and the home of a page: ClimbLocalSteps and HomeAnswers together. -/
def Obligations.ClimbsAndHome : Prop := Claim.ClimbLocalSteps ∧ Claim.HomeAnswers

/-- R181 to R183, R193: a holder sends the page's bytes and times, or says that it holds none; a page pinned here is not sent to be pinned elsewhere. What answers at the requester then do: it asks the home again, leaves a stale hint to the home, or takes the page into the frame that waits for it; a page in the pool is read into a
crowned frame in TRANSIT, and the home told; a climb unanswered for 2^20 dc ends. -/
def Obligations.HolderAnswers : Prop :=
  ∀ (s : State) (m : Nat) (v : Env) (gpn : Nat), msgAt s m = some v →
    (∀ req hinted pin, v.msg = .read gpn req hinted pin → spaceOpen s gpn req = true → readableHere s gpn = true → queuedPage s gpn = false →
      committingPage s gpn = false → (pin = true → req ≠ aid s → pinHeld s gpn = false) →
      ∃ t fwt fle bad, exec (.holderRead m) s = .next t ∧ Claim.SameMemory s t ∧
        t.net = Claim.replied s m [(req, .page gpn (pageCells s gpn) fwt fle (aid s) bad false hinted)] ∧
        (crownHere s gpn = true → req ≠ aid s → (tagOf t gpn).any (·.shared) = true)) ∧
    (∀ req hinted, v.msg = .read gpn req hinted true → spaceOpen s gpn req = true → readableHere s gpn = true → req ≠ aid s →
      pinHeld s gpn = true →
      exec (.holderRead m) s =
        .next { decaySet s (setIndex gpn) with net := Claim.replied s m [(req, .amFault gpn Tc.amPinConflict)] }) ∧
    (∀ req hinted pin, v.msg = .read gpn req hinted pin → spaceOpen s gpn req = true → readableHere s gpn = false →
      tagOf s gpn = none ∨ req = aid s →
      exec (.holderRead m) s =
        .next { decaySet s (setIndex gpn) with net := Claim.replied s m [(req, .notHeld gpn (aid s) hinted)] }) ∧
    (∀ c holder, v.msg = .notHeld gpn holder false → climbFor s gpn = some c → c.stage = .sent →
      ∃ t, exec (.notHeldAnswer m) s = .next t ∧
        t.net = Claim.replied s m [(homeAid s gpn, .homeRead gpn (aid s) (some holder) c.mirr c.pin)]) ∧
    (∀ c, v.msg = .stale gpn → s.am.climbs = [c] → c.gpn = gpn → c.stage = .hinted →
      ∃ t, exec (.staleAnswer m) s = .next t ∧ t.net = s.net.eraseIdx m ∧
        t.am.climbs = [{ c with stage := .sent, held := none, since := s.now }]) ∧
    (∀ c, v.msg = .regAck gpn → s.am.climbs = [c] → c.gpn = gpn → c.stage = .hinted → c.held = none →
      ∃ t, exec (.registrationAck m) s = .next t ∧ t.net = s.net.eraseIdx m ∧ t.am.climbs = [{ c with acked := true }]) ∧
    (∀ c y data fwt fle server, v.msg = .page gpn data fwt fle server false false false → spaceOpen s gpn v.src = true →
      s.am.climbs = [c] → c.gpn = gpn → c.stage = .sent → c.who = [] → tagOf s gpn = some y → y.state = .replica → data.wf = true →
      ∃ t z, exec (.pageInstall m) s = .next t ∧ tagOf t gpn = some z ∧ z.state = .replica ∧ z.transit = false ∧
        Claim.PageIs t.mem gpn (byteAt data) ∧ t.am.climbs = [] ∧ inL2 t c.line = true) ∧
    (∀ y pool floor owner, v.msg = .takeBack gpn pool floor owner → s.hub.poolUp = true → tagOf s gpn = some y → s.mem.wf = true →
      ∃ t z, exec (.takeBack m) s = .next t ∧ tagOf t gpn = some z ∧ z.state = .master ∧ z.transit = true ∧
        Claim.PageIs t.mem gpn (fun o => byteAt s.mem (poolAddr s pool + o)) ∧
        (∃ r ∈ t.am.crowns, r.gpn = gpn ∧ r.granted = true) ∧ t.net = Claim.replied s m [(homeAid s gpn, .taken gpn (aid s))]) ∧
    (∀ c k, climbAt s c = some k → c < 2 ^ 32 → k.stage = .sent ∨ k.stage = .hinted → k.since + 2 ^ 20 ≤ s.now →
      climbAnswered s k.gpn = false →
      ∃ t, exec (.climbTimeout c) s = .next t ∧ ∀ d ∈ t.am.climbs, d.gpn ≠ k.gpn)

/-- R184, R185: a crown moves. The home asks the crown holder to release it and the replicas to go, and ends the move once every answer has come, or at once where the crown holder asks and there is no other copy; a replica that is invalidated leaves this package and answers its lease end; a master gives the page, with its times, to the new one; the crown is
effective once grant and completion are both here; the old master's frame is freed; the new master keeps it for its own stores and for 4096 dc at most. -/
def Obligations.CrownMoves : Prop :=
  ∀ (s : State) (m : Nat) (v : Env) (gpn : Nat), msgAt s m = some v →
    (∀ req has mirr fle e, v.msg = .crownReq gpn req has mirr fle → Claim.Entry s m gpn e → mirrorSent s gpn = false → e.pool = none →
      e.crown ≠ req → e.mirror = none →
      ∃ t e2 tx, exec (.crownTransaction m) s = .next t ∧ dirFind t gpn = some e2 ∧ e2.tx = some tx ∧ tx.req = req ∧
        tx.acks = (replicaHolders s e req).length + 1 ∧ tx.old = e.crown ∧ e2.crown = e.crown ∧
        t.net = Claim.replied s m ((replicaHolders s e req).map (fun h => (h, .inval gpn)) ++
          [(e.crown, .release gpn req (has && recorded e req))])) ∧
    (∀ has mirr fle e, v.msg = .crownReq gpn e.crown has mirr fle → Claim.Entry s m gpn e → mirrorSent s gpn = false → e.pool = none →
      e.mirror = none → replicaHolders s e e.crown = [] →
      ∃ t e2, exec (.crownTransaction m) s = .next t ∧ dirFind t gpn = some e2 ∧ e2.crown = e.crown ∧ e2.tx = none ∧ e2.reps = [] ∧
        e2.floor = fle ∧ t.net = Claim.replied s m [(e.crown, .complete gpn fle e.crown none)]) ∧
    (∀ y, v.msg = .inval gpn → pageMarkers s gpn = [] → tagOf s gpn = some y → y.state = .replica → y.transit = false →
      ∃ t fle, exec (.invalidation m) s = .next t ∧ tagOf t gpn = none ∧ Claim.PageIs t.mem gpn (fun _ => 0) ∧
        y.fle ≤ fle ∧ ({ src := aid s, dst := v.src, msg := .invalAck gpn (aid s) (some fle), at_ := s.now } : Env) ∈ t.net) ∧
    (∀ holder fle e tx, v.msg = .invalAck gpn holder (some fle) → dirFind s gpn = some e → e.tx = some tx → tx.acks = 1 →
      tx.old ≠ tx.req → e.mirror = none →
      ∃ t e2, exec (.invalidationAck m) s = .next t ∧ dirFind t gpn = some e2 ∧ e2.crown = tx.req ∧ e2.tx = none ∧ e2.reps = [] ∧
        e2.floor = max tx.floor fle ∧ t.net = Claim.replied s m
          [(tx.req, .complete gpn (max tx.floor fle) tx.req none), (tx.old, .complete gpn (max tx.floor fle) tx.req none)]) ∧
    (∀ req replica y, v.msg = .release gpn req replica → crownHere s gpn = true → spaceOpen s gpn req = true → tagOf s gpn = some y →
      y.transit = false → pinHeld s gpn = false → crownHeld s gpn = false → queuedPage s gpn = false → mirrorBusy s gpn = false →
      pageMarkers s gpn = [] →
      ∃ t fle fwt bad, exec (.crownRelease m) s = .next t ∧ gpn ∈ t.am.released ∧ Claim.SameMemory s t ∧ y.fle ≤ fle ∧
        t.net = Claim.replied s m [(req, .grant gpn fle (if replica then none else some (pageCells s gpn)) fwt bad),
          (homeAid s gpn, .invalAck gpn (aid s) (some fle))]) ∧
    (∀ fle fwt data bad y r, v.msg = .grant gpn fle data fwt bad → spaceOpen s gpn v.src = true → s.am.crowns = [r] → r.gpn = gpn →
      r.granted = false → r.done = false → tagOf s gpn = some y →
      ∃ t z, exec (.crownGrant m) s = .next t ∧ tagOf t gpn = some z ∧ z.state = .master ∧ z.transit = true ∧
        t.am.crowns = [{ r with granted := true, floor := max r.floor fle, pick := none }] ∧ t.net = s.net.eraseIdx m ∧
        (data = none → Claim.SameMemory s t) ∧ (∀ d : Memory, data = some d → d.wf = true → Claim.PageIs t.mem gpn (byteAt d))) ∧
    (∀ floor mirror y r, v.msg = .complete gpn floor (aid s) mirror → s.am.crowns = [r] → r.gpn = gpn → r.granted = true → r.done = false →
      s.am.climbs = [] → tagOf s gpn = some y → crowned y = true →
      ∃ t z, exec (.crownCompletion m) s = .next t ∧ tagOf t gpn = some z ∧ z.state = (if mirror.isSome then .mirrored else .master) ∧
        z.transit = false ∧ z.shared = false ∧ max r.floor floor ≤ z.fle ∧ (t.am.crowns.all fun x => x.granted && x.done) = true) ∧
    (∀ floor crown mirror, v.msg = .complete gpn floor crown mirror → crown ≠ aid s → mirror ≠ some (aid s) →
      ∃ t, exec (.crownCompletion m) s = .next t ∧ tagOf t gpn = none ∧ gpn ∉ t.am.released ∧ Claim.PageIs t.mem gpn (fun _ => 0)) ∧
    (∀ r, s.am.crowns = [r] → r.gpn = gpn → r.granted = true → r.done = true → r.since + 4096 ≤ s.now →
      ∃ t, exec (.crownHoldExpire gpn) s = .next t ∧ t.am.crowns = [])

/-! ## Attraction memory: injection, rebuilds, AM commands (R188, R189, R195 to R201) -/

namespace Sys2Proof.Claim

open Sys2Proof Sys2Proof.Machine

/-- The AM command due is the record `b` at `head`, read as `s1`, with an opcode. -/
abbrev AmDue (s s1 : State) (head : Nat) (b : List Byte) (opc : Nat) : Prop :=
  amDue s = some head ∧ ringRead s 64 (amRing s) (32 * head) 32 = .done s1 b ∧ field b 0 2 = opc

/-- The AM ring of `n` records is in host memory, and its record at `head`, in address `rec`, is due, with its opcode and arguments; no cached
line, queued write or message is in the way of the hub's access. -/
structure AmReady (s : State) (n head rec opc a0 a1 : Nat) : Prop where
  due   : ringSize s.hub.amqSize = some n ∧ s.hub.amqHold = false ∧ head = s.hub.amqHead.toNat % n ∧ head ≠ s.hub.amqTail.toNat % n
  base  : s.hub.amqBase.toNat / 2 ^ 52 = 0xFFF ∧ rec = s.hub.amqBase.toNat / 4096 * 4096 + 32 * head
  holds : leNat (bytesAt s.mem rec 2) = opc ∧ leNat (bytesAt s.mem (rec + 8) 8) = a0 ∧ leNat (bytesAt s.mem (rec + 16) 8) = a1
  quiet : s.mem.wf = true ∧ s.l1 = [] ∧ s.wq = [] ∧ s.am.mirs = [] ∧ s.am.poison = [] ∧ s.net = []

/-- The command has ended: STATUS and RESULT stand in its record, HEAD is one on, and every byte but these and `len` bytes of output at `out`
is as before. -/
structure AmEnds (s t : State) (n head rec out len status result : Nat) : Prop where
  head_  : t.hub.amqHead.toNat = (head + 1) % n
  status : bytesAt t.mem (rec + 2) 2 = leBytes 2 status
  result : bytesAt t.mem (rec + 24) 8 = leBytes 8 result
  frame  : ∀ a, a < rec + 2 ∨ rec + 4 ≤ a → a < rec + 24 ∨ rec + 32 ≤ a → a < out ∨ out + len ≤ a → byteAt t.mem a = byteAt s.mem a

/-- The argument of AM_PARK and AM_UNPARK: the stack in ARG0[2:0] and the bank in ARG0[13:8], all else 0. -/
abbrev BankOf (a0 a1 : Nat) : Prop := a0 / 2 ^ 14 = 0 ∧ a0 / 8 % 32 = 0 ∧ a1 = 0

/-- The entry that AM_QUERY gives: at the page's home only. -/
def queryEntry (s : State) (gpn : Nat) : Option DirEntry := if homeAid s gpn = aid s then dirFind s gpn else none
/-- The 64 bytes of AM_QUERY: the page's tag, its HEAT decayed, and its entry; zeros for what is not here. -/
def queryBytes (s : State) (gpn : Nat) : List Byte :=
  ((tagOf (decaySet s (setIndex gpn)) gpn).map (tagBytes s)).getD (List.replicate 32 0) ++
    ((queryEntry s gpn).map entryBytes).getD (List.replicate 32 0)
/-- RESULT of AM_QUERY: a tag, an entry, and a spilled entry found. -/
def queryFlags (s : State) (gpn : Nat) : Nat :=
  (tagOf s gpn).isSome.toNat + 2 * (queryEntry s gpn).isSome.toNat + 4 * ((queryEntry s gpn).any (·.spill)).toNat

/-- Access set `j` of group `gi` waits for a page that access `x` of it names. -/
structure WaitsOn (s : State) (j gi gpn : Nat) (a : ASet) (x : Acc) : Prop where
  here  : setAt s j = some a ∧ partyGroup a.party = some gi ∧ gi < s.groups.length ∧ a.entry = false
  waits : isParked a = false ∧ a.phase ≠ .xlate
  on    : x ∈ a.accs ∧ x.n ≠ 0 ∧ x.help = false ∧ pageOf x.pa = gpn

end Sys2Proof.Claim

/-- R188, R189: a package tells the others of its free frames every 2^16 dc; a candidate with an INVALID way takes an offered page; the injector sends the page to who accepted, or the next offer; once the home has confirmed, its frame is free; a page that every candidate refused goes to the pool; the round begins
again every 4096 dc and is given up after 16. -/
def Sys2Proof.Claim.Injections : Prop :=
  ∀ (s : State) (m gpn : Nat) (v : Env),
    (s.cycle % 2 ^ 16 = 0 → ∃ t, exec .freeFrameSummary s = .next t ∧ Claim.SameMemory s t ∧
      ∀ a, a < podSize s → a ≠ aid s → a ∉ s.am.lost →
        ({ src := aid s, dst := a, msg := .summary (aid s) (freeMask s) (freeCount s), at_ := s.now } : Env) ∈ t.net) ∧
    (∀ w, msgAt s m = some v → v.msg = .offer gpn true → spaceOpen s gpn v.src = true → tagOf s gpn = none →
      offerWay (decaySet (dropMsg s m) (setIndex gpn)) gpn = some w → tagAt (decaySet (dropMsg s m) (setIndex gpn)) (setIndex gpn) w = none →
      ∃ t y, exec (.injectionOffer m) s = .next t ∧ tagOf t gpn = some y ∧ y.state = .master ∧ y.transit = true ∧ y.way = w ∧
        t.net = Claim.replied s m [(v.src, .offerAns gpn (aid s) true false)]) ∧
    (∀ y, msgAt s m = some v → v.msg = .offer gpn true → spaceOpen s gpn v.src = true → tagOf s gpn = some y → y.state = .replica →
      y.transit = false → (s.am.crowns.any fun r => r.gpn == gpn) = false →
      exec (.injectionOffer m) s =
        .next { decaySet s (setIndex gpn) with net := Claim.replied s m [(v.src, .offerAns gpn (aid s) true true)] }) ∧
    (∀ x who replica, msgAt s m = some v → v.msg = .offerAns gpn who true replica → injectOf s gpn = some x → x.mirror = none →
      injectQuiet s gpn = true →
      ∃ t fwt fle sh bad y, exec (.injectionAnswer m) s = .next t ∧ injectOf t gpn = some y ∧ y.sentTo = some who ∧
        ({ src := aid s, dst := who, msg := .inject gpn (if replica then none else some (pageCells s gpn)) fwt fle sh
            (s.am.seconds.contains gpn) bad, at_ := s.now } : Env) ∈ t.net) ∧
    (∀ x who replica c r, msgAt s m = some v → v.msg = .offerAns gpn who false replica → injectOf s gpn = some x → x.offers = c :: r →
      ∃ t y, exec (.injectionAnswer m) s = .next t ∧ injectOf t gpn = some y ∧ y.offers = r ∧
        t.net = Claim.replied s m [(c, .offer gpn true)]) ∧
    (∀ x who, msgAt s m = some v → v.msg = .injOk gpn who → who ≠ noAid → injectOf s gpn = some x → x.mirror = none → x.sentTo = some who →
      ∃ t, exec (.injectionConfirm m) s = .next t ∧ tagOf t gpn = none ∧ injectOf t gpn = none ∧ Claim.PageIs t.mem gpn (fun _ => 0)) ∧
    (∀ x pg rest, injectOf s gpn = some x → s.am.poolFree = pg :: rest → x.refused = true → x.sentTo = none → x.mirror = none →
      s.hub.poolUp = true → injectQuiet s gpn = true →
      ∃ t z fl, exec (.poolInjection gpn) s = .next t ∧ injectOf t gpn = some z ∧ z.sentTo = some (aid s) ∧ pg ∉ t.am.poolFree ∧
        t.net = s.net ++ [{ src := aid s, dst := homeAid s gpn, msg := .poolSet gpn (aid s) pg fl, at_ := s.now }] ∧
        (s.mem.wf = true → ∀ o, o < 65536 → byteAt t.mem (poolAddr s pg + o) = byteAt s.mem (65536 * gpn + o))) ∧
    (∀ x, injectOf s gpn = some x → x.refused = true → x.sentTo = none → x.since + 4096 ≤ s.now →
      (x.rounds + 1 < 16 → ∃ t y, exec (.injectionRetry gpn) s = .next t ∧ injectOf t gpn = some y ∧ y.rounds = x.rounds + 1) ∧
      (16 ≤ x.rounds + 1 → ∃ t, exec (.injectionRetry gpn) s = .next t ∧ injectOf t gpn = none))

/-- R189, R196, R197: an access that waits 2^20 dc behind a page in transit parks with AM_TRANSIT_TIMEOUT, one that waits 2^22 dc for a rebuild with AM_REBUILD_TIMEOUT, and its climb ends; an entry with an uncorrectable error asks every package what it holds, and each answers; the last answer ends the rebuild. -/
def Sys2Proof.Claim.RebuildsAndTimeouts : Prop :=
  ∀ (s : State) (m gpn : Nat) (e : DirEntry) (v : Env),
    (∀ i j gi t0 a x, s.am.behind[i]? = some (.set j, gpn, t0) → i < 2 ^ 32 → inTransit s gpn = true → t0 + 2 ^ 20 ≤ s.now →
      Claim.WaitsOn s j gi gpn a x →
      ∃ t b va ls tm, exec (.transitTimeout i) s = .next t ∧ setAt t j = some b ∧ b.phase = .parked va ls tm ∧ Claim.SameMemory s t) ∧
    (∀ j gi t0 a x c, s.am.recalls.lookup gpn = some t0 → c ∈ s.am.climbs → c.gpn = gpn → max t0 c.since + 2 ^ 22 ≤ s.now → s.net = [] →
      pageWaiters s gpn = [.set j] → Claim.WaitsOn s j gi gpn a x →
      ∃ t b va ls tm, exec (.rebuildTimeout gpn) s = .next t ∧ (∀ d ∈ t.am.climbs, d.gpn ≠ gpn) ∧ setAt t j = some b ∧
        b.phase = .parked va ls tm ∧ Claim.SameMemory s t) ∧
    (dirFind s gpn = some e → e.tx = none → e.mode ≠ .lost →
      ∃ t e2, exec (.directoryRebuild gpn) s = .next t ∧ dirFind t gpn = some e2 ∧ e2.mode = .rebuilding ∧ e2.reps = [] ∧
        ∀ b, b < podSize s → b ∉ s.am.lost →
          ({ src := aid s, dst := b, msg := .recall gpn (aid s), at_ := s.now } : Env) ∈ t.net) ∧
    (∀ home, msgAt s m = some v → v.msg = .recall gpn home →
      let ans : Msg := .recallAns gpn (aid s) (heldState s gpn).1 (heldState s gpn).2
      exec (.recallQuery m) s = .next { s with
        am := { s.am with recalls := tput gpn s.now s.am.recalls }, net := Claim.replied s m [(home, ans)] }) ∧
    (∀ who tx, msgAt s m = some v → v.msg = .recallAns gpn who .master none → who < 1024 → dirFind s gpn = some e → e.mode = .rebuilding →
      e.tx = some tx → tx.acks = 1 → e.reps.length ≤ 4 →
      ∃ t e2, exec (.recallQuery m) s = .next t ∧ dirFind t gpn = some e2 ∧ e2.mode = .precise ∧ e2.crown = who ∧ e2.reps = e.reps ∧
        e2.tx = none)

/-- Injections, the pool, rebuilds and their time limits: Injections and RebuildsAndTimeouts together. -/
def Obligations.InjectionsAndRebuilds : Prop := Claim.Injections ∧ Claim.RebuildsAndTimeouts

/-- R198 to R200: a command of the AM ring, wherever the ring is, ends with its status and RESULT in its record and HEAD one on. AM_QUERY writes the tag and the entry of a page, AM_STATS the counters; AM_UNPARK takes a bank back, AM_RETIRE marks an empty frame RETIRED, AM_DISCARD removes a LOST entry. -/
def Sys2Proof.Claim.AmCommands : Prop :=
  ∀ (s s1 s2 : State) (head : Nat) (b : List Byte),
    let a0 := field b 8 8
    let a1 := field b 16 8
    let ends (i : Instr) (x : State) (status result : Nat) : Prop :=
      ∀ s3, amWrite x head status result = .done s3 () → exec i s = .next (amAdvance s3 head)
    (Claim.AmDue s s1 head b 1 → a0 < 2 ^ 48 → a1 % 64 = 0 → a1 / 2 ^ 52 = 0xFFF ∨ a1 / 2 ^ 52 ≤ 0xFFC →
      writePa (decaySet s1 (setIndex a0)) .cp (.ring 64) a1 (Claim.queryBytes s1 a0) = .done s2 () →
      ends .amQuery s2 1 (Claim.queryFlags s1 a0)) ∧
    (Claim.AmDue s s1 head b 2 → a0 = 0 → a1 % 64 = 0 → a1 / 2 ^ 52 = 0xFFF ∨ a1 / 2 ^ 52 ≤ 0xFFC →
      writePa s1 .cp (.ring 64) a1 ((List.range 13).flatMap fun k => leBytes 8 (s1.am.stats.getD k 0)) = .done s2 () → ends .amStats s2 1 0) ∧
    (Claim.AmDue s s1 head b 3 → Claim.BankOf a0 a1 → s1.am.busy = true → bankTags s1 (a0 % 8, a0 / 256 % 64) = [] → a0 / 256 % 64 < 60 →
      ends .amPark { s1 with am := { s1.am with busy := false } } 1 0) ∧
    (Claim.AmDue s s1 head b 4 → Claim.BankOf a0 a1 → (a0 % 8, a0 / 256 % 64) ∈ s1.am.parked →
      ends .amUnpark { s1 with am := { s1.am with parked := s1.am.parked.filter (· != (a0 % 8, a0 / 256 % 64)) } } 1 0) ∧
    (Claim.AmDue s s1 head b 5 → a0 / 2 ^ 24 = 0 → a0.testBit 19 = false → a1 = 0 → reservedWay (a0 % 2 ^ 19) (a0 / 2 ^ 20) = false →
      tagAt s1 (a0 % 2 ^ 19) (a0 / 2 ^ 20) = none →
      ends .amRetire (retireFrame { s1 with am := { s1.am with busy := false, retiring := [] } } (a0 % 2 ^ 19) (a0 / 2 ^ 20)) 1 0) ∧
    (∀ e, Claim.AmDue s s1 head b 6 → a0 < 2 ^ 48 → a1 = 0 → dirFind s1 a0 = some e → e.mode = .lost →
      ends .amDiscard { s1 with am := { s1.am with dir := s1.am.dir.filter fun e => e.gpn != a0 } } 1 0)

/-- R198 to R200: with its ring in host memory and nothing in its way, a command completes: its record holds the status and RESULT of the table, HEAD is one on, and no other byte of memory but its output changes. AM_PARK and AM_RETIRE first send pages away and then complete: 1 with none left, 7 with their number. -/
def Sys2Proof.Claim.AmCompletes : Prop :=
  ∀ (s : State) (n head rec opc a0 a1 : Nat), Claim.AmReady s n head rec opc a0 a1 →
    let bk := (a0 % 8, a0 / 256 % 64)
    let set := a0 % 2 ^ 19
    let way := a0 / 2 ^ 20
    let ends (i : Instr) (status result : Nat) : Prop := ∃ t, exec i s = .next t ∧ Claim.AmEnds s t n head rec 0 0 status result
    (opc = 1 → a0 < 2 ^ 48 → a1 % 64 = 0 → a1 / 2 ^ 52 = 0xFFF → a1 ≠ rec / 64 * 64 →
      ∃ t, exec .amQuery s = .next t ∧ Claim.AmEnds s t n head rec a1 64 1 (Claim.queryFlags s a0) ∧
        bytesAt t.mem a1 64 = Claim.queryBytes s a0) ∧
    (opc = 1 → 2 ^ 48 ≤ a0 ∨ a1 % 64 ≠ 0 → ends .amQuery 3 0) ∧
    (opc = 0 ∨ 6 < opc → ends .amQuery 2 0) ∧
    (opc = 2 → a0 = 0 → a1 % 64 = 0 → a1 / 2 ^ 52 = 0xFFF → rec + 32 ≤ a1 ∨ a1 + 104 ≤ rec →
      ∃ t, exec .amStats s = .next t ∧ Claim.AmEnds s t n head rec a1 104 1 0 ∧
        bytesAt t.mem a1 104 = (List.range 13).flatMap fun k => leBytes 8 (s.am.stats.getD k 0)) ∧
    (opc = 2 → a0 ≠ 0 ∨ a1 % 64 ≠ 0 → ends .amStats 3 0) ∧
    (opc = 3 → ¬ Claim.BankOf a0 a1 → ends .amPark 3 0) ∧ (opc = 4 → ¬ Claim.BankOf a0 a1 → ends .amUnpark 3 0) ∧
    (opc = 3 → Claim.BankOf a0 a1 → 60 ≤ bk.2 → ends .amPark 4 0) ∧
    (opc = 3 → Claim.BankOf a0 a1 → bk.2 < 60 → s.am.busy = false → bk ∈ s.am.parked → ends .amPark 6 0) ∧
    (opc = 3 → Claim.BankOf a0 a1 → bk.2 < 60 → s.am.busy = false → bk ∉ s.am.parked →
      ∃ t, exec .amPark s = .next t ∧ bk ∈ t.am.parked ∧ t.am.busy = true) ∧
    (opc = 3 → Claim.BankOf a0 a1 → bk.2 < 60 → s.am.busy = true →
      (∀ x ∈ bankTags s bk, (crowned x = true ∨ x.pin = true ∧ x.transit = false) ∧ injecting s x.gpn = false) →
      ∃ t, exec .amPark s = .next t ∧ t.am.busy = false ∧
        Claim.AmEnds s t n head rec 0 0 (if bankTags s bk = [] then 1 else 7) (bankTags s bk).length) ∧
    (opc = 4 → Claim.BankOf a0 a1 → bk ∈ s.am.parked →
      ∃ t, exec .amUnpark s = .next t ∧ bk ∉ t.am.parked ∧ Claim.AmEnds s t n head rec 0 0 1 0) ∧
    (opc = 4 → Claim.BankOf a0 a1 → bk ∉ s.am.parked → ends .amUnpark 6 0) ∧
    (opc = 5 → a0 / 2 ^ 24 ≠ 0 ∨ a0.testBit 19 = true ∨ a1 ≠ 0 → ends .amRetire 3 0) ∧
    (opc = 5 → a0 / 2 ^ 24 = 0 → a0.testBit 19 = false → a1 = 0 →
      (reservedWay set way = true → ends .amRetire 4 0) ∧
      (reservedWay set way = false → tagAt s set way = none → ∃ t, exec .amRetire s = .next t ∧
        (tagAt t set way).map (·.state) = some .retired ∧ Claim.AmEnds s t n head rec 0 0 1 0) ∧
      (∀ x, reservedWay set way = false → tagAt s set way = some x → x.state = .retired → ends .amRetire 6 0) ∧
      (∀ x, reservedWay set way = false → tagAt s set way = some x → crowned x = true → s.am.busy = false →
        ∃ t, exec .amRetire s = .next t ∧ t.am.busy = true ∧ (set, way) ∈ t.am.retiring) ∧
      (∀ x, reservedWay set way = false → tagAt s set way = some x → crowned x = true → s.am.busy = true → injecting s x.gpn = false →
        ∃ t, exec .amRetire s = .next t ∧ t.am.busy = false ∧ Claim.AmEnds s t n head rec 0 0 7 1)) ∧
    (opc = 6 → 2 ^ 48 ≤ a0 ∨ a1 ≠ 0 → ends .amDiscard 3 0) ∧
    (∀ e, opc = 6 → a0 < 2 ^ 48 → a1 = 0 → dirFind s a0 = some e → e.mode = .lost →
      ∃ t, exec .amDiscard s = .next t ∧ dirFind t a0 = none ∧ Claim.AmEnds s t n head rec 0 0 1 0) ∧
    (opc = 6 → a0 < 2 ^ 48 → a1 = 0 → dirFind s a0 = none → ends .amDiscard 5 0)

/-- The commands of the AM ring: AmCommands and AmCompletes together. -/
def Obligations.AmCommands : Prop := Claim.AmCommands ∧ Claim.AmCompletes

/-! ## Engines, granules, arrival counters (R164 to R166, R217 to R226, R305) -/

namespace Sys2Proof.Claim

open Sys2Proof Sys2Proof.Machine

/-- The engine context of group `gi` holds the one command `c`, which can move on and has moved nothing yet; its team stands on a core. -/
structure EngineAt (s : State) (gi : Nat) (fab : Bool) (c : EngCmd) : Prop where
  group : gi < s.groups.length
  team  : (groupAt s gi).team < s.teams.length
  stand : (teamOf s (groupAt s gi)).state = .resident
  cmds  : (engOf (groupAt s gi) fab).cmds = [c]
  held  : (engOf (groupAt s gi) fab).held = []
  going : (engOf (groupAt s gi) fab).halted = false
  calm  : cmdParked s gi fab c.num = false
  old   : c.since + 68 ≤ s.now
  fresh : c.fin = false ∧ c.stat = 0 ∧ c.buf = none ∧ c.olds = []
  units : ∀ u ∈ s.units, u.2.run = none

/-- Both ends of a copy are team SRAM. -/
abbrev InSram (c : EngCmd) : Prop := hdrSsram (cmdWord c 0) = true ∧ hdrDsram (cmdWord c 0) = true

/-- The team SRAM of a group's team. -/
def sramOf (s : State) (gi : Nat) : Memory := (teamOf s (groupAt s gi)).sram

/-- What a copy command tells a counter when its last byte is written (R219): nothing without CNT. -/
def copyCount (s : State) (gi : Nat) (c : EngCmd) (time : Nat) : List Env :=
  if hdrCnt (cmdWord c 0) then
    [mail s (aid s) (.count (4096 + ctxIx s (groupAt s gi)) (bits (cmdWord c 0) 31 20) (cmdTotal c) time (aid s) gi c.num false 0)]
  else []

/-- A granule has come by the home to a package that may serve it: it is this package's own, or the space is enabled for its source and its
page is mapped in the context of its space; one line, in L2, holds its bytes. -/
structure GranHere (s : State) (v : Env) (x : Gran) : Prop where
  own   : x.src = aid s ∨ ∃ c e, spaceOpen s (pageOf x.pa) x.src = true ∧ contextOfSpace s x.space = some c ∧
    tablesFor s .cp c (granXk x) (.granule x.src x.cmd x.g x.va) x.va 1 = .done s () ∧
    partyPte s .cp c x.va (granXk x) = .ok e ∧ pteGpn e = pageOf x.pa
  fresh : x.parked = false ∧ v.passed = true
  crown : crownHere s (pageOf x.pa) = true ∧ pageOf x.pa ∉ s.am.released
  line  : 0 < x.n ∧ x.pa % 128 + x.n ≤ 128 ∧ inL2 s (x.pa / 128) = true
  calm  : sliceBusy s none x.pa x.n = false ∧ plainWriteHeld s x.pa x.n = false ∧ plainReadHeld s x.pa x.n = false
  free  : plainVictims s x.pa x.n = [] ∧ s.am.mirs = []
  alone : mirroredHere s (pageOf x.pa) = false

end Sys2Proof.Claim

/-- R219: one step of a copy command between team-SRAM places moves the bytes at its place: COPY its length, FILL the eight bytes of its pattern again and again, COPY2D a row from a source row
to a destination row, BPNPREFIX the first 32 × M bytes of a 256-byte record. A command whose last byte is written is done, and with CNT tells its counter the bytes. -/
def Sys2Proof.Claim.CopyCommandsMoveBytes : Prop :=
  ∀ (s : State) (gi : Nat) (c : EngCmd), Claim.EngineAt s gi false c → Claim.InSram c →
    let w := cmdWord c
    let m := Claim.sramOf s gi
    (cmdOpc c = 1 → c.prog = 0 → 0 < w 3 → w 3 ≤ 4096 →
      ∃ t d tm, exec (.copy gi) s = .next t ∧ findCmd t gi false c.num = some d ∧ d.fin = true ∧ d.prog = w 3 ∧
        bytesAt (Claim.sramOf t gi) (w 2) (w 3) = bytesAt m (w 1) (w 3) ∧ t.net = s.net ++ Claim.copyCount s gi c tm ∧ t.mem = s.mem) ∧
    (cmdOpc c = 2 → c.prog = 0 → 0 < w 3 → w 3 ≤ 4096 →
      ∃ t d tm, exec (.fill gi) s = .next t ∧ findCmd t gi false c.num = some d ∧ d.fin = true ∧
        (∀ k, k < w 3 → byteAt (Claim.sramOf t gi) (w 2 + k) = BitVec.ofNat 8 (w 1 / 2 ^ (8 * (k % 8)))) ∧
        (∀ a, (a < w 2 ∨ w 2 + w 3 ≤ a) → byteAt (Claim.sramOf t gi) a = byteAt m a) ∧
        t.net = s.net ++ Claim.copyCount s gi c tm ∧ t.mem = s.mem) ∧
    (∀ r, cmdOpc c = 3 → c.prog = r * (w 3 % 2 ^ 32) → r < w 3 / 2 ^ 32 → 0 < w 3 % 2 ^ 32 → w 3 % 2 ^ 32 ≤ 4096 →
      ∃ t d, exec (.copy2d gi) s = .next t ∧ findCmd t gi false c.num = some d ∧ d.prog = c.prog + w 3 % 2 ^ 32 ∧
        (d.fin = true ↔ r + 1 = w 3 / 2 ^ 32) ∧
        bytesAt (Claim.sramOf t gi) (w 2 + r * (w 4 / 2 ^ 32)) (w 3 % 2 ^ 32) = bytesAt m (w 1 + r * (w 4 % 2 ^ 32)) (w 3 % 2 ^ 32) ∧
        t.mem = s.mem) ∧
    (∀ r, cmdOpc c = 4 → c.prog = r * (32 * (w 4 % 16)) → r < w 3 % 2 ^ 32 → 0 < w 4 % 16 →
      ∃ t d, exec (.bpnprefix gi) s = .next t ∧ findCmd t gi false c.num = some d ∧ d.prog = c.prog + 32 * (w 4 % 16) ∧
        (d.fin = true ↔ r + 1 = w 3 % 2 ^ 32) ∧
        bytesAt (Claim.sramOf t gi) (w 2 + 32 * (w 4 % 16) * r) (32 * (w 4 % 16)) = bytesAt m (w 1 + 256 * r) (32 * (w 4 % 16)) ∧
        t.mem = s.mem)

/-- R220: a fabric command sends its granules to the home of their page: PUT with bytes read here, GET asking for bytes, ATOM with operand, compare value and operation; SIGNAL sends a
count to its AID. Each waits for one acknowledgement more. A granule not acknowledged in 2^22 dc ends the command with status 0x03. -/
def Sys2Proof.Claim.FabricCommandsSend : Prop :=
  ∀ (s : State) (gi : Nat) (c : EngCmd), Claim.EngineAt s gi true c →
    let w := cmdWord c
    let cx := ctxIx s (groupAt s gi)
    let asks (va : Nat) (k : Xk) (e : Word) : Prop := tablesFor s (.fabric gi) cx k (.engine gi true c.num va) va 1 = .done s () ∧
      partyPte s (.fabric gi) cx va k = .ok e ∧ gpnSpace (pteGpn e) < 0xFFD
    let sent (t : State) (va n : Nat) (op : BitVec 8) (data : List Byte) (cnt : Option (Nat × Nat)) (e : Word) : Prop :=
      t.net = s.net ++ [Claim.mail s (homeAid s (pteGpn e))
        (.granule (aid s) c.num gi (spaceOf s cx) va (podAddr e va) op data n cnt c.lt false (pteMirr e))] ∧
      ∃ d, findCmd t gi true c.num = some d ∧ d.acks = c.acks + 1 ∧ d.prog = c.prog + n
    (∀ e, cmdOpc c = 0x11 → hdrSsram (w 0) = true → asks (w 2 + c.prog) .write e →
      let n := min (256 - (w 2 + c.prog) % 256) (w 3 - c.prog)
      ∃ t, exec (.put gi) s = .next t ∧ sent t (w 2 + c.prog) n 0x11 (bytesAt (Claim.sramOf s gi) (w 1 + c.prog) n)
        (if hdrCnt (w 0) then some (w 4 % 1024, bits (w 0) 31 20) else none) e ∧ t.mem = s.mem) ∧
    (∀ e, cmdOpc c = 0x12 → asks (w 1 + c.prog) .read e →
      ∃ t, exec (.get gi) s = .next t ∧ sent t (w 1 + c.prog) (min (256 - (w 1 + c.prog) % 256) (w 3 - c.prog)) 0x12 [] none e ∧
        t.mem = s.mem) ∧
    (∀ e, cmdOpc c = 0x13 → asks (w 1) .write e →
      ∃ t, exec (.atom gi) s = .next t ∧
        sent t (w 1) 8 0x13 (leBytes 8 (w 3) ++ leBytes 8 (w 4) ++ leBytes 2 (w 5 % 512)) none e ∧ t.mem = s.mem) ∧
    (cmdOpc c = 0x14 → ∃ t d, exec (.signal gi) s = .next t ∧ findCmd t gi true c.num = some d ∧ d.acks = 1 ∧ d.fin = true ∧
      t.net = s.net ++ [Claim.mail s (w 1 % 1024)
        (.count (spaceOf s cx) (bits (w 0) 31 20) (w 1 / 2 ^ 32) c.lt (aid s) gi c.num true 0)] ∧ t.mem = s.mem) ∧
    (∀ o ∈ c.outs, 0 < c.acks → o.2 + 2 ^ 22 ≤ s.now →
      ∃ t d, exec (.fabricTimeout gi c.num) s = .next t ∧ findCmd t gi true c.num = some d ∧ d.stat = 3 ∧ d.acks = 0 ∧ d.fin = true ∧
        t.mem = s.mem)

/-- Copy and fabric commands: CopyCommandsMoveBytes and FabricCommandsSend together. -/
def Obligations.EngineCommands : Prop := Claim.CopyCommandsMoveBytes ∧ Claim.FabricCommandsSend

/-- R220, R305: a granule where its page may be served: a PUT writes its bytes, and tells the counter it names or its sender; a GET answers the bytes there; an ATOM enters the write queue of its line's slice, or, where the page is never
cached, answers the old doubleword and writes the result of its operation. Nothing else of memory changes. -/
def Sys2Proof.Claim.GranulesAtTarget : Prop :=
  ∀ (s : State) (m : Nat) (v : Env) (x : Gran), msgAt s m = some v → v.msg = x.msg → Claim.GranHere s v x →
    (x.op = 0x11 → x.data.length = x.n → writableHere s (pageOf x.pa) = true →
      ∃ t tm, exec (.fabricGranuleArrive m) s = .next t ∧ bytesAt t.mem x.pa x.n = x.data ∧ Claim.SameOutside s t x.pa x.n ∧ x.floor ≤ tm ∧
        (x.cnt = none → Claim.mail s x.src (.granAck x.g x.cmd true 0 tm x.va []) ∈ t.net) ∧
        ∀ who cid, x.cnt = some (who, cid) → Claim.mail s who (.count x.space cid x.n tm x.src x.g x.cmd true x.va) ∈ t.net) ∧
    (x.op = 0x12 → readableHere s (pageOf x.pa) = true → poisonAt s (x.pa / 128) = none →
      ∃ t tm, exec (.fabricGranuleArrive m) s = .next t ∧ Claim.SameMemory s t ∧
        t.net = Claim.replied s m [(x.src, .granAck x.g x.cmd true 0 tm x.va (bytesAt s.mem x.pa x.n))]) ∧
    (∀ k sg a b, x.op = 0x13 → x.n = 8 → x.data = leBytes 8 a ++ leBytes 8 b ++ leBytes 2 k → k < 512 → sg = bit k 8 →
      writableHere s (pageOf x.pa) = true → poisonAt s (x.pa / 128) = none →
      (neverCached (granPte s x) = false → ∃ t e, exec (.fabricGranuleArrive m) s = .next t ∧ t.wq = s.wq ++ [e] ∧ e.line = x.pa / 128 ∧
        (e.op, e.ty, e.ret) = (BitVec.ofNat 8 k, if sg then .i64 else .n64, true) ∧
        e.parts = [{ acc := 0, pa := x.pa, n := 8, data := a % 2 ^ 64, cmp := b % 2 ^ 64 }] ∧
        e.who = [{ src := x.src, id := x.cmd, k := x.g, gran := some x.va }] ∧ x.floor ≤ e.t ∧ t.net = s.net.eraseIdx m ∧ Claim.SameMemory s t) ∧
      (neverCached (granPte s x) = true → ∃ t tm, exec (.fabricGranuleArrive m) s = .next t ∧ Claim.SameOutside s t x.pa 8 ∧
        loadLe t.mem x.pa 8 = atomApply (BitVec.ofNat 8 k) (if sg then .i64 else .n64) (loadLe s.mem x.pa 8) (a % 2 ^ 64) (b % 2 ^ 64) % 2 ^ 64 ∧
        Claim.mail s x.src (.granAck x.g x.cmd true 0 tm x.va (leBytes 8 (loadLe s.mem x.pa 8))) ∈ t.net))

/-- R217, R220, R222: an acknowledgement takes one from what its command waits for, raises the command's time, keeps the first status that is not 0, and puts a GET's bytes, or an ATOM's old value, at their place. A command with
nothing left to wait for leaves its context: the timeline passes it, and with CMPL or a status its completion word is queued; a status halts the context. With no room for its word, the word is held back. A completion word held back enters the queue when it has room. -/
def Sys2Proof.Claim.EngineCompletions : Prop :=
  ∀ (s : State) (gi : Nat) (fab : Bool) (c : EngCmd), gi < s.groups.length → (engOf (groupAt s gi) fab).cmds = [c] →
    let e := engOf (groupAt s gi) fab
    (∀ m v stat time va, msgAt s m = some v → v.msg = .granAck gi c.num fab stat time va [] → 0 < c.acks →
      ∃ t d, exec (.fabricAck m) s = .next t ∧ findCmd t gi fab c.num = some d ∧ d.acks = c.acks - 1 ∧ d.time = max c.time time ∧
        d.stat = (if c.stat = 0 then stat else c.stat) ∧ t.net = s.net.eraseIdx m ∧ t.mem = s.mem) ∧
    (∀ m v time k data, fab = true → msgAt s m = some v → v.msg = .granAck gi c.num true 0 time (cmdWord c 1 + k) data → 0 < c.acks →
      (cmdOpc c = 0x12 ∨ cmdOpc c = 0x13 ∧ k = 0) → hdrDsram (cmdWord c 0) = true → data ≠ [] → cmdParked s gi true c.num = false →
      (groupAt s gi).team < s.teams.length → (teamOf s (groupAt s gi)).state = .resident →
      ∃ t d, exec (.fabricAck m) s = .next t ∧ findCmd t gi true c.num = some d ∧ d.acks = c.acks - 1 ∧
        bytesAt (Claim.sramOf t gi) (cmdWord c 2 + k) data.length = data ∧ t.mem = s.mem) ∧
    (c.fin = true → c.acks = 0 → c.stat = 0 → bit (cmdWord c 0) 18 = false → e.times = [] → c.num = e.time + 1 →
      ∃ t, exec (.engineCmdComplete gi c.num fab) s = .next t ∧ (engOf (groupAt t gi) fab).cmds = [] ∧
        (engOf (groupAt t gi) fab).time = c.num ∧ (engOf (groupAt t gi) fab).words = e.words ∧ t.mem = s.mem) ∧
    (c.fin = true → c.acks = 0 → (bit (cmdWord c 0) 18 = true ∨ c.stat ≠ 0) → e.words.length < 16 → e.held = [] →
      ∃ t, exec (.engineCmdComplete gi c.num fab) s = .next t ∧ (engOf (groupAt t gi) fab).cmds = [] ∧
        (engOf (groupAt t gi) fab).halted = (e.halted || c.stat != 0) ∧ (engOf (groupAt t gi) fab).words = e.words ++
          [w64 (c.num % 2 ^ 40 * 2 ^ 24 + c.stat.toNat * 2 ^ 16 + bits (cmdWord c 0) 47 32)] ∧ t.mem = s.mem) ∧
    (c.fin = true → c.acks = 0 → (bit (cmdWord c 0) 18 = true ∨ c.stat ≠ 0) → (e.words.length = 16 ∨ e.held ≠ []) → e.held.length < 16 →
      ∃ t, exec (.engineCmdComplete gi c.num fab) s = .next t ∧ (engOf (groupAt t gi) fab).cmds = [] ∧
        (engOf (groupAt t gi) fab).words = e.words ∧ (engOf (groupAt t gi) fab).held = e.held ++
          [(c.num, c.time, w64 (c.num % 2 ^ 40 * 2 ^ 24 + c.stat.toNat * 2 ^ 16 + bits (cmdWord c 0) 47 32))] ∧ t.mem = s.mem) ∧
    (∀ n tm x r, e.held = (n, tm, x) :: r → e.words.length < 16 →
      ∃ t, exec (.completionWordPush gi fab) s = .next t ∧ (engOf (groupAt t gi) fab).words = e.words ++ [x] ∧
        (engOf (groupAt t gi) fab).held = r ∧ (n, tm) ∈ (engOf (groupAt t gi) fab).times ∧ t.mem = s.mem)

/-- R225, R226: a count for a counter bound in a resident team's SRAM adds its bytes and raises TIME past the row's lease; one for an unbound id keeps a pending entry; both are acknowledged with status 0. One
that has found no room in 2^20 dc is acknowledged with status 0x07. -/
def Sys2Proof.Claim.ArrivalCounts : Prop :=
  ∀ (s : State) (m : Nat) (v : Env) (cx cid bytes time src g cmd va : Nat) (fab : Bool), msgAt s m = some v →
    v.msg = .count (4096 + cx) cid bytes time src g cmd fab va → cx < s.ctxs.length →
    let at_ := (ctxAt s cx).arrivals.find? fun e => e.1 == cid
    let ack (stat : BitVec 8) : List Env := Claim.replied s m [(src, .granAck g cmd fab stat time va [])]
    (∀ ti off y z, at_ = some (cid, some (ti, off), y, z) → ti < s.teams.length → (s.teams.getD ti default).state = .resident → bytes < 2 ^ 64 →
      time < 2 ^ 63 → (rowTimes (s.teams.getD ti default) (off / 128)).2 < 2 ^ 63 →
      let k := counterAt (s.teams.getD ti default) off
      ∃ t, exec (.arrivalCount m) s = .next t ∧ t.net = ack 0 ∧ t.mem = s.mem ∧
        let k' := counterAt (t.teams.getD ti default) off
        k'.count = (k.count + bytes) % 2 ^ 64 ∧ k'.target = k.target ∧ k'.id = k.id ∧ k'.armed = k.armed ∧ time ≤ k'.time ∧ k.time ≤ k'.time) ∧
    (at_ = none → arrivalUsed s < 4096 →
      ∃ t, exec (.arrivalCount m) s = .next t ∧ t.net = ack 0 ∧ (ctxAt t cx).arrivals = (ctxAt s cx).arrivals ++ [(cid, none, bytes, time)] ∧
        t.teams = s.teams ∧ t.mem = s.mem) ∧
    (at_ = none → 4096 ≤ arrivalUsed s → v.at_ + 2 ^ 20 ≤ s.now →
      exec (.countTableTimeout m) s = .next { s with net := ack 7 })

/-- Granules at their target, acknowledgements, completions, counts: GranulesAtTarget, EngineCompletions and ArrivalCounts together. -/
def Obligations.EngineAnswers : Prop := Claim.GranulesAtTarget ∧ Claim.EngineCompletions ∧ Claim.ArrivalCounts

/-! ## Launches: records, deal, placement, barriers, blocks, retirement (R24, R252 to R266, R276 to R278, R291, R292) -/

namespace Sys2Proof.Claim

open Sys2Proof Sys2Proof.Machine

/-- The head record of queue `q` of context `c` has been read, as `ws` in state `s1`; it is the CP's next. -/
structure HeadRead (s s1 : State) (c q : Nat) (ws : List Nat) : Prop where
  small : c < 64 ∧ q < 16 ∧ s.ctxs.length = 64 ∧ (ctxAt s c).queues.length = 16
  free  : cpParked s (16 * c + q) = false
  live  : lqLive s c q = true
  read  : ∃ b, cpTake s (16 * c + q) .read (headVa (lqAt s c q)) 64 = .done s1 b ∧ recWords b = ws
  turn  : queueEligible s1 c q ws = true ∧ firstChoice s1 (lqPri (lqAt s1 c q)) (16 * c + q) = true

/-- The state in which the CP serves that record. -/
def served (s1 : State) (c q : Nat) : State :=
  let pri := lqPri (lqAt s1 c q)
  { s1 with cpLast := (pri, 16 * c + q) :: s1.cpLast.filter fun p => p.1 != pri }

/-- HEAD of a queue has moved by one record of its ring. -/
abbrev HeadMoved (s t : State) (c q : Nat) : Prop :=
  (lqAt t c q).head = BitVec.ofNat 12 (((lqAt s c q).head.toNat + 1) % (lqSize (lqAt s c q)).getD 4096) ∧
    (lqAt t c q).next = (lqAt s c q).next + 1

/-- A launch has been accepted at the end of the list, with its plan of `n` teams dealt to their cores. -/
structure Accepted (s t : State) (c q n : Nat) (r : Record) : Prop where
  launch : ∃ l, t.launches = s.launches ++ [l] ∧ l.ctx = c ∧ l.queue = some (q, (lqAt s c q).next) ∧ l.record = r ∧ l.lid = s.nextLid ∧
             l.left = n ∧ s.cpLt < l.lambda ∧ l.retired = false
  teams  : t.teams.length = s.teams.length + n
  deal   : ∀ j, j < n → ∃ x, t.teams[s.teams.length + j]? = some x ∧ x.state = .dealt ∧ x.dealt = dealtCore s j ∧
             x.launch = s.launches.length ∧ x.tid = BitVec.ofNat 32 j
  lid    : t.nextLid = s.nextLid + 1
  head   : HeadMoved s t c q

/-- A group with no frame, no pending trap, no save, whose team has not been asked to leave. -/
abbrev Free (s : State) (gi : Nat) : Prop :=
  (groupAt s gi).pend = none ∧ (groupAt s gi).retired = false ∧ (groupAt s gi).saved = false ∧ (groupAt s gi).reached = false ∧
    requested s (groupAt s gi) = false

end Sys2Proof.Claim

/-- R252 to R256, R258, R262: a record whose fields pass is accepted: it takes the next LAUNCHID and a launch time above the CP's, a kernel record makes its TEAMS teams and a ragged record the teams of its segments, each dealt
to its core by number, and HEAD moves on. A record without a launch retires at once; one whose fields fail is refused and retires; a write of LQ_BASE starts the ring anew. -/
def Obligations.RecordsAccepted : Prop :=
  (∀ (s s1 s3 s4 s5 s6 : State) (c q : Nat) (ws : List Nat) (wins : List (Word × Word)) (plan : List TeamPlan) (snaps : List (Nat × Nat))
      (im : Image) (bad : Option Cause), Claim.HeadRead s s1 c q ws →
    let r := parseRecord ws
    let own := some (q, (lqAt s1 c q).next)
    let s2 := Claim.served s1 c q
    let src := 16 * c + q
    (recordStatus ws own = 0 → readWindows s2 src r = .done s3 wins → windowsBad wins = false →
      readPlan s3 src r wins = .done s4 (some plan) → plan ≠ [] → (flagCoop r = true → coopPossible s4 r plan.length = true) →
      readSnaps s4 src r = .done s5 snaps → readLaunchImage s5 src r = .done s6 (im, bad) →
      (r.kind = 1 → ∃ t, exec (.launchKernel src) s = .next t ∧ Claim.Accepted s t c q plan.length r ∧ plan.length = r.teams.toNat ∧
        (t.launches.getD s.launches.length default).wins = wins) ∧
      (r.kind = 2 → ∃ t, exec (.launchRagged src) s = .next t ∧ Claim.Accepted s t c q plan.length r ∧
        (t.launches.getD s.launches.length default).snaps = snaps ∧
        ∀ j id row0 rows win, plan[j]? = some ((id, row0, rows), win) → ∃ x, t.teams[s.teams.length + j]? = some x ∧
          x.segid = id ∧ x.segrow0 = row0 ∧ x.segrows = rows ∧ x.win0 = win)) ∧
    (recordStatus ws own = 0 → r.kind = 3 → writeStatus s2 c (headVa (lqAt s1 c q)) 1 = .done s3 () →
      ∃ t, exec (.launchWaitOnly src) s = .next t ∧ Claim.HeadMoved s t c q ∧ t.launches = s.launches ∧ t.teams = s.teams)) ∧
  (∀ (s : State) (c q : Nat) (v : Word), c < s.ctxs.length → q < (ctxAt s c).queues.length →
    ∃ t, exec (.lqBaseWrite c q v) s = .next t ∧ (lqAt t c q).base = v &&& ~~~0xFFF#64 ∧ (lqAt t c q).head = 0 ∧ (lqAt t c q).tail = 0 ∧
      (lqAt t c q).done = 0 ∧ (lqAt t c q).next = 1 ∧ (lqAt t c q).ctl = (lqAt s c q).ctl ∧ t.mem = s.mem)

/-- R31, R264 to R266: the first team that can be placed stands on its dealt core with fresh groups: group j in quadrant j mod 4, s0 at the image, SPC at the image's first scalar word, every other register 0. A cleared
range of team SRAM is free again when its dc have passed. -/
def Sys2Proof.Claim.TeamsPlaced : Prop :=
  ∀ (s : State) (i : Nat), i < s.teams.length →
    let x := s.teams.getD i default
    let l := s.launches.getD x.launch default
    let im := s.images.getD l.image default
    (placeable s i = true → (∀ t ∈ s.teams, t.placed ≠ s.cycle + 1) → (∀ j, j < s.teams.length → placeable s j = true → teamRank s i ≤ teamRank s j) → l.bad = none →
      ∃ t y, exec (.teamPlace i) s = .next t ∧ t.teams[i]? = some y ∧ y.state = .resident ∧ y.core = x.dealt ∧
        y.groups = (List.range l.record.groups.toNat).map (s.groups.length + ·) ∧ y.sram = [] ∧ t.mem = s.mem ∧
        ∀ j, j < l.record.groups.toNat → ∃ g, t.groups[s.groups.length + j]? = some g ∧ g.team = i ∧ g.gid = j ∧
          g.quad = 4 * physOf s x.dealt + j % 4 ∧ g.spc = w64 (im.va + im.sofs) ∧ sreg g 0 = w64 im.va ∧ g.slt = l.lambda ∧
          (∀ r, 0 < r → r < 48 → sreg g r = 0) ∧ g.block = none ∧ g.frame = none ∧ g.pwstat = 0) ∧
    (∀ k core n u, s.clears[k]? = some (core, n, u) → u ≤ s.now →
      exec (.sramClearDone k) s = .next { s with clears := s.clears.eraseIdx k })

/-- R24, R277, R278: the oldest queued block starts with one path at its offset and every live lane, its lt taken. A barrier whose every group has arrived is released: its generation advances, and the released lt
is the largest that arrived. -/
def Sys2Proof.Claim.BlocksAndBarriers : Prop :=
  (∀ (s : State) (gi : Nat) (b : Block) (r : List Block), gi < s.groups.length → Claim.Free s gi → (groupAt s gi).block = none →
    (groupAt s gi).queue = b :: r → liveLanes (groupAt s gi) ≠ 0 →
    ∃ t h, exec (.laneBlockStart gi) s = .next t ∧ t.groups[gi]? = some h ∧ h.block = some b ∧ h.queue = r ∧ h.p0.lpc = b.lofs ∧
      h.p0.exec = liveLanes (groupAt s gi) ∧ h.p0.stack = [] ∧ h.p1 = none ∧ h.llt = max (groupAt s gi).llt b.lt ∧
      h.lanes = (groupAt s gi).lanes ∧ h.s = (groupAt s gi).s ∧ t.mem = s.mem) ∧
  (∀ (s : State) (l i : Nat) (x : Team), s.teams[i]? = some x → x.launch = l → x.state = .resident → x.groups ≠ [] → x.bar.arrived ≠ [] →
    (∀ gi ∈ x.groups, (groupAt s gi).retired = true ∨ gi ∈ x.bar.arrived) →
    ∃ t y, exec (.barrierRelease l i 0) s = .next t ∧ t.teams[i]? = some y ∧ y.bar = ⟨x.bar.gen + 1, [], 0, x.bar.lt⟩ ∧
      t.groups = s.groups ∧ t.launches = s.launches ∧ t.mem = s.mem) ∧
  (∀ (s : State) (l d : Nat) (x : Launch) (b : Barrier), s.launches[l]? = some x →
    (x.bar.arrived ≠ [] → (∃ y ∈ s.teams, y.launch = l ∧ y.state ≠ .retired) →
      (∀ y ∈ s.teams, y.launch = l → y.state ≠ .retired → y.groups ≠ [] ∧ ∀ gi ∈ y.groups, (groupAt s gi).retired = true ∨ gi ∈ x.bar.arrived) →
      ∃ t z, exec (.barrierRelease l d 2) s = .next t ∧ t.launches[l]? = some z ∧ z.bar = ⟨x.bar.gen + 1, [], 0, x.bar.lt⟩ ∧
        t.groups = s.groups ∧ t.teams = s.teams ∧ t.mem = s.mem) ∧
    (x.crew[d]? = some b → b.arrived ≠ [] → (∃ y ∈ s.teams, y.launch = l ∧ y.state ≠ .retired ∧ dieOf s y.dealt = d) →
      (∀ y ∈ s.teams, y.launch = l → y.state ≠ .retired → dieOf s y.dealt = d →
        y.groups ≠ [] ∧ ∀ gi ∈ y.groups, (groupAt s gi).retired = true ∨ gi ∈ b.arrived) →
      ∃ t z, exec (.barrierRelease l d 1) s = .next t ∧ t.launches[l]? = some z ∧ z.crew[d]? = some ⟨b.gen + 1, [], 0, b.lt⟩ ∧
        t.groups = s.groups ∧ t.teams = s.teams ∧ t.mem = s.mem))

/-- R256, R266, R276: an exiting group with nothing outstanding retires; with the last group of a team its team is retired, its SRAM and channels empty, its core's SRAM cleared at 4096 bytes a dc. A launch without
teams left writes STATUS 0x01 and its record counts as done. -/
def Sys2Proof.Claim.GroupsAndLaunchesRetire : Prop :=
  (∀ (s : State) (gi : Nat), gi < s.groups.length → (groupAt s gi).team < s.teams.length →
    let g := groupAt s gi
    let x := teamOf s g
    g.exiting = true → g.retired = false → g.pend = none → blocksOutstanding g = false → (∀ a ∈ s.sets, ofGroup gi a = false) →
    g.copy.cmds = [] → g.fabric.cmds = [] → g.region = none → x.groups = [gi] → x.launch < s.launches.length →
    ∃ t h y, exec (.groupRetire gi) s = .next t ∧ t.groups[gi]? = some h ∧ h.retired = true ∧ h.exiting = false ∧
      t.teams[g.team]? = some y ∧ y.state = .retired ∧ y.sram = [] ∧ y.chans = List.replicate 8 [] ∧ t.mem = s.mem ∧
      (t.launches.getD x.launch default).left = (s.launches.getD x.launch default).left - 1 ∧
      ((recordOf s x).sram.toNat ≠ 0 → t.clears = s.clears ++ [(x.core, (recordOf s x).sram.toNat,
        s.now + ceilDiv (recordOf s x).sram.toNat 4096)])) ∧
  (∀ (s s1 : State) (l : Nat) (x : Launch) (q n : Nat), s.launches[l]? = some x → x.retired = false → x.left = 0 → x.builder = none →
    x.queue = some (q, n) → x.ctx < s.ctxs.length → q < (ctxAt s x.ctx).queues.length → (lqAt s x.ctx q).fin = [] →
    (lqAt s x.ctx q).done.toNat + 1 = n → writeStatus s x.ctx x.recVa 1 = .done s1 () →
    ∃ t y, exec (.launchRetire l) s = .next t ∧ t.launches[l]? = some y ∧ y.retired = true ∧ (lqAt t x.ctx q).done = w64 n)

/-- Teams are placed, blocks start, barriers release, groups and launches retire: TeamsPlaced, BlocksAndBarriers and GroupsAndLaunchesRetire together. -/
def Obligations.TeamsAndGroups : Prop := Claim.TeamsPlaced ∧ Claim.BlocksAndBarriers ∧ Claim.GroupsAndLaunchesRetire

/-- R269, R291, R292, R335: a write of CSL_COMMIT asks for its quadrants, and from the next dc that is a multiple of 64 their active slot tables are the staged ones. A progress counter at its period traps WATCHDOG, 4096 words
since a safe point SAFEPOINT_GAP, at the lane path due, where that does not first reach a request to leave. A trap that waited is taken once its group is quiet and its handler is here. -/
def Obligations.CountersAndSlots : Prop :=
  (∀ (s : State) (v : Word),
    exec (.cslCommit v) s = .next (s.modHub fun h => { h with cslReq := h.cslReq ++
      (if v.getLsbD 9 then List.range 288 else if v.toNat % 512 < 288 then [v.toNat % 512] else []).map (· + 512 * s.cycle) })) ∧
  (∀ (s : State) (q u : Nat), s.hub.cslReq = [q + 512 * u] → q < 288 → 64 * (u / 64 + 1) ≤ s.cycle →
    ∃ t, exec .cslCommitApply s = .next t ∧ t.hub.cslReq = [] ∧
      (∀ e, e < 64 → tget 0 t.hub.active (64 * q + e) = tget 0 s.hub.staged (64 * q + e)) ∧
      (∀ e, (e < 64 * q ∨ 64 * q + 64 ≤ e) → tget 0 t.hub.active e = tget 0 s.hub.active e) ∧ t.hub.staged = s.hub.staged) ∧
  (∀ (s : State) (gi : Nat), mayCount s (groupAt s gi) = true →
    let g := groupAt s gi
    reachesFirst s gi g (duePath g) = false →
    (dogPeriod s g ≤ g.prog →
      exec (.watchdog gi) s = .next (laneTrap s gi g (duePath g) Tc.watchdog (allMasks g))) ∧
    (4096 ≤ g.gap → laneMayRun s g (duePath g) = true →
      exec (.safepointGap gi) s = .next (laneTrap s gi g (duePath g) Tc.safepointGap))) ∧
  (∀ (s s2 : State) (gi img : Nat) (p : Pending) (spc : Word), gi < s.groups.length → (groupAt s gi).pend = some p →
    (groupAt s gi).retired = false → quiescent s gi = true → (groupAt s gi).frame = none →
    handlerReady s ((groupAt s gi).quad / 4) (ctxIx s (groupAt s gi)) p.cause = true →
    Claim.handler s (groupAt s gi) p.cause = some (s2, img, spc) →
    ∃ t h, exec (.trapDelivery gi) s = .next t ∧ t.groups[gi]? = some h ∧ h.trap.tcause = p.cause ∧ h.trap.taddr = p.addr ∧
      h.spc = spc ∧ h.frame.isSome = true ∧ h.pend = none)

/-! ## Pre-emption, checkpoints, rollback, strikes (R265, R267, R343 to R350) -/

namespace Sys2Proof.Claim

open Sys2Proof Sys2Proof.Machine

/-- A team of one group that has not retired. -/
structure OneGroup (s : State) (ti gi : Nat) (x : Team) : Prop where
  team  : s.teams[ti]? = some x
  only  : x.groups = [gi]
  group : gi < s.groups.length
  back  : (groupAt s gi).team = ti
  lives : (groupAt s gi).retired = false

/-- DONE of CTX_CKPT. -/
abbrev ckptReady (s : State) (c : Nat) : Prop := (ctxAt s c).ckpt.getLsbD 2 = true

end Sys2Proof.Claim

/-- R265, R267, R343: a team that may leave and stands in the way of a higher priority, or whose every group waits, is asked to leave and given a save slot. Once its groups have reached the request their control frames are written and each enters
the save handler with PREEMPT_SAVE, the team being saved and its arrays frozen. -/
def Sys2Proof.Claim.TeamsAskedToLeave : Prop :=
  ∀ (s : State) (ti gi k : Nat) (x : Team), Claim.OneGroup s ti gi x → freeSlotFor s ti = some k →
    (mayRequest s ti = true → outranked s ti = true →
      ∃ t y, exec (.preemptRequest ti) s = .next t ∧ t.teams[ti]? = some y ∧ y = { x with request := some s.now, slot := k } ∧
        t.groups = s.groups ∧ t.mem = s.mem) ∧
    (mayRequest s ti = true → isWaiting s gi (groupAt s gi) = true →
      ∃ t y, exec (.teamSwapOut ti) s = .next t ∧ t.teams[ti]? = some y ∧ y = { x with request := some s.now, slot := k } ∧
        t.groups = s.groups ∧ t.mem = s.mem) ∧
    (∀ s1 s2 img spc, x.state = .resident → x.request.isSome = true → mayEnter s gi = true → cpParked s (sealSrc ti (teamCtx s ti)) = false →
      handlerReady s (physOf s x.core) (teamCtx s ti) Tc.preemptSave = true → writeControls (sealSrc ti (teamCtx s ti)) s [gi] = .done s1 () →
      Claim.handler { s1 with sets := s1.sets.filter fun a => !(ofGroup gi a) } (groupAt s1 gi) Tc.preemptSave = some (s2, img, spc) →
      ∃ t y h, exec (.preemptSaveEntry ti) s = .next t ∧ t.teams[ti]? = some y ∧ y.state = .saving ∧ y.frozen = true ∧
        t.groups[gi]? = some h ∧ h.trap.tcause = Tc.preemptSave ∧ h.frame.isSome = true ∧ h.spc = spc ∧ h.block = none)

/-- R344, R345: with every group saved the image's header and team SRAM are written, the image is sealed with the context's next generation, and the team is out: its core's SRAM is cleared, its arrays are gone. -/
def Sys2Proof.Claim.TeamSealed : Prop :=
  ∀ (s s1 s2 s3 : State) (ti gi : Nat) (x : Team), Claim.OneGroup s ti gi x → x.state = .saving → (groupAt s gi).saved = true →
    (∀ u ∈ s.units, u.2.run = none) →
    let c := teamCtx s ti
    let src := sealSrc ti c
    let r := recordOf s x
    let base := slotVa s c x.slot
    let gen := (ctxAt s c).sealGen + 1
    c < s.ctxs.length → Claim.ckptReady s c → cpParked s src = false → cpPut s src base (headerBytes s ti gen) = .done s1 () →
    cpPut s1 src (base + sramAt r) (bytesAt x.sram 0 (4096 * ceilDiv r.sram.toNat 4096)) = .done s2 () →
    sealImage s2 src base (imageBytes r) = .done s3 () →
    ∃ t y, exec (.teamSeal ti) s = .next t ∧ t.teams[ti]? = some y ∧ y.state = .out ∧ y.request = none ∧ y.slotGen = gen ∧ y.cims = [] ∧
      y.frozen = false ∧ (ctxAt t c).sealGen = gen ∧ t.mem = s3.mem

/-- R266, R346, R347: a team that is out comes back where its core, or another of its die, has room and no higher priority waits: its SRAM is that of the image, each group enters the restore handler on a seat of the core. An image whose CRC or generation is
not the one sealed is fatal IMAGE_SEAL. -/
def Sys2Proof.Claim.TeamResumed : Prop :=
  ∀ (s s1 s2 : State) (ti gi core img : Nat) (spc : Word) (x : Team) (f : Frame) (b : List Byte), Claim.OneGroup s ti gi x → x.state = .out →
    let c := teamCtx s ti
    let r := recordOf s x
    mayPlace s c = true → (∀ l, l < s.launches.length → l ≠ x.launch → halfPlaced s l = false) → cpParked s (sealSrc ti c) = false →
    resumeCore s x = some core → coreWanted s core (priOf s x) = false →
    handlerReady s (physOf s core) c Tc.resumeRestore = true → cpTake s (sealSrc ti c) .read (slotVa s c x.slot) (imageBytes r) = .done s1 b →
    (crcOmit b 4 = field b 4 4 → field b 8 8 = x.slotGen → (groupAt s gi).frame = some f → x.counts = [] → b.length = imageBytes r →
      handlerFor (handlerWalks s1 (physOf s core) c Tc.resumeRestore) (physOf s core) c Tc.resumeRestore = some (s2, img, spc) →
      ∃ t y h, exec (.teamResume ti) s = .next t ∧ t.teams[ti]? = some y ∧ y.state = .resident ∧ y.core = core ∧
        (∀ o, o < r.sram.toNat → byteAt y.sram o = b.getD (sramAt r + o) 0) ∧ t.groups[gi]? = some h ∧
        h.trap.tcause = Tc.resumeRestore ∧ h.spc = spc ∧ h.frame.isSome = true ∧ h.quad / 4 = physOf s core) ∧
    ((crcOmit b 4 ≠ field b 4 4 ∨ field b 8 8 ≠ x.slotGen) →
      exec (.teamResume ti) s = .next (fatal s1 c Tc.imageSeal (s.launches.getD x.launch default).lid))

/-- Pre-emption: request, save, seal, resume: TeamsAskedToLeave, TeamSealed and TeamResumed together. -/
def Obligations.Preemption : Prop := Claim.TeamsAskedToLeave ∧ Claim.TeamSealed ∧ Claim.TeamResumed

/-- R347: GO asks every resident team of the context to leave and clears DONE; with none left to ask and no slots for a table it ends at once with DONE and the next generation in CKGEN. HOLD written 0, or the hold's end, lets the teams be placed again. -/
def Sys2Proof.Claim.CheckpointsOfContexts : Prop :=
  ∀ (s : State) (c : Nat) (v : Word), c < s.ctxs.length → Claim.ckptReady s c →
    (∀ ti gi x k, v.getLsbD 0 = true → Claim.OneGroup s ti gi x → teamsOfCtx s c = [ti] → onCore x = true → mayRequest s ti = true → freeSlotFor s ti = some k →
      ∃ t y, exec (.checkpointGo c v) s = .next t ∧ (ctxAt t c).ckpt.getLsbD 2 = false ∧ (ctxAt t c).ckpt.getLsbD 0 = true ∧ t.teams[ti]? = some y ∧ y.request = some s.now ∧
        y.slot = k) ∧
    (v.getLsbD 0 = true → teamsOfCtx s c = [] → slotCount s c = 0 → cpParked s (sealSrc (2 ^ 40) c) = false →
      ∃ t, exec (.checkpointGo c v) s = .next t ∧ (ctxAt t c).ckpt.getLsbD 2 = true ∧ (ctxAt t c).ckpt.getLsbD 0 = false ∧ (ctxAt t c).ckgen = w64 ((ctxAt s c).sealGen + 1) ∧
        (ctxAt t c).held = v.getLsbD 1) ∧
    (∃ t, exec (.checkpointHoldClear c) s = .next t ∧ (ctxAt t c).held = false ∧ (ctxAt t c).ckpt.getLsbD 1 = false ∧
      (ctxAt t c).ckpt.getLsbD 2 = true ∧ t.teams = s.teams)

/-- R348 to R350: an uncorrectable error that a group of a protected launch has consumed stops the launches of its root and, once what was performed has settled and the shadows are back, starts the root anew with the same LAUNCHID, a later launch time and
one replay more; an unprotected launch's group traps with the cause. A strike has what its quadrant issued in the last 48 dc come 64 dc later, or, in a restore of it, later by what that has run. -/
def Sys2Proof.Claim.RollbackAndStrikes : Prop :=
  ∀ (s : State) (gi : Nat) (cause : Cause), gi < s.groups.length → 0xB0 ≤ cause.toNat → cause.toNat ≤ 0xB6 →
    let g := groupAt s gi
    let root := shadowRoot s (launchIx s g)
    let x := s.launches.getD root default
    (x.stopping = false → x.protect = false → g.retired = false → g.pend = none → (g.block = none ∨ cause = Tc.ueScalarReg) →
      exec (.launchRollback gi cause) s = .next (scalarTrap s gi g cause)) ∧
    (x.stopping = false → x.protect = false → g.retired = false → g.pend = none → g.block.isSome = true → cause ≠ Tc.ueScalarReg →
      exec (.launchRollback gi cause) s = .next (laneTrap s gi g (duePath g) cause)) ∧
    (x.stopping = false → root < s.launches.length → x.protect = true → rollbackOn s x.ctx = true → g.retired = false → x.replays < 3 →
      familyBusy (stopFamily s root) root = false → cpParked (stopFamily s root) (sealSrc (2 ^ 41 + root) x.ctx) = false →
      (∀ y ∈ s.am.shadows, y.1 ≠ root) →
      ∃ t y, exec (.launchRollback gi cause) s = .next t ∧ t.launches[root]? = some y ∧ y.replays = x.replays + 1 ∧ y.lid = x.lid ∧
        x.lambda < y.lambda ∧ y.stopping = false ∧ y.record = x.record ∧ t.mem = s.mem) ∧
    (∀ (q i : Nat) (a : ASet) (k : Nat), s.sets[i]? = some a → partyGroup a.party = some k → (groupAt s k).quad = q → a.phase ≠ .gone → s.now < a.issued + 48 →
      ∃ t b, exec (.strikeReport q) s = .next t ∧ t.sets[i]? = some b ∧ t.groups = s.groups ∧ t.mem = s.mem ∧
        ((∀ x ∈ s.hub.strikes, x.1 = q → x.2 + 17 ≤ s.now) → b = { a with issued := a.issued + 64 }) ∧
        ∀ u, s.hub.strikes = [(q, u)] → s.now < u + 17 → b = { a with issued := a.issued + (s.now - u) })

/-- Checkpoints, launch rollback, strikes: CheckpointsOfContexts and RollbackAndStrikes together. -/
def Obligations.CheckpointsAndRollback : Prop := Claim.CheckpointsOfContexts ∧ Claim.RollbackAndStrikes

/-! ## The fault queue, TLB invalidation, the host (R295, R296, R303 to R308, R354, R360) -/

namespace Sys2Proof.Claim

open Sys2Proof Sys2Proof.Machine

/-- Context `c` has the one fault record `r`, not yet released. -/
structure OneFault (s : State) (c : Nat) (r : FaultRec) : Prop where
  ctx   : c < s.ctxs.length
  only  : (ctxAt s c).faults = [r]
  fresh : r.released = false ∧ r.status = 0
  none_ : (ctxAt s c).waitFaults = []

/-- The record once it has been released, or killed. -/
def released (s : State) (kill : Bool) (r : FaultRec) : FaultRec := { r with released := true, kill := kill, at_ := s.now }

end Sys2Proof.Claim

/-- R306: 96 dc after its fault the oldest unwritten record is written at TAIL, TAIL moves on and the context's vector is sent; a read of the host is answered with a Completer Abort. R295: a write of FQ_BASE starts the ring anew. -/
def Sys2Proof.Claim.FaultRecordsWritten : Prop :=
  ∀ (s : State) (c : Nat), c < s.ctxs.length →
    let x := ctxAt s c
    (∀ s1 r n, (unwritten x).head? = some r → x.faults.head? = some r → fqRoom x = some n → r.at_ + 96 ≤ s.now → ringAt x.fqBase (some c) ≠ .none →
      x.waitFaults = [] →
      ringWrite s c (ringAt x.fqBase (some c)) (64 * (x.fqTail.toNat % n)) (faultBytes r) = .done s1 () → (ctxAt s1 c) = x →
      bits x.fqCtl.toNat 26 16 < bits x.msix.toNat 27 16 →
      ∃ t, exec (.faultRecordWrite c) s = .next t ∧ (ctxAt t c).fqTail = BitVec.ofNat 12 ((x.fqTail.toNat + 1) % n) ∧ t.mem = s1.mem ∧
        (∀ i ∈ r.issuers, hostIssuer i = false →
          (ctxAt t c).faults.head? = some { r with written := true, issuers := r.issuers.filter fun i => !hostIssuer i }) ∧
        (∀ off va, r.issuers = [.host off va false] → t.hub.hostOut = s1.hub.hostOut ++ [(4, 0)]) ∧
        t.hub.vectors = s1.hub.vectors ++ [(bits x.msix.toNat 10 0 + bits x.fqCtl.toNat 26 16) % 2048]) ∧
    (∀ v : Word, ∃ t, exec (.fqBaseWrite c v) s = .next t ∧ (ctxAt t c).fqBase = v &&& ~~~0xFFF#64 ∧ (ctxAt t c).fqHead = 0 ∧
      (ctxAt t c).fqTail = 0 ∧ (ctxAt t c).fqCtl = x.fqCtl ∧ (x.faults = [] → (ctxAt t c).seq = 1) ∧ t.mem = s.mem)

/-- R307: a write of FQ_REPLAY releases the record with its SEQ, or every record; 40 dc later its issuers try again, a parked set from its translation. KILL ends the issuers instead: a copy command with status 0x06, its context halted. -/
def Sys2Proof.Claim.FaultsReleasedOrKilled : Prop :=
  ∀ (s : State) (c : Nat) (r : FaultRec),
    (Claim.OneFault s c r →
      (∃ t, exec (.fqReplaySeq c r.seq) s = .next t ∧ (ctxAt t c).faults = [Claim.released s false r] ∧ t.sets = s.sets ∧ t.mem = s.mem) ∧
      (∃ t, exec (.fqReplayAll c) s = .next t ∧ (ctxAt t c).faults = [Claim.released s false r] ∧ t.sets = s.sets ∧ t.mem = s.mem) ∧
      (∀ gi e va, r.seq < 2 ^ 32 → r.issuers = [.engine gi false e.num va] → gi < s.groups.length → (groupAt s gi).copy.cmds = [e] → e.began = true →
        ∃ t d, exec (.fqReplayKill c r.seq) s = .next t ∧ (groupAt t gi).copy.halted = true ∧ (groupAt t gi).copy.cmds = [d] ∧ d.stat = 6 ∧
          d.fin = true ∧ t.mem = s.mem)) ∧
    (∀ (id : Nat) (a : ASet) (i : Nat), (ctxAt s c).faults = [r] → r.released = true → r.kill = false → r.at_ + 40 ≤ s.now → c < s.ctxs.length → (ctxAt s c).waitFaults = [] →
      r.issuers = [.set id] → s.sets[i]? = some a → a.id = id → (∀ b ∈ s.sets, b.id = id → b = a) → isParked a = true → a.role = .access →
      a.kind = .load → framedSet s id = none →
      ∃ t, exec (.faultRetry c r.seq) s = .next t ∧
        t.sets[i]? = some { a with phase := .xlate, issued := s.now, spans := [] } ∧ t.mem = s.mem)

/-- Fault records are written, released, retried, killed: FaultRecordsWritten and FaultsReleasedOrKilled together. -/
def Obligations.FaultQueueSteps : Prop := Claim.FaultRecordsWritten ∧ Claim.FaultsReleasedOrKilled

/-- R303: GO in TLBI_CTL drops every TLB entry of the context in the range and clears DONE; without GO, or while DONE is 0, a write only sets the fields. DONE comes back once the entries' dc have passed and the accesses that used them have committed. -/
def Sys2Proof.Claim.TlbInvalidation : Prop :=
  ∀ (s : State) (c : Nat) (v : Word), c < s.ctxs.length →
    ((ctxAt s c).tlbiCtl.getLsbD 18 = true → v.getLsbD 17 = true →
      ∃ t, exec (.tlbiGo c v) s = .next t ∧ (ctxAt t c).tlbiCtl.getLsbD 18 = false ∧ (ctxAt t c).tlbiCtl.getLsbD 17 = true ∧
        ∀ e : TlbEntry, e.ctx = c → inTlbi ((ctxAt s c).tlbiVa, v) e.vpn = true →
          (∀ k, (k, e) ∉ t.l1tlb) ∧ (∀ k, (k, e) ∉ t.dieTlb) ∧ e ∉ t.hubTlb) ∧
    (((ctxAt s c).tlbiCtl.getLsbD 18 = false ∨ v.getLsbD 17 = false) →
      exec (.tlbiGo c v) s = .next (s.modCtx c fun x => { x with tlbiCtl := x.tlbiCtl &&& 0x60000 ||| v &&& 0x1FFFF })) ∧
    (let r := (ctxAt s c).tlbiRange.2
     (ctxAt s c).tlbiCtl.getLsbD 18 = false →
      (ctxAt s c).tlbiGo + (if r.getLsbD 16 then 600 else 120 + ceilDiv (r.toNat % 65536) 16) ≤ s.now →
      s.sets = [] → s.net = [] → (∀ g ∈ s.groups, g.fabric.cmds = []) →
      ∃ t, exec (.tlbiDone c) s = .next t ∧ (ctxAt t c).tlbiCtl = (ctxAt s c).tlbiCtl &&& 0x1FFFF ||| 0x40000 ∧ t.mem = s.mem)

/-- R296, R354, R360: a host access through an aperture window is one of the context at the window's device VA: a read answers the bytes, a write is performed; outside the window it faults WINDOW_RANGE. An atomic of the host is an Unsupported Request, and
a snoop says whether the device held the line, and modified (the coding is the model's own), and takes it from the device. -/
def Sys2Proof.Claim.HostAccesses : Prop :=
  ∀ (s : State) (c w o n : Nat) (v : Word), c < 64 → w < 4 → o < 2 ^ 30 →
    let off := c * 2 ^ 32 + w * 2 ^ 30 + o
    let r := ((ctxAt s c).wins.getD w 0).toNat
    let va := bits r 47 16 * 65536 + o
    (∀ s1 b, bit r 0 = true → o < 2 ^ bits r 12 8 → readAsParty s .host c .read (.host off va false) va n = .done s1 b →
      exec (.hostApertureAccess off n false v) s =
        .next (s1.modHub fun h => { h with hostOut := h.hostOut ++ [(0, w64 (leNat b))] })) ∧
    (∀ s1, bit r 0 = true → o < 2 ^ bits r 12 8 → writeAsParty s .host c (.host off va true) va (leBytes n v.toNat) = .done s1 () →
      exec (.hostApertureAccess off n true v) s = .next s1) ∧
    ((bit r 0 = false ∨ 2 ^ bits r 12 8 ≤ o) → ∀ wr, exec (.hostApertureAccess off n wr v) s =
      .next (issuerFault s (.host off va wr) Tc.windowRange 0 0 wr)) ∧
    exec (.hostAtomicInbound off) s = .next (s.modHub fun h => { h with hostOut := h.hostOut ++ [(1, 0)] }) ∧
    (∀ a, let line := (0xFFF * 2 ^ 52 + a % 2 ^ 52) / 64
      ∃ t, exec (.hostSnoop a) s = .next t ∧ t.hub.hostOut = s.hub.hostOut ++
        [(2, w64 ((s.hub.hostLines.contains line).toNat + 2 * (s.hub.hostDirty.contains line).toNat))] ∧
      line ∉ t.hub.hostLines ∧ line ∉ t.hub.hostDirty ∧ t.mem = s.mem)

/-- TLB invalidation and the host's accesses: TlbInvalidation and HostAccesses together. -/
def Obligations.TlbsAndHost : Prop := Claim.TlbInvalidation ∧ Claim.HostAccesses

/-! ## Step mailboxes (R315 to R322, R326 to R334) -/

namespace Sys2Proof.Claim

open Sys2Proof Sys2Proof.Machine

/-- No status words wait to be written. -/
abbrev Written (s : State) : Prop := ∀ c ∈ s.ctxs, ∀ e ∈ c.eps, e.dirty = false

/-- The one lane of a message set, taken with its status. -/
def Answered (t : State) (i : Nat) (x : Acc) (status : Nat) : Prop := ∃ b, setAt t i = some b ∧ b.accs = [{ x with n := 4, got := status }]

/-- The state once a write of EP_CMD has started its command. -/
def commanded (s : State) (c e op : Nat) : State := s.modCtx c fun x => { x with epCmd := w64 (e % 2 ^ 14 + 2 ^ 16 * op), epRes := 0 }

/-- A command of the driver may start: none is under way, no message and no expiry comes before it. -/
structure MayCommand (s : State) (c e : Nat) : Prop where
  ctx   : c < s.ctxs.length
  calm  : Written s
  ready : (ctxAt s c).epRes.getLsbD 0 = true
  first : arrived s c s.now = [] ∧ someExpired s c = false
  index : e < mbxNum s c ∧ e < 2 ^ 14

/-- The command has ended with a result. -/
abbrev Ended (t : State) (c result : Nat) : Prop := (ctxAt t c).epRes = w64 (1 + 16 * result)

end Sys2Proof.Claim

/-- R329 to R331: MBSEND issues one message set with the index in VA and the action of each acting lane, the word in VB or, in the sram form, ALEN bytes of team SRAM from there, its CID and NOTE, and raises IFC1; MBGEN with a uniform source and no guard issues one with the generation. Without MBX_CTL.EN they trap MBX_NOT_ENABLED. -/
def Obligations.MailboxWordsIssue : Prop :=
  ∀ (w : LaneW) (s : State) (g : Group),
    (LaneGo 0xA8 w s g → w.opx.getLsbD 0 = false → sendChecks (laneIn 0xA8 w s g) = none → partyFull s (.lane s.cur) = false →
      acting (laneIn 0xA8 w s g) ≠ [] →
      ∃ t a h, exec (.mbsend w) s = .next t ∧ t.sets = s.sets ++ [a] ∧ a.kind = .mbsend (w.imm.setWidth 12) (w.opx.getLsbD 1) 4 ∧
        a.party = .lane s.cur ∧ a.dest = .status w.vd ∧ t.groups[s.cur]? = some h ∧ h.ifc = g.ifc.modify 1 (· + 1) ∧ h.lanes = g.lanes ∧
        h.prog = 0 ∧ t.mem = s.mem ∧ a.accs.map (fun (x : Acc) => x.lane) = acting (laneIn 0xA8 w s g) ∧
        ∀ x ∈ a.accs, (laneAt g x.lane).helper = false →
          x.va = source (laneIn 0xA8 w s g) (laneAt g x.lane) 1 ∧ x.data = source (laneIn 0xA8 w s g) (laneAt g x.lane) 2) ∧
    (LaneGo 0xA8 w s g → w.opx.getLsbD 0 = true → sendChecks (laneIn 0xA8 w s g) = none → partyFull s (.lane s.cur) = false → s.sets = [] →
      acting (laneIn 0xA8 w s g) ≠ [] →
      ∃ t a h, exec (.mbsend w) s = .next t ∧ t.sets = [a] ∧ a.kind = .mbsend (w.imm.setWidth 12) (w.opx.getLsbD 1) (bits w.imm.toNat 20 12) ∧
        a.party = .lane s.cur ∧ a.dest = .status w.vd ∧ t.groups[s.cur]? = some h ∧ h.ifc = g.ifc.modify 1 (· + 1) ∧ h.lanes = g.lanes ∧
        t.mem = s.mem ∧ a.accs.map (fun (x : Acc) => x.lane) = acting (laneIn 0xA8 w s g) ∧
        ∀ x ∈ a.accs, (laneAt g x.lane).helper = false →
          x.va = source (laneIn 0xA8 w s g) (laneAt g x.lane) 1 ∧ x.data =
            leNat (bytesAt (teamOf s g).sram (source (laneIn 0xA8 w s g) (laneAt g x.lane) 2) (bits w.imm.toNat 20 12))) ∧
    (LaneGo 0xA9 w s g → genChecks (laneIn 0xA9 w s g) = none → partyFull s (.lane s.cur) = false → w.i = true →
      acting (laneIn 0xA9 w s g) ≠ [] →
      ∃ t a h, exec (.mbgen w) s = .next t ∧ t.sets = s.sets ++ [a] ∧ a.kind = .mbgen w.imm ∧ a.accs = [] ∧ t.groups[s.cur]? = some h ∧
        h.ifc = g.ifc.modify 1 (· + 1) ∧ h.lanes = g.lanes ∧ t.mem = s.mem) ∧
    (LaneGo 0xA8 w s g → w.opx.getLsbD 0 = false → mbxOn s (ctxIx s g) = false →
      exec (.mbsend w) s = .next (laneTrap s s.cur g s.path1 Tc.mbxNotEnabled))

/-- R321, R328, R330, R332: the unit takes an action for an IDLE episode, which goes to ACTION with the action's bytes, its STEP one up, the context's generation and the CID; in any other state the lane gets the refusal code. A new generation is kept, and an IDLE episode ends under rule
TRUNCATE and is held under HOLD. A query is answered with the episode's word. A write of MBX_CTL applies no rule. -/
def Sys2Proof.Claim.MessagesTaken : Prop :=
  (∀ (s : State) (i gi c : Nat) (a : ASet) (x : Acc) (cid : BitVec 12) (note : Bool) (alen : Nat), Claim.Written s → setAt s i = some a →
    a.kind = .mbsend cid note alen → partyGroup a.party = some gi → a.accs = [x] → takable s a 0 = true → c = setCtx s a → c < s.ctxs.length →
    x.cmp ≠ 1 →
    (∀ y, x.va < mbxNum s c → epAt s c x.va = some y → y.state = .idle →
      ∃ t z, exec (.mailboxSendAccept i) s = .next t ∧ Claim.Answered t i x 0 ∧ epAt t c x.va = some z ∧ z.state = .action ∧
        z.step = y.step + 1 ∧ z.gen = mbxGen s c ∧ z.cid = cid ∧ z.act = leBytes alen x.data ∧ z.alen = alen ∧
        z.note = (if note then some gi else none)) ∧
    (∀ y, x.va < mbxNum s c → epAt s c x.va = some y → y.state ≠ .idle →
      ∃ t, exec (.mailboxSendAccept i) s = .next t ∧ t.ctxs = s.ctxs ∧ t.mem = s.mem ∧ Claim.Answered t i x
        (match y.state with | .unbound => 4 | .held => 2 | .ended => 3 | _ => 1)) ∧
    ((mbxNum s c ≤ x.va ∨ epAt s c x.va = none) →
      ∃ t, exec (.mailboxSendAccept i) s = .next t ∧ t.ctxs = s.ctxs ∧ t.mem = s.mem ∧ Claim.Answered t i x 4)) ∧
  (∀ (s : State) (i : Nat) (a : ASet) (v : W32) (y : Episode), Claim.Written s → setAt s i = some a → a.kind = .mbgen v →
    let c := setCtx s a
    c < s.ctxs.length → v ≠ mbxGen s c → takable s a (ceilDiv (mbxNum s c) 64) = true → (ctxAt s c).eps = [y] → y.state = .idle → y.stage = none →
    ∃ t z, exec (.mbgenApply i) s = .next t ∧ mbxGen t c = v ∧ epAt t c y.ix = some z ∧ (y.rule = 0 → z = y) ∧
      (y.rule = 1 → z.state = .ended) ∧ (y.rule = 2 → z.state = .held) ∧ ∃ b, setAt t i = some b ∧ ∀ p ∈ b.spans.head?, p.done = true) ∧
  (∀ (s : State) (gi : Nat) (q : Word) (r : List Word), gi < s.groups.length → (groupAt s gi).q3asked = q :: r → (groupAt s gi).q3owed = [] →
    (groupAt s gi).q3.length < 64 → (groupAt s gi).q3loss = false →
    let c := ctxIx s (groupAt s gi)
    let e := q.toNat % 2 ^ 14
    ∃ t, exec (.mbxQueryAnswer gi) s = .next t ∧ (groupAt t gi).q3asked = r ∧ t.mem = s.mem ∧
      (∀ y, e < mbxNum s c → epAt s c e = some y → (groupAt t gi).q3 = (groupAt s gi).q3 ++
        [w64 (2 ^ 32 * y.step.toNat + 2 ^ 30 + 2 ^ 27 * epCode y.state + 2 ^ 19 * y.lastst.toNat + e)]) ∧
      (mbxNum s c ≤ e → (groupAt t gi).q3 = (groupAt s gi).q3 ++ [w64 (2 ^ 30 + e)])) ∧
  (∀ (s : State) (c : Nat) (v : Word), c < s.ctxs.length → v.toNat % 2 ^ 15 ≤ 16384 →
    numSum s c (v.toNat % 2 ^ 15) (v.getLsbD 15) ≤ 16384 →
    ∃ t, exec (.mbxGenWrite c v) s = .next t ∧ mbxNum t c = v.toNat % 2 ^ 15 ∧ mbxOn t c = v.getLsbD 15 ∧ mbxGen t c = (v >>> 32).setWidth 32 ∧
      (ctxAt t c).eps = (ctxAt s c).eps ∧ t.mem = s.mem)

/-- R315, R317 to R319, R333: BIND of an UNBOUND episode whose record passes its checks makes it START with the record's ENTRY, BUDGET and RULE, STEP 0 and the context's generation; a record that fails them gives result 3. REBIND of a HELD episode makes it IDLE under the present generation,
UNBIND makes it UNBOUND; a command that its state does not allow gives result 2. -/
def Sys2Proof.Claim.EpisodeCommands : Prop :=
  ∀ (s s1 : State) (c e : Nat) (b : List Byte), Claim.MayCommand s c e →
    (epAt s c e = none → readAsParty (Claim.commanded s c e 0) .cp c .read (.epCmd c e (recordVa s c e)) (recordVa s c e) 512 = .done s1 b →
      issuerParked (Claim.commanded s c e 0) (fun i => match i with | .epCmd x y v => x == c && y == e && v == recordVa s c e | _ => false) = false →
      (recordOk (recordVa s c e) b = true → ∃ t y, exec (.epBind c e) s = .next t ∧ Claim.Ended t c 0 ∧ epAt t c e = some y ∧ y.state = .start ∧
        y.entry = w64 (field b 0 8) ∧ y.budget = field b 8 4 ∧ y.rule = field b 12 1 ∧ y.step = 0 ∧ y.gen = mbxGen s c ∧ y.stage = none) ∧
      (recordOk (recordVa s c e) b = false → ∃ t, exec (.epBind c e) s = .next t ∧ Claim.Ended t c 3 ∧ epAt t c e = none)) ∧
    (∀ x, epAt s c e = some x → x.state = .held →
      ∃ t y, exec (.epRebind c e) s = .next t ∧ Claim.Ended t c 0 ∧ epAt t c e = some y ∧ y.state = .idle ∧ y.gen = mbxGen s c ∧ y.step = x.step) ∧
    (∀ x, epAt s c e = some x → x.state = .idle → x.stage = none →
      (∃ t, exec (.epUnbind c e) s = .next t ∧ Claim.Ended t c 0 ∧ epState t c e = .unbound) ∧
      (∃ t, exec (.epBind c e) s = .next t ∧ Claim.Ended t c 2 ∧ epAt t c e = some x))

/-- R320, R322, R326, R327: a post's header is written, and 60 dc after it entered its bytes are counted and its notice is given; then it is gone. A watchdog that has reached its budget ends its episode, and an observation owed is posted with status 2. -/
def Sys2Proof.Claim.PostsAndRunaways : Prop :=
  ∀ (s : State), Claim.Written s →
    (∀ s1 p, s.posts = [p] → p.written = false → postParked s p.num = false → storeParked s p.ctx p.ep = false →
      writeAsParty s .cp p.ctx (.post p.num p.va) p.va (p.hdr.flatMap fun w => leBytes 8 w.toNat) = .done s1 () →
      ∃ t, exec (.observationPost p.num) s = .next t ∧ t.posts = [{ p with written := true, time := s1.cpLt }] ∧ t.mem = s1.mem) ∧
    (∀ s1 p, s.posts = [p] → p.written = true → p.at_ + 60 ≤ s.now → addCount s p.ctx p.cid.toNat p.bytes p.time = some s1 → p.note = none →
      exec (.observationCount p.num) s = .next { s1 with posts := [] }) ∧
    (∀ c e x, epAt s c e = some x → x.state = .stepping → x.dogOn = true → x.budget ≤ x.dog → x.stage = none →
      ∃ t y p, exec (.episodeRunaway c e) s = .next t ∧ epAt t c e = some y ∧ y.state = .ended ∧ y.lastst = 2 ∧ t.posts = s.posts ++ [p] ∧
        p.ctx = c ∧ p.ep = e ∧ p.hdr.head? = some (w64 (x.step.toNat + 2 ^ 32 * x.gen.toNat)) ∧ p.hdr[1]? = some 2)

/-- Messages, commands and posts at the mailbox unit: MessagesTaken, EpisodeCommands and PostsAndRunaways together. -/
def Obligations.MailboxUnit : Prop := Claim.MessagesTaken ∧ Claim.EpisodeCommands ∧ Claim.PostsAndRunaways

/-! ## Marionette stages (R312 to R316, R323 to R327, R403) -/

namespace Sys2Proof.Claim

open Sys2Proof Sys2Proof.Machine

/-- Stage `st` is the next of its core to issue and has fetched the 32-bit word `w`, which leaves `s1`; its episode there is `x`. -/
structure Fetched (s s1 : State) (st w : Nat) (x : Episode) : Prop where
  calm  : Written s
  next  : (coreOrder s (st / 4)).head? = some (st % 4)
  word  : stageFetch (startDog { s with coreRr := tset 3 s.coreRr (st / 4) (st % 4) } st) st = .ok s1 (w, 4)
  ep    : epAt s1 (stageOr s1 st).ctx (stageOr s1 st).ep = some x
  run   : (stageOr s1 st).state = .running
  stage : x.stage = some st ∧ x.dirty = false
  ctx   : (stageOr s1 st).ctx < s1.ctxs.length

/-- A CSR word: CSRRW (f3 1) or CSRRS (f3 2) of register `num`. -/
def csrCode (num rs1 f3 rd : Nat) : Nat := num * 2 ^ 20 + rs1 * 2 ^ 15 + f3 * 2 ^ 12 + rd * 2 ^ 7 + 0x73

/-- The instruction has put `v` in register `rd` and gone to the next word. -/
def StageWrote (s1 t : State) (st rd : Nat) (v : Word) : Prop :=
  (stageOr t st).pc = (stageOr s1 st).pc + 4 ∧ (rd ≠ 0 → xr (stageOr t st) rd = v) ∧
    (∀ r, r ≠ rd → xr (stageOr t st) r = xr (stageOr s1 st) r) ∧ (stageOr t st).f = (stageOr s1 st).f

end Sys2Proof.Claim

/-- R323, R324: an episode that needs a stage takes the lowest EMPTY one and begins at ENTRY with x2 at the end of window 0, x10 its index and x11 its record, or loads its saved registers. A stage that has been SAVING for 300 dc writes its registers and is EMPTY; one RESTORING for 300 dc runs with
the registers of the record; one RESETTING for 50 dc is EMPTY. -/
def Obligations.StagesComeAndGo : Prop :=
  ∀ (s : State) (st : Nat), Claim.Written s →
    (∀ c e x, needStage s = [(c, e)] → epAt s c e = some x → emptyStage s = some st → c < s.ctxs.length → x.saved = false →
      ∃ t y, exec .stageAssign s = .next t ∧ stageOr t st = y ∧ y.state = .running ∧ y.ctx = c ∧ y.ep = e ∧ y.pc = x.entry ∧
        xr y 10 = w64 e ∧ xr y 11 = w64 (recordVa s c e) ∧ xr y 2 = w64 ((x.wins.getD 0 (0, 0, 0)).1 + (x.wins.getD 0 (0, 0, 0)).2.1) ∧
        (∀ k, k < 32 → k ≠ 2 → k ≠ 10 → k ≠ 11 → xr y k = 0) ∧ (epAt t c e).map (·.stage) = some (some st)) ∧
    (∀ s1 s2, let y := stageOr s st
      let va := recordVa s y.ctx y.ep
      y.state = .saving → y.since + 300 ≤ s.now → storeParked s y.ctx y.ep = false → epState s y.ctx y.ep ≠ .unbound →
      writeAsParty s .cp y.ctx (.epCmd y.ctx y.ep (va + 0x60)) (va + 0x60) (leBytes 4 y.fcsr.toNat) = .done s1 () →
      writeAsParty s1 .cp y.ctx (.epCmd y.ctx y.ep (va + 0x200)) (va + 0x200) (savedBytes y) = .done s2 () →
      ∃ t, exec (.stageSaveDone st) s = .next t ∧ (stageOr t st).state = .empty ∧
        (epAt t y.ctx y.ep).map (fun (x : Episode) => (x.stage, x.saved)) = some (none, true)) ∧
    (∀ s1 b, let y := stageOr s st
      let va := recordVa s y.ctx y.ep + 0x60
      y.state = .restoring → y.since + 300 ≤ s.now → storeParked s y.ctx y.ep = false →
      readAsParty s .cp y.ctx .read (.epCmd y.ctx y.ep va) va 0x3A0 = .done s1 b →
      ∃ t, exec (.stageRestoreDone st) s = .next t ∧ (stageOr t st).state = .running ∧ (stageOr t st).pc = w64 (field b 0x298 8) ∧
        (∀ k, k < 31 → xr (stageOr t st) (k + 1) = w64 (field b (0x1A0 + 8 * k) 8)) ∧
        (∀ k, k < 32 → fr (stageOr t st) k = w64 (field b (0x2A0 + 8 * k) 8))) ∧
    ((stageOr s st).state = .resetting → (stageOr s st).since + 50 ≤ s.now →
      ∃ t, exec (.stageResetDone st) s = .next t ∧ (stageOr t st).state = .empty ∧ t.mem = s.mem)

/-- R312, R314, R325: a stage's instruction changes its registers and goes to the next word (shown of ADDI); an exception ends its episode with MCAUSE and MEPC. mbx_step and mbx_gen read the episode's STEP and GEN; a write of mbx_stat keeps USTAT, DONE and REWARD and gives the old value; a write of mbx_obs
in STEPPING posts the observation and makes the episode IDLE; a read of mbx_act gives ALEN, in ACTION making the episode STEPPING. -/
def Obligations.StageInstructions : Prop :=
  (∀ (s s1 : State) (st rd rs imm : Nat) (x : Episode), rd < 32 → rs < 32 → imm < 2 ^ 11 →
    Claim.Fetched s s1 st (imm * 2 ^ 20 + rs * 2 ^ 15 + rd * 2 ^ 7 + 0x13) x →
    ∃ t, exec (.stageInstructionIssue (st / 4)) s = .next t ∧
      Claim.StageWrote s1 t st rd (xr (stageOr s1 st) rs + w64 imm) ∧ t.mem = s1.mem) ∧
  ∀ (s s1 : State) (st w rd : Nat) (x : Episode), Claim.Fetched s s1 st w x → rd < 32 →
    let y := stageOr s1 st
    (w = Claim.csrCode 0x801 0 2 rd → ∃ t, exec (.mbxStepRead st rd) s = .next t ∧ Claim.StageWrote s1 t st rd (x.step.setWidth 64)) ∧
    (w = Claim.csrCode 0x802 0 2 rd → ∃ t, exec (.mbxGenRead st rd) s = .next t ∧ Claim.StageWrote s1 t st rd (x.gen.setWidth 64)) ∧
    (∀ rs, rs < 32 → w = Claim.csrCode 0x804 rs 1 rd →
      ∃ t z, exec (.mbxStatAccess st rd 1 (xr y rs)) s = .next t ∧ Claim.StageWrote s1 t st rd x.stat ∧ epAt t y.ctx y.ep = some z ∧
        z.stat = xr y rs &&& 0xFFFFFFFF000001FF#64) ∧
    (∀ rs, rs < 32 → w = Claim.csrCode 0x803 rs 1 0 → arrived s1 y.ctx (s1.now - 1) = [] → x.state = .stepping → x.mark = .none →
      ∃ t z p, exec (.mbxObsWrite st (xr y rs)) s = .next t ∧ (stageOr t st).pc = y.pc + 4 ∧ epAt t y.ctx y.ep = some z ∧ z.state = .idle ∧
        z.lastst = 0 ∧ z.stat = 0 ∧ t.posts = s1.posts ++ [p] ∧ p.ep = y.ep ∧ p.hdr.take 1 = [w64 (x.step.toNat + 2 ^ 32 * x.gen.toNat)] ∧
        p.hdr[2]? = some (xr y rs)) ∧
    (w = Claim.csrCode 0x800 0 2 rd →
      (x.state = .stepping →
        ∃ t, exec (.mbxActRead st rd) s = .next t ∧ Claim.StageWrote s1 t st rd (w64 x.alen)) ∧
      (x.state = .action →
        ∃ t z, exec (.mbxActRead st rd) s = .next t ∧ Claim.StageWrote s1 t st rd (w64 x.alen) ∧ epAt t y.ctx y.ep = some z ∧
          z.state = .stepping)) ∧
    (∀ mc, stageExec s1 st w 4 = .exc mc → (stageOr s st).pc = y.pc →
      ∃ t z, exec (.episodeFault st mc y.pc) s = .next t ∧ epAt t y.ctx y.ep = some z ∧ z.state = .ended ∧ z.mcause = w64 mc ∧
        z.mepc = y.pc ∧ z.stage = none)

/-! ## The boundaries: queues, links, power, limits, SPDM, registers (13, 14: R193, R197, R295 to R298, R317, R351 to R372) -/

namespace Sys2Proof.Claim

open Sys2Proof Sys2Proof.Machine

/-- A register value with its low 12 bits 0. -/
def page4k (v : Word) : Word := v &&& ~~~0xFFF#64

/-- The module as bring-up leaves it: no launch, no group, every context at its reset values, device memory 0, host and pool memory and the bad-frame list as they were. -/
structure BroughtUp (s t : State) : Prop where
  power  : t.hub.power = .d0
  ctxs   : t.ctxs = List.replicate 64 Ctx.reset
  empty  : t.groups = [] ∧ t.teams = [] ∧ t.launches = [] ∧ t.sets = [] ∧ t.stages = [] ∧ t.am.dir = []
  cycle  : t.cycle = 0
  device : ∀ a, a < 0xFFE * 2 ^ 52 → byteAt t.mem a = 0
  other  : ∀ a, 0xFFE * 2 ^ 52 ≤ a → byteAt t.mem a = byteAt s.mem a
  frames : t.hub.badFrames = s.hub.badFrames
  hub    : t.hub.pmLimit = 2100 ∧ t.hub.pmGate = 0x100 ∧ t.hub.btCtl = 0x20000 ∧ t.hub.spaces = List.replicate 64 0

end Sys2Proof.Claim

/-- R193, R197, R351, R358: a failure's record carries its kind, page and CYCLE; kind 3 poisons the block of four lines, of which a line that L2 holds wholly overwritten keeps its own bytes, and kind 5 retires the way. A write of a ring's base drops its low 12 bits and ends a hold. -/
def Sys2Proof.Claim.FaultAddressesQueued : Prop :=
  ∀ (s : State) (kind a gpn : Nat), s.hub.faqHold = true → s.hub.faq.length < 256 → a < 2 ^ 64 →
    (1 ≤ kind → kind ≤ 5 → ∃ t r, exec (.faqRecord kind a gpn) s = .next t ∧ t.hub.faq = s.hub.faq ++ [r] ∧
      (r.getD 0 0).toNat % 2 ^ 16 = kind ∧ r.getD 2 0 = w64 gpn ∧ r.getD 3 0 = w64 s.cycle ∧
      (kind ≤ 2 → t.am = s.am ∧ t.mem = s.mem) ∧
      (kind = 3 → ∀ k, k < 4 → s.am.whole.contains (512 * gpn + bits a 64 56 / 4 * 4 + k) = false →
        poisonAt t (512 * gpn + bits a 64 56 / 4 * 4 + k) = some Tc.amMetaUe) ∧
      (kind = 5 → (tagAt t (bits a 47 16) (bits a 55 48)).map (·.state) = some .retired)) ∧
    (∀ v : Word, exec (.ringBaseWrite 0x50000 v) s =
      .next (s.modHub fun h => { h with amqBase := Claim.page4k v, amqHold := false })) ∧
    (∀ (c : Nat) (v : Word), c < 64 → c < s.ctxs.length → ∃ t, exec (.ringBaseWrite (0x40018 + 0x200 * c) v) s = .next t ∧
      (ctxAt t c).fqBase = Claim.page4k v ∧ (ctxAt t c).fqHold = false ∧ (ctxAt t c).fqTail = 0)

/-- R352, R353, R355: GO in BT_CTL starts a test of a parked empty bank, GO reading 1 until DONE (log entry 86), and refuses another bank with DONE and ERR; GO is ignored while DONE is 0, and a write without GO changes only STACK and BANK; after 5,242,880 dc the test is done with its result. The bad-frame list takes an entry while it has fewer than 4096. A pseudo-channel idle for 2^16 dc enters self-refresh. -/
def Sys2Proof.Claim.BanksTested : Prop :=
  ∀ (s : State) (v : Word),
    let b := (v.toNat % 8, bits v.toNat 13 8)
    (s.hub.btCtl.getLsbD 17 = true → v.getLsbD 16 = true → b ∈ s.am.parked → bankHolds s b = false →
      ∃ t, exec (.bankTestGo v) s = .next t ∧ t.hub.btCtl = v &&& 0x3F07 ||| 0x10000 ∧ t.hub.btAt = s.now ∧ t.am = s.am) ∧
    (s.hub.btCtl.getLsbD 17 = true → v.getLsbD 16 = true → (b ∉ s.am.parked ∨ bankHolds s b = true) →
      ∃ t, exec (.bankTestGo v) s = .next t ∧ t.hub.btCtl = v &&& 0x3F07 ||| 0x60000 ∧ t.am = s.am) ∧
    ((s.hub.btCtl.getLsbD 17 = false ∨ v.getLsbD 16 = false) →
      exec (.bankTestGo v) s = .next (s.modHub fun h => { h with btCtl := v &&& 0x3F07 ||| h.btCtl &&& 0x70000 })) ∧
    (s.hub.btCtl.getLsbD 17 = false → s.hub.btAt + 5242880 ≤ s.now →
      exec (.bankTestDone v) s =
        .next (s.modHub fun h => { h with btCtl := h.btCtl &&& 0x4FFFF ||| 0x20000, btRes := v &&& 0x7FFFFFFFFFFFFF })) ∧
    (s.hub.badFrames.length < 4096 →
      exec (.tmcBadframeAppend v) s = .next (s.modHub fun h => { h with badFrames := h.badFrames ++ [v &&& 0x3FFFFFF] })) ∧
    (∀ k p, k < 8 → p < 32 → 32 * k + p ∉ s.hub.selfRef → tget 0 s.hub.chanUse (32 * k + p) + 2 ^ 16 ≤ s.cycle →
      exec (.selfRefreshEntry k p) s = .next (s.modHub fun h => { h with selfRef := (32 * k + p) :: h.selfRef }))

/-- R361 to R365: a station's bit follows its state, and no station of a package with an AID clash comes up. A POD_LOST bit that is newly set loses its package: pages it holds alone are LOST, and fabric commands that name it end with status 0x04. The pool follows its port. -/
def Sys2Proof.Claim.LinksAndLostPackages : Prop :=
  ∀ (s : State) (k : Nat),
    (k < 16 → ∃ t, exec (.stationStateChange k false) s = .next t ∧ t.hub.stnUp = s.hub.stnUp &&& ~~~(1#16 <<< k) ∧ t.mem = s.mem) ∧
    (k < 16 → s.am.lost = [] → s.hub.aidClash = false →
      ∃ t, exec (.stationStateChange k true) s = .next t ∧ t.hub.stnUp = s.hub.stnUp ||| (1#16 <<< k) ∧ t.mem = s.mem) ∧
    (k < 16 → s.hub.aidClash = true → exec (.stationStateChange k true) s = .next s) ∧
    (∀ j, k < 16 → j < 64 → s.hub.podLost.length = 16 → (s.hub.podLost.getD k 0).getLsbD j = false → 64 * k + j ≠ aid s →
      ∃ t, exec (.podLost k (1#64 <<< j)) s = .next t ∧ (t.hub.podLost.getD k 0).getLsbD j = true ∧ 64 * k + j ∈ t.am.lost ∧
        t.hub.stnUp = s.hub.stnUp ∧
        ∀ gi e, gi < s.groups.length → (groupAt s gi).fabric.cmds = [e] → cmdOpc e = 0x14 → cmdWord e 1 % 1024 = 64 * k + j → e.fin = false →
          ∃ f, (groupAt t gi).fabric.cmds = [f] ∧ f.stat = 4 ∧ f.fin = true) ∧
    (∀ up, exec (.poolPortStateChange up) s = .next (s.modHub fun h => { h with poolUp := up }))

/-- Fault addresses, bank tests, links and lost packages: FaultAddressesQueued, BanksTested and LinksAndLostPackages together. -/
def Obligations.MemoryFaultsAndLinks : Prop := Claim.FaultAddressesQueued ∧ Claim.BanksTested ∧ Claim.LinksAndLostPackages

/-- R367, R368: power-on, a module reset and the exit from D3cold bring the module up from its reset values. D3hot is entered with every context off and no team resident, and left again; D3cold ends main power. A die without teams for 2^20 dc is gated where PM_GATE allows it, and is back 28,000 dc
after a team began to wait for it. -/
def Sys2Proof.Claim.PowerStates : Prop :=
  ∀ (s : State) (coh : Bool) (pod : BitVec 21) (f0 f1 : BitVec 36),
    (s.hub.power = .off → ∃ t, exec (.powerOn coh pod f0 f1) s = .next t ∧ Claim.BroughtUp s t ∧ t.hub.podId = pod.setWidth 64 ∧
      t.hub.harvest0 = f0 ∧ t.hub.harvest1 = f1 ∧ t.hub.hostCtl.getLsbD 0 = coh) ∧
    (s.hub.power = .d0 → ∃ t, exec (.moduleReset coh) s = .next t ∧ Claim.BroughtUp s t ∧ t.hub.podId = (s.hub.podId.setWidth 21).setWidth 64 ∧
      t.hub.harvest0 = s.hub.harvest0 ∧ t.hub.hostCtl.getLsbD 0 = coh) ∧
    (s.hub.power = .d3cold → ∃ t, exec (.d3coldExit coh pod) s = .next t ∧ Claim.BroughtUp s t ∧ t.hub.podId = pod.setWidth 64) ∧
    (s.hub.power = .d0 → quietModule s = true →
      exec .d3hotEntry s = .next (s.modHub fun h => { h with power := .d3hot, selfRef := List.range 256 })) ∧
    (s.hub.power = .d3hot → exec .d3hotExit s = .next (s.modHub fun h => { h with power := .d0, selfRef := [] })) ∧
    (s.hub.power ≠ .off → exec .d3coldEntry s = .next (s.modHub fun h => { h with power := .d3cold })) ∧
    (∀ d, d < 2 → s.hub.gateAt.length = 2 → s.hub.busyAt.length = 2 →
      (dieGated s d = false → s.hub.pmGate.getLsbD 8 = true → dieBusy s d = false → dieWanted s d = false → s.hub.busyAt.getD d 0 + 2 ^ 20 ≤ s.cycle →
        ∃ t, exec (.dieGate d) s = .next t ∧ dieGated t d = true ∧ (∀ l ∈ t.l1, l.core / 36 ≠ d) ∧ Claim.SameMemory s t) ∧
      (s.hub.gateAt.getD d none = none → dieGated s d = true → dieWanted s d = true →
        ∃ t, exec (.dieUngate d) s = .next t ∧ t.hub.gateAt.getD d none = some s.now ∧ dieGated t d = true) ∧
      (∀ u, s.hub.gateAt.getD d none = some u → u + 28000 ≤ s.now →
        ∃ t, exec (.dieUngate d) s = .next t ∧ dieGated t d = false ∧ t.hub.gateAt.getD d none = none)) ∧
    (∀ v : Word, v.getLsbD 8 = true → ∃ t, exec (.pmGateWrite v) s = .next t ∧ t.hub.pmGate.getLsbD 8 = true ∧
      ∀ d, d < 2 → t.hub.pmGate.getLsbD d = s.hub.pmGate.getLsbD d)

/-- R369, R370: in a dc that is a multiple of 2^14 a module above a limit is throttled one step more, up to 63, and one 5 % and 3 °C below every limit one step less; PWR, TJ and HBM say which limit was passed. At 110 °C the module is off. -/
def Sys2Proof.Claim.ThermalLimits : Prop :=
  ∀ (s : State) (w tj th : Nat), s.cycle % 2 ^ 14 = 0 → s.hub.pmAt < s.cycle → w < 2 ^ 12 → tj < 256 → th < 256 →
    let limit := s.hub.pmLimit.toNat % 2 ^ 12
    let duty := s.hub.pmThrot.toNat % 64
    ((limit < w ∨ 95 < tj ∨ 85 < th) → ∃ t, exec (.thermalEval w tj th) s = .next t ∧ t.hub.pmThrot.toNat % 64 = min 63 (duty + 1) ∧
      t.hub.pmThrot.getLsbD 8 = decide (limit < w) ∧ t.hub.pmThrot.getLsbD 9 = decide (95 < tj) ∧
      t.hub.pmThrot.getLsbD 10 = decide (85 < th) ∧ t.hub.pmPower = w64 w ∧ t.hub.pmTemp = w64 (tj + 256 * th) ∧ t.mem = s.mem) ∧
    (100 * w ≤ 95 * limit → tj ≤ 92 → th ≤ 82 → ∃ t, exec (.thermalEval w tj th) s = .next t ∧ t.hub.pmThrot = w64 (duty - 1) ∧
      t.hub.pmPower = w64 w ∧ t.mem = s.mem) ∧
    (110 ≤ tj → ∃ t, exec (.thermalShutdown tj) s = .next t ∧ t.hub.power = .off ∧
      t.hub.vectors = s.hub.vectors ++ [bits s.hub.hostCtl.toNat 14 4])

/-- Power states, die gating, thermal limits: PowerStates and ThermalLimits together. -/
def Obligations.PowerAndLimits : Prop := Claim.PowerStates ∧ Claim.ThermalLimits

/-- R372: each SPDM request is answered once, with its own number; what the answer carries is a free value of the model (log entry 6). Everything but the answers and the draws stands. -/
def Sys2Proof.Claim.SpdmAnswered : Prop :=
  ∀ (s : State) (i : Instr) (n : Nat),
    (i, n) ∈ [(.getVersion, 0), (.getCapabilities, 1), (.negotiateAlgorithms, 2), (.getDigests, 3), (.getCertificate, 4), (.challenge, 5),
      (.getMeasurements, 6)] →
    ∃ x, exec i s = .next (s.modHub fun h => { h with spdm := h.spdm ++ [(n, x)], draws := h.draws + 1 })

/-- R6, R252, R268, R295, R298, R317, R336, R357, R361, R370: a write of 8 aligned bytes in the register BAR sets the fields its register has and no others, shown of a register of each block; a misaligned one completes with Unsupported Request and changes no register. A read of 8 aligned bytes answers the register's fields, and 0 of the write-only EP_CMD and FQ_REPLAY. -/
def Sys2Proof.Claim.RegisterWrites : Prop :=
  ∀ (s : State) (v : Word) (c q : Nat), s.ctxs.length = 64 → c < 64 → q < (ctxAt s c).queues.length → q < 16 →
    (∀ off, off % 8 ≠ 0 → exec (.registerWrite off v) s = .next (s.modHub fun h => { h with hostOut := h.hostOut ++ [(1, 0)] })) ∧
    (∃ t, exec (.registerWrite (0x10008 + 0x400 * c + 0x40 * q) v) s = .next t ∧ (lqAt t c q).ctl = v &&& 0x1031FFF ∧
      (lqAt t c q).base = (lqAt s c q).base ∧ t.mem = s.mem) ∧
    exec (.registerWrite (0x40008 + 0x200 * c) v) s = .next (s.modCtx c fun x => { x with ptroot := v &&& ~~~0x7FF#64 }) ∧
    exec (.registerWrite (0x40080 + 0x200 * c) v) s =
      .next (s.modCtx c fun x => { x with tvec := v &&& ~~~0xFFF#64 ||| v &&& 1, checked := [] }) ∧
    exec (.registerWrite (0x40088 + 0x200 * c) v) s = .next (s.modCtx c fun x => { x with harea := Claim.page4k v }) ∧
    exec (.registerWrite (0x48000 + 8 * (c % 63)) v) s = .next (s.modHub fun h => { h with spaces := h.spaces.set (c % 63) v }) ∧
    exec (.registerWrite 0x50010 v) s = .next (s.modHub fun h => { h with amqTail := v.setWidth 12 }) ∧
    exec (.registerWrite (0x60000 + 0x40 * c) v) s = .next (s.modCtx c fun x => { x with mbxBase := v &&& 0xFFFFFFFFFC00 }) ∧
    (∃ t, exec (.registerWrite 0x80000 v) s = .next t ∧ t.hub.hostCtl.getLsbD 0 = s.hub.hostCtl.getLsbD 0 ∧
      (∀ k, 1 ≤ k → k ≤ 14 → t.hub.hostCtl.getLsbD k = v.getLsbD k) ∧ t.mem = s.mem) ∧
    exec (.registerWrite 0x90000 v) s = .next (s.modHub fun h => { h with pmLimit := w64 (max 300 (min 2100 (v.toNat % 2 ^ 12))) }) ∧
    (∀ off x, (off, x) ∈ [(0x10008 + 0x400 * c + 0x40 * q, (lqAt s c q).ctl), (0x40008 + 0x200 * c, (ctxAt s c).ptroot),
        (0x40038 + 0x200 * c, 0), (0x60010 + 0x40 * c, 0), (0x90000, s.hub.pmLimit)] →
      runAct (.hostRead off 8) s = .next (s.modHub fun h => { h with hostOut := h.hostOut ++ [(0, x)] }))

/-- SPDM answers (payload: the model's free value, log entry 6) and register writes: SpdmAnswered and RegisterWrites together. -/
def Obligations.HubRegistersAndSpdm : Prop := Claim.SpdmAnswered ∧ Claim.RegisterWrites

/-! ## Encodings, steps, reset (R44 to R63, R269, R270, R295, R367) -/

namespace Sys2Proof.Claim

open Sys2Proof Sys2Proof.Machine

/-- The state a fetched scalar word runs in: the answer to its fetch is taken, and the translation of its bytes stands in the TLBs. -/
def scalarState (s : State) (gi : Nat) : State :=
  let g := groupAt s gi
  enterRange (fetchDone (takeFetched { s with cur := gi, path1 := false } gi false false) gi false false) (g.quad / 4) (ctxIx s g)
    g.spc.toNat 4 .fetch

/-- A scalar word has been fetched: the group may issue, its SPC lies in `.scalar`, and the bytes there are here. -/
structure ScalarFetch (s : State) (gi : Nat) (g : Group) (bs : List Byte) : Prop where
  group : s.groups[gi]? = some g
  run   : scalarMayRun g = true
  calm  : requested s g = false
  slot  : slotAllows s g.quad (ctxIx s g) = true
  free  : fetchParked { s with cur := gi, path1 := false } gi false false = false
  here  : scalarInside { s with cur := gi, path1 := false } g g.spc.toNat = true
  waits : fetchWaits (takeFetched { s with cur := gi, path1 := false } gi false false) gi false false g.spc.toNat 8 = none
  clean : rangePoison (scalarState s gi) (g.quad / 4) (ctxIx s g) g.spc.toNat 4 .fetch = none
  bytes : coreRead (scalarState s gi) (g.quad / 4) (ctxIx s g) g.spc.toNat 4 .fetch = .ok bs

/-- The turn after this state's: the dc it lets pass have passed. -/
def turned (s : State) (dc : Nat) (r : List Turn) : State := tick dc { s with sched := r }

/-- What a turn of a stream makes of `o`, the answer of its next word: a word that issues does so where the slot of this dc gives the stream its word,
and leaves the state as it was elsewhere; one that only begins to wait needs no slot. Bytes fetched for a word are used for no other. -/
structure TurnAnswers (s : State) (lane : Bool) (gi : Nat) (p : Bool) (g : Group) (o after : Host.Outcome State Fault Refusal) : Prop where
  issued : ∀ t, dropFetched o = .next t → issues (dropFetched o) s gi = true → slotGives exec s lane g.quad gi p = true →
    after = .next (slotMark s lane g.quad gi p t)
  kept   : ∀ t, dropFetched o = .next t → issues (dropFetched o) s gi = true → slotGives exec s lane g.quad gi p = false → after = .next s
  waits  : issues (dropFetched o) s gi = false → after = dropFetched o
  stops  : (∀ t, o ≠ .next t) → after = o

end Sys2Proof.Claim

/-- R44 to R63, R92, R202 and on: words written out from the manual's encoding tables decode to the instructions they stand for, and words it reserves to their causes. -/
def Obligations.SampleWordsDecode : Prop :=
  decodeScalar 0x08410100#32 = .ok (.saddImm 4 4 0x100) ∧
  decodeScalar 0x40614000#32 = .ok (.sld64 6 5 0) ∧
  decodeScalar 0xC050000A#32 = .ok (.sget 5 0x0A) ∧
  decodeScalar 0x00000000#32 = .error Tc.zeroWord ∧
  decodeTableWord 32 0x54400000 = some (.sldw 4 0 0) ∧
  (∃ w : LaneW, decodeLane 0x32030101_00002808_3F000000#96 = .ok (.fmul w) ∧ w.g = 3 ∧ w.vd = 2 ∧ w.va = 2 ∧ w.i = true ∧ w.imm = 0x3F000000) ∧
  (∃ w : LaneW, decodeLane 0xB0020000_000C0000_00000014#96 = .ok (.vbr w) ∧ w.g = 2 ∧ w.vc = 0x18 ∧ w.imm = 0x14)

/-- R44 to R48, R92: no bit of a scalar encoding is lost: what the encoder writes for a well-formed instruction with a scalar word decodes to it, and each word has one reading: what decodes encodes to the word it came from. -/
def Obligations.ScalarRoundTrip : Prop :=
  (∀ (i : Instr) (w : W32), encodeScalar i = some w → i.wf = true → decodeScalar w = .ok i) ∧
  (∀ (i : Instr) (w : W32), decodeScalar w = .ok i → encodeScalar i = some w)

/-- R49 to R54, R61, R62: no bit of a lane encoding is lost: what the encoder writes for a well-formed instruction with a lane word, pair words among them, decodes to it, and what decodes encodes to the word it came from. -/
def Obligations.LaneRoundTrip : Prop :=
  (∀ (i : Instr) (w : BitVec 96), encodeLane i = some w → i.wf = true → decodeLane w = .ok i) ∧
  (∀ (i : Instr) (w : BitVec 96), decodeLane w = .ok i → encodeLane i = some w)

/-- R30, R44, R270: a turn that gives a group's scalar stream its next word lets its dc pass and, where the carousel's slot of that dc serves the stream, runs the instruction that the bytes at SPC decode to; bytes that decode to none raise their cause at the word. -/
def Sys2Proof.Claim.ScalarStepRuns : Prop :=
  ∀ (s : State) (r : List Turn) (dc gi : Nat) (g : Group) (bs : List Byte), s.sched = { dc := dc, act := .scalar gi } :: r → powered s = true →
    Claim.ScalarFetch (Claim.turned s dc r) gi g bs →
    let s' := Claim.turned s dc r
    (∀ i, decodeScalarBytes bs = .ok i → Claim.TurnAnswers s' false gi false g (exec i (Claim.scalarState s' gi)) (step s)) ∧
    (∀ c, decodeScalarBytes bs = .error c →
      Claim.TurnAnswers s' false gi false g (.next (scalarTrap (Claim.scalarState s' gi) gi g c)) (step s))

/-- R49, R55, R270: a turn that gives a path of a group's lane stream its next word runs, where the carousel's slot of that dc serves the path, the instruction that the twelve bytes at its LPC decode to; a turn that gives an event runs it. -/
def Sys2Proof.Claim.LaneAndEventStepsRun : Prop :=
  ∀ (s : State) (r : List Turn) (dc : Nat), powered s = true →
    (∀ gi p g bs i, s.sched = { dc := dc, act := .lane gi p } :: r → Claim.LaneFetch (Claim.turned s dc r) gi p g bs →
      decodeLaneBytes bs = .ok i →
      Claim.TurnAnswers (Claim.turned s dc r) true gi p g (exec i (Claim.laneState (Claim.turned s dc r) gi p)) (step s)) ∧
    (∀ i, s.sched = { dc := dc, act := .event i } :: r → step s = exec i (Claim.turned s dc r))

/-- A step runs the instruction decoded at its stream: ScalarStepRuns and LaneAndEventStepsRun together. -/
def Obligations.StepsRunDecodedWords : Prop := Claim.ScalarStepRuns ∧ Claim.LaneAndEventStepsRun

/-- R252, R295, R317, R336, R351, R370: what a module reset leaves in the registers whose reset value the manual gives: 0 in every register of a context but DONE, which is 1 in TLBI_CTL, CTX_CKPT and EP_RES; BT_CTL.DONE 1; PM_LIMIT 2100; PM_GATE.EN 1; no launch, no group, no domino region, no page held. -/
def Obligations.ResetLeaves : Prop :=
  (∀ c, c < 64 → (ctxAt State.reset c).ctl = 0 ∧ (ctxAt State.reset c).ptroot = 0 ∧ (ctxAt State.reset c).fqTail = 0 ∧
    (ctxAt State.reset c).tlbiCtl = 0x40000 ∧ (ctxAt State.reset c).ckpt = 4 ∧ (ctxAt State.reset c).epRes = 1 ∧
    (ctxAt State.reset c).tvec = 0 ∧ (ctxAt State.reset c).fatal = 0 ∧ (ctxAt State.reset c).mbxCtl = 0 ∧
    ∀ q, q < 16 → lqAt State.reset c q = LaunchQ.reset) ∧
  State.reset.hub.btCtl = 0x20000 ∧ State.reset.hub.pmLimit = 2100 ∧ State.reset.hub.pmGate = 0x100 ∧ State.reset.cycle = 0 ∧
  State.reset.groups = [] ∧ State.reset.launches = [] ∧ State.reset.dom.slots = [] ∧ State.reset.am.tags = [] ∧
  State.reset.mem.wf = true

/-- The memory keeps its canonical form (addresses rising, no entry equal to what an unlisted address reads as): a step from any state that has it leaves it, whatever the step does. -/
def Obligations.MemoryStaysCanonical : Prop :=
  ∀ s t : State, s.mem.wf = true → step s = .next t → t.mem.wf = true
end

