-- ==== Sys2Proof/Laws/Memory.lean ====
section
/-! SUPPORT. Sparse tables and memory: reads after writes, and the canonical form that every memory operation keeps. -/

namespace Sys2Proof.Machine

open Sys2Proof

variable {β : Type} {d v x : β} {k j a b n : Nat} {t : List (Nat × β)}

/-! ## Sparse tables -/

@[simp] theorem tget_nil : tget d [] k = d := rfl

theorem tget_tput_same : tget d (tput k v t) k = v := by
  induction t with
  | nil => simp [tput, tget]
  | cons c r ih => obtain ⟨a, x⟩ := c; simp only [tput]; split <;> (try split) <;> simp_all [tget]

theorem tget_tput_ne (h : j ≠ k) : tget d (tput k v t) j = tget d t j := by
  induction t with
  | nil => simp [tput, tget, Ne.symm h]
  | cons c r ih =>
    obtain ⟨a, x⟩ := c
    simp only [tput]
    split
    · simp [tget, Ne.symm h]
    · split
      · subst a; simp [tget, Ne.symm h]
      · simp [tget, ih]

theorem tget_tdel_same : tget d (tdel k t) k = d := by
  induction t with
  | nil => rfl
  | cons c r ih => obtain ⟨a, x⟩ := c; simp only [tdel]; split <;> simp_all [tget]

theorem tget_tdel_ne (h : j ≠ k) : tget d (tdel k t) j = tget d t j := by
  induction t with
  | nil => rfl
  | cons c r ih =>
    obtain ⟨a, x⟩ := c
    simp only [tdel]
    split
    · subst a; simp [tget, Ne.symm h, ih]
    · simp [tget, ih]

variable [DecidableEq β]

theorem tget_tset : tget d (tset d t k v) j = if j = k then v else tget d t j := by
  unfold tset
  split <;> split
  · subst_vars; exact tget_tdel_same
  · exact tget_tdel_ne ‹_›
  · subst_vars; exact tget_tput_same
  · exact tget_tput_ne ‹_›

/-! ## The canonical form -/

omit [DecidableEq β] in
theorem keysAbove_mono (h : keysAbove k t) (hj : j ≤ k) : keysAbove j t := by
  induction t with
  | nil => rfl
  | cons c r ih => obtain ⟨a, x⟩ := c; simp only [keysAbove, Bool.and_eq_true, decide_eq_true_eq] at *; exact ⟨by omega, ih h.2⟩

omit [DecidableEq β] in
theorem keysAbove_tput (h : keysAbove j t) (hk : j < k) : keysAbove j (tput k v t) := by
  induction t with
  | nil => simp [tput, keysAbove, hk]
  | cons c r ih =>
    obtain ⟨a, x⟩ := c
    simp only [keysAbove, Bool.and_eq_true, decide_eq_true_eq] at h
    simp only [tput]
    split
    · simp [keysAbove, hk, h]
    · split <;> simp [keysAbove, hk, h, ih]

omit [DecidableEq β] in
theorem keysAbove_tdel (h : keysAbove j t) : keysAbove j (tdel k t) := by
  induction t with
  | nil => rfl
  | cons c r ih =>
    obtain ⟨a, x⟩ := c
    simp only [keysAbove, Bool.and_eq_true, decide_eq_true_eq] at h
    simp only [tdel]
    split
    · exact ih h.2
    · simp [keysAbove, h, ih]

omit [DecidableEq β] in
theorem keysAbove_filter {p : Nat × β → Bool} (h : keysAbove j t) : keysAbove j (t.filter p) := by
  induction t with
  | nil => rfl
  | cons c r ih =>
    obtain ⟨a, x⟩ := c
    simp only [keysAbove, Bool.and_eq_true, decide_eq_true_eq] at h
    simp only [List.filter_cons]
    split
    · simp [keysAbove, h, ih]
    · exact ih h.2

theorem tabWf_tput (h : tabWf d t) (hv : v ≠ d) : tabWf d (tput k v t) := by
  induction t with
  | nil => simp [tput, tabWf, keysAbove, hv]
  | cons c r ih =>
    obtain ⟨a, x⟩ := c
    simp only [tabWf, Bool.and_eq_true, bne_iff_ne] at h
    simp only [tput]
    split
    · rename_i hk
      simp [tabWf, keysAbove, hv, hk, h, keysAbove_mono h.1.2 (Nat.le_of_lt hk)]
    · split
      · subst a; simp [tabWf, hv, h]
      · have hk : a < k := by omega
        simp [tabWf, h, ih h.2, keysAbove_tput h.1.2 hk]

theorem tabWf_tdel (h : tabWf d t) : tabWf d (tdel k t) := by
  induction t with
  | nil => rfl
  | cons c r ih =>
    obtain ⟨a, x⟩ := c
    simp only [tabWf, Bool.and_eq_true, bne_iff_ne] at h
    simp only [tdel]
    split
    · exact ih h.2
    · simp [tabWf, h, ih h.2, keysAbove_tdel h.1.2]

theorem tabWf_tset (h : tabWf d t) : tabWf d (tset d t k v) := by
  unfold tset; split
  · exact tabWf_tdel h
  · exact tabWf_tput h ‹_›

theorem tabWf_filter {p : Nat × β → Bool} (h : tabWf d t) : tabWf d (t.filter p) := by
  induction t with
  | nil => rfl
  | cons c r ih =>
    obtain ⟨a, x⟩ := c
    simp only [tabWf, Bool.and_eq_true, bne_iff_ne] at h
    simp only [List.filter_cons]
    split
    · simp [tabWf, h, ih h.2, keysAbove_filter h.1.2]
    · exact ih h.2

/-! ## Memory -/

variable {m : Memory} {bs : List Byte} {y : Byte}

theorem byteAt_setByte : byteAt (setByte m a y) b = if b = a then y else byteAt m b := tget_tset

theorem setByte_wf (h : m.wf) : Memory.wf (setByte m a y) := tabWf_tset h

theorem setBytes_wf (h : m.wf) : Memory.wf (setBytes m a bs) := by
  induction bs generalizing m a with
  | nil => exact h
  | cons y r ih => exact ih (setByte_wf h)

theorem storeLe_wf {w : Nat} (h : m.wf) : Memory.wf (storeLe m a n w) := setBytes_wf h

theorem clearRange_wf (h : m.wf) : Memory.wf (clearRange m a n) := tabWf_filter h

theorem putCells_wf {c : Memory} (h : m.wf) : Memory.wf (putCells m a c) := by
  unfold putCells
  induction c generalizing m with
  | nil => exact h
  | cons x r ih => exact ih (setByte_wf h)

/-- A byte outside the written range reads as before. -/
theorem byteAt_setBytes_out (h : b < a ∨ a + bs.length ≤ b) : byteAt (setBytes m a bs) b = byteAt m b := by
  induction bs generalizing m a with
  | nil => rfl
  | cons y r ih =>
    simp only [List.length_cons] at h
    rw [setBytes, ih (by omega), byteAt_setByte, if_neg (by omega)]

/-- A written byte reads as written. -/
theorem byteAt_setBytes_in (h : n < bs.length) : byteAt (setBytes m a bs) (a + n) = bs.getD n 0 := by
  induction bs generalizing m a n with
  | nil => simp at h
  | cons y r ih =>
    cases n with
    | zero => rw [setBytes, byteAt_setBytes_out (by omega), byteAt_setByte]; simp
    | succ k =>
      have := ih (m := setByte m a y) (a := a + 1) (n := k) (by simpa using h)
      rw [setBytes, show a + (k + 1) = a + 1 + k by omega, this]; simp

end Sys2Proof.Machine
end

