-- ==== Sys2Proof/Laws/PerInstr.lean ====
section
/-! SUPPORT. What holds of every instruction as syntax: no instruction has both a scalar and a lane word. -/

namespace Sys2Proof.Laws.OneForm

open Sys2Proof

/-- An instruction has no scalar word or no lane word (R44, R49). -/
def Statement (i : Instr) : Prop := encodeScalar i = none ∨ encodeLane i = none

theorem saddReg : ∀ a b c, Statement (.saddReg a b c) := fun _ _ _ => .inr rfl
theorem ssub : ∀ a b c, Statement (.ssub a b c) := fun _ _ _ => .inr rfl
theorem smulReg : ∀ a b c, Statement (.smulReg a b c) := fun _ _ _ => .inr rfl
theorem smulh : ∀ a b c d, Statement (.smulh a b c d) := fun _ _ _ _ => .inr rfl
theorem sdivReg : ∀ a b c d, Statement (.sdivReg a b c d) := fun _ _ _ _ => .inr rfl
theorem sremReg : ∀ a b c d, Statement (.sremReg a b c d) := fun _ _ _ _ => .inr rfl
theorem sandReg : ∀ a b c, Statement (.sandReg a b c) := fun _ _ _ => .inr rfl
theorem sorReg : ∀ a b c, Statement (.sorReg a b c) := fun _ _ _ => .inr rfl
theorem sxorReg : ∀ a b c, Statement (.sxorReg a b c) := fun _ _ _ => .inr rfl
theorem sshlReg : ∀ a b c, Statement (.sshlReg a b c) := fun _ _ _ => .inr rfl
theorem sshrReg : ∀ a b c, Statement (.sshrReg a b c) := fun _ _ _ => .inr rfl
theorem ssraReg : ∀ a b c, Statement (.ssraReg a b c) := fun _ _ _ => .inr rfl
theorem sminReg : ∀ a b c d, Statement (.sminReg a b c d) := fun _ _ _ _ => .inr rfl
theorem smaxReg : ∀ a b c d, Statement (.smaxReg a b c d) := fun _ _ _ _ => .inr rfl
theorem scmp : ∀ a b c d, Statement (.scmp a b c d) := fun _ _ _ _ => .inr rfl
theorem ssel : ∀ a b c, Statement (.ssel a b c) := fun _ _ _ => .inr rfl
theorem smovReg : ∀ a b, Statement (.smovReg a b) := fun _ _ => .inr rfl
theorem saddImm : ∀ a b c, Statement (.saddImm a b c) := fun _ _ _ => .inr rfl
theorem smulImm : ∀ a b c, Statement (.smulImm a b c) := fun _ _ _ => .inr rfl
theorem sdivImm : ∀ a b c, Statement (.sdivImm a b c) := fun _ _ _ => .inr rfl
theorem sremImm : ∀ a b c, Statement (.sremImm a b c) := fun _ _ _ => .inr rfl
theorem sandImm : ∀ a b c, Statement (.sandImm a b c) := fun _ _ _ => .inr rfl
theorem sorImm : ∀ a b c, Statement (.sorImm a b c) := fun _ _ _ => .inr rfl
theorem sxorImm : ∀ a b c, Statement (.sxorImm a b c) := fun _ _ _ => .inr rfl
theorem sshlImm : ∀ a b c, Statement (.sshlImm a b c) := fun _ _ _ => .inr rfl
theorem sshrImm : ∀ a b c, Statement (.sshrImm a b c) := fun _ _ _ => .inr rfl
theorem ssraImm : ∀ a b c, Statement (.ssraImm a b c) := fun _ _ _ => .inr rfl
theorem sminImm : ∀ a b c, Statement (.sminImm a b c) := fun _ _ _ => .inr rfl
theorem smaxImm : ∀ a b c, Statement (.smaxImm a b c) := fun _ _ _ => .inr rfl
theorem sld64 : ∀ a b c, Statement (.sld64 a b c) := fun _ _ _ => .inr rfl
theorem sldN32 : ∀ a b c, Statement (.sldN32 a b c) := fun _ _ _ => .inr rfl
theorem sldI32 : ∀ a b c, Statement (.sldI32 a b c) := fun _ _ _ => .inr rfl
theorem sst64 : ∀ a b c, Statement (.sst64 a b c) := fun _ _ _ => .inr rfl
theorem sstN32 : ∀ a b c, Statement (.sstN32 a b c) := fun _ _ _ => .inr rfl
theorem smovImm : ∀ a b, Statement (.smovImm a b) := fun _ _ => .inr rfl
theorem sldw : ∀ a b c, Statement (.sldw a b c) := fun _ _ _ => .inr rfl
theorem sbr : ∀ a b c d, Statement (.sbr a b c d) := fun _ _ _ _ => .inr rfl
theorem sjmp : ∀ a, Statement (.sjmp a) := fun _ => .inr rfl
theorem sjmpi : ∀ a, Statement (.sjmpi a) := fun _ => .inr rfl
theorem scall : ∀ a, Statement (.scall a) := fun _ => .inr rfl
theorem sret : ∀ a, Statement (.sret a) := fun _ => .inr rfl
theorem lrun : ∀ a, Statement (.lrun a) := fun _ => .inr rfl
theorem lsync : Statement (.lsync) := .inr rfl
theorem sbar : ∀ a, Statement (.sbar a) := fun _ => .inr rfl
theorem waittl : ∀ a b, Statement (.waittl a b) := fun _ _ => .inr rfl
theorem arma : ∀ a b c d, Statement (.arma a b c d) := fun _ _ _ _ => .inr rfl
theorem waita : ∀ a, Statement (.waita a) := fun _ => .inr rfl
theorem waitcmp : ∀ a b c d e f, Statement (.waitcmp a b c d e f) := fun _ _ _ _ _ _ => .inr rfl
theorem waitif : ∀ a b, Statement (.waitif a b) := fun _ _ => .inr rfl
theorem sfence : ∀ a b, Statement (.sfence a b) := fun _ _ => .inr rfl
theorem sget : ∀ a b, Statement (.sget a b) := fun _ _ => .inr rfl
theorem sset : ∀ a b, Statement (.sset a b) := fun _ _ => .inr rfl
theorem strap : ∀ a b, Statement (.strap a b) := fun _ _ => .inr rfl
theorem sexit : Statement (.sexit) := .inr rfl
theorem eret : Statement (.eret) := .inr rfl
theorem snop : Statement (.snop) := .inr rfl
theorem limm : ∀ a, Statement (.limm a) := fun _ => .inr rfl
theorem vadd : ∀ a, Statement (.vadd a) := fun _ => .inl rfl
theorem vsub : ∀ a, Statement (.vsub a) := fun _ => .inl rfl
theorem vmul : ∀ a, Statement (.vmul a) := fun _ => .inl rfl
theorem vmulh : ∀ a, Statement (.vmulh a) := fun _ => .inl rfl
theorem vmad : ∀ a, Statement (.vmad a) := fun _ => .inl rfl
theorem vdiv : ∀ a, Statement (.vdiv a) := fun _ => .inl rfl
theorem vrem : ∀ a, Statement (.vrem a) := fun _ => .inl rfl
theorem vand : ∀ a, Statement (.vand a) := fun _ => .inl rfl
theorem vor : ∀ a, Statement (.vor a) := fun _ => .inl rfl
theorem vxor : ∀ a, Statement (.vxor a) := fun _ => .inl rfl
theorem vandn : ∀ a, Statement (.vandn a) := fun _ => .inl rfl
theorem vshl : ∀ a, Statement (.vshl a) := fun _ => .inl rfl
theorem vshr : ∀ a, Statement (.vshr a) := fun _ => .inl rfl
theorem vsra : ∀ a, Statement (.vsra a) := fun _ => .inl rfl
theorem vrot : ∀ a, Statement (.vrot a) := fun _ => .inl rfl
theorem vmin : ∀ a, Statement (.vmin a) := fun _ => .inl rfl
theorem vmax : ∀ a, Statement (.vmax a) := fun _ => .inl rfl
theorem vabs : ∀ a, Statement (.vabs a) := fun _ => .inl rfl
theorem vneg : ∀ a, Statement (.vneg a) := fun _ => .inl rfl
theorem vclz : ∀ a, Statement (.vclz a) := fun _ => .inl rfl
theorem vpopc : ∀ a, Statement (.vpopc a) := fun _ => .inl rfl
theorem vbrev : ∀ a, Statement (.vbrev a) := fun _ => .inl rfl
theorem vbfe : ∀ a, Statement (.vbfe a) := fun _ => .inl rfl
theorem vbfi : ∀ a, Statement (.vbfi a) := fun _ => .inl rfl
theorem vsel : ∀ a, Statement (.vsel a) := fun _ => .inl rfl
theorem vmov : ∀ a, Statement (.vmov a) := fun _ => .inl rfl
theorem vcmp : ∀ a, Statement (.vcmp a) := fun _ => .inl rfl
theorem vplog : ∀ a, Statement (.vplog a) := fun _ => .inl rfl
theorem vaddc : ∀ a, Statement (.vaddc a) := fun _ => .inl rfl
theorem fadd : ∀ a, Statement (.fadd a) := fun _ => .inl rfl
theorem fsub : ∀ a, Statement (.fsub a) := fun _ => .inl rfl
theorem fmul : ∀ a, Statement (.fmul a) := fun _ => .inl rfl
theorem ffma : ∀ a, Statement (.ffma a) := fun _ => .inl rfl
theorem fdiv : ∀ a, Statement (.fdiv a) := fun _ => .inl rfl
theorem fsqrt : ∀ a, Statement (.fsqrt a) := fun _ => .inl rfl
theorem fmin : ∀ a, Statement (.fmin a) := fun _ => .inl rfl
theorem fmax : ∀ a, Statement (.fmax a) := fun _ => .inl rfl
theorem fcmp : ∀ a, Statement (.fcmp a) := fun _ => .inl rfl
theorem fclass : ∀ a, Statement (.fclass a) := fun _ => .inl rfl
theorem frnd : ∀ a, Statement (.frnd a) := fun _ => .inl rfl
theorem fscale : ∀ a, Statement (.fscale a) := fun _ => .inl rfl
theorem frcp : ∀ a, Statement (.frcp a) := fun _ => .inl rfl
theorem frsq : ∀ a, Statement (.frsq a) := fun _ => .inl rfl
theorem fexp2 : ∀ a, Statement (.fexp2 a) := fun _ => .inl rfl
theorem flog2 : ∀ a, Statement (.flog2 a) := fun _ => .inl rfl
theorem fsinpi : ∀ a, Statement (.fsinpi a) := fun _ => .inl rfl
theorem fcospi : ∀ a, Statement (.fcospi a) := fun _ => .inl rfl
theorem cvtf : ∀ a, Statement (.cvtf a) := fun _ => .inl rfl
theorem cvti : ∀ a, Statement (.cvti a) := fun _ => .inl rfl
theorem cvtfi : ∀ a, Statement (.cvtfi a) := fun _ => .inl rfl
theorem cvtn : ∀ a, Statement (.cvtn a) := fun _ => .inl rfl
theorem cvtw : ∀ a, Statement (.cvtw a) := fun _ => .inl rfl
theorem mxscale : ∀ a, Statement (.mxscale a) := fun _ => .inl rfl
theorem mxpack : ∀ a, Statement (.mxpack a) := fun _ => .inl rfl
theorem mxunpack : ∀ a, Statement (.mxunpack a) := fun _ => .inl rfl
theorem bpnsplit : ∀ a, Statement (.bpnsplit a) := fun _ => .inl rfl
theorem bpnjoin : ∀ a, Statement (.bpnjoin a) := fun _ => .inl rfl
theorem vshfl : ∀ a, Statement (.vshfl a) := fun _ => .inl rfl
theorem qxch : ∀ a, Statement (.qxch a) := fun _ => .inl rfl
theorem vvote : ∀ a, Statement (.vvote a) := fun _ => .inl rfl
theorem vmatch : ∀ a, Statement (.vmatch a) := fun _ => .inl rfl
theorem vred : ∀ a, Statement (.vred a) := fun _ => .inl rfl
theorem vscan : ∀ a, Statement (.vscan a) := fun _ => .inl rfl
theorem vbcast : ∀ a, Statement (.vbcast a) := fun _ => .inl rfl
theorem vtos : ∀ a, Statement (.vtos a) := fun _ => .inl rfl
theorem pairWord : ∀ a, Statement (.pairWord a) := fun _ => .inl rfl
theorem ldg : ∀ a, Statement (.ldg a) := fun _ => .inl rfl
theorem stg : ∀ a, Statement (.stg a) := fun _ => .inl rfl
theorem lds : ∀ a, Statement (.lds a) := fun _ => .inl rfl
theorem sts : ∀ a, Statement (.sts a) := fun _ => .inl rfl
theorem ldx : ∀ a, Statement (.ldx a) := fun _ => .inl rfl
theorem pref : ∀ a, Statement (.pref a) := fun _ => .inl rfl
theorem atomg : ∀ a, Statement (.atomg a) := fun _ => .inl rfl
theorem atoms : ∀ a, Statement (.atoms a) := fun _ => .inl rfl
theorem redg : ∀ a, Statement (.redg a) := fun _ => .inl rfl
theorem cas128 : ∀ a, Statement (.cas128 a) := fun _ => .inl rfl
theorem mldb : ∀ a, Statement (.mldb a) := fun _ => .inl rfl
theorem mma : ∀ a, Statement (.mma a) := fun _ => .inl rfl
theorem mdrain : ∀ a, Statement (.mdrain a) := fun _ => .inl rfl
theorem mfill : ∀ a, Statement (.mfill a) := fun _ => .inl rfl
theorem mdrainb : ∀ a, Statement (.mdrainb a) := fun _ => .inl rfl
theorem mfillb : ∀ a, Statement (.mfillb a) := fun _ => .inl rfl
theorem mstat : ∀ a, Statement (.mstat a) := fun _ => .inl rfl
theorem mresume : ∀ a, Statement (.mresume a) := fun _ => .inl rfl
theorem mclr : ∀ a, Statement (.mclr a) := fun _ => .inl rfl
theorem dbegin : ∀ a, Statement (.dbegin a) := fun _ => .inl rfl
theorem dcommit : ∀ a, Statement (.dcommit a) := fun _ => .inl rfl
theorem dabort : ∀ a, Statement (.dabort a) := fun _ => .inl rfl
theorem dstat : ∀ a, Statement (.dstat a) := fun _ => .inl rfl
theorem mbsend : ∀ a, Statement (.mbsend a) := fun _ => .inl rfl
theorem mbgen : ∀ a, Statement (.mbgen a) := fun _ => .inl rfl
theorem vbr : ∀ a, Statement (.vbr a) := fun _ => .inl rfl
theorem vjmp : ∀ a, Statement (.vjmp a) := fun _ => .inl rfl
theorem vjmpi : ∀ a, Statement (.vjmpi a) := fun _ => .inl rfl
theorem vcall : ∀ a, Statement (.vcall a) := fun _ => .inl rfl
theorem vcalli : ∀ a, Statement (.vcalli a) := fun _ => .inl rfl
theorem vret : ∀ a, Statement (.vret a) := fun _ => .inl rfl
theorem vjoin : ∀ a, Statement (.vjoin a) := fun _ => .inl rfl
theorem vland : ∀ a, Statement (.vland a) := fun _ => .inl rfl
theorem vexit : ∀ a, Statement (.vexit a) := fun _ => .inl rfl
theorem lend : ∀ a, Statement (.lend a) := fun _ => .inl rfl
theorem vnop : ∀ a, Statement (.vnop a) := fun _ => .inl rfl
theorem vgets : ∀ a, Statement (.vgets a) := fun _ => .inl rfl
theorem setexec : ∀ a, Statement (.setexec a) := fun _ => .inl rfl
theorem setpart : ∀ a, Statement (.setpart a) := fun _ => .inl rfl
theorem setcvm : ∀ a, Statement (.setcvm a) := fun _ => .inl rfl
theorem vtrap : ∀ a, Statement (.vtrap a) := fun _ => .inl rfl
theorem vgett : ∀ a, Statement (.vgett a) := fun _ => .inl rfl
theorem laneBlockStart : ∀ a, Statement (.laneBlockStart a) := fun _ => .inl rfl
theorem matrixCmdAccept : ∀ a, Statement (.matrixCmdAccept a) := fun _ => .inl rfl
theorem mldbComplete : ∀ a, Statement (.mldbComplete a) := fun _ => .inl rfl
theorem mmaComplete : ∀ a, Statement (.mmaComplete a) := fun _ => .inl rfl
theorem mclrComplete : ∀ a, Statement (.mclrComplete a) := fun _ => .inl rfl
theorem matrixEventPush : ∀ a, Statement (.matrixEventPush a) := fun _ => .inl rfl
theorem matrixStop : ∀ a, Statement (.matrixStop a) := fun _ => .inl rfl
theorem storeSetLeave : ∀ a, Statement (.storeSetLeave a) := fun _ => .inl rfl
theorem loadSetCommit : ∀ a, Statement (.loadSetCommit a) := fun _ => .inl rfl
theorem storeSetCommit : ∀ a, Statement (.storeSetCommit a) := fun _ => .inl rfl
theorem homeSliceLoad : ∀ a b, Statement (.homeSliceLoad a b) := fun _ _ => .inl rfl
theorem homeSliceStore : ∀ a b, Statement (.homeSliceStore a b) := fun _ _ => .inl rfl
theorem homeSliceAtomic : ∀ a b, Statement (.homeSliceAtomic a b) := fun _ _ => .inl rfl
theorem writeQueueApply : ∀ a, Statement (.writeQueueApply a) := fun _ => .inl rfl
theorem publish : ∀ a, Statement (.publish a) := fun _ => .inl rfl
theorem amcTagLookup : ∀ a, Statement (.amcTagLookup a) := fun _ => .inl rfl
theorem tagScrub : ∀ a, Statement (.tagScrub a) := fun _ => .inl rfl
theorem hintLookup : ∀ a, Statement (.hintLookup a) := fun _ => .inl rfl
theorem directoryLookup : ∀ a, Statement (.directoryLookup a) := fun _ => .inl rfl
theorem registration : ∀ a, Statement (.registration a) := fun _ => .inl rfl
theorem holderRead : ∀ a, Statement (.holderRead a) := fun _ => .inl rfl
theorem notHeldAnswer : ∀ a, Statement (.notHeldAnswer a) := fun _ => .inl rfl
theorem staleAnswer : ∀ a, Statement (.staleAnswer a) := fun _ => .inl rfl
theorem registrationAck : ∀ a, Statement (.registrationAck a) := fun _ => .inl rfl
theorem pageInstall : ∀ a, Statement (.pageInstall a) := fun _ => .inl rfl
theorem takeBack : ∀ a, Statement (.takeBack a) := fun _ => .inl rfl
theorem climbTimeout : ∀ a, Statement (.climbTimeout a) := fun _ => .inl rfl
theorem dirFullTimeout : ∀ a, Statement (.dirFullTimeout a) := fun _ => .inl rfl
theorem crownTransaction : ∀ a, Statement (.crownTransaction a) := fun _ => .inl rfl
theorem invalidation : ∀ a, Statement (.invalidation a) := fun _ => .inl rfl
theorem invalidationAck : ∀ a, Statement (.invalidationAck a) := fun _ => .inl rfl
theorem crownRelease : ∀ a, Statement (.crownRelease a) := fun _ => .inl rfl
theorem crownGrant : ∀ a, Statement (.crownGrant a) := fun _ => .inl rfl
theorem crownCompletion : ∀ a, Statement (.crownCompletion a) := fun _ => .inl rfl
theorem crownHoldExpire : ∀ a, Statement (.crownHoldExpire a) := fun _ => .inl rfl
theorem freeFrameSummary : Statement (.freeFrameSummary) := .inl rfl
theorem injectionOffer : ∀ a, Statement (.injectionOffer a) := fun _ => .inl rfl
theorem injectionAnswer : ∀ a, Statement (.injectionAnswer a) := fun _ => .inl rfl
theorem injectionConfirm : ∀ a, Statement (.injectionConfirm a) := fun _ => .inl rfl
theorem poolInjection : ∀ a, Statement (.poolInjection a) := fun _ => .inl rfl
theorem injectionRetry : ∀ a, Statement (.injectionRetry a) := fun _ => .inl rfl
theorem transitTimeout : ∀ a, Statement (.transitTimeout a) := fun _ => .inl rfl
theorem directoryRebuild : ∀ a, Statement (.directoryRebuild a) := fun _ => .inl rfl
theorem recallQuery : ∀ a, Statement (.recallQuery a) := fun _ => .inl rfl
theorem rebuildTimeout : ∀ a, Statement (.rebuildTimeout a) := fun _ => .inl rfl
theorem amQuery : Statement (.amQuery) := .inl rfl
theorem amStats : Statement (.amStats) := .inl rfl
theorem amPark : Statement (.amPark) := .inl rfl
theorem amUnpark : Statement (.amUnpark) := .inl rfl
theorem amRetire : Statement (.amRetire) := .inl rfl
theorem amDiscard : Statement (.amDiscard) := .inl rfl
theorem waitEntryPlace : ∀ a, Statement (.waitEntryPlace a) := fun _ => .inl rfl
theorem wake : ∀ a, Statement (.wake a) := fun _ => .inl rfl
theorem waitcmpRepoll : ∀ a, Statement (.waitcmpRepoll a) := fun _ => .inl rfl
theorem copy : ∀ a, Statement (.copy a) := fun _ => .inl rfl
theorem fill : ∀ a, Statement (.fill a) := fun _ => .inl rfl
theorem copy2d : ∀ a, Statement (.copy2d a) := fun _ => .inl rfl
theorem bpnprefix : ∀ a, Statement (.bpnprefix a) := fun _ => .inl rfl
theorem put : ∀ a, Statement (.put a) := fun _ => .inl rfl
theorem get : ∀ a, Statement (.get a) := fun _ => .inl rfl
theorem atom : ∀ a, Statement (.atom a) := fun _ => .inl rfl
theorem signal : ∀ a, Statement (.signal a) := fun _ => .inl rfl
theorem engineCmdComplete : ∀ a b c, Statement (.engineCmdComplete a b c) := fun _ _ _ => .inl rfl
theorem completionWordPush : ∀ a b, Statement (.completionWordPush a b) := fun _ _ => .inl rfl
theorem fabricGranuleArrive : ∀ a, Statement (.fabricGranuleArrive a) := fun _ => .inl rfl
theorem fabricAck : ∀ a, Statement (.fabricAck a) := fun _ => .inl rfl
theorem fabricTimeout : ∀ a b, Statement (.fabricTimeout a b) := fun _ _ => .inl rfl
theorem arrivalCount : ∀ a, Statement (.arrivalCount a) := fun _ => .inl rfl
theorem countTableTimeout : ∀ a, Statement (.countTableTimeout a) := fun _ => .inl rfl
theorem dbeginSlotGrant : ∀ a, Statement (.dbeginSlotGrant a) := fun _ => .inl rfl
theorem dominoEdgeRequest : ∀ a b, Statement (.dominoEdgeRequest a b) := fun _ _ => .inl rfl
theorem dominoAbortComplete : ∀ a, Statement (.dominoAbortComplete a) := fun _ => .inl rfl
theorem dominoCommitStart : ∀ a, Statement (.dominoCommitStart a) := fun _ => .inl rfl
theorem dominoCommitComplete : ∀ a, Statement (.dominoCommitComplete a) := fun _ => .inl rfl
theorem recallHoldTimeout : ∀ a, Statement (.recallHoldTimeout a) := fun _ => .inl rfl
theorem preemptDeferTimeout : ∀ a, Statement (.preemptDeferTimeout a) := fun _ => .inl rfl
theorem lqBaseWrite : ∀ a b c, Statement (.lqBaseWrite a b c) := fun _ _ _ => .inl rfl
theorem launchKernel : ∀ a, Statement (.launchKernel a) := fun _ => .inl rfl
theorem launchRagged : ∀ a, Statement (.launchRagged a) := fun _ => .inl rfl
theorem launchWaitOnly : ∀ a, Statement (.launchWaitOnly a) := fun _ => .inl rfl
theorem teamPlace : ∀ a, Statement (.teamPlace a) := fun _ => .inl rfl
theorem sramClearDone : ∀ a, Statement (.sramClearDone a) := fun _ => .inl rfl
theorem groupRetire : ∀ a, Statement (.groupRetire a) := fun _ => .inl rfl
theorem launchRetire : ∀ a, Statement (.launchRetire a) := fun _ => .inl rfl
theorem cslCommit : ∀ a, Statement (.cslCommit a) := fun _ => .inl rfl
theorem cslCommitApply : Statement (.cslCommitApply) := .inl rfl
theorem barrierRelease : ∀ a b c, Statement (.barrierRelease a b c) := fun _ _ _ => .inl rfl
theorem watchdog : ∀ a, Statement (.watchdog a) := fun _ => .inl rfl
theorem safepointGap : ∀ a, Statement (.safepointGap a) := fun _ => .inl rfl
theorem preemptRequest : ∀ a, Statement (.preemptRequest a) := fun _ => .inl rfl
theorem teamSwapOut : ∀ a, Statement (.teamSwapOut a) := fun _ => .inl rfl
theorem preemptSaveEntry : ∀ a, Statement (.preemptSaveEntry a) := fun _ => .inl rfl
theorem teamSeal : ∀ a, Statement (.teamSeal a) := fun _ => .inl rfl
theorem teamResume : ∀ a, Statement (.teamResume a) := fun _ => .inl rfl
theorem trapDelivery : ∀ a, Statement (.trapDelivery a) := fun _ => .inl rfl
theorem checkpointGo : ∀ a b, Statement (.checkpointGo a b) := fun _ _ => .inl rfl
theorem checkpointHoldClear : ∀ a, Statement (.checkpointHoldClear a) := fun _ => .inl rfl
theorem launchRollback : ∀ a b, Statement (.launchRollback a b) := fun _ _ => .inl rfl
theorem strikeReport : ∀ a, Statement (.strikeReport a) := fun _ => .inl rfl
theorem pageWalk : ∀ a, Statement (.pageWalk a) := fun _ => .inl rfl
theorem walkTimeout : ∀ a, Statement (.walkTimeout a) := fun _ => .inl rfl
theorem faultRecordWrite : ∀ a, Statement (.faultRecordWrite a) := fun _ => .inl rfl
theorem fqBaseWrite : ∀ a b, Statement (.fqBaseWrite a b) := fun _ _ => .inl rfl
theorem fqReplaySeq : ∀ a b, Statement (.fqReplaySeq a b) := fun _ _ => .inl rfl
theorem fqReplayAll : ∀ a, Statement (.fqReplayAll a) := fun _ => .inl rfl
theorem fqReplayKill : ∀ a b, Statement (.fqReplayKill a b) := fun _ _ => .inl rfl
theorem faultRetry : ∀ a b, Statement (.faultRetry a b) := fun _ _ => .inl rfl
theorem tlbiGo : ∀ a b, Statement (.tlbiGo a b) := fun _ _ => .inl rfl
theorem tlbiDone : ∀ a, Statement (.tlbiDone a) := fun _ => .inl rfl
theorem hostApertureAccess : ∀ a b c d, Statement (.hostApertureAccess a b c d) := fun _ _ _ _ => .inl rfl
theorem hostAtomicInbound : ∀ a, Statement (.hostAtomicInbound a) := fun _ => .inl rfl
theorem hostSnoop : ∀ a, Statement (.hostSnoop a) := fun _ => .inl rfl
theorem epBind : ∀ a b, Statement (.epBind a b) := fun _ _ => .inl rfl
theorem epRebind : ∀ a b, Statement (.epRebind a b) := fun _ _ => .inl rfl
theorem epUnbind : ∀ a b, Statement (.epUnbind a b) := fun _ _ => .inl rfl
theorem mbxGenWrite : ∀ a b, Statement (.mbxGenWrite a b) := fun _ _ => .inl rfl
theorem mailboxSendAccept : ∀ a, Statement (.mailboxSendAccept a) := fun _ => .inl rfl
theorem mbgenApply : ∀ a, Statement (.mbgenApply a) := fun _ => .inl rfl
theorem mbxQueryAnswer : ∀ a, Statement (.mbxQueryAnswer a) := fun _ => .inl rfl
theorem stageAssign : Statement (.stageAssign) := .inl rfl
theorem stageSaveDone : ∀ a, Statement (.stageSaveDone a) := fun _ => .inl rfl
theorem stageRestoreDone : ∀ a, Statement (.stageRestoreDone a) := fun _ => .inl rfl
theorem stageResetDone : ∀ a, Statement (.stageResetDone a) := fun _ => .inl rfl
theorem mbxActRead : ∀ a b, Statement (.mbxActRead a b) := fun _ _ => .inl rfl
theorem mbxStepRead : ∀ a b, Statement (.mbxStepRead a b) := fun _ _ => .inl rfl
theorem mbxGenRead : ∀ a b, Statement (.mbxGenRead a b) := fun _ _ => .inl rfl
theorem mbxStatAccess : ∀ a b c d, Statement (.mbxStatAccess a b c d) := fun _ _ _ _ => .inl rfl
theorem mbxObsWrite : ∀ a b, Statement (.mbxObsWrite a b) := fun _ _ => .inl rfl
theorem observationPost : ∀ a, Statement (.observationPost a) := fun _ => .inl rfl
theorem observationCount : ∀ a, Statement (.observationCount a) := fun _ => .inl rfl
theorem episodeRunaway : ∀ a b, Statement (.episodeRunaway a b) := fun _ _ => .inl rfl
theorem episodeFault : ∀ a b c, Statement (.episodeFault a b c) := fun _ _ _ => .inl rfl
theorem faqRecord : ∀ a b c, Statement (.faqRecord a b c) := fun _ _ _ => .inl rfl
theorem ringBaseWrite : ∀ a b, Statement (.ringBaseWrite a b) := fun _ _ => .inl rfl
theorem bankTestGo : ∀ a, Statement (.bankTestGo a) := fun _ => .inl rfl
theorem bankTestDone : ∀ a, Statement (.bankTestDone a) := fun _ => .inl rfl
theorem tmcBadframeAppend : ∀ a, Statement (.tmcBadframeAppend a) := fun _ => .inl rfl
theorem selfRefreshEntry : ∀ a b, Statement (.selfRefreshEntry a b) := fun _ _ => .inl rfl
theorem powerOn : ∀ a b c d, Statement (.powerOn a b c d) := fun _ _ _ _ => .inl rfl
theorem moduleReset : ∀ a, Statement (.moduleReset a) := fun _ => .inl rfl
theorem stationStateChange : ∀ a b, Statement (.stationStateChange a b) := fun _ _ => .inl rfl
theorem podLost : ∀ a b, Statement (.podLost a b) := fun _ _ => .inl rfl
theorem dieGate : ∀ a, Statement (.dieGate a) := fun _ => .inl rfl
theorem dieUngate : ∀ a, Statement (.dieUngate a) := fun _ => .inl rfl
theorem pmGateWrite : ∀ a, Statement (.pmGateWrite a) := fun _ => .inl rfl
theorem d3hotEntry : Statement (.d3hotEntry) := .inl rfl
theorem d3coldEntry : Statement (.d3coldEntry) := .inl rfl
theorem thermalEval : ∀ a b c, Statement (.thermalEval a b c) := fun _ _ _ => .inl rfl
theorem thermalShutdown : ∀ a, Statement (.thermalShutdown a) := fun _ => .inl rfl
theorem getVersion : Statement (.getVersion) := .inl rfl
theorem getCapabilities : Statement (.getCapabilities) := .inl rfl
theorem negotiateAlgorithms : Statement (.negotiateAlgorithms) := .inl rfl
theorem getDigests : Statement (.getDigests) := .inl rfl
theorem getCertificate : Statement (.getCertificate) := .inl rfl
theorem challenge : Statement (.challenge) := .inl rfl
theorem getMeasurements : Statement (.getMeasurements) := .inl rfl
theorem registerWrite : ∀ a b, Statement (.registerWrite a b) := fun _ _ => .inl rfl
theorem stageInstructionIssue : ∀ a, Statement (.stageInstructionIssue a) := fun _ => .inl rfl
theorem poolPortStateChange : ∀ a, Statement (.poolPortStateChange a) := fun _ => .inl rfl
theorem d3coldExit : ∀ a b, Statement (.d3coldExit a b) := fun _ _ => .inl rfl
theorem d3hotExit : Statement (.d3hotExit) := .inl rfl

end Sys2Proof.Laws.OneForm
end

