-- ==== Sys2Proof/Laws/State.lean ====
section
/-! SUPPORT. What each field of the state holds after each of the named updates. -/

namespace Sys2Proof.Machine

open Sys2Proof

variable (s : State)

/-! ## setGroup -/

@[simp] theorem State.setGroup_cycle (i : Nat) (g : Group) : (s.setGroup i g).cycle = s.cycle := rfl
@[simp] theorem State.setGroup_sched (i : Nat) (g : Group) : (s.setGroup i g).sched = s.sched := rfl
@[simp] theorem State.setGroup_cur (i : Nat) (g : Group) : (s.setGroup i g).cur = s.cur := rfl
@[simp] theorem State.setGroup_path1 (i : Nat) (g : Group) : (s.setGroup i g).path1 = s.path1 := rfl
@[simp] theorem State.setGroup_mem (i : Nat) (g : Group) : (s.setGroup i g).mem = s.mem := rfl
@[simp] theorem State.setGroup_sectors (i : Nat) (g : Group) : (s.setGroup i g).sectors = s.sectors := rfl
@[simp] theorem State.setGroup_dirty (i : Nat) (g : Group) : (s.setGroup i g).dirty = s.dirty := rfl
@[simp] theorem State.setGroup_ibuf (i : Nat) (g : Group) : (s.setGroup i g).ibuf = s.ibuf := rfl
@[simp] theorem State.setGroup_pins (i : Nat) (g : Group) : (s.setGroup i g).pins = s.pins := rfl
@[simp] theorem State.setGroup_l2pins (i : Nat) (g : Group) : (s.setGroup i g).l2pins = s.l2pins := rfl
@[simp] theorem State.setGroup_l1 (i : Nat) (g : Group) : (s.setGroup i g).l1 = s.l1 := rfl
@[simp] theorem State.setGroup_l1tlb (i : Nat) (g : Group) : (s.setGroup i g).l1tlb = s.l1tlb := rfl
@[simp] theorem State.setGroup_dieTlb (i : Nat) (g : Group) : (s.setGroup i g).dieTlb = s.dieTlb := rfl
@[simp] theorem State.setGroup_hubTlb (i : Nat) (g : Group) : (s.setGroup i g).hubTlb = s.hubTlb := rfl
@[simp] theorem State.setGroup_walks (i : Nat) (g : Group) : (s.setGroup i g).walks = s.walks := rfl
@[simp] theorem State.setGroup_wq (i : Nat) (g : Group) : (s.setGroup i g).wq = s.wq := rfl
@[simp] theorem State.setGroup_waits (i : Nat) (g : Group) : (s.setGroup i g).waits = s.waits := rfl
@[simp] theorem State.setGroup_sets (i : Nat) (g : Group) : (s.setGroup i g).sets = s.sets := rfl
@[simp] theorem State.setGroup_nextSet (i : Nat) (g : Group) : (s.setGroup i g).nextSet = s.nextSet := rfl
@[simp] theorem State.setGroup_nextSend (i : Nat) (g : Group) : (s.setGroup i g).nextSend = s.nextSend := rfl
@[simp] theorem State.setGroup_served (i : Nat) (g : Group) : (s.setGroup i g).served = s.served := rfl
@[simp] theorem State.setGroup_groups (i : Nat) (g : Group) : (s.setGroup i g).groups = s.groups.set i g := rfl
@[simp] theorem State.setGroup_teams (i : Nat) (g : Group) : (s.setGroup i g).teams = s.teams := rfl
@[simp] theorem State.setGroup_launches (i : Nat) (g : Group) : (s.setGroup i g).launches = s.launches := rfl
@[simp] theorem State.setGroup_images (i : Nat) (g : Group) : (s.setGroup i g).images = s.images := rfl
@[simp] theorem State.setGroup_built (i : Nat) (g : Group) : (s.setGroup i g).built = s.built := rfl
@[simp] theorem State.setGroup_units (i : Nat) (g : Group) : (s.setGroup i g).units = s.units := rfl
@[simp] theorem State.setGroup_clears (i : Nat) (g : Group) : (s.setGroup i g).clears = s.clears := rfl
@[simp] theorem State.setGroup_nextLid (i : Nat) (g : Group) : (s.setGroup i g).nextLid = s.nextLid := rfl
@[simp] theorem State.setGroup_am (i : Nat) (g : Group) : (s.setGroup i g).am = s.am := rfl
@[simp] theorem State.setGroup_net (i : Nat) (g : Group) : (s.setGroup i g).net = s.net := rfl
@[simp] theorem State.setGroup_dom (i : Nat) (g : Group) : (s.setGroup i g).dom = s.dom := rfl
@[simp] theorem State.setGroup_ctxs (i : Nat) (g : Group) : (s.setGroup i g).ctxs = s.ctxs := rfl
@[simp] theorem State.setGroup_stages (i : Nat) (g : Group) : (s.setGroup i g).stages = s.stages := rfl
@[simp] theorem State.setGroup_coreRr (i : Nat) (g : Group) : (s.setGroup i g).coreRr = s.coreRr := rfl
@[simp] theorem State.setGroup_posts (i : Nat) (g : Group) : (s.setGroup i g).posts = s.posts := rfl
@[simp] theorem State.setGroup_hub (i : Nat) (g : Group) : (s.setGroup i g).hub = s.hub := rfl
@[simp] theorem State.setGroup_rrLane (i : Nat) (g : Group) : (s.setGroup i g).rrLane = s.rrLane := rfl
@[simp] theorem State.setGroup_rrScalar (i : Nat) (g : Group) : (s.setGroup i g).rrScalar = s.rrScalar := rfl
@[simp] theorem State.setGroup_cpLt (i : Nat) (g : Group) : (s.setGroup i g).cpLt = s.cpLt := rfl
@[simp] theorem State.setGroup_cpLast (i : Nat) (g : Group) : (s.setGroup i g).cpLast = s.cpLast := rfl
@[simp] theorem State.setGroup_hostLt (i : Nat) (g : Group) : (s.setGroup i g).hostLt = s.hostLt := rfl
@[simp] theorem State.setGroup_walkLt (i : Nat) (g : Group) : (s.setGroup i g).walkLt = s.walkLt := rfl
@[simp] theorem State.setGroup_now (i : Nat) (g : Group) : (s.setGroup i g).now = s.now := rfl

/-! ## modGroup -/

@[simp] theorem State.modGroup_cycle (i : Nat) (f : Group → Group) : (s.modGroup i f).cycle = s.cycle := rfl
@[simp] theorem State.modGroup_sched (i : Nat) (f : Group → Group) : (s.modGroup i f).sched = s.sched := rfl
@[simp] theorem State.modGroup_cur (i : Nat) (f : Group → Group) : (s.modGroup i f).cur = s.cur := rfl
@[simp] theorem State.modGroup_path1 (i : Nat) (f : Group → Group) : (s.modGroup i f).path1 = s.path1 := rfl
@[simp] theorem State.modGroup_mem (i : Nat) (f : Group → Group) : (s.modGroup i f).mem = s.mem := rfl
@[simp] theorem State.modGroup_sectors (i : Nat) (f : Group → Group) : (s.modGroup i f).sectors = s.sectors := rfl
@[simp] theorem State.modGroup_dirty (i : Nat) (f : Group → Group) : (s.modGroup i f).dirty = s.dirty := rfl
@[simp] theorem State.modGroup_ibuf (i : Nat) (f : Group → Group) : (s.modGroup i f).ibuf = s.ibuf := rfl
@[simp] theorem State.modGroup_pins (i : Nat) (f : Group → Group) : (s.modGroup i f).pins = s.pins := rfl
@[simp] theorem State.modGroup_l2pins (i : Nat) (f : Group → Group) : (s.modGroup i f).l2pins = s.l2pins := rfl
@[simp] theorem State.modGroup_l1 (i : Nat) (f : Group → Group) : (s.modGroup i f).l1 = s.l1 := rfl
@[simp] theorem State.modGroup_l1tlb (i : Nat) (f : Group → Group) : (s.modGroup i f).l1tlb = s.l1tlb := rfl
@[simp] theorem State.modGroup_dieTlb (i : Nat) (f : Group → Group) : (s.modGroup i f).dieTlb = s.dieTlb := rfl
@[simp] theorem State.modGroup_hubTlb (i : Nat) (f : Group → Group) : (s.modGroup i f).hubTlb = s.hubTlb := rfl
@[simp] theorem State.modGroup_walks (i : Nat) (f : Group → Group) : (s.modGroup i f).walks = s.walks := rfl
@[simp] theorem State.modGroup_wq (i : Nat) (f : Group → Group) : (s.modGroup i f).wq = s.wq := rfl
@[simp] theorem State.modGroup_waits (i : Nat) (f : Group → Group) : (s.modGroup i f).waits = s.waits := rfl
@[simp] theorem State.modGroup_sets (i : Nat) (f : Group → Group) : (s.modGroup i f).sets = s.sets := rfl
@[simp] theorem State.modGroup_nextSet (i : Nat) (f : Group → Group) : (s.modGroup i f).nextSet = s.nextSet := rfl
@[simp] theorem State.modGroup_nextSend (i : Nat) (f : Group → Group) : (s.modGroup i f).nextSend = s.nextSend := rfl
@[simp] theorem State.modGroup_served (i : Nat) (f : Group → Group) : (s.modGroup i f).served = s.served := rfl
@[simp] theorem State.modGroup_groups (i : Nat) (f : Group → Group) : (s.modGroup i f).groups = s.groups.modify i f := rfl
@[simp] theorem State.modGroup_teams (i : Nat) (f : Group → Group) : (s.modGroup i f).teams = s.teams := rfl
@[simp] theorem State.modGroup_launches (i : Nat) (f : Group → Group) : (s.modGroup i f).launches = s.launches := rfl
@[simp] theorem State.modGroup_images (i : Nat) (f : Group → Group) : (s.modGroup i f).images = s.images := rfl
@[simp] theorem State.modGroup_built (i : Nat) (f : Group → Group) : (s.modGroup i f).built = s.built := rfl
@[simp] theorem State.modGroup_units (i : Nat) (f : Group → Group) : (s.modGroup i f).units = s.units := rfl
@[simp] theorem State.modGroup_clears (i : Nat) (f : Group → Group) : (s.modGroup i f).clears = s.clears := rfl
@[simp] theorem State.modGroup_nextLid (i : Nat) (f : Group → Group) : (s.modGroup i f).nextLid = s.nextLid := rfl
@[simp] theorem State.modGroup_am (i : Nat) (f : Group → Group) : (s.modGroup i f).am = s.am := rfl
@[simp] theorem State.modGroup_net (i : Nat) (f : Group → Group) : (s.modGroup i f).net = s.net := rfl
@[simp] theorem State.modGroup_dom (i : Nat) (f : Group → Group) : (s.modGroup i f).dom = s.dom := rfl
@[simp] theorem State.modGroup_ctxs (i : Nat) (f : Group → Group) : (s.modGroup i f).ctxs = s.ctxs := rfl
@[simp] theorem State.modGroup_stages (i : Nat) (f : Group → Group) : (s.modGroup i f).stages = s.stages := rfl
@[simp] theorem State.modGroup_coreRr (i : Nat) (f : Group → Group) : (s.modGroup i f).coreRr = s.coreRr := rfl
@[simp] theorem State.modGroup_posts (i : Nat) (f : Group → Group) : (s.modGroup i f).posts = s.posts := rfl
@[simp] theorem State.modGroup_hub (i : Nat) (f : Group → Group) : (s.modGroup i f).hub = s.hub := rfl
@[simp] theorem State.modGroup_rrLane (i : Nat) (f : Group → Group) : (s.modGroup i f).rrLane = s.rrLane := rfl
@[simp] theorem State.modGroup_rrScalar (i : Nat) (f : Group → Group) : (s.modGroup i f).rrScalar = s.rrScalar := rfl
@[simp] theorem State.modGroup_cpLt (i : Nat) (f : Group → Group) : (s.modGroup i f).cpLt = s.cpLt := rfl
@[simp] theorem State.modGroup_cpLast (i : Nat) (f : Group → Group) : (s.modGroup i f).cpLast = s.cpLast := rfl
@[simp] theorem State.modGroup_hostLt (i : Nat) (f : Group → Group) : (s.modGroup i f).hostLt = s.hostLt := rfl
@[simp] theorem State.modGroup_walkLt (i : Nat) (f : Group → Group) : (s.modGroup i f).walkLt = s.walkLt := rfl
@[simp] theorem State.modGroup_now (i : Nat) (f : Group → Group) : (s.modGroup i f).now = s.now := rfl

/-! ## modTeam -/

@[simp] theorem State.modTeam_cycle (i : Nat) (f : Team → Team) : (s.modTeam i f).cycle = s.cycle := rfl
@[simp] theorem State.modTeam_sched (i : Nat) (f : Team → Team) : (s.modTeam i f).sched = s.sched := rfl
@[simp] theorem State.modTeam_cur (i : Nat) (f : Team → Team) : (s.modTeam i f).cur = s.cur := rfl
@[simp] theorem State.modTeam_path1 (i : Nat) (f : Team → Team) : (s.modTeam i f).path1 = s.path1 := rfl
@[simp] theorem State.modTeam_mem (i : Nat) (f : Team → Team) : (s.modTeam i f).mem = s.mem := rfl
@[simp] theorem State.modTeam_sectors (i : Nat) (f : Team → Team) : (s.modTeam i f).sectors = s.sectors := rfl
@[simp] theorem State.modTeam_dirty (i : Nat) (f : Team → Team) : (s.modTeam i f).dirty = s.dirty := rfl
@[simp] theorem State.modTeam_ibuf (i : Nat) (f : Team → Team) : (s.modTeam i f).ibuf = s.ibuf := rfl
@[simp] theorem State.modTeam_pins (i : Nat) (f : Team → Team) : (s.modTeam i f).pins = s.pins := rfl
@[simp] theorem State.modTeam_l2pins (i : Nat) (f : Team → Team) : (s.modTeam i f).l2pins = s.l2pins := rfl
@[simp] theorem State.modTeam_l1 (i : Nat) (f : Team → Team) : (s.modTeam i f).l1 = s.l1 := rfl
@[simp] theorem State.modTeam_l1tlb (i : Nat) (f : Team → Team) : (s.modTeam i f).l1tlb = s.l1tlb := rfl
@[simp] theorem State.modTeam_dieTlb (i : Nat) (f : Team → Team) : (s.modTeam i f).dieTlb = s.dieTlb := rfl
@[simp] theorem State.modTeam_hubTlb (i : Nat) (f : Team → Team) : (s.modTeam i f).hubTlb = s.hubTlb := rfl
@[simp] theorem State.modTeam_walks (i : Nat) (f : Team → Team) : (s.modTeam i f).walks = s.walks := rfl
@[simp] theorem State.modTeam_wq (i : Nat) (f : Team → Team) : (s.modTeam i f).wq = s.wq := rfl
@[simp] theorem State.modTeam_waits (i : Nat) (f : Team → Team) : (s.modTeam i f).waits = s.waits := rfl
@[simp] theorem State.modTeam_sets (i : Nat) (f : Team → Team) : (s.modTeam i f).sets = s.sets := rfl
@[simp] theorem State.modTeam_nextSet (i : Nat) (f : Team → Team) : (s.modTeam i f).nextSet = s.nextSet := rfl
@[simp] theorem State.modTeam_nextSend (i : Nat) (f : Team → Team) : (s.modTeam i f).nextSend = s.nextSend := rfl
@[simp] theorem State.modTeam_served (i : Nat) (f : Team → Team) : (s.modTeam i f).served = s.served := rfl
@[simp] theorem State.modTeam_groups (i : Nat) (f : Team → Team) : (s.modTeam i f).groups = s.groups := rfl
@[simp] theorem State.modTeam_teams (i : Nat) (f : Team → Team) : (s.modTeam i f).teams = s.teams.modify i f := rfl
@[simp] theorem State.modTeam_launches (i : Nat) (f : Team → Team) : (s.modTeam i f).launches = s.launches := rfl
@[simp] theorem State.modTeam_images (i : Nat) (f : Team → Team) : (s.modTeam i f).images = s.images := rfl
@[simp] theorem State.modTeam_built (i : Nat) (f : Team → Team) : (s.modTeam i f).built = s.built := rfl
@[simp] theorem State.modTeam_units (i : Nat) (f : Team → Team) : (s.modTeam i f).units = s.units := rfl
@[simp] theorem State.modTeam_clears (i : Nat) (f : Team → Team) : (s.modTeam i f).clears = s.clears := rfl
@[simp] theorem State.modTeam_nextLid (i : Nat) (f : Team → Team) : (s.modTeam i f).nextLid = s.nextLid := rfl
@[simp] theorem State.modTeam_am (i : Nat) (f : Team → Team) : (s.modTeam i f).am = s.am := rfl
@[simp] theorem State.modTeam_net (i : Nat) (f : Team → Team) : (s.modTeam i f).net = s.net := rfl
@[simp] theorem State.modTeam_dom (i : Nat) (f : Team → Team) : (s.modTeam i f).dom = s.dom := rfl
@[simp] theorem State.modTeam_ctxs (i : Nat) (f : Team → Team) : (s.modTeam i f).ctxs = s.ctxs := rfl
@[simp] theorem State.modTeam_stages (i : Nat) (f : Team → Team) : (s.modTeam i f).stages = s.stages := rfl
@[simp] theorem State.modTeam_coreRr (i : Nat) (f : Team → Team) : (s.modTeam i f).coreRr = s.coreRr := rfl
@[simp] theorem State.modTeam_posts (i : Nat) (f : Team → Team) : (s.modTeam i f).posts = s.posts := rfl
@[simp] theorem State.modTeam_hub (i : Nat) (f : Team → Team) : (s.modTeam i f).hub = s.hub := rfl
@[simp] theorem State.modTeam_rrLane (i : Nat) (f : Team → Team) : (s.modTeam i f).rrLane = s.rrLane := rfl
@[simp] theorem State.modTeam_rrScalar (i : Nat) (f : Team → Team) : (s.modTeam i f).rrScalar = s.rrScalar := rfl
@[simp] theorem State.modTeam_cpLt (i : Nat) (f : Team → Team) : (s.modTeam i f).cpLt = s.cpLt := rfl
@[simp] theorem State.modTeam_cpLast (i : Nat) (f : Team → Team) : (s.modTeam i f).cpLast = s.cpLast := rfl
@[simp] theorem State.modTeam_hostLt (i : Nat) (f : Team → Team) : (s.modTeam i f).hostLt = s.hostLt := rfl
@[simp] theorem State.modTeam_walkLt (i : Nat) (f : Team → Team) : (s.modTeam i f).walkLt = s.walkLt := rfl
@[simp] theorem State.modTeam_now (i : Nat) (f : Team → Team) : (s.modTeam i f).now = s.now := rfl

/-! ## modLaunch -/

@[simp] theorem State.modLaunch_cycle (i : Nat) (f : Launch → Launch) : (s.modLaunch i f).cycle = s.cycle := rfl
@[simp] theorem State.modLaunch_sched (i : Nat) (f : Launch → Launch) : (s.modLaunch i f).sched = s.sched := rfl
@[simp] theorem State.modLaunch_cur (i : Nat) (f : Launch → Launch) : (s.modLaunch i f).cur = s.cur := rfl
@[simp] theorem State.modLaunch_path1 (i : Nat) (f : Launch → Launch) : (s.modLaunch i f).path1 = s.path1 := rfl
@[simp] theorem State.modLaunch_mem (i : Nat) (f : Launch → Launch) : (s.modLaunch i f).mem = s.mem := rfl
@[simp] theorem State.modLaunch_sectors (i : Nat) (f : Launch → Launch) : (s.modLaunch i f).sectors = s.sectors := rfl
@[simp] theorem State.modLaunch_dirty (i : Nat) (f : Launch → Launch) : (s.modLaunch i f).dirty = s.dirty := rfl
@[simp] theorem State.modLaunch_ibuf (i : Nat) (f : Launch → Launch) : (s.modLaunch i f).ibuf = s.ibuf := rfl
@[simp] theorem State.modLaunch_pins (i : Nat) (f : Launch → Launch) : (s.modLaunch i f).pins = s.pins := rfl
@[simp] theorem State.modLaunch_l2pins (i : Nat) (f : Launch → Launch) : (s.modLaunch i f).l2pins = s.l2pins := rfl
@[simp] theorem State.modLaunch_l1 (i : Nat) (f : Launch → Launch) : (s.modLaunch i f).l1 = s.l1 := rfl
@[simp] theorem State.modLaunch_l1tlb (i : Nat) (f : Launch → Launch) : (s.modLaunch i f).l1tlb = s.l1tlb := rfl
@[simp] theorem State.modLaunch_dieTlb (i : Nat) (f : Launch → Launch) : (s.modLaunch i f).dieTlb = s.dieTlb := rfl
@[simp] theorem State.modLaunch_hubTlb (i : Nat) (f : Launch → Launch) : (s.modLaunch i f).hubTlb = s.hubTlb := rfl
@[simp] theorem State.modLaunch_walks (i : Nat) (f : Launch → Launch) : (s.modLaunch i f).walks = s.walks := rfl
@[simp] theorem State.modLaunch_wq (i : Nat) (f : Launch → Launch) : (s.modLaunch i f).wq = s.wq := rfl
@[simp] theorem State.modLaunch_waits (i : Nat) (f : Launch → Launch) : (s.modLaunch i f).waits = s.waits := rfl
@[simp] theorem State.modLaunch_sets (i : Nat) (f : Launch → Launch) : (s.modLaunch i f).sets = s.sets := rfl
@[simp] theorem State.modLaunch_nextSet (i : Nat) (f : Launch → Launch) : (s.modLaunch i f).nextSet = s.nextSet := rfl
@[simp] theorem State.modLaunch_nextSend (i : Nat) (f : Launch → Launch) : (s.modLaunch i f).nextSend = s.nextSend := rfl
@[simp] theorem State.modLaunch_served (i : Nat) (f : Launch → Launch) : (s.modLaunch i f).served = s.served := rfl
@[simp] theorem State.modLaunch_groups (i : Nat) (f : Launch → Launch) : (s.modLaunch i f).groups = s.groups := rfl
@[simp] theorem State.modLaunch_teams (i : Nat) (f : Launch → Launch) : (s.modLaunch i f).teams = s.teams := rfl
@[simp] theorem State.modLaunch_launches (i : Nat) (f : Launch → Launch) : (s.modLaunch i f).launches = s.launches.modify i f := rfl
@[simp] theorem State.modLaunch_images (i : Nat) (f : Launch → Launch) : (s.modLaunch i f).images = s.images := rfl
@[simp] theorem State.modLaunch_built (i : Nat) (f : Launch → Launch) : (s.modLaunch i f).built = s.built := rfl
@[simp] theorem State.modLaunch_units (i : Nat) (f : Launch → Launch) : (s.modLaunch i f).units = s.units := rfl
@[simp] theorem State.modLaunch_clears (i : Nat) (f : Launch → Launch) : (s.modLaunch i f).clears = s.clears := rfl
@[simp] theorem State.modLaunch_nextLid (i : Nat) (f : Launch → Launch) : (s.modLaunch i f).nextLid = s.nextLid := rfl
@[simp] theorem State.modLaunch_am (i : Nat) (f : Launch → Launch) : (s.modLaunch i f).am = s.am := rfl
@[simp] theorem State.modLaunch_net (i : Nat) (f : Launch → Launch) : (s.modLaunch i f).net = s.net := rfl
@[simp] theorem State.modLaunch_dom (i : Nat) (f : Launch → Launch) : (s.modLaunch i f).dom = s.dom := rfl
@[simp] theorem State.modLaunch_ctxs (i : Nat) (f : Launch → Launch) : (s.modLaunch i f).ctxs = s.ctxs := rfl
@[simp] theorem State.modLaunch_stages (i : Nat) (f : Launch → Launch) : (s.modLaunch i f).stages = s.stages := rfl
@[simp] theorem State.modLaunch_coreRr (i : Nat) (f : Launch → Launch) : (s.modLaunch i f).coreRr = s.coreRr := rfl
@[simp] theorem State.modLaunch_posts (i : Nat) (f : Launch → Launch) : (s.modLaunch i f).posts = s.posts := rfl
@[simp] theorem State.modLaunch_hub (i : Nat) (f : Launch → Launch) : (s.modLaunch i f).hub = s.hub := rfl
@[simp] theorem State.modLaunch_rrLane (i : Nat) (f : Launch → Launch) : (s.modLaunch i f).rrLane = s.rrLane := rfl
@[simp] theorem State.modLaunch_rrScalar (i : Nat) (f : Launch → Launch) : (s.modLaunch i f).rrScalar = s.rrScalar := rfl
@[simp] theorem State.modLaunch_cpLt (i : Nat) (f : Launch → Launch) : (s.modLaunch i f).cpLt = s.cpLt := rfl
@[simp] theorem State.modLaunch_cpLast (i : Nat) (f : Launch → Launch) : (s.modLaunch i f).cpLast = s.cpLast := rfl
@[simp] theorem State.modLaunch_hostLt (i : Nat) (f : Launch → Launch) : (s.modLaunch i f).hostLt = s.hostLt := rfl
@[simp] theorem State.modLaunch_walkLt (i : Nat) (f : Launch → Launch) : (s.modLaunch i f).walkLt = s.walkLt := rfl
@[simp] theorem State.modLaunch_now (i : Nat) (f : Launch → Launch) : (s.modLaunch i f).now = s.now := rfl

/-! ## modCtx -/

@[simp] theorem State.modCtx_cycle (i : Nat) (f : Ctx → Ctx) : (s.modCtx i f).cycle = s.cycle := rfl
@[simp] theorem State.modCtx_sched (i : Nat) (f : Ctx → Ctx) : (s.modCtx i f).sched = s.sched := rfl
@[simp] theorem State.modCtx_cur (i : Nat) (f : Ctx → Ctx) : (s.modCtx i f).cur = s.cur := rfl
@[simp] theorem State.modCtx_path1 (i : Nat) (f : Ctx → Ctx) : (s.modCtx i f).path1 = s.path1 := rfl
@[simp] theorem State.modCtx_mem (i : Nat) (f : Ctx → Ctx) : (s.modCtx i f).mem = s.mem := rfl
@[simp] theorem State.modCtx_sectors (i : Nat) (f : Ctx → Ctx) : (s.modCtx i f).sectors = s.sectors := rfl
@[simp] theorem State.modCtx_dirty (i : Nat) (f : Ctx → Ctx) : (s.modCtx i f).dirty = s.dirty := rfl
@[simp] theorem State.modCtx_ibuf (i : Nat) (f : Ctx → Ctx) : (s.modCtx i f).ibuf = s.ibuf := rfl
@[simp] theorem State.modCtx_pins (i : Nat) (f : Ctx → Ctx) : (s.modCtx i f).pins = s.pins := rfl
@[simp] theorem State.modCtx_l2pins (i : Nat) (f : Ctx → Ctx) : (s.modCtx i f).l2pins = s.l2pins := rfl
@[simp] theorem State.modCtx_l1 (i : Nat) (f : Ctx → Ctx) : (s.modCtx i f).l1 = s.l1 := rfl
@[simp] theorem State.modCtx_l1tlb (i : Nat) (f : Ctx → Ctx) : (s.modCtx i f).l1tlb = s.l1tlb := rfl
@[simp] theorem State.modCtx_dieTlb (i : Nat) (f : Ctx → Ctx) : (s.modCtx i f).dieTlb = s.dieTlb := rfl
@[simp] theorem State.modCtx_hubTlb (i : Nat) (f : Ctx → Ctx) : (s.modCtx i f).hubTlb = s.hubTlb := rfl
@[simp] theorem State.modCtx_walks (i : Nat) (f : Ctx → Ctx) : (s.modCtx i f).walks = s.walks := rfl
@[simp] theorem State.modCtx_wq (i : Nat) (f : Ctx → Ctx) : (s.modCtx i f).wq = s.wq := rfl
@[simp] theorem State.modCtx_waits (i : Nat) (f : Ctx → Ctx) : (s.modCtx i f).waits = s.waits := rfl
@[simp] theorem State.modCtx_sets (i : Nat) (f : Ctx → Ctx) : (s.modCtx i f).sets = s.sets := rfl
@[simp] theorem State.modCtx_nextSet (i : Nat) (f : Ctx → Ctx) : (s.modCtx i f).nextSet = s.nextSet := rfl
@[simp] theorem State.modCtx_nextSend (i : Nat) (f : Ctx → Ctx) : (s.modCtx i f).nextSend = s.nextSend := rfl
@[simp] theorem State.modCtx_served (i : Nat) (f : Ctx → Ctx) : (s.modCtx i f).served = s.served := rfl
@[simp] theorem State.modCtx_groups (i : Nat) (f : Ctx → Ctx) : (s.modCtx i f).groups = s.groups := rfl
@[simp] theorem State.modCtx_teams (i : Nat) (f : Ctx → Ctx) : (s.modCtx i f).teams = s.teams := rfl
@[simp] theorem State.modCtx_launches (i : Nat) (f : Ctx → Ctx) : (s.modCtx i f).launches = s.launches := rfl
@[simp] theorem State.modCtx_images (i : Nat) (f : Ctx → Ctx) : (s.modCtx i f).images = s.images := rfl
@[simp] theorem State.modCtx_built (i : Nat) (f : Ctx → Ctx) : (s.modCtx i f).built = s.built := rfl
@[simp] theorem State.modCtx_units (i : Nat) (f : Ctx → Ctx) : (s.modCtx i f).units = s.units := rfl
@[simp] theorem State.modCtx_clears (i : Nat) (f : Ctx → Ctx) : (s.modCtx i f).clears = s.clears := rfl
@[simp] theorem State.modCtx_nextLid (i : Nat) (f : Ctx → Ctx) : (s.modCtx i f).nextLid = s.nextLid := rfl
@[simp] theorem State.modCtx_am (i : Nat) (f : Ctx → Ctx) : (s.modCtx i f).am = s.am := rfl
@[simp] theorem State.modCtx_net (i : Nat) (f : Ctx → Ctx) : (s.modCtx i f).net = s.net := rfl
@[simp] theorem State.modCtx_dom (i : Nat) (f : Ctx → Ctx) : (s.modCtx i f).dom = s.dom := rfl
@[simp] theorem State.modCtx_ctxs (i : Nat) (f : Ctx → Ctx) : (s.modCtx i f).ctxs = s.ctxs.modify i f := rfl
@[simp] theorem State.modCtx_stages (i : Nat) (f : Ctx → Ctx) : (s.modCtx i f).stages = s.stages := rfl
@[simp] theorem State.modCtx_coreRr (i : Nat) (f : Ctx → Ctx) : (s.modCtx i f).coreRr = s.coreRr := rfl
@[simp] theorem State.modCtx_posts (i : Nat) (f : Ctx → Ctx) : (s.modCtx i f).posts = s.posts := rfl
@[simp] theorem State.modCtx_hub (i : Nat) (f : Ctx → Ctx) : (s.modCtx i f).hub = s.hub := rfl
@[simp] theorem State.modCtx_rrLane (i : Nat) (f : Ctx → Ctx) : (s.modCtx i f).rrLane = s.rrLane := rfl
@[simp] theorem State.modCtx_rrScalar (i : Nat) (f : Ctx → Ctx) : (s.modCtx i f).rrScalar = s.rrScalar := rfl
@[simp] theorem State.modCtx_cpLt (i : Nat) (f : Ctx → Ctx) : (s.modCtx i f).cpLt = s.cpLt := rfl
@[simp] theorem State.modCtx_cpLast (i : Nat) (f : Ctx → Ctx) : (s.modCtx i f).cpLast = s.cpLast := rfl
@[simp] theorem State.modCtx_hostLt (i : Nat) (f : Ctx → Ctx) : (s.modCtx i f).hostLt = s.hostLt := rfl
@[simp] theorem State.modCtx_walkLt (i : Nat) (f : Ctx → Ctx) : (s.modCtx i f).walkLt = s.walkLt := rfl
@[simp] theorem State.modCtx_now (i : Nat) (f : Ctx → Ctx) : (s.modCtx i f).now = s.now := rfl

/-! ## modHub -/

@[simp] theorem State.modHub_cycle (f : Hub → Hub) : (s.modHub f).cycle = s.cycle := rfl
@[simp] theorem State.modHub_sched (f : Hub → Hub) : (s.modHub f).sched = s.sched := rfl
@[simp] theorem State.modHub_cur (f : Hub → Hub) : (s.modHub f).cur = s.cur := rfl
@[simp] theorem State.modHub_path1 (f : Hub → Hub) : (s.modHub f).path1 = s.path1 := rfl
@[simp] theorem State.modHub_mem (f : Hub → Hub) : (s.modHub f).mem = s.mem := rfl
@[simp] theorem State.modHub_sectors (f : Hub → Hub) : (s.modHub f).sectors = s.sectors := rfl
@[simp] theorem State.modHub_dirty (f : Hub → Hub) : (s.modHub f).dirty = s.dirty := rfl
@[simp] theorem State.modHub_ibuf (f : Hub → Hub) : (s.modHub f).ibuf = s.ibuf := rfl
@[simp] theorem State.modHub_pins (f : Hub → Hub) : (s.modHub f).pins = s.pins := rfl
@[simp] theorem State.modHub_l2pins (f : Hub → Hub) : (s.modHub f).l2pins = s.l2pins := rfl
@[simp] theorem State.modHub_l1 (f : Hub → Hub) : (s.modHub f).l1 = s.l1 := rfl
@[simp] theorem State.modHub_l1tlb (f : Hub → Hub) : (s.modHub f).l1tlb = s.l1tlb := rfl
@[simp] theorem State.modHub_dieTlb (f : Hub → Hub) : (s.modHub f).dieTlb = s.dieTlb := rfl
@[simp] theorem State.modHub_hubTlb (f : Hub → Hub) : (s.modHub f).hubTlb = s.hubTlb := rfl
@[simp] theorem State.modHub_walks (f : Hub → Hub) : (s.modHub f).walks = s.walks := rfl
@[simp] theorem State.modHub_wq (f : Hub → Hub) : (s.modHub f).wq = s.wq := rfl
@[simp] theorem State.modHub_waits (f : Hub → Hub) : (s.modHub f).waits = s.waits := rfl
@[simp] theorem State.modHub_sets (f : Hub → Hub) : (s.modHub f).sets = s.sets := rfl
@[simp] theorem State.modHub_nextSet (f : Hub → Hub) : (s.modHub f).nextSet = s.nextSet := rfl
@[simp] theorem State.modHub_nextSend (f : Hub → Hub) : (s.modHub f).nextSend = s.nextSend := rfl
@[simp] theorem State.modHub_served (f : Hub → Hub) : (s.modHub f).served = s.served := rfl
@[simp] theorem State.modHub_groups (f : Hub → Hub) : (s.modHub f).groups = s.groups := rfl
@[simp] theorem State.modHub_teams (f : Hub → Hub) : (s.modHub f).teams = s.teams := rfl
@[simp] theorem State.modHub_launches (f : Hub → Hub) : (s.modHub f).launches = s.launches := rfl
@[simp] theorem State.modHub_images (f : Hub → Hub) : (s.modHub f).images = s.images := rfl
@[simp] theorem State.modHub_built (f : Hub → Hub) : (s.modHub f).built = s.built := rfl
@[simp] theorem State.modHub_units (f : Hub → Hub) : (s.modHub f).units = s.units := rfl
@[simp] theorem State.modHub_clears (f : Hub → Hub) : (s.modHub f).clears = s.clears := rfl
@[simp] theorem State.modHub_nextLid (f : Hub → Hub) : (s.modHub f).nextLid = s.nextLid := rfl
@[simp] theorem State.modHub_am (f : Hub → Hub) : (s.modHub f).am = s.am := rfl
@[simp] theorem State.modHub_net (f : Hub → Hub) : (s.modHub f).net = s.net := rfl
@[simp] theorem State.modHub_dom (f : Hub → Hub) : (s.modHub f).dom = s.dom := rfl
@[simp] theorem State.modHub_ctxs (f : Hub → Hub) : (s.modHub f).ctxs = s.ctxs := rfl
@[simp] theorem State.modHub_stages (f : Hub → Hub) : (s.modHub f).stages = s.stages := rfl
@[simp] theorem State.modHub_coreRr (f : Hub → Hub) : (s.modHub f).coreRr = s.coreRr := rfl
@[simp] theorem State.modHub_posts (f : Hub → Hub) : (s.modHub f).posts = s.posts := rfl
@[simp] theorem State.modHub_hub (f : Hub → Hub) : (s.modHub f).hub = f s.hub := rfl
@[simp] theorem State.modHub_rrLane (f : Hub → Hub) : (s.modHub f).rrLane = s.rrLane := rfl
@[simp] theorem State.modHub_rrScalar (f : Hub → Hub) : (s.modHub f).rrScalar = s.rrScalar := rfl
@[simp] theorem State.modHub_cpLt (f : Hub → Hub) : (s.modHub f).cpLt = s.cpLt := rfl
@[simp] theorem State.modHub_cpLast (f : Hub → Hub) : (s.modHub f).cpLast = s.cpLast := rfl
@[simp] theorem State.modHub_hostLt (f : Hub → Hub) : (s.modHub f).hostLt = s.hostLt := rfl
@[simp] theorem State.modHub_walkLt (f : Hub → Hub) : (s.modHub f).walkLt = s.walkLt := rfl

/-! ## modDom -/

@[simp] theorem State.modDom_cycle (f : Domino → Domino) : (s.modDom f).cycle = s.cycle := rfl
@[simp] theorem State.modDom_sched (f : Domino → Domino) : (s.modDom f).sched = s.sched := rfl
@[simp] theorem State.modDom_cur (f : Domino → Domino) : (s.modDom f).cur = s.cur := rfl
@[simp] theorem State.modDom_path1 (f : Domino → Domino) : (s.modDom f).path1 = s.path1 := rfl
@[simp] theorem State.modDom_mem (f : Domino → Domino) : (s.modDom f).mem = s.mem := rfl
@[simp] theorem State.modDom_sectors (f : Domino → Domino) : (s.modDom f).sectors = s.sectors := rfl
@[simp] theorem State.modDom_dirty (f : Domino → Domino) : (s.modDom f).dirty = s.dirty := rfl
@[simp] theorem State.modDom_ibuf (f : Domino → Domino) : (s.modDom f).ibuf = s.ibuf := rfl
@[simp] theorem State.modDom_pins (f : Domino → Domino) : (s.modDom f).pins = s.pins := rfl
@[simp] theorem State.modDom_l2pins (f : Domino → Domino) : (s.modDom f).l2pins = s.l2pins := rfl
@[simp] theorem State.modDom_l1 (f : Domino → Domino) : (s.modDom f).l1 = s.l1 := rfl
@[simp] theorem State.modDom_l1tlb (f : Domino → Domino) : (s.modDom f).l1tlb = s.l1tlb := rfl
@[simp] theorem State.modDom_dieTlb (f : Domino → Domino) : (s.modDom f).dieTlb = s.dieTlb := rfl
@[simp] theorem State.modDom_hubTlb (f : Domino → Domino) : (s.modDom f).hubTlb = s.hubTlb := rfl
@[simp] theorem State.modDom_walks (f : Domino → Domino) : (s.modDom f).walks = s.walks := rfl
@[simp] theorem State.modDom_wq (f : Domino → Domino) : (s.modDom f).wq = s.wq := rfl
@[simp] theorem State.modDom_waits (f : Domino → Domino) : (s.modDom f).waits = s.waits := rfl
@[simp] theorem State.modDom_sets (f : Domino → Domino) : (s.modDom f).sets = s.sets := rfl
@[simp] theorem State.modDom_nextSet (f : Domino → Domino) : (s.modDom f).nextSet = s.nextSet := rfl
@[simp] theorem State.modDom_nextSend (f : Domino → Domino) : (s.modDom f).nextSend = s.nextSend := rfl
@[simp] theorem State.modDom_served (f : Domino → Domino) : (s.modDom f).served = s.served := rfl
@[simp] theorem State.modDom_groups (f : Domino → Domino) : (s.modDom f).groups = s.groups := rfl
@[simp] theorem State.modDom_teams (f : Domino → Domino) : (s.modDom f).teams = s.teams := rfl
@[simp] theorem State.modDom_launches (f : Domino → Domino) : (s.modDom f).launches = s.launches := rfl
@[simp] theorem State.modDom_images (f : Domino → Domino) : (s.modDom f).images = s.images := rfl
@[simp] theorem State.modDom_built (f : Domino → Domino) : (s.modDom f).built = s.built := rfl
@[simp] theorem State.modDom_units (f : Domino → Domino) : (s.modDom f).units = s.units := rfl
@[simp] theorem State.modDom_clears (f : Domino → Domino) : (s.modDom f).clears = s.clears := rfl
@[simp] theorem State.modDom_nextLid (f : Domino → Domino) : (s.modDom f).nextLid = s.nextLid := rfl
@[simp] theorem State.modDom_am (f : Domino → Domino) : (s.modDom f).am = s.am := rfl
@[simp] theorem State.modDom_net (f : Domino → Domino) : (s.modDom f).net = s.net := rfl
@[simp] theorem State.modDom_dom (f : Domino → Domino) : (s.modDom f).dom = f s.dom := rfl
@[simp] theorem State.modDom_ctxs (f : Domino → Domino) : (s.modDom f).ctxs = s.ctxs := rfl
@[simp] theorem State.modDom_stages (f : Domino → Domino) : (s.modDom f).stages = s.stages := rfl
@[simp] theorem State.modDom_coreRr (f : Domino → Domino) : (s.modDom f).coreRr = s.coreRr := rfl
@[simp] theorem State.modDom_posts (f : Domino → Domino) : (s.modDom f).posts = s.posts := rfl
@[simp] theorem State.modDom_hub (f : Domino → Domino) : (s.modDom f).hub = s.hub := rfl
@[simp] theorem State.modDom_rrLane (f : Domino → Domino) : (s.modDom f).rrLane = s.rrLane := rfl
@[simp] theorem State.modDom_rrScalar (f : Domino → Domino) : (s.modDom f).rrScalar = s.rrScalar := rfl
@[simp] theorem State.modDom_cpLt (f : Domino → Domino) : (s.modDom f).cpLt = s.cpLt := rfl
@[simp] theorem State.modDom_cpLast (f : Domino → Domino) : (s.modDom f).cpLast = s.cpLast := rfl
@[simp] theorem State.modDom_hostLt (f : Domino → Domino) : (s.modDom f).hostLt = s.hostLt := rfl
@[simp] theorem State.modDom_walkLt (f : Domino → Domino) : (s.modDom f).walkLt = s.walkLt := rfl
@[simp] theorem State.modDom_now (f : Domino → Domino) : (s.modDom f).now = s.now := rfl

/-! ## modAm -/

@[simp] theorem State.modAm_cycle (f : Am → Am) : (s.modAm f).cycle = s.cycle := rfl
@[simp] theorem State.modAm_sched (f : Am → Am) : (s.modAm f).sched = s.sched := rfl
@[simp] theorem State.modAm_cur (f : Am → Am) : (s.modAm f).cur = s.cur := rfl
@[simp] theorem State.modAm_path1 (f : Am → Am) : (s.modAm f).path1 = s.path1 := rfl
@[simp] theorem State.modAm_mem (f : Am → Am) : (s.modAm f).mem = s.mem := rfl
@[simp] theorem State.modAm_sectors (f : Am → Am) : (s.modAm f).sectors = s.sectors := rfl
@[simp] theorem State.modAm_dirty (f : Am → Am) : (s.modAm f).dirty = s.dirty := rfl
@[simp] theorem State.modAm_ibuf (f : Am → Am) : (s.modAm f).ibuf = s.ibuf := rfl
@[simp] theorem State.modAm_pins (f : Am → Am) : (s.modAm f).pins = s.pins := rfl
@[simp] theorem State.modAm_l2pins (f : Am → Am) : (s.modAm f).l2pins = s.l2pins := rfl
@[simp] theorem State.modAm_l1 (f : Am → Am) : (s.modAm f).l1 = s.l1 := rfl
@[simp] theorem State.modAm_l1tlb (f : Am → Am) : (s.modAm f).l1tlb = s.l1tlb := rfl
@[simp] theorem State.modAm_dieTlb (f : Am → Am) : (s.modAm f).dieTlb = s.dieTlb := rfl
@[simp] theorem State.modAm_hubTlb (f : Am → Am) : (s.modAm f).hubTlb = s.hubTlb := rfl
@[simp] theorem State.modAm_walks (f : Am → Am) : (s.modAm f).walks = s.walks := rfl
@[simp] theorem State.modAm_wq (f : Am → Am) : (s.modAm f).wq = s.wq := rfl
@[simp] theorem State.modAm_waits (f : Am → Am) : (s.modAm f).waits = s.waits := rfl
@[simp] theorem State.modAm_sets (f : Am → Am) : (s.modAm f).sets = s.sets := rfl
@[simp] theorem State.modAm_nextSet (f : Am → Am) : (s.modAm f).nextSet = s.nextSet := rfl
@[simp] theorem State.modAm_nextSend (f : Am → Am) : (s.modAm f).nextSend = s.nextSend := rfl
@[simp] theorem State.modAm_served (f : Am → Am) : (s.modAm f).served = s.served := rfl
@[simp] theorem State.modAm_groups (f : Am → Am) : (s.modAm f).groups = s.groups := rfl
@[simp] theorem State.modAm_teams (f : Am → Am) : (s.modAm f).teams = s.teams := rfl
@[simp] theorem State.modAm_launches (f : Am → Am) : (s.modAm f).launches = s.launches := rfl
@[simp] theorem State.modAm_images (f : Am → Am) : (s.modAm f).images = s.images := rfl
@[simp] theorem State.modAm_built (f : Am → Am) : (s.modAm f).built = s.built := rfl
@[simp] theorem State.modAm_units (f : Am → Am) : (s.modAm f).units = s.units := rfl
@[simp] theorem State.modAm_clears (f : Am → Am) : (s.modAm f).clears = s.clears := rfl
@[simp] theorem State.modAm_nextLid (f : Am → Am) : (s.modAm f).nextLid = s.nextLid := rfl
@[simp] theorem State.modAm_am (f : Am → Am) : (s.modAm f).am = f s.am := rfl
@[simp] theorem State.modAm_net (f : Am → Am) : (s.modAm f).net = s.net := rfl
@[simp] theorem State.modAm_dom (f : Am → Am) : (s.modAm f).dom = s.dom := rfl
@[simp] theorem State.modAm_ctxs (f : Am → Am) : (s.modAm f).ctxs = s.ctxs := rfl
@[simp] theorem State.modAm_stages (f : Am → Am) : (s.modAm f).stages = s.stages := rfl
@[simp] theorem State.modAm_coreRr (f : Am → Am) : (s.modAm f).coreRr = s.coreRr := rfl
@[simp] theorem State.modAm_posts (f : Am → Am) : (s.modAm f).posts = s.posts := rfl
@[simp] theorem State.modAm_hub (f : Am → Am) : (s.modAm f).hub = s.hub := rfl
@[simp] theorem State.modAm_rrLane (f : Am → Am) : (s.modAm f).rrLane = s.rrLane := rfl
@[simp] theorem State.modAm_rrScalar (f : Am → Am) : (s.modAm f).rrScalar = s.rrScalar := rfl
@[simp] theorem State.modAm_cpLt (f : Am → Am) : (s.modAm f).cpLt = s.cpLt := rfl
@[simp] theorem State.modAm_cpLast (f : Am → Am) : (s.modAm f).cpLast = s.cpLast := rfl
@[simp] theorem State.modAm_hostLt (f : Am → Am) : (s.modAm f).hostLt = s.hostLt := rfl
@[simp] theorem State.modAm_walkLt (f : Am → Am) : (s.modAm f).walkLt = s.walkLt := rfl
@[simp] theorem State.modAm_now (f : Am → Am) : (s.modAm f).now = s.now := rfl

end Sys2Proof.Machine
end

