-- ==== Sys2Proof/Laws/Words.lean ====
section
/-! SUPPORT. What a scalar word and a lane word can do: each next state is a stutter, a trap, a wait, or the effect. -/

namespace Sys2Proof.Machine

open Sys2Proof

/-! ## Scalar words -/

/-- A word that nothing holds back does what its effect says. -/
theorem scalExec_go {o : ScalOp} {s : State} {g : Group} {s1 : State} {vs : List Word} (h : ScalGo o s g s1 vs) :
    scalExec o s = match o.eff { s := s1, gi := s.cur, g := groupAt s1 s.cur, s0 := s } vs with
      | .trap t => .next (scalarTrap s s.cur g t.cause t.addr t.info)
      | .hold s2 => .next s2
      | .done s2 v next => match resultFails s.cur o s2 v with
        | some t => .next (scalarTrap s s.cur g t.cause t.addr t.info)
        | none => .next (writeResult s.cur o s2 v next) := by
  unfold scalExec
  simp only [h.group, h.run, h.pre, h.own, h.free, h.room, h.srcs]
  rfl

/-- Every next state of a scalar word: it stands where it stood, traps, begins a blocking wait, or its effect has been carried out on
the sources read. -/
theorem scalExec_cases {o : ScalOp} {s t : State} (h : scalExec o s = .next t) :
    t = s ∨ (∃ g c a i, s.groups[s.cur]? = some g ∧ t = scalarTrap s s.cur g c a i) ∨ t = enterWait s s.cur ∨
      ∃ g s1 vs, s.groups[s.cur]? = some g ∧ readSources s.cur o.srcs s = some (s1, vs) ∧
        (o.eff { s := s1, gi := s.cur, g := groupAt s1 s.cur, s0 := s } vs = .hold t ∨
          ∃ s2 v next, o.eff { s := s1, gi := s.cur, g := groupAt s1 s.cur, s0 := s } vs = .done s2 v next ∧
            t = writeResult s.cur o s2 v next) := by
  unfold scalExec at h
  split at h
  · cases h; exact .inl rfl
  · rename_i g hg
    dsimp only at h
    split at h
    · cases h; exact .inl rfl
    · split at h
      · cases h; exact .inr (.inl ⟨g, _, _, _, hg, rfl⟩)
      · split at h
        · cases h; exact .inr (.inl ⟨g, _, _, _, hg, rfl⟩)
        · split at h
          · cases h; exact .inl rfl
          · split at h
            · cases h; exact .inr (.inr (.inl rfl))
            · split at h
              · cases h; exact .inr (.inr (.inl rfl))
              · rename_i s1 vs hs
                split at h
                · cases h; exact .inr (.inl ⟨g, _, _, _, hg, rfl⟩)
                · rename_i he; cases h; exact .inr (.inr (.inr ⟨g, s1, vs, hg, hs, .inl he⟩))
                · rename_i s2 v next he
                  split at h
                  · cases h; exact .inr (.inl ⟨g, _, _, _, hg, rfl⟩)
                  · cases h; exact .inr (.inr (.inr ⟨g, s1, vs, hg, hs, .inr ⟨s2, v, next, he, rfl⟩⟩))

/-- A scalar word never faults and is never refused. -/
theorem scalExec_next (o : ScalOp) (s : State) : ∃ t, scalExec o s = .next t := by
  unfold scalExec
  split
  · exact ⟨_, rfl⟩
  · dsimp only
    repeat' split
    all_goals exact ⟨_, rfl⟩

/-! ## Lane words -/

/-- A lane word that nothing holds back: its own checks, its own waits, its effect. -/
theorem laneExec_go {maj : Nat} {w : LaneW} {s : State} {g : Group} {own : LaneIn → Option LTrap} {wait : LaneIn → Bool}
    {eff : LaneIn → State} (h : LaneGo maj w s g) :
    laneExec maj w s own wait eff = match own (laneIn maj w s g) with
      | some t => .next (laneTrap s s.cur g s.path1 t.cause t.lanes t.addr t.info)
      | none => if wait (laneIn maj w s g) then .next s else .next (eff (laneIn maj w s g)) := by
  unfold laneExec
  have hc := h.checks
  have hf := h.free
  unfold laneIn at hc hf
  simp only [h.group, h.run, h.gap, hc, hf]
  rfl

/-- A lane word with no check and no wait of its own carries out its effect. -/
theorem laneMap_go {maj : Nat} {w : LaneW} {s : State} {g : Group} {f : LaneIn → Nat → Lane → Lane} (h : LaneGo maj w s g) :
    laneMap maj w s f =
      .next (s.setGroup s.cur (advance (laneIn maj w s g) none
        (mapLanes g (acting (laneIn maj w s g)) (f (laneIn maj w s g))))) := by
  unfold laneMap
  rw [laneExec_go h]
  rfl

/-- Every next state of a lane word: it stands where it stood, traps, or its effect has been carried out. -/
theorem laneExec_cases {maj : Nat} {w : LaneW} {s t : State} {own : LaneIn → Option LTrap} {wait : LaneIn → Bool}
    {eff : LaneIn → State} (h : laneExec maj w s own wait eff = .next t) :
    t = s ∨ (∃ g c ls a i, s.groups[s.cur]? = some g ∧ t = laneTrap s s.cur g s.path1 c ls a i) ∨
      ∃ g, s.groups[s.cur]? = some g ∧ own (laneIn maj w s g) = none ∧ wait (laneIn maj w s g) = false ∧
        t = eff (laneIn maj w s g) := by
  unfold laneExec at h
  split at h
  · cases h; exact .inl rfl
  · rename_i g hg
    split at h
    · cases h; exact .inl rfl
    · dsimp only at h
      split at h
      · cases h; exact .inr (.inl ⟨g, _, _, _, _, hg, rfl⟩)
      · split at h
        · cases h; exact .inr (.inl ⟨g, _, _, _, _, hg, rfl⟩)
        · split at h
          · cases h; exact .inl rfl
          · split at h
            · cases h; exact .inr (.inl ⟨g, _, _, _, _, hg, rfl⟩)
            · rename_i ho
              split at h
              · cases h; exact .inl rfl
              · rename_i hw; cases h; exact .inr (.inr ⟨g, hg, ho, Bool.eq_false_iff.mpr hw, rfl⟩)

/-- A lane word never faults and is never refused. -/
theorem laneExec_next (maj : Nat) (w : LaneW) (s : State) (own : LaneIn → Option LTrap) (wait : LaneIn → Bool)
    (eff : LaneIn → State) : ∃ t, laneExec maj w s own wait eff = .next t := by
  unfold laneExec
  split
  · exact ⟨_, rfl⟩
  · dsimp only
    repeat' split
    all_goals exact ⟨_, rfl⟩

end Sys2Proof.Machine
end

