-- ==== Sys2Proof/Tests/World.lean ====
section
/-! SUPPORT. Small states for the tests and witnesses: one team of one group of eight lanes in context 0, with a scalar or a lane word
due, and changes to it. -/

namespace Sys2Proof.Tests

open Sys2Proof Sys2Proof.Machine

set_option Elab.async false

/-- A scalar stream about to run; its group. -/
def sca : State := State.reset.withFetchWord 32 0
def scaG : Group := groupAt sca 0
/-- A lane block about to run its first word; its group. -/
def lan : State := State.reset.withFetchWord 96 0
def lanG : Group := groupAt lan 0

/-- The state with its group changed. -/
def onG (s : State) (f : Group → Group) : State := s.modGroup 0 f
/-- The group with scalar registers set. -/
def regs (l : List (Nat × Nat)) (g : Group) : Group := l.foldl (fun h p => setSreg h p.1 (w64 p.2)) g
/-- The group with one v-register set in a lane. -/
def vset (i r v : Nat) (g : Group) : Group := { g with lanes := g.lanes.modify i fun l => l.setV r (BitVec.ofNat 32 v) }
/-- The state with bytes at an offset of the placed page. -/
def data (off : Nat) (bs : List Byte) (s : State) : State := { s with mem := setBytes s.mem (placedGpn * 65536 + off) bs }
/-- The state with the placed page in the TLB of core 0. -/
def warm (s : State) : State := { s with l1tlb := [(0, { ctx := 0, vpn := 1, pte := w64 (placedGpn * 65536 + 7) })] }

/-- A lane word over v1 to v4. -/
def lw : LaneW :=
  { safe := false, look := 0, g := 7, n := false, vd := 1, va := 2, vb := 3, vc := 4, ty := .i32, rnd := .dflt, scope := .grp, i := false,
    opx := 0, imm := 0 }

/-- A handler image at VA 0x19000 that the trap hardware has checked: `.scalar` of two words at offset 128, one lane word. -/
def handlerIm : Image :=
  { va := 0x19000, width := 8, regs := 192, cims := 4, wins := 0, sram := 256, sofs := 128, slen := 8, lofs := 144, lwords := 1, dofs := 256,
    dlen := 0, total := 256, vtos := 0 }
/-- A vector table at VA 0x18000 whose entries 0 to 11 all name that image, frames at VA 0x1A000. -/
def vectored (s : State) : State :=
  let t := data 0x8000 ((List.range 12).flatMap fun _ => leBytes 8 0x19000 ++ leBytes 8 0) { s with images := s.images ++ [handlerIm] }
  t.modCtx 0 fun c => { c with tvec := 0x18001, harea := 0x1A000, checked := (List.range 12).map fun k => (k, 0x19000, 0) }

/-- The group whose turn it is. -/
def grp (s : State) : Group := groupAt s s.cur

theorem idle_of {s : State} (h : s.groups[s.cur]? = some (grp s) ∧ scalarMayRun (grp s) = true ∧
    (∀ a ∈ s.sets, a.party ≠ .scalar s.cur) ∧ blocksOutstanding (grp s) = false ∧ (grp s).region = none) : Claim.ScalarIdle s (grp s) :=
  ⟨h.1, h.2.1, h.2.2.1, h.2.2.2.1, h.2.2.2.2⟩

theorem may_of {s : State} (h : s.groups[s.cur]? = some (grp s) ∧ scalarMayRun (grp s) = true ∧
    ∀ a ∈ s.sets, a.party = .scalar s.cur → unsettled a = false) : Claim.ScalarMay s (grp s) := ⟨h.1, h.2.1, h.2.2⟩

theorem issues_of {s : State} {g : Group} {a : ASet} (h : allTranslated s (g.quad / 4) (ctxIx s g) (kindX a.kind) a.accs = true ∧
    afterChecks s (withPages s (g.quad / 4) (ctxIx s g) a) = none) : Claim.Issues s g a := ⟨h.1, h.2⟩

theorem go_of {maj : Nat} {w : LaneW} {s : State} (h : s.groups[s.cur]? = some (grp s) ∧ laneMayRun s (grp s) s.path1 = true ∧
    ((grp s).frame.isNone && decide (4096 ≤ (grp s).gap)) = false ∧ laneChecks (laneIn maj w s (grp s)) = none ∧
    interlocked (laneIn maj w s (grp s)) = false) : LaneGo maj w s (grp s) := ⟨h.1, h.2.1, h.2.2.1, h.2.2.2.1, h.2.2.2.2⟩

theorem go_at {maj : Nat} {w : LaneW} {s : State} {g : Group} (h : s.groups[s.cur]? = some g ∧ laneMayRun s g s.path1 = true ∧
    (g.frame.isNone && decide (4096 ≤ g.gap)) = false ∧ laneChecks (laneIn maj w s g) = none ∧ interlocked (laneIn maj w s g) = false) :
    LaneGo maj w s g := ⟨h.1, h.2.1, h.2.2.1, h.2.2.2.1, h.2.2.2.2⟩

/-- The next state of an outcome. -/
def out (o : Out) : State := match o with | .next t => t | _ => State.reset
/-- The outcome is a next state. -/
def ran (o : Out) : Bool := match o with | .next _ => true | _ => false

end Sys2Proof.Tests
end

