-- ==== Sys2Proof/Tests/WitScalar.lean ====
section
/-! SUPPORT. Witnesses of the statements about scalar words: for each, states and operands that meet its hypotheses, one for each clause. -/

namespace Sys2Proof.Tests

open Sys2Proof Sys2Proof.Machine

set_option Elab.async false

theorem witness_ScalarArithmetic :
    (∃ i s g d rs f, Claim.regForm i = some (d, rs, f) ∧ Claim.ScalarIdle s g ∧ Claim.plain d ∧ ∀ r ∈ rs, Claim.plain r) ∧
    (∃ i s g d rs f, Claim.immForm i = some (d, rs, f) ∧ Claim.ScalarIdle s g ∧ Claim.plain d ∧ ∀ r ∈ rs, Claim.plain r) :=
  ⟨⟨.sdivReg 47 0 47 0, sca, grp sca, 47, [0, 47], _, rfl, idle_of (by decide +kernel), by decide +kernel⟩,
   ⟨.saddImm 47 0 0x2000, sca, grp sca, 47, [0], _, rfl, idle_of (by decide +kernel), by decide +kernel⟩⟩

/-- A word stands in q5 of the group. -/
def q5World : State := onG sca fun g => { g with q5 := [(7, 3)] }

theorem witness_ScalarPorts :
    (∃ s g d a b s1 x y, Claim.ScalarIdle s g ∧ Claim.plain d ∧ portFails [a, b] (some d) = none ∧
      readSources s.cur [a, b] s = some (s1, [x, y])) ∧
    (∃ (s : State) (g : Group) (d a : SReg), Claim.ScalarIdle s g ∧ isPort d = true ∧ Claim.plain a ∧ portFails [a] (some d) = none ∧
      pushRoom s s.cur (portOf d) = true ∧ pushCheck s s.cur (portOf d) (sreg g a.toNat) = none) ∧
    (∃ (s : State) (g : Group) (d a b : SReg), s.groups[s.cur]? = some g ∧ scalarMayRun g = true ∧ portFails [a, b] (some d) = none ∧ isPort d = true) :=
  ⟨⟨q5World, grp q5World, 1, 53, 0, out (.next (onG q5World fun g => { g with q5 := [], slt := 3 })), 7, 0x10000,
      idle_of (by decide +kernel), by decide +kernel⟩,
   ⟨sca, grp sca, 56, 0, idle_of (by decide +kernel), by decide +kernel⟩,
   ⟨sca, grp sca, 56, 0, 1, by decide +kernel⟩⟩

theorem witness_ScalarTransfersAndTraps :
    (∃ s g, Claim.ScalarIdle s g ∧ (∃ (c : BitVec 3) (a b : SReg), c.toNat < 6 ∧ Claim.plain a ∧ Claim.plain b) ∧
      ∃ a : SReg, Claim.plain a ∧ (sreg g a.toNat).toNat % 4 = 0) ∧
    (∃ s g, Claim.ScalarIdle s g ∧ (∃ a : SReg, Claim.plain a ∧ (sreg g a.toNat).toNat % 4 ≠ 0) ∧ ∃ c : BitVec 3, 6 ≤ c.toNat) :=
  ⟨⟨sca, grp sca, idle_of (by decide +kernel), ⟨5, 47, 0, by decide +kernel⟩, 0, by decide +kernel⟩,
   ⟨onG sca (regs [(1, 2)]), grp (onG sca (regs [(1, 2)])), idle_of (by decide +kernel), ⟨1, by decide +kernel⟩, 6, by decide⟩⟩

/-- A lane block runs and three wait. -/
def fourBlocks : State := onG sca fun g =>
  { g with block := some { lofs := 0, snap := [], lt := 0 }, queue := List.replicate 3 { lofs := 1, snap := [], lt := 2 } }
/-- The group waits at its team's barrier, whose generation has advanced past its own. -/
def releasedWorld : State :=
  (onG sca fun g => { g with wait := .barrier 0 0 }).modTeam 0 fun t => { t with bar := { gen := 1, arrived := [], lt := 0, rel := 9 } }

theorem witness_BlocksAndBarriersOfScalar :
    (∃ s g, ∃ o : BitVec 24, Claim.ScalarMay s g ∧ g.region = none ∧ o.toNat < (imageOf s g).lwords ∧
      ((imageOf s g).vtos = 0 ∨ blocksOutstanding g = false) ∧ g.queue.length + g.block.isSome.toNat < 4) ∧
    (∃ s g, ∃ o : BitVec 24, Claim.ScalarMay s g ∧ g.region = none ∧ o.toNat < (imageOf s g).lwords ∧
      ((imageOf s g).vtos = 0 ∨ blocksOutstanding g = false) ∧ 4 ≤ g.queue.length + g.block.isSome.toNat) ∧
    (∃ s g, ∃ k : BitVec 2, Claim.ScalarIdle s g ∧ k.toNat < 3 ∧ (k = 0 ∨ coop s g = true) ∧ ∀ l n, g.wait ≠ .barrier l n) ∧
    (∃ s g, ∃ k : BitVec 2, ∃ l n, Claim.ScalarIdle s g ∧ k.toNat < 3 ∧ (k = 0 ∨ coop s g = true) ∧ g.wait = .barrier l n ∧
      n < (Claim.level s g k).gen) ∧
    (∃ s g, ∃ k : BitVec 2, Claim.ScalarIdle s g ∧ k.toNat < 3 ∧ k ≠ 0 ∧ coop s g = false) :=
  have hw : (grp sca).wait = .none := by decide +kernel
  ⟨⟨sca, grp sca, 1, may_of (by decide +kernel), by decide +kernel, by decide +kernel, .inl (by decide +kernel), by decide +kernel⟩,
   ⟨fourBlocks, grp fourBlocks, 1, may_of (by decide +kernel), by decide +kernel, by decide +kernel, .inl (by decide +kernel), by decide +kernel⟩,
   ⟨sca, grp sca, 0, idle_of (by decide +kernel), by decide, .inl rfl, fun l n h => by rw [hw] at h; cases h⟩,
   ⟨releasedWorld, grp releasedWorld, 0, 0, 0, idle_of (by decide +kernel), by decide, .inl rfl, by decide +kernel⟩,
   ⟨sca, grp sca, 2, idle_of (by decide +kernel), by decide +kernel⟩⟩

theorem witness_LsyncWaitsForBlocks :
    (∃ s g, Claim.ScalarMay s g ∧ blocksOutstanding g = false) ∧ (∃ s g, Claim.ScalarMay s g ∧ blocksOutstanding g = true) :=
  ⟨⟨sca, grp sca, may_of (by decide +kernel), by decide +kernel⟩, ⟨fourBlocks, grp fourBlocks, may_of (by decide +kernel), by decide +kernel⟩⟩

/-- The context forbids the placement registers and CYCLE. -/
def closedWorld : State := sca.modCtx 0 fun c => { c with ctl := 0x10001 }
/-- A frame of a handler. -/
def aFrame (cause : Cause) : Frame :=
  { p0 := freshPath 0xFF, p1 := none, dualJ := 0, block := none, queue := [], part := 1, cvmode := 2, cvseed := 3, sr := [], prog := 4, gap := 5,
    image := 0, area := 0x12000, swap := false, cause := cause, wait := .none, spc := 0x10100 }
/-- The group runs a handler. -/
def handling (cause : Cause) : State := onG sca fun g => { g with frame := some (aFrame cause), trap := { g.trap with tspc := 0x10104, tlpc0 := 1 } }

theorem witness_ScalarSpecialRegisters :
    (∃ s g, ∃ d : SReg, Claim.ScalarIdle s g ∧ Claim.plain d ∧ (ctxOf s g).ctl.getLsbD 2 = true ∧ (ctxOf s g).ctl.getLsbD 1 = true) ∧
    (∃ s g, ∃ d : SReg, Claim.ScalarIdle s g ∧ Claim.plain d ∧ (ctxOf s g).ctl.getLsbD 2 = false ∧ (ctxOf s g).ctl.getLsbD 1 = false) ∧
    (∃ s g, ∃ a : SReg, Claim.ScalarIdle s g ∧ Claim.plain a ∧ (sreg g a.toNat).toNat % 8 < 5 ∧
      cvmodeOk ((sreg g a.toNat).toNat % 2 ^ 32) = true ∧ g.frame = none) ∧
    (∃ s g, ∃ a : SReg, Claim.ScalarIdle s g ∧ Claim.plain a ∧ g.frame.isSome = true) :=
  ⟨⟨sca, grp sca, 47, idle_of (by decide +kernel), by decide +kernel⟩,
   ⟨closedWorld, grp closedWorld, 47, idle_of (by decide +kernel), by decide +kernel⟩,
   ⟨sca, grp sca, 1, idle_of (by decide +kernel), by decide +kernel⟩,
   ⟨handling 0x29, grp (handling 0x29), 1, idle_of (by decide +kernel), by decide +kernel⟩⟩

end Sys2Proof.Tests
end

