-- ==== Sys2Proof/Tests/WitTrap.lean ====
section
/-! SUPPORT. Witnesses of the statements about traps, handlers and the end of a group. -/

namespace Sys2Proof.Tests

open Sys2Proof Sys2Proof.Machine

set_option Elab.async false

/-- A pending scalar trap. -/
def pended (c : Cause) : Pending :=
  { cause := c, lane := false, path1 := false, spc := 0x10104, lpc := 0, lanes := 0, addr := 0x77, info := 5 }
/-- What finding the handler of a cause leaves, with the image and SPC of the handler. -/
def foundHandler (s : State) (c : Cause) : State × Nat × Word := (Claim.handler s (grp s) c).getD (s, 0, 0)
def handled : State := vectored sca
/-- The group has lane state and waits when the trap comes. -/
def busyHandled : State := onG (vectored lan) fun g => { g with part := 2, cvmode := 1, cvseed := 9, ifc := [1, 2, 3, 4] }

theorem witness_TrapEntry :
    (∃ (s : State) (gi : Nat) (g : Group) (p : Pending), ∃ s2 img spc, s.groups[gi]? = some g ∧ g.frame = none ∧ g.s.length = 48 ∧ g.p1 = none ∧
      Claim.handler s g p.cause = some (s2, img, spc) ∧ p.cause ≠ Tc.resumeRestore) :=
  ⟨busyHandled, 0, grp busyHandled, pended 0x29, (foundHandler busyHandled 0x29).1, 1, 0x19080, by decide +kernel⟩

/-- The handler runs, the translation of its frame area in the TLB. -/
def atFrame (c : Cause) : State := warm (handling c)
/-- ERET has issued its load, which is answered; the trap swapped two paths, and an access of the lane stream at LPC 1 was kept. -/
def reloading : State :=
  let f : Frame := { aFrame 0x29 with p1 := some (freshPath 0xF0), swap := true }
  let s := out (exec .eret (onG (atFrame 0x29) fun g => { g with frame := some f }))
  { s with sets := s.sets.map fun a => { a with
      accs := a.accs.map fun x => { x with got := 0x30002, done := true }
      spans := a.spans.map fun p => { p with done := true, sent := true, wts := 3, rts := 100 } } }
/-- That set. -/
def reloadSet : ASet := (setAt reloading 0).getD (Claim.scalarAccess reloading (grp reloading) .load 0 0 0 .none)

theorem witness_HandlersAndExits_1 :
    (∃ (s : State) (gi : Nat) (g : Group), s.groups[gi]? = some g ∧ g.frame.isSome = true) ∧
    (∃ (s : State) (gi : Nat) (g : Group), ∃ p : Pending, s.groups[gi]? = some g ∧ g.frame = none ∧ Claim.handler s g p.cause = none) :=
  ⟨⟨handling 0x29, 0, grp (handling 0x29), by decide +kernel⟩,
   ⟨sca, 0, grp sca, pended 0x29, by decide +kernel⟩⟩

theorem witness_HandlersAndExits_2 :
    (∃ (s : State) (g : Group), s.groups[s.cur]? = some g ∧ scalarMayRun g = true ∧ g.frame = none) ∧
    (∃ (s : State) (g : Group) (f : Frame), s.groups[s.cur]? = some g ∧ scalarMayRun g = true ∧ g.frame = some f ∧ ∃ a ∈ s.sets, ofGroup s.cur a = true) ∧
    (∃ (s : State) (g : Group) (f : Frame), s.groups[s.cur]? = some g ∧ scalarMayRun g = true ∧ g.frame = some f ∧ (∀ a ∈ s.sets, ofGroup s.cur a = false) ∧
      blocksOutstanding g = true) ∧
    (∃ (s : State) (g : Group) (f : Frame), s.groups[s.cur]? = some g ∧ scalarMayRun g = true ∧ g.frame = some f ∧ (∀ a ∈ s.sets, ofGroup s.cur a = false) ∧
      blocksOutstanding g = false ∧ f.cause = Tc.preemptSave) ∧
    (∃ (s : State) (g : Group) (f : Frame), s.groups[s.cur]? = some g ∧ scalarMayRun g = true ∧ g.frame = some f ∧ (∀ a ∈ s.sets, ofGroup s.cur a = false) ∧
      blocksOutstanding g = false ∧ f.cause ≠ Tc.preemptSave ∧ Claim.Issues s g (Claim.scalarAccess s g .load f.area 32 0 .reload)) ∧
    (∃ (s : State) (g : Group) (f : Frame) (a : ASet) (q : Path), s.groups[s.cur]? = some g ∧ scalarMayRun g = true ∧ g.frame = some f ∧ setAt s a.id = some a ∧ a.dest = .reload ∧
      a.party = .scalar s.cur ∧ a.kind = .load ∧ a.phase = .ready ∧ a.sram = false ∧ a.ifc = 4 ∧ mayCommit s a = true ∧
      leasesRun a g.slt = true ∧ g.s.length = 48 ∧ f.p1 = some q) :=
  let queued := onG (handling 0x29) fun g => { g with queue := [{ lofs := 0, snap := [], lt := 0 }] }
  ⟨⟨sca, grp sca, by decide +kernel⟩,
   ⟨reloading, grp reloading, (grp reloading).frame.getD (aFrame 0), by decide +kernel⟩,
   ⟨queued, grp queued, aFrame 0x29, by decide +kernel⟩,
   ⟨handling 0xB7, grp (handling 0xB7), aFrame 0xB7, by decide +kernel⟩,
   ⟨atFrame 0x29, grp (atFrame 0x29), aFrame 0x29, by decide +kernel, by decide +kernel, by decide +kernel, by decide +kernel, by decide +kernel,
      by decide, issues_of (by decide +kernel)⟩,
   ⟨reloading, grp reloading, (grp reloading).frame.getD (aFrame 0), reloadSet, freshPath 0xF0, by decide +kernel⟩⟩

/-- Words of a command that is not whole stand in the copy engine. -/
def halfCommand : State := onG sca fun g => { g with copy := { g.copy with partWords := [1] } }

theorem witness_HandlersAndExits_3 :
    (∃ (s : State) (g : Group), s.groups[s.cur]? = some g ∧ scalarMayRun g = true ∧
      ¬((landedGroup s s.cur).copy.partWords = [] ∧ (landedGroup s s.cur).fabric.partWords = [])) ∧
    (∃ (s : State) (g : Group), s.groups[s.cur]? = some g ∧ scalarMayRun g = true ∧ (landedGroup s s.cur).copy.partWords = [] ∧
      (landedGroup s s.cur).fabric.partWords = [] ∧ (landedGroup s s.cur).q4 ≠ []) ∧
    (∀ b : Bool, ∃ (s : State) (g : Group), s.groups[s.cur]? = some g ∧ scalarMayRun g = true ∧ (landedGroup s s.cur).copy.partWords = [] ∧
      (landedGroup s s.cur).fabric.partWords = [] ∧ (landedGroup s s.cur).q4 = [] ∧
      (blocksOutstanding g || s.sets.any (ofGroup s.cur) || cmdsLeft g.copy || cmdsLeft g.fabric || regionLive s g) = b) :=
  let record := onG sca fun g => { g with q4 := [1] }
  ⟨⟨halfCommand, grp halfCommand, by decide +kernel⟩,
   ⟨record, grp record, by decide +kernel⟩,
   fun b => match b with
     | false => ⟨sca, grp sca, by decide +kernel⟩
     | true => ⟨onG sca fun g => { g with queue := [{ lofs := 0, snap := [], lt := 0 }] }, _, rfl, by decide +kernel⟩⟩

/-- The state of STRAP once SPC stands at the next word. -/
def strapped (s : State) : State := s.setGroup s.cur (Claim.went ((grp s).spc + 4) (grp s))
/-- A lane block with a trap word due. -/
def vtrapWord : LaneW := { lw with va := 5, vd := 0, vb := 0, vc := 0, imm := 0x2C, ty := .b32 }
def vtrapWorld : State := vectored (onG lan (vset 0 5 0x1234))
def trapped (s : State) (w : LaneW) : State := s.setGroup s.cur (advance (laneIn 0xC4 w s (grp s)) none (grp s))

theorem delivers_of {s : State} {gi : Nat} {c : Cause} {s2 : State} {img : Nat} {spc : Word}
    (h : (∀ a ∈ s.sets, ofGroup gi a = false) ∧ (groupAt s gi).region = none ∧ (groupAt s gi).frame = none ∧
      handlerReady s ((groupAt s gi).quad / 4) (ctxIx s (groupAt s gi)) c = true ∧ Claim.handler s (groupAt s gi) c = some (s2, img, spc)) :
    Claim.Delivers s gi (groupAt s gi) c s2 img spc := ⟨h.1, h.2.1, h.2.2.1, h.2.2.2.1, h.2.2.2.2⟩

theorem witness_SoftwareTraps :
    (∃ s s1 g g1 v s2 img spc, ∃ (a : SReg) (c : BitVec 8), Claim.ScalarIdle s g ∧ Tc.software c = true ∧ portFails [a] none = none ∧
      readSources s.cur [a] s = some (s1, [v]) ∧ s1.groups[s.cur]? = some g1 ∧
      Claim.Delivers (s1.setGroup s.cur (Claim.went (g1.spc + 4) g1)) s.cur (Claim.went (g1.spc + 4) g1) c s2 img spc) ∧
    (∃ s g, ∃ c : BitVec 8, Claim.ScalarIdle s g ∧ Tc.software c = false) ∧
    (∃ w s g, LaneGo 0xC4 w s g ∧ acting (laneIn 0xC4 w s g) = []) ∧
    (∃ w s g n r s2 img spc, let h := advance (laneIn 0xC4 w s g) none g
      LaneGo 0xC4 w s g ∧ acting (laneIn 0xC4 w s g) = n :: r ∧ Claim.Delivers (s.setGroup s.cur h) s.cur h (w.imm.setWidth 8) s2 img spc) :=
  ⟨⟨handled, handled, grp handled, grp handled, 0, (foundHandler (strapped handled) 0xBF).1, 1, 0x19080, 1, 0xBF, idle_of (by decide +kernel), by decide,
      by decide, by decide +kernel, by decide +kernel,
      (by have := delivers_of (s := strapped handled) (gi := 0) (c := 0xBF) (s2 := (foundHandler (strapped handled) 0xBF).1) (img := 1)
            (spc := 0x19080) (by decide +kernel); exact this)⟩,
   ⟨sca, grp sca, 0x28, idle_of (by decide +kernel), by decide⟩,
   ⟨{ vtrapWord with n := true }, lan, grp lan, go_of (by decide +kernel), by decide +kernel⟩,
   ⟨vtrapWord, vtrapWorld, grp vtrapWorld, 0, [1, 2, 3, 4, 5, 6, 7], (foundHandler (trapped vtrapWorld vtrapWord) 0x2C).1, 1, 0x19080,
      go_of (by decide +kernel), by decide +kernel,
      (by have := delivers_of (s := trapped vtrapWorld vtrapWord) (gi := 0) (c := 0x2C) (s2 := (foundHandler (trapped vtrapWorld vtrapWord) 0x2C).1) (img := 1)
            (spc := 0x19080) (by decide +kernel); exact this)⟩⟩

end Sys2Proof.Tests
end

