-- ==== Sys2Proof/Tests/WitScalarMem.lean ====
section
/-! SUPPORT. Witnesses of the statements about scalar memory words, waits and LIMM. -/

namespace Sys2Proof.Tests

open Sys2Proof Sys2Proof.Machine

set_option Elab.async false

/-- s1 holds the VA of data in the placed page, whose translation is in the TLB. -/
def atData : State := warm (onG sca (regs [(1, 0x10800), (2, 7)]))
def loadAt : ASet := Claim.scalarAccess atData (grp atData) .load 0x10800 8 0 (.sreg 3 8 false)
/-- s1 holds an address no page has; s2 a misaligned one. -/
def badAddr : State := onG sca (regs [(1, 2 ^ 48 - 1), (2, 0x10801)])
/-- Window 1 is bound with 16 bytes. -/
def bound (n : Nat) (s : State) : State := s.modLaunch 0 fun l => { l with wins := [(0, 0), (0x10800, w64 n)] ++ List.replicate 6 (0, 0) }

theorem witness_IssueAddsOneSet :
    (∃ (s : State) (g : Group) (a : ASet) (gi : Nat), partyGroup a.party = some gi ∧ s.groups[gi]? = some g ∧ a.sram = false ∧
      a.accs.flatMap splitPage = a.accs ∧ (∀ b ∈ s.sets, b.id < s.nextSet) ∧ Claim.Issues s g a) :=
  ⟨atData, grp atData, loadAt, 0, rfl, by decide +kernel, rfl, by decide +kernel, by decide +kernel, issues_of (by decide +kernel)⟩

theorem witness_ScalarAccessAndLimmTraps :
    (∃ (i : Instr) (s : State) (g : Group) (d a : SReg) (imm : BitVec 14), Claim.ScalarIdle s g ∧ Claim.plain d ∧ Claim.plain a ∧
      (∃ n sg, Claim.loadForm i = some (d, a, imm, n, sg)) ∧ 2 ^ 48 ≤ (sreg g a.toNat + imm.signExtend 64).toNat) ∧
    (∃ (i : Instr) (s : State) (g : Group) (d a : SReg) (imm : BitVec 14), Claim.ScalarIdle s g ∧ Claim.plain d ∧ Claim.plain a ∧
      (∃ n, Claim.storeForm i = some (d, a, imm, n)) ∧ 2 ^ 48 ≤ (sreg g a.toNat + imm.signExtend 64).toNat) ∧
    (∃ (s : State) (g : Group) (w : BitVec 3), Claim.ScalarIdle s g ∧ (windowOf s g w.toNat).2 = 0) ∧
    (∃ (s : State) (g : Group) (w : BitVec 3) (imm : BitVec 14), Claim.ScalarIdle s g ∧ (windowOf s g w.toNat).2 ≠ 0 ∧ imm.toNat % 8 ≠ 0) ∧
    (∃ (s : State) (g : Group) (bs : List Byte), Claim.ScalarIdle s g ∧ scalarInside s g (g.spc + 4).toNat = true ∧
      coreRead s (g.quad / 4) (ctxIx s g) (g.spc + 4).toNat 4 .fetch = .ok bs ∧ isSi (BitVec.ofNat 32 (leNat bs)) = false) ∧
    (∃ (s : State) (g : Group), Claim.ScalarIdle s g ∧ scalarInside s g (g.spc + 4).toNat = false) :=
  ⟨⟨.sldI32 3 1 1, badAddr, grp badAddr, 3, 1, 1, idle_of (by decide +kernel), by decide, by decide, ⟨4, true, rfl⟩, by decide +kernel⟩,
   ⟨.sst64 3 1 1, badAddr, grp badAddr, 3, 1, 1, idle_of (by decide +kernel), by decide, by decide, ⟨8, rfl⟩, by decide +kernel⟩,
   ⟨sca, grp sca, 1, idle_of (by decide +kernel), by decide +kernel⟩,
   ⟨bound 8 sca, grp (bound 8 sca), 1, 4, idle_of (by decide +kernel), by decide +kernel⟩,
   ⟨sca, grp sca, [0, 0, 0, 0], idle_of (by decide +kernel), by decide +kernel⟩,
   ⟨onG sca fun g => { g with spc := 0x10104 }, _, idle_of (by decide +kernel), by decide +kernel⟩⟩

/-- An answered load of a word into a port, and the machine that holds it. -/
def portSet (port got : Nat) (s : State) : ASet :=
  let x := Claim.scalarAccess s (grp s) .load 0x10800 8 0 (.sreg (BitVec.ofNat 6 port) 8 false)
  { x with
    id := 7, pops := [1], len := 4, phase := .ready, accs := x.accs.map fun y => { y with got := got, done := true, pa := placedGpn * 65536 + 0x800 }
    spans := [{ line := (placedGpn * 65536 + 0x800) / 128, first := 0, count := 8, sent := true, done := true, wts := 3, rts := 100 }] }
def portWorld (port got : Nat) (s : State) : State := { s with sets := [portSet port got s] }
/-- The team's first channel is full. -/
def fullChan : State := atData.modTeam 0 fun t => { t with chans := List.replicate 8 (List.replicate 32 (0, 0, 0)) }

theorem witness_PortLoads :
    (∃ (s : State) (g : Group) (i : Instr) (d a : SReg) (m : BitVec 14) (n : Nat) (sg : Bool), s.groups[s.cur]? = some g ∧
      Claim.loadForm i = some (d, a, m, n, sg) ∧ Claim.ScalarIdle s g ∧ isPort d = true ∧ Claim.plain a ∧ portFails [a] (some d) = none ∧
      pushRoom s s.cur (portOf d) = true ∧ (sreg g a.toNat + m.signExtend 64).toNat < 2 ^ 48 ∧
      Claim.Issues s g (Claim.scalarAccess s g .load (sreg g a.toNat + m.signExtend 64).toNat n 0 (.sreg d n sg))) ∧
    (∀ k : Fin 3, ∃ (s : State) (g : Group) (x : ASet) (d : SReg) (n : Nat) (sg : Bool) (r : State) (vs : List Word), s.groups[s.cur]? = some g ∧
      setAt s x.id = some x ∧ x.dest = .sreg d n sg ∧ isPort d = true ∧ x.party = .scalar s.cur ∧ x.kind = .load ∧ x.phase = .ready ∧
      x.sram = false ∧ mayCommit s x = true ∧ leasesRun x g.slt = true ∧ regionLive s g = false ∧ readSources s.cur x.pops s = some (r, vs) ∧
      (let c := pushCheck r s.cur (portOf d) (scalarGot n sg (laneGot x 0))
       match k with
       | 0 => c = none ∧ pushRoom r s.cur (portOf d) = true
       | 1 => c = none ∧ pushRoom r s.cur (portOf d) = false
       | 2 => c.isSome = true)) :=
  ⟨⟨atData, grp atData, .sld64 56 1 0, 56, 1, 0, 8, false, by decide +kernel, rfl, idle_of (by decide +kernel), by decide, by decide, by decide,
      by decide +kernel, by decide +kernel, issues_of (by decide +kernel)⟩,
   fun k => match k with
     | 0 => ⟨portWorld 56 5 atData, grp atData, portSet 56 5 atData, 56, 8, false, portWorld 56 5 atData, [0x10800], by decide +kernel⟩
     | 1 => ⟨portWorld 56 5 fullChan, grp fullChan, portSet 56 5 fullChan, 56, 8, false, portWorld 56 5 fullChan, [0x10800], by decide +kernel⟩
     | 2 => ⟨portWorld 48 0xFF atData, grp atData, portSet 48 0xFF atData, 48, 8, false, portWorld 48 0xFF atData, [0x10800], by decide +kernel⟩⟩

/-- SLD64 s3, [s1 + 0x400] stands behind the word at SPC. -/
def limmWorld : State := data 0x104 (leBytes 4 0x40304400) atData
/-- SLDW of window 1 stands there instead. -/
def limmParam : State := bound 16 (data 0x104 (leBytes 4 0x54304008) atData)

theorem witness_ImmediateWords :
    (∃ (s : State) (g : Group) (i : Instr), Claim.ScalarIdle s g ∧
      (∃ d rs m f, Claim.immVal i = some (d, rs, m, f) ∧ Claim.plain d ∧ ∀ r ∈ rs, Claim.plain r)) ∧
    (∃ (s : State) (g : Group) (i : Instr), Claim.ScalarIdle s g ∧
      (∃ d a m n sg, Claim.loadForm i = some (d, a, m, n, sg) ∧ Claim.plain d ∧ Claim.plain a ∧ (sreg g a.toNat + m.signExtend 64).toNat < 2 ^ 48 ∧
        Claim.Issues s g (Claim.scalarAccess s g .load (sreg g a.toNat + m.signExtend 64).toNat n 0 (.sreg d n sg)))) ∧
    (∃ (s : State) (g : Group) (i : Instr), Claim.ScalarIdle s g ∧
      (∃ d a m n, Claim.storeForm i = some (d, a, m, n) ∧ Claim.plain d ∧ Claim.plain a ∧ (sreg g a.toNat + m.signExtend 64).toNat < 2 ^ 48 ∧
        Claim.Issues s g (Claim.scalarAccess s g .store (sreg g a.toNat + m.signExtend 64).toNat n ((sreg g d.toNat).toNat % 2 ^ (8 * n)) .none))) ∧
    (∃ (s : State) (g : Group) (w : BitVec 3) (m : BitVec 14), Claim.ScalarIdle s g ∧ (windowOf s g w.toNat).2 ≠ 0 ∧ (m.signExtend 64 : Word).toNat % 8 = 0 ∧
      ((m.signExtend 64 : Word).toInt < 0 ∨ ((windowOf s g w.toNat).2 : Int) < (m.signExtend 64 : Word).toInt + 8)) ∧
    (∃ (s : State) (g : Group) (w : BitVec 3) (m : BitVec 14), Claim.ScalarIdle s g ∧ (m.signExtend 64 : Word).toNat % 8 = 0 ∧
      0 ≤ (m.signExtend 64 : Word).toInt ∧ (m.signExtend 64 : Word).toInt + 8 ≤ ((windowOf s g w.toNat).2 : Int) ∧
      (windowOf s g w.toNat).1 + (m.signExtend 64 : Word).toNat < 2 ^ 48 ∧
      Claim.Issues s g (Claim.scalarAccess s g .load ((windowOf s g w.toNat).1 + (m.signExtend 64 : Word).toNat) 8 0 (.sreg 3 8 false))) ∧
    (∃ (s : State) (g : Group) (i : Instr) (bs : List Byte), Claim.ScalarIdle s g ∧ scalarInside s g (g.spc + 4).toNat = true ∧
      coreRead s (g.quad / 4) (ctxIx s g) (g.spc + 4).toNat 4 .fetch = .ok bs ∧ isSi (BitVec.ofNat 32 (leNat bs)) = true ∧
      decodeScalar (BitVec.ofNat 32 (leNat bs)) = .ok i) :=
  ⟨⟨atData, grp atData, .ssraImm 47 1 0x3FFF, idle_of (by decide +kernel), 47, [1], 0x3FFF, _, rfl, by decide +kernel⟩,
   ⟨atData, grp atData, .sld64 3 1 0, idle_of (by decide +kernel), 3, 1, 0, 8, false, rfl, by decide, by decide, by decide +kernel,
      issues_of (by decide +kernel)⟩,
   ⟨atData, grp atData, .sstN32 2 1 0x3FFF, idle_of (by decide +kernel), 2, 1, 0x3FFF, 4, rfl, by decide, by decide, by decide +kernel,
      issues_of (by decide +kernel)⟩,
   ⟨bound 16 atData, grp (bound 16 atData), 1, 16, idle_of (by decide +kernel), by decide +kernel, by decide, .inr (by decide +kernel)⟩,
   ⟨bound 16 atData, grp (bound 16 atData), 1, 8, idle_of (by decide +kernel), by decide, by decide, by decide +kernel, by decide +kernel,
      issues_of (by decide +kernel)⟩,
   ⟨limmWorld, grp limmWorld, .sld64 3 1 0x400, leBytes 4 0x40304400 , idle_of (by decide +kernel), by decide +kernel⟩⟩

/-- One counter is bound at offset 32 of team SRAM, with its count at 5 of 4 (or of 9). -/
def counted (target : Nat) : State :=
  (onG sca (regs [(1, 32), (2, 16), (3, 64)])).modTeam 0 fun t => putCounter t 32 { count := 5, target := target, time := 11, id := 9, armed := true } 3

/-- Id 3 is bound to the counter at offset 32, or to one elsewhere; or every id of the table is held. -/
def bindings (l : List (Nat × Option (Nat × Nat) × Nat × Nat)) : State := (counted 4).modCtx 0 fun c => { c with arrivals := l }

theorem witness_ArrivalCounterWords_1 :
    ∀ k : Fin 6, ∃ (s : State) (g : Group) (d a b : SReg), Claim.ScalarIdle s g ∧ Claim.plain d ∧ Claim.plain a ∧ Claim.plain b ∧
      (let off := (sreg g a.toNat).toNat
       let id := (sreg g d.toNat).toNat
       let entry := (ctxOf s g).arrivals.find? fun e => e.1 == id
       let fits := off % 32 = 0 ∧ off + 32 ≤ (launchOf s g).record.sram.toNat
       let room := entry.isSome = true ∨ arrivalUsed s < 4096
       match k with
       | 0 => 4096 ≤ id
       | 1 => id < 4096 ∧ ¬fits
       | 2 => id < 4096 ∧ fits ∧ ¬room
       | 3 => id < 4096 ∧ fits ∧ entry = some (id, some (1, 0), 0, 0) ∧ (1, 0) ≠ (g.team, off)
       | 4 => id < 4096 ∧ fits ∧ room ∧ entry = some (id, some (g.team, off), 0, 0) ∧ g.team < s.teams.length ∧ ctxIx s g < s.ctxs.length
       | 5 => id < 4096 ∧ fits ∧ room ∧ entry = none ∧ g.team < s.teams.length ∧ ctxIx s g < s.ctxs.length) :=
  let full := bindings ((List.range 4096).map fun k => (k + 100, some (1, 0), 0, 0))
  fun k => match k with
    | 0 => ⟨sca, grp sca, 0, 1, 2, idle_of (by decide +kernel), by decide +kernel⟩
    | 1 => ⟨counted 4, grp (counted 4), 3, 2, 1, idle_of (by decide +kernel), by decide +kernel⟩
    | 2 => ⟨full, grp full, 3, 1, 2, idle_of (by decide +kernel), by decide +kernel⟩
    | 3 => ⟨bindings [(64, some (1, 0), 0, 0)], grp (bindings [(64, some (1, 0), 0, 0)]), 3, 1, 2, idle_of (by decide +kernel), by decide +kernel⟩
    | 4 => ⟨bindings [(64, some (0, 32), 0, 0)], grp (bindings [(64, some (0, 32), 0, 0)]), 3, 1, 2, idle_of (by decide +kernel), by decide +kernel⟩
    | 5 => ⟨counted 4, grp (counted 4), 3, 1, 2, idle_of (by decide +kernel), by decide +kernel⟩

theorem witness_ArrivalCounterWords_2 :
    ∀ k : Fin 4, ∃ (s : State) (g : Group) (a : SReg), Claim.ScalarIdle s g ∧ Claim.plain a ∧
      (let off := (sreg g a.toNat).toNat
       let c := counterAt (teamOf s g) off
       match k with
       | 0 => counterBad s g off = true
       | 1 => counterBad s g off = false ∧ c.armed = false
       | 2 => counterBad s g off = false ∧ Claim.reached c
       | 3 => counterBad s g off = false ∧ c.armed = true ∧ c.count < c.target) :=
  fun k => match k with
    | 0 => ⟨counted 4, grp (counted 4), 2, idle_of (by decide +kernel), by decide +kernel⟩
    | 1 => ⟨counted 4, grp (counted 4), 3, idle_of (by decide +kernel), by decide +kernel⟩
    | 2 => ⟨counted 5, grp (counted 5), 1, idle_of (by decide +kernel), by decide +kernel⟩
    | 3 => ⟨counted 6, grp (counted 6), 1, idle_of (by decide +kernel), by decide +kernel⟩

/-- Two commands of the copy engine have been pushed, one has completed; IFC1 counts 3; the group and its team hold a line narrow each. -/
def waitWorld : State :=
  let t := onG atData fun g => regs [(4, 1), (5, 2), (6, 3)]
    { g with copy := { g.copy with next := 2, time := 1, times := [(1, 40)] }, ifc := [0, 3, 0, 0], llt := 55 }
  { t with l1 := [{ core := 0, line := 2 ^ 45 + 520, valid := 1, bytes := [], wts := [5, 5, 5, 5], rts := [6, 6, 6, 6], narrow := some (.grp, 0) },
                  { core := 0, line := 2 ^ 45 + 521, valid := 1, bytes := [], wts := [7, 7, 7, 7], rts := [8, 8, 8, 8], narrow := some (.team, 0) }] }

theorem witness_ScalarWaits_1 :
    ∀ k : Fin 5, ∃ (s : State) (g : Group) (a : SReg) (n : BitVec 2) (f : BitVec 1), Claim.ScalarIdle s g ∧ Claim.plain a ∧
      (let v := (sreg g a.toNat).toNat
       let e := if f = 1 then g.fabric else g.copy
       let last := lastPushed (if f = 1 then (landedGroup s s.cur).fabric else (landedGroup s s.cur).copy)
       match k with
       | 0 => g.ifc.getD n.toNat 0 ≤ v
       | 1 => v < g.ifc.getD n.toNat 0
       | 2 => v ≤ last ∧ v ≤ e.time
       | 3 => v ≤ last ∧ e.time < v
       | 4 => last < v) :=
  fun k => match k with
    | 0 => ⟨waitWorld, grp waitWorld, 6, 1, 0, idle_of (by decide +kernel), by decide +kernel⟩
    | 1 => ⟨waitWorld, grp waitWorld, 5, 1, 0, idle_of (by decide +kernel), by decide +kernel⟩
    | 2 => ⟨waitWorld, grp waitWorld, 4, 0, 0, idle_of (by decide +kernel), by decide +kernel⟩
    | 3 => ⟨waitWorld, grp waitWorld, 5, 0, 0, idle_of (by decide +kernel), by decide +kernel⟩
    | 4 => ⟨waitWorld, grp waitWorld, 4, 0, 1, idle_of (by decide +kernel), by decide +kernel⟩

theorem witness_ScalarWaits_2 :
    ∃ (s : State) (g : Group) (d a b : SReg), Claim.ScalarIdle s g ∧ Claim.plain d ∧ Claim.plain a ∧ Claim.plain b ∧ g.wait = .none ∧
      (sreg g a.toNat).toNat % 8 = 0 ∧ 2 ^ 48 ≤ (sreg g b.toNat).toNat ∧ (sreg g b.toNat).toNat % 8 = 0 ∧ (sreg g d.toNat).toNat % 4 ≠ 0 ∧
      Claim.Issues s g (Claim.scalarAccess s g .load (sreg g a.toNat).toNat 8 0 .waitcmp) :=
  let s := onG waitWorld (regs [(7, 2 ^ 48)])
  ⟨s, grp s, 4, 1, 7, idle_of (by decide +kernel), by decide +kernel, by decide +kernel, by decide +kernel, (by decide +kernel), by decide +kernel,
    by decide +kernel, by decide +kernel, by decide +kernel, issues_of (by decide +kernel)⟩

theorem witness_ScalarWaits_3 :
    ∃ (s : State) (g : Group), Claim.ScalarIdle s g ∧ g.fabric.cmds = [] ∧ narrowLines s s.cur ≠ [] ∧
      ∃ l ∈ s.l1, l.narrow = some (Scope.grp, s.cur) :=
  ⟨waitWorld, grp waitWorld, idle_of (by decide +kernel), by decide +kernel⟩

end Sys2Proof.Tests
end

