-- ==== Sys2Proof/Tests/WitLane.lean ====
section
/-! SUPPORT. Witnesses of the statements about lane arithmetic, cross-lane words, conversions and pair words. -/

namespace Sys2Proof.Tests

open Sys2Proof Sys2Proof.Machine

set_option Elab.async false

/-- A lane block with values in v2 to v4 and a snapshot. -/
def busyLane : State := onG lan fun g =>
  vset 7 3 0xFFFFFFFF (vset 0 2 0x80000000 (vset 0 3 5 { g with block := g.block.map fun b => { b with snap := (List.range 48).map w64 } }))
/-- Thirty-two lanes run. -/
def wideLane : State := onG busyLane fun g => { g with lanes := freshLanes 32 0 32, p0 := { g.p0 with exec := 0xFFFFFFFF, laneSet := 0xFFFFFFFF } }
/-- The image lets VTOS write s3. -/
def tosLane : State := { busyLane with images := busyLane.images.map fun i => { i with vtos := 8 } }

theorem witness_LaneIntegerResults : ∃ i maj w f s g, Claim.intForm i = some (maj, w, f) ∧ LaneGo maj w s g :=
  ⟨.vadd lw, 0x01, lw, _, busyLane, grp busyLane, rfl, go_of (by decide +kernel)⟩

theorem witness_LaneFloatResults : ∃ i maj w f s g, Claim.fpForm i = some (maj, w, f) ∧ LaneGo maj w s g :=
  ⟨.ffma { lw with ty := .f32, i := true }, 0x33, _, _, busyLane, grp busyLane, rfl, go_of (by decide +kernel)⟩

theorem witness_CrossLaneAndConversions :
    (∃ i maj w f s g, Claim.crossForm i = some (maj, w, f) ∧ LaneGo maj w s g) ∧
    (∃ w s g, LaneGo 0x66 w s g ∧ (w.opx ≠ 0 ∨ w.i = true ∨ 192 ≤ w.vb.toNat)) ∧
    (∃ w s g j, LaneGo 0x67 w s g ∧ 192 ≤ w.vd.toNat ∧ (imageOf s g).vtos.getLsbD (w.vd.toNat - 192) = true ∧ g.region = none ∧
      (voting (laneIn 0x67 w s g)).head? = some j) ∧
    (∃ i maj w ok f s g, Claim.cvtForm i = some (maj, w, ok, f) ∧ LaneGo maj w s g ∧ ok g = true) ∧
    (∃ w s g, LaneGo 0x51 w s g ∧ stype w = .b32) ∧
    (∃ w s g, LaneGo 0x4A w s g ∧ tyFloat (stype w) = false) :=
  ⟨⟨.vred lw, 0x64, _, _, busyLane, grp busyLane, rfl, go_of (by decide +kernel)⟩,
   ⟨{ lw with vb := 239 }, busyLane, grp busyLane, go_of (by decide +kernel), .inr (.inr (by decide))⟩,
   ⟨{ lw with vd := 195 }, tosLane, grp tosLane, 0, go_of (by decide +kernel), by decide +kernel⟩,
   ⟨.mxscale { lw with ty := .e2m1, imm := 10 }, 0x4D, _, _, _, wideLane, grp wideLane, rfl, go_of (by decide +kernel), by decide +kernel⟩,
   ⟨{ lw with ty := .bpn 6, imm := 0 }, wideLane, grp wideLane, go_of (by decide +kernel), by decide⟩,
   ⟨{ lw with ty := .i8, imm := 0 }, busyLane, grp busyLane, go_of (by decide +kernel), by decide⟩⟩

theorem witness_LaneResultFrame : ∃ i maj w f s g, (Claim.intForm i = some (maj, w, f) ∨ Claim.fpForm i = some (maj, w, f) ∨
    Claim.crossForm i = some (maj, w, f)) ∧ LaneGo maj w s g :=
  ⟨.vaddc { lw with ty := .n64, vd := 2, va := 4, vb := 6 }, 0x1D, _, _, busyLane, grp busyLane, .inl rfl, go_of (by decide +kernel)⟩

/-- Two sub-operations that agree: VADD v1 and FMUL v3, with a guard each. -/
def pairSub (op vd : Nat) : SubOp :=
  { op := BitVec.ofNat 8 op, vd := BitVec.ofNat 8 vd, va := 2, vb := 3, g := 7, n := false, cls := 0, sgn := false, res0 := 0 }
def goodPair : PairW := { sat := false, rnd := 0, a := pairSub 0x01 1, b := { pairSub 0x01 4 with vb := 6 } }
def badPair : PairW := { goodPair with b := pairSub 0x01 1 }

/-- A window of one word will write v3; or a load owes v3 to a lane. -/
def openWindow : State := onG busyLane fun g => { g with p0 := { g.p0 with look := [{ lpc := 0, left := 1, done := 0, dests := [3], set := none }] } }
def owedLane : State :=
  { busyLane with sets := [{ Claim.scalarAccess busyLane (grp busyLane) .load 0x10800 4 0 (.lane .i32 3) with
      party := .lane 0, ifc := 0, phase := .ready, pc := 1 }] }

theorem witness_PairWordResults :
    ∀ k : Fin 5, ∃ (w : PairW) (s : State) (g : Group), s.groups[s.cur]? = some g ∧ laneMayRun s g s.path1 = true ∧
      (g.frame.isNone && decide (4096 ≤ g.gap)) = false ∧
      (let fields := (subFields (regsOf s g) w.a).or (subFields (regsOf s g) w.b)
       let open_ := ∃ k ∈ (pathOf g s.path1).look, 0 < k.left ∧ ∃ r ∈ k.dests, r ∈ Claim.pairNames w
       let owes (a : ASet) := ∃ r ∈ owedBy a, r ∈ Claim.pairNames w
       match k with
       | 0 => fields.isSome = true
       | 1 => fields = none ∧ pairBad w = true
       | 2 => fields = none ∧ pairBad w = false ∧ open_
       | 3 => fields = none ∧ pairBad w = false ∧ ¬open_ ∧ ∃ a ∈ s.sets, a.party = .lane s.cur ∧ owes a
       | 4 => fields = none ∧ pairBad w = false ∧ ¬open_ ∧ ∀ a ∈ s.sets, a.party = .lane s.cur → unsettled a = false ∧ ¬owes a) :=
  fun k => match k with
    | 0 => ⟨{ goodPair with a := pairSub 0x01 200 }, busyLane, grp busyLane, by decide +kernel⟩
    | 1 => ⟨badPair, busyLane, grp busyLane, by decide +kernel⟩
    | 2 => ⟨goodPair, openWindow, grp openWindow, by decide +kernel⟩
    | 3 => ⟨goodPair, owedLane, grp owedLane, by decide +kernel⟩
    | 4 => ⟨goodPair, busyLane, grp busyLane, by decide +kernel⟩

end Sys2Proof.Tests
end

