-- ==== Sys2Proof/Tests/WitCtl.lean ====
section
/-! SUPPORT. Witnesses of the statements about lane memory, lane control and special moves. -/

namespace Sys2Proof.Tests

open Sys2Proof Sys2Proof.Machine

set_option Elab.async false

/-! ## Lane memory -/

/-- Every lane holds a VA of the placed page in v2, and that page is in the TLB. -/
def memLane (va : Nat) : State := warm (onG busyLane fun g => (List.range 8).foldl (fun g i => vset i 2 (va + 8 * i) g) g)
/-- Only lane 3 acts. -/
def oneLane (va : Nat) : State := onG (memLane va) fun g => { g with p0 := { g.p0 with exec := 8 } }
/-- The lanes address the top of the VA space through a pair. -/
def farLane : State := onG (oneLane 0x10800) (vset 3 3 0x10000)

theorem witness_LaneMemoryIssues :
    (∃ i maj w kind dest k s g, Claim.memForm i = some (maj, w, kind, dest, k) ∧ LaneGo maj w s g ∧ memChecks (laneIn maj w s g) = none ∧
      (setsOf s (.lane s.cur)).length < 16 ∧ memAccs (laneIn maj w s g) kind ≠ []) ∧
    (∃ i maj w kind dest k s g, Claim.memForm i = some (maj, w, kind, dest, k) ∧ LaneGo maj w s g ∧ memChecks (laneIn maj w s g) = none ∧
      (setsOf s (.lane s.cur)).length < 16 ∧ acting (laneIn maj w s g) = []) ∧
    (∃ w s g, LaneGo 0x75 w s g) :=
  ⟨⟨.atomg { lw with imm := 0 }, 0x76, _, _, _, 1, memLane 0x10800, grp (memLane 0x10800), rfl, go_of (by decide +kernel), by decide +kernel⟩,
   ⟨.ldg { lw with n := true }, 0x70, _, _, _, 0, memLane 0x10800, grp (memLane 0x10800), rfl, go_of (by decide +kernel), by decide +kernel⟩,
   ⟨lw, memLane 0x10800, grp (memLane 0x10800), go_of (by decide +kernel)⟩⟩

theorem witness_EffectiveAddresses :
    (∃ w s g n, acting (laneIn 0x71 w s g) = [n] ∧ (laneAt g n).helper = false ∧ LaneGo 0x71 w s g ∧
      2 ^ 48 ≤ effAddr (laneIn 0x71 w s g) (laneAt g n)) ∧
    (∃ w s g n, acting (laneIn 0x71 w s g) = [n] ∧ (laneAt g n).helper = false ∧ LaneGo 0x76 w s g ∧ opFails 0x76 w = none ∧
      effAddr (laneIn 0x76 w s g) (laneAt g n) < 2 ^ 48 ∧
      effAddr (laneIn 0x76 w s g) (laneAt g n) % accessBytes (laneIn 0x76 w s g) ≠ 0) :=
  ⟨⟨{ lw with opx := 1 }, farLane, grp farLane, 3, by decide +kernel, by decide +kernel, go_of (by decide +kernel), by decide +kernel⟩,
   ⟨{ lw with imm := 0xFFFFFF }, oneLane 0x10800, grp (oneLane 0x10800), 3, by decide +kernel, by decide +kernel, go_of (by decide +kernel), by decide +kernel⟩⟩

/-! ## Lane control -/

/-- Eight lane words, VLAND at words 2 and 3; lanes 0 to 3 have p0 set and 24 in v2, the others 36. -/
def ctlLane : State :=
  let s := { busyLane with images := busyLane.images.map fun i => { i with lwords := 8 } }
  data (512 + 24) (leBytes 12 (0xB7 * 2 ^ 88) ++ leBytes 12 (0xB7 * 2 ^ 88)) (onG s fun g =>
    { g with lanes := (List.range 8).map fun i => { laneAt g i with p := if i < 4 then 1 else 0, v := [(2, if i < 4 then 24 else 36)] } })
/-- Its path has a stack. -/
def stacked (es : List Entry) : State := onG ctlLane fun g => { g with p0 := { g.p0 with stack := es } }
/-- A branch on p0 to word 5, joining at word 6. -/
def brWord : LaneW := { lw with g := 0, va := 0, vb := 0, vc := 6, imm := 5, ty := .b32 }
/-- A word of one lane value: every lane has 24 there. -/
def sameLane : State := onG ctlLane fun g => { g with lanes := g.lanes.map fun l => { l with v := [(2, 24)], p := 1 } }

theorem witness_LaneBranches :
    (∃ w s g, LaneGo 0xB0 w s g ∧ (pathOf g s.path1).skip = 0 ∧ immTarget w < (imageOf s g).lwords ∧ joinField w < (imageOf s g).lwords ∧
      voting (laneIn 0xB0 w s g) = []) ∧
    (∃ w s g, LaneGo 0xB0 w s g ∧ (pathOf g s.path1).skip = 0 ∧ immTarget w < (imageOf s g).lwords ∧ joinField w < (imageOf s g).lwords ∧
      voting (laneIn 0xB0 w s g) ≠ [] ∧ (voting (laneIn 0xB0 w s g)).length = (pathVoters (laneIn 0xB0 w s g)).length) ∧
    (∃ w s g, LaneGo 0xB0 w s g ∧ (pathOf g s.path1).skip = 0 ∧ immTarget w < (imageOf s g).lwords ∧ joinField w < (imageOf s g).lwords ∧
      voting (laneIn 0xB0 w s g) ≠ [] ∧ (voting (laneIn 0xB0 w s g)).length ≠ (pathVoters (laneIn 0xB0 w s g)).length ∧ g.p1 = none ∧
      g.p0.stack = [] ∧ s.path1 = false) ∧
    (∃ w s g, LaneGo 0xB0 w s g ∧ (pathOf g s.path1).skip = 0 ∧ immTarget w < (imageOf s g).lwords ∧ joinField w < (imageOf s g).lwords ∧
      voting (laneIn 0xB0 w s g) ≠ [] ∧ (voting (laneIn 0xB0 w s g)).length ≠ (pathVoters (laneIn 0xB0 w s g)).length ∧
      (laneIn 0xB0 w s g).p.stack ≠ [] ∧ (laneIn 0xB0 w s g).p.stack.length = 30) ∧
    (∃ w s g, LaneGo 0xB0 w s g ∧ (pathOf g s.path1).skip = 0 ∧ immTarget w < (imageOf s g).lwords ∧ joinField w < (imageOf s g).lwords ∧
      voting (laneIn 0xB0 w s g) ≠ [] ∧ (voting (laneIn 0xB0 w s g)).length ≠ (pathVoters (laneIn 0xB0 w s g)).length ∧
      (laneIn 0xB0 w s g).p.stack.length = 31) ∧
    (∃ w s g, LaneGo 0xB1 w s g ∧ LaneGo 0xB7 w s g ∧ LaneGo 0xBA w s g ∧ (pathOf g s.path1).skip = 0 ∧ w.g = 7 ∧ w.n = false ∧
      immTarget w < (imageOf s g).lwords) :=
  let deep (n : Nat) : State := stacked (List.replicate n (.join 1 0xFF))
  ⟨⟨brWord, onG ctlLane fun g => { g with p0 := { g.p0 with exec := 0xF0 } }, _, go_of (by decide +kernel), by decide +kernel⟩,
   ⟨brWord, sameLane, grp sameLane, go_of (by decide +kernel), by decide +kernel⟩,
   ⟨brWord, ctlLane, grp ctlLane, go_of (by decide +kernel), by decide +kernel, by decide +kernel, by decide +kernel, by decide +kernel,
      by decide +kernel, by decide +kernel, by decide +kernel, rfl⟩,
   ⟨brWord, deep 30, grp (deep 30), go_of (by decide +kernel), by decide +kernel⟩,
   ⟨brWord, deep 31, grp (deep 31), go_of (by decide +kernel), by decide +kernel⟩,
   ⟨{ lw with imm := 7 }, ctlLane, grp ctlLane, go_of (by decide +kernel), go_of (by decide +kernel), go_of (by decide +kernel), by decide +kernel,
      rfl, rfl, by decide +kernel⟩⟩

theorem witness_LaneIndirect :
    (∃ w s g, LaneGo 0xB2 w s g ∧ (pathOf g s.path1).skip = 0 ∧ badTargetTrap (laneIn 0xB2 w s g) = none ∧ jmpiArms (laneIn 0xB2 w s g) = []) ∧
    (∃ w s g t m, LaneGo 0xB2 w s g ∧ (pathOf g s.path1).skip = 0 ∧ badTargetTrap (laneIn 0xB2 w s g) = none ∧
      jmpiArms (laneIn 0xB2 w s g) = [(t, m)]) ∧
    (∃ w s g t m u n, LaneGo 0xB2 w s g ∧ (pathOf g s.path1).skip = 0 ∧ badTargetTrap (laneIn 0xB2 w s g) = none ∧
      jmpiArms (laneIn 0xB2 w s g) = [(t, m), (u, n)] ∧ immTarget w < (imageOf s g).lwords ∧ (laneIn 0xB2 w s g).p.stack.length ≤ 30) ∧
    (∃ w s g, LaneGo 0xB3 w s g ∧ (pathOf g s.path1).skip = 0 ∧ immTarget w < (imageOf s g).lwords ∧ voting (laneIn 0xB3 w s g) ≠ [] ∧
      fallers (laneIn 0xB3 w s g) = []) ∧
    (∃ w s g t, LaneGo 0xB4 w s g ∧ (pathOf g s.path1).skip = 0 ∧ badTargetTrap (laneIn 0xB4 w s g) = none ∧ targets (laneIn 0xB4 w s g) = [t] ∧
      fallers (laneIn 0xB4 w s g) = []) ∧
    (∃ w s g n off r, LaneGo 0xB5 w s g ∧ (pathOf g s.path1).skip = 0 ∧ w.g = 7 ∧ w.n = false ∧ retChecks (laneIn 0xB5 w s g) = none ∧
      offsets (laneIn 0xB5 w s g) = (n, off) :: r ∧ joinPoint g s.path1 ≠ some (off / 12)) :=
  ⟨⟨{ lw with imm := 6 }, onG ctlLane fun g => { g with p0 := { g.p0 with exec := 0 } }, _, go_of (by decide +kernel), by decide +kernel⟩,
   ⟨{ lw with imm := 6 }, sameLane, grp sameLane, 2, 0xFF, go_of (by decide +kernel), by decide +kernel⟩,
   ⟨{ lw with imm := 7 }, ctlLane, grp ctlLane, 2, 0x0F, 3, 0xF0, go_of (by decide +kernel), by decide +kernel⟩,
   ⟨{ lw with imm := 7 }, ctlLane, grp ctlLane, go_of (by decide +kernel), by decide +kernel⟩,
   ⟨lw, sameLane, grp sameLane, 24, go_of (by decide +kernel), by decide +kernel⟩,
   ⟨lw, sameLane, grp sameLane, 0, 24, (List.range 7).map fun i => (i + 1, 24), go_of (by decide +kernel), by decide +kernel, rfl, rfl, by decide +kernel⟩⟩

theorem witness_LaneJoinsAndEnds :
    (∃ w s g, LaneGo 0xB6 w s g ∧ (pathOf g s.path1).skip = 0 ∧ w.g = 7 ∧ w.n = false ∧ joinPoint g s.path1 ≠ some (pathOf g s.path1).lpc) ∧
    (∃ w s g u m r, LaneGo 0xB6 w s g ∧ (pathOf g s.path1).skip = 0 ∧ w.g = 7 ∧ w.n = false ∧
      (pathOf g s.path1).stack = .arm u m (pathOf g s.path1).lpc :: r ∧ m ≠ 0) ∧
    (∃ w s g m r, LaneGo 0xB6 w s g ∧ (pathOf g s.path1).skip = 0 ∧ w.g = 7 ∧ w.n = false ∧
      (pathOf g s.path1).stack = .join (pathOf g s.path1).lpc m :: r ∧ m &&& liveLanes g ≠ 0) ∧
    (∃ w s g, LaneGo 0xB8 w s g ∧ g.region = none ∧ (pathOf g s.path1).skip = 0 ∧ lastExit (laneIn 0xB8 w s g) = false ∧
      exitSet (laneIn 0xB8 w s g) = []) ∧
    (∃ w s g, LaneGo 0xB8 w s g ∧ g.region = none ∧ (pathOf g s.path1).skip = 0 ∧ lastExit (laneIn 0xB8 w s g) = false ∧
      exitSet (laneIn 0xB8 w s g) ≠ [] ∧ (laneIn 0xB8 w s g).p.exec &&& ~~~(maskOf (exitSet (laneIn 0xB8 w s g))) ≠ 0) ∧
    (∃ w s g, LaneGo 0xB8 w s g ∧ g.region = none ∧ lastExit (laneIn 0xB8 w s g) = true ∧ setsOf s (.lane s.cur) = []) ∧
    (∃ w s g, LaneGo 0xB9 w s g ∧ w.g = 7 ∧ w.n = false ∧ g.p1 = none ∧ (pathOf g s.path1).stack = [] ∧ g.region = none ∧
      setsOf s (.lane s.cur) = []) ∧
    (∃ w s g, LaneGo 0xB9 w s g ∧ w.g = 7 ∧ w.n = false ∧ (pathOf g s.path1).stack ≠ []) :=
  let armed := stacked [.arm 5 0xF0 0]
  let joined := stacked [.join 0 0xF0]
  ⟨⟨lw, ctlLane, grp ctlLane, go_of (by decide +kernel), by decide +kernel, rfl, rfl, by decide +kernel⟩,
   ⟨lw, armed, grp armed, 5, 0xF0, [], go_of (by decide +kernel), by decide +kernel, rfl, rfl, by decide +kernel⟩,
   ⟨lw, joined, grp joined, 0xF0, [], go_of (by decide +kernel), by decide +kernel, rfl, rfl, by decide +kernel⟩,
   ⟨{ lw with n := true }, ctlLane, grp ctlLane, go_of (by decide +kernel), by decide +kernel⟩,
   ⟨brWord, ctlLane, grp ctlLane, go_of (by decide +kernel), by decide +kernel⟩,
   ⟨lw, ctlLane, grp ctlLane, go_of (by decide +kernel), by decide +kernel⟩,
   ⟨lw, ctlLane, grp ctlLane, go_of (by decide +kernel), rfl, rfl, by decide +kernel⟩,
   ⟨lw, joined, grp joined, go_of (by decide +kernel), rfl, rfl, by decide +kernel⟩⟩

/-- A lane block in a context that forbids CYCLE. -/
def closedLane : State := busyLane.modCtx 0 fun c => { c with ctl := 0x10001 }

theorem witness_LaneSpecialMoves :
    (∃ w s g, LaneGo 0xC0 w s g ∧ privBad s g (w.imm.toNat % 256) = false) ∧
    (∃ w s g, LaneGo 0xC0 w s g ∧ privBad s g (w.imm.toNat % 256) = true) ∧
    (∃ w s g, LaneGo 0xC5 w s g) ∧
    (∃ w s g, (w.i = true ∨ 192 ≤ w.va.toNat) ∧ w.g = 7 ∧ w.n = false ∧ LaneGo 0xC1 w s g ∧ LaneGo 0xC2 w s g ∧
      (if w.i then w.imm.setWidth 64 else snapReg g w.va).toNat % 8 < 5 ∧ LaneGo 0xC3 w s g ∧ w.opx = 0 ∧
      cvmodeOk ((if w.i then w.imm.setWidth 64 else snapReg g w.va).toNat % 2 ^ 32) = true) ∧
    (∃ w s g, (w.i = true ∨ 192 ≤ w.va.toNat) ∧ w.g = 7 ∧ w.n = false ∧ LaneGo 0xC3 w s g ∧ w.opx ≠ 0) ∧
    (∃ w s g, LaneGo 0xC1 w s g ∧ w.i = false ∧ w.va.toNat < 192) :=
  ⟨⟨{ lw with imm := 0x0A }, busyLane, grp busyLane, go_of (by decide +kernel), by decide +kernel⟩,
   ⟨{ lw with imm := 0x0A }, closedLane, grp closedLane, go_of (by decide +kernel), by decide +kernel⟩,
   ⟨{ lw with imm := 0x36 }, busyLane, grp busyLane, go_of (by decide +kernel)⟩,
   ⟨{ lw with va := 196, vb := 0, vc := 0, vd := 0 }, busyLane, grp busyLane, .inr (by decide), rfl, rfl, go_of (by decide +kernel), go_of (by decide +kernel),
      by decide +kernel, go_of (by decide +kernel), rfl, by decide +kernel⟩,
   ⟨{ lw with i := true, imm := 9, opx := 1 }, busyLane, grp busyLane, .inl rfl, rfl, rfl, go_of (by decide +kernel), by decide⟩,
   ⟨lw, busyLane, grp busyLane, go_of (by decide +kernel), rfl, by decide⟩⟩

end Sys2Proof.Tests
end

