-- ==== Sys2Proof/Tests/WitMatrix.lean ====
section
/-! SUPPORT. Witnesses of the statements about matrix arrays and domino regions. -/

namespace Sys2Proof.Tests

open Sys2Proof Sys2Proof.Machine

set_option Elab.async false

/-! ## Matrix arrays -/

/-- Array 0 of the group's quadrant changed. -/
def cim0 (f : Cim → Cim) (s : State) : State := modCim s (grp s) 0 f
/-- The matrix unit of quadrant 0 runs a command, and `fifo` waits. -/
def unit0 (c : Option MatCmd) (fifo : List (Nat × Bool)) (s : State) : State := setUnit s 0 { run := c, fifo := fifo }
/-- A format word in v2 of every lane: BPN2 against i8 columns. -/
def matLane : State := cim0 (fun k => { k with state := .loaded, bfmt := 5, ncols := 1 }) (onG busyLane fun g =>
  (List.range 8).foldl (fun g i => vset i 2 0x255 g) g)
/-- Array 0 has stopped before its one row. -/
def stopLane : State := cim0 (fun k => { k with state := .stopped, bfmt := 5, m := 1, fmtw := 0x255, count := 1 }) busyLane
/-- A command on array 0. -/
def cmd0 (kind : MatKind) : MatCmd := { baseCmd busyLane (grp busyLane) 0 kind 0 1 0 false with n := 1, fmt := 5, fmtw := 0x255 }
/-- The machine long after. -/
def late (n : Nat) (s : State) : State := { s with cycle := s.cycle + n }
def ldWord : LaneW := { lw with va := 192, vb := 193, vc := 0, vd := 0, ty := .i8 }
def mmaWord : LaneW := { lw with vb := 192, vc := 193, vd := 0, ty := .b32, imm := 1 }
def clrWord : LaneW := { lw with va := 0, vb := 0, vc := 0, vd := 0, ty := .b32, imm := 1 }
def moveWord : LaneW := { lw with va := 0, vb := 193, vc := 0, vd := 2, ty := .b32 }

theorem free_of {s : State} {g : Group} {f n : Nat} (h : g.region = none ∧ g.team < s.teams.length ∧ n ≠ 0 ∧ f + n ≤ (sharesOf s g).length ∧
    (teamOf s g).frozen = false) : Claim.SpanFree s g f n := ⟨h.1, h.2.1, h.2.2.1, h.2.2.2.1, h.2.2.2.2⟩

theorem witness_MatrixCommands :
    (∃ (w : LaneW) (s : State) (g : Group), Claim.unitIdle s g ∧ LaneGo 0x90 w s g ∧ Claim.SpanFree s g w.vd.toNat 1 ∧ 192 ≤ w.va.toNat ∧
      (w.i = true ∨ 192 ≤ w.vb.toNat) ∧ acting (laneIn 0x90 w s g) ≠ [] ∧ 0 < mldbCols (laneIn 0x90 w s g) ∧
      mldbCols (laneIn 0x90 w s g) ≤ (if formatCode w.ty = 4 then 16 else 64) ∧ mldbSrc (laneIn 0x90 w s g) % 256 = 0 ∧
      mldbSrc (laneIn 0x90 w s g) + tileBytes (formatCode w.ty) (mldbCols (laneIn 0x90 w s g)) ≤ sramBytes (laneIn 0x90 w s g) ∧
      (cimAt s g w.vd.toNat).state ≠ .stopped) ∧
    (∃ (w : LaneW) (s : State) (g : Group), Claim.unitIdle s g ∧ LaneGo 0x91 w s g ∧ Claim.SpanFree s g w.vd.toNat (spanCount w) ∧
      192 ≤ w.vb.toNat ∧ 192 ≤ w.vc.toNat ∧ convergence (laneIn 0x91 w s g) = none ∧ formatFails (formatWord (laneIn 0x91 w s g) 0) = none ∧
      0 < mmaRows (laneIn 0x91 w s g) ∧ mmaRows (laneIn 0x91 w s g) ≤ 64 ∧ mmaAddr (laneIn 0x91 w s g) % 64 = 0 ∧
      mmaAddr (laneIn 0x91 w s g) + rowsBytes (formatWord (laneIn 0x91 w s g) 0) (mmaRows (laneIn 0x91 w s g)) ≤ sramBytes (laneIn 0x91 w s g) ∧
      ∀ k ∈ spanCims s g w.vd.toNat (spanCount w), k.state ≠ .stopped ∧ k.state ≠ .empty ∧
        k.bfmt.toNat = fwB (formatWord (laneIn 0x91 w s g) 0)) ∧
    (∃ (w : LaneW) (s : State) (g : Group), Claim.unitIdle s g ∧ LaneGo 0x98 w s g ∧ Claim.SpanFree s g w.vd.toNat (spanCount w) ∧
      acting (laneIn 0x98 w s g) ≠ []) ∧
    (∃ (w : LaneW) (s : State) (g : Group), Claim.unitIdle s g ∧ LaneGo 0x97 w s g ∧ Claim.SpanFree s g w.vd.toNat 1 ∧
      acting (laneIn 0x97 w s g) ≠ [] ∧ (cimAt s g w.vd.toNat).state = .stopped ∧ (cimAt s g w.vd.toNat).first.toNat = w.vd.toNat ∧
      0 < (cimAt s g w.vd.toNat).count.toNat ∧ w.vd.toNat + (cimAt s g w.vd.toNat).count.toNat ≤ (sharesOf s g).length ∧
      (∀ j, j < w.vd.toNat + (cimAt s g w.vd.toNat).count.toNat → w.vd.toNat ≤ j → Claim.sameStatus (cimAt s g j) (cimAt s g w.vd.toNat)) ∧
      (cimAt s g w.vd.toNat).aaddr.toNat + rowsBytes (cimAt s g w.vd.toNat).fmtw.toNat (cimAt s g w.vd.toNat).m.toNat ≤
        (launchOf s g).record.sram.toNat) :=
  ⟨⟨ldWord, busyLane, grp busyLane, by decide +kernel, go_of (by decide +kernel), free_of (by decide +kernel), by decide +kernel⟩,
   ⟨mmaWord, matLane, grp matLane, by decide +kernel, go_of (by decide +kernel), free_of (by decide +kernel), by decide +kernel⟩,
   ⟨clrWord, busyLane, grp busyLane, by decide +kernel, go_of (by decide +kernel), free_of (by decide +kernel), by decide +kernel⟩,
   ⟨{ clrWord with imm := 0 }, stopLane, grp stopLane, by decide +kernel, go_of (by decide +kernel), free_of (by decide +kernel), by decide +kernel⟩⟩

/-- The team has no arrays. -/
def noArrays : State := busyLane.modTeam 0 fun t => { t with cims := [] }

theorem witness_MatrixWordWaitsAndTraps :
    (∃ (w : LaneW) (s : State) (g : Group) (c : MatCmd), LaneGo 0x98 w s g ∧ (unitOf s g.quad).run = some c ∧ (unitOf s g.quad).fifo = [] ∧
      Claim.SpanFree s g w.vd.toNat (spanCount w) ∧ acting (laneIn 0x98 w s g) ≠ []) ∧
    (∃ (w : LaneW) (s : State) (g : Group), LaneGo 0x98 w s g ∧ sharesOf s g = []) ∧
    (∃ (w : LaneW) (s : State) (g : Group), LaneGo 0x98 w s g ∧ sharesOf s g ≠ [] ∧ g.region.isSome = true) :=
  let busy := unit0 (some (cmd0 .mma)) [] busyLane
  let open_ := onG busyLane fun g => { g with region := some 0 }
  ⟨⟨clrWord, busy, grp busy, _, go_of (by decide +kernel), rfl, rfl, free_of (by decide +kernel), by decide +kernel⟩,
   ⟨clrWord, noArrays, grp noArrays, go_of (by decide +kernel), by decide +kernel⟩,
   ⟨clrWord, open_, grp open_, go_of (by decide +kernel), by decide +kernel⟩⟩

theorem witness_MatrixMoves :
    (∃ (w : LaneW) (s : State) (g : Group), (w.i = true ∨ 192 ≤ w.vb.toNat) ∧ Claim.SpanFree s g (moveCim w) 1 ∧ w.ty ≠ .f64 ∧
      (∀ maj ∈ [0x92, 0x93, 0x94, 0x95, 0x96], (laneChecks (laneIn maj w s g) = none ∧ interlocked (laneIn maj w s g) = false ∧
        partBad (laneIn maj w s g) = false ∧ cimInUse (laneIn maj w s g) = false)) ∧ LaneGo 0x92 w s g ∧
      moveRow (laneIn 0x92 w s g) 13 < 64 ∧ rawKind w ≠ 5 ∧ moveRow (laneIn 0x94 w s g) 15 < kindRows (rawKind w)) ∧
    (∃ (w : LaneW) (s : State) (g : Group), (w.i = true ∨ 192 ≤ w.vb.toNat) ∧ Claim.SpanFree s g (moveCim w) 1 ∧ w.ty = .f64 ∧
      LaneGo 0x92 w s g ∧ partBad (laneIn 0x92 w s g) = false ∧ cimInUse (laneIn 0x92 w s g) = false ∧ moveRow (laneIn 0x92 w s g) 13 < 64) ∧
    (∃ (w : LaneW) (s : State) (g : Group), (w.i = true ∨ 192 ≤ w.vb.toNat) ∧ Claim.SpanFree s g (moveCim w) 1 ∧ LaneGo 0x95 w s g ∧
      partBad (laneIn 0x95 w s g) = false ∧ cimInUse (laneIn 0x95 w s g) = false ∧ moveRow (laneIn 0x95 w s g) 15 < 1 ∧ rawKind w = 5 ∧
      statusFails (laneIn 0x95 w s g) = none) :=
  ⟨⟨moveWord, busyLane, grp busyLane, .inr (by decide), free_of (by decide +kernel), by decide, by decide +kernel, go_of (by decide +kernel), by decide +kernel⟩,
   ⟨{ moveWord with ty := .f64, opx := 1 }, busyLane, grp busyLane, .inr (by decide), free_of (by decide +kernel), rfl, go_of (by decide +kernel), by decide +kernel⟩,
   ⟨{ moveWord with vb := 192, va := 10, imm := 0x50000 }, busyLane, grp busyLane, .inr (by decide), free_of (by decide +kernel), go_of (by decide +kernel), by decide +kernel⟩⟩

/-- A lane stream at an MCLR word, with its quadrant's unit idle and the stream waiting for it. -/
def clrFetch : State := unit0 none [(0, false)] (State.reset.withFetchWord 96 (((encodeLane (.mclr clrWord)).getD 0).toNat))

theorem fetch_of {s : State} {gi : Nat} {p : Bool} {g : Group} {bs : List Byte}
    (h : s.groups[gi]? = some g ∧ laneMayRun { s with cur := gi, path1 := p } g p = true ∧ slotAllows s g.quad (ctxIx s g) = true ∧
      fetchParked { s with cur := gi, path1 := p } gi true p = false ∧ requested s g = false ∧ counterTrap s g = none ∧
      (pathOf g p).lpc < (imageOf s g).lwords)
    (hw : (fetchWaits (takeFetched { s with cur := gi, path1 := p } gi true p) gi true p (laneVa s g 0) (12 * (imageOf s g).lwords)).isNone = true)
    (hp : rangePoison (Claim.laneState s gi p) (g.quad / 4) (ctxIx s g) (laneVa s g (pathOf g p).lpc) 12 .fetch = none)
    (hb : coreRead (Claim.laneState s gi p) (g.quad / 4) (ctxIx s g) (laneVa s g (pathOf g p).lpc) 12 .fetch = .ok bs) :
    Claim.LaneFetch s gi p g bs :=
  ⟨h.1, h.2.1, h.2.2.1, h.2.2.2.1, h.2.2.2.2.1, h.2.2.2.2.2.1, h.2.2.2.2.2.2, Option.isNone_iff_eq_none.mp hw, hp, hb⟩

theorem witness_MatrixUnitSteps :
    (∃ (s : State) (q gi : Nat) (p : Bool) (g : Group) (bs : List Byte) (w : LaneW), (unitOf s q).run = none ∧ (unitOf s q).fifo = [(gi, p)] ∧
      Claim.LaneFetch s gi p g bs ∧ decodeLaneBytes bs = .ok (.mclr w) ∧ g.quad = q ∧ LaneGo 0x98 w (Claim.laneState s gi p) g ∧
      Claim.SpanFree s g w.vd.toNat (spanCount w) ∧ acting (laneIn 0x98 w (Claim.laneState s gi p) g) ≠ []) ∧
    (∀ kind : MatKind, ∃ (s : State) (q : Nat) (c : MatCmd), (unitOf s q).run = some c ∧ c.g < s.groups.length ∧ c.evt = false ∧ c.kind = kind ∧
      doneAt c ≤ s.now ∧ c.waiting = false ∧ c.count = 1 ∧ c.frozen = none ∧ c.first + c.count ≤ (sharesOf s (groupAt s c.g)).length ∧
      (groupAt s c.g).team < s.teams.length) ∧
    (∃ (s : State) (q : Nat) (c : MatCmd) (u : Nat), (unitOf s q).run = some c ∧ c.g < s.groups.length ∧ c.evt = false ∧ c.kind = .mma ∧
      c.frozen = some u ∧ stopAt c u ≤ s.now ∧ c.first + c.count ≤ (sharesOf s (groupAt s c.g)).length ∧
      (groupAt s c.g).team < s.teams.length) ∧
    (∀ kind : MatKind, ∃ (s : State) (q : Nat) (c : MatCmd), (unitOf s q).run = some c ∧ c.g < s.groups.length ∧ c.evt = true ∧
      c.frozen = none ∧ c.kind = kind ∧ 64 ≤ (groupAt s c.g).q5.length ∧ doneAt c ≤ s.now ∧ c.waiting = false) ∧
    (∃ (s : State) (q : Nat) (c : MatCmd), (unitOf s q).run = some c ∧ c.g < s.groups.length ∧ c.evt = true ∧ c.frozen = none ∧
      (groupAt s c.g).q5.length < 64 ∧ c.waiting = true) :=
  let ran_ (c : MatCmd) : State := late 1000 (unit0 (some c) [] busyLane)
  ⟨⟨clrFetch, 0, 0, false, groupAt clrFetch 0, leBytes 12 ((encodeLane (.mclr clrWord)).getD 0).toNat, clrWord, by decide +kernel, by decide +kernel,
      fetch_of (by decide +kernel) (by decide +kernel) (by decide +kernel) (by decide +kernel), by decide +kernel, by decide +kernel, go_of (by decide +kernel),
      free_of (by decide +kernel), by decide +kernel⟩,
   fun kind => ⟨ran_ (cmd0 kind), 0, cmd0 kind, rfl, by cases kind <;> decide +kernel, rfl, rfl, by cases kind <;> decide +kernel, rfl, rfl, rfl,
      by cases kind <;> decide +kernel, by cases kind <;> decide +kernel⟩,
   ⟨ran_ { cmd0 .mma with frozen := some 1 }, 0, _, 1, rfl, by decide +kernel, rfl, rfl, rfl, by decide +kernel⟩,
   fun kind => ⟨onG (ran_ { cmd0 kind with evt := true }) fun g => { g with q5 := List.replicate 64 (0, 0) }, 0, { cmd0 kind with evt := true },
      rfl, by cases kind <;> decide +kernel, rfl, rfl, rfl, by cases kind <;> decide +kernel, by cases kind <;> decide +kernel, rfl⟩,
   ⟨ran_ { cmd0 .mma with evt := true, waiting := true }, 0, _, rfl, by decide +kernel, rfl, rfl, by decide +kernel, rfl⟩⟩

end Sys2Proof.Tests
end

