-- ==== Sys2Proof/Tests/WitDomino.lean ====
section
/-! SUPPORT. Witnesses of the statements about domino regions. -/

namespace Sys2Proof.Tests

open Sys2Proof Sys2Proof.Machine

set_option Elab.async false

/-- Eight lane words with VLAND at words 2 and 3 and a mask word with one checkpointed quad at word 1. -/
def domLane : State := data (512 + 12) (leBytes 12 (0xFE * 2 ^ 88 + 2 ^ 24)) ctlLane
def beginWord : LaneW := { lw with safe := true, va := 0, vb := 0, vc := 0, vd := 0, ty := .b32, imm := 2 }
def endWord : LaneW := { beginWord with safe := false, imm := 0 }
/-- A region of group 0 in slot `n`. -/
def region0 (n : Nat) (st : DomState) : DomSlot :=
  { slot := n, stamp := 5 + n, g := 0, core := 0, state := st, nest := 0, depth := 0, abort := 2, ckpt := ckptOf (grp domLane) 0, lines := 0,
    wr := [], wspans := [], rd := [], minTs := 0, cts := 0, cause := 0, by_ := 0, since := 0 }
/-- The group is in the region of slot 1, and the table holds these slots. -/
def inRegion (l : List DomSlot) (reach : List (Nat × Nat)) : State :=
  (onG domLane fun g => { g with region := some 1 }).modDom fun d => { d with slots := l, reach := reach }

theorem witness_DominoWords :
    (∃ (w : LaneW) (s : State) (g : Group) (n : Nat), Claim.ungarded w g ∧ LaneGo 0xA0 w s g ∧ w.safe = true ∧
      domTarget (laneIn 0xA0 w s g) = none ∧ acting (laneIn 0xA0 w s g) ≠ [] ∧ g.region = none ∧ freeSlotNo s = some n ∧
      coreRoom s (g.quad / 4) (ckptQuads ((maskAfter (laneIn 0xA0 w s g)).setWidth 88)).length = true ∧ heldBack s s.cur = false) ∧
    (∃ (w : LaneW) (s : State) (g : Group) (n : Nat) (y : DomSlot), Claim.ungarded w g ∧ LaneGo 0xA0 w s g ∧ w.safe = true ∧
      domTarget (laneIn 0xA0 w s g) = none ∧ acting (laneIn 0xA0 w s g) ≠ [] ∧ g.region = some n ∧ slotAt s n = some y ∧ y.nest < 255) ∧
    (∃ (w : LaneW) (s : State) (g : Group), Claim.ungarded w g ∧ LaneGo 0xA0 w s g ∧ w.safe = true ∧
      domTarget (laneIn 0xA0 w s g) = none ∧ acting (laneIn 0xA0 w s g) ≠ [] ∧ g.region = none ∧ freeSlotNo s = none) ∧
    (∃ (w : LaneW) (s : State) (g : Group) (n : Nat) (y : DomSlot), Claim.ungarded w g ∧ g.region = some n ∧ slotAt s n = some y ∧ y.slot = n ∧
      y.state = .live ∧ LaneGo 0xA1 w s g ∧ acting (laneIn 0xA1 w s g) ≠ [] ∧ y.nest = 0 ∧ regionPerformed s n = true ∧ predsOf s n = []) ∧
    (∃ (w : LaneW) (s : State) (g : Group) (n : Nat) (y : DomSlot), Claim.ungarded w g ∧ g.region = some n ∧ slotAt s n = some y ∧ y.slot = n ∧
      y.state = .live ∧ LaneGo 0xA1 w s g ∧ acting (laneIn 0xA1 w s g) ≠ [] ∧ y.nest = 0 ∧ regionPerformed s n = true ∧ predsOf s n ≠ []) ∧
    (∃ (w : LaneW) (s : State) (g : Group) (n : Nat) (y : DomSlot), Claim.ungarded w g ∧ g.region = some n ∧ slotAt s n = some y ∧ y.slot = n ∧
      y.state = .live ∧ LaneGo 0xA1 w s g ∧ acting (laneIn 0xA1 w s g) ≠ [] ∧ y.nest ≠ 0) ∧
    (∃ (w : LaneW) (s : State) (g : Group) (n : Nat) (y : DomSlot), Claim.ungarded w g ∧ g.region = some n ∧ slotAt s n = some y ∧ y.slot = n ∧
      y.state = .live ∧ LaneGo 0xA2 w s g ∧ acting (laneIn 0xA2 w s g) ≠ [] ∧ y.g = s.cur ∧ s.dom.reach = []) ∧
    (∃ (w : LaneW) (s : State) (g : Group), Claim.ungarded w g ∧ LaneGo 0xA3 w s g) ∧
    (∃ (w : LaneW) (s : State) (g : Group), Claim.ungarded w g ∧ LaneGo 0xA1 w s g ∧ acting (laneIn 0xA1 w s g) ≠ [] ∧ g.region = none) ∧
    (∃ (w v : LaneW) (s : State) (g : Group), Claim.ungarded w g ∧ LaneGo 0xA0 w s g ∧ w.safe = true ∧ domTarget (laneIn 0xA0 w s g) = none ∧
      acting (laneIn 0xA0 w s g) = [] ∧ Claim.ungarded v g ∧ LaneGo 0xA1 v s g ∧ acting (laneIn 0xA1 v s g) = [] ∧ LaneGo 0xA2 v s g ∧
      acting (laneIn 0xA2 v s g) = []) :=
  let still := onG domLane fun g => { g with p0 := { g.p0 with exec := 0 } }
  let live := inRegion [region0 1 .live] []
  let behind := inRegion [region0 0 .live, region0 1 .live] [(0, 1)]
  let nested := inRegion [{ region0 1 .live with nest := 254 }] []
  let full := domLane.modDom fun d => { d with slots := (List.range 256).map fun n => region0 n .live }
  ⟨⟨beginWord, domLane, grp domLane, 0, by decide +kernel, go_of (by decide +kernel), rfl, by decide +kernel⟩,
   ⟨beginWord, nested, grp nested, 1, _, by decide +kernel, go_of (by decide +kernel), rfl, by decide +kernel, by decide +kernel, by decide +kernel,
      rfl, by decide +kernel⟩,
   ⟨beginWord, full, grp full, by decide +kernel, go_of (by decide +kernel), rfl, by decide +kernel⟩,
   ⟨endWord, live, grp live, 1, _, by decide +kernel, by decide +kernel, rfl, rfl, rfl, go_of (by decide +kernel), by decide +kernel, rfl, by decide +kernel⟩,
   ⟨endWord, behind, grp behind, 1, region0 1 .live, by decide +kernel, by decide +kernel, by decide +kernel, rfl, rfl, go_of (by decide +kernel),
      by decide +kernel, rfl, by decide +kernel⟩,
   ⟨endWord, nested, grp nested, 1, _, by decide +kernel, by decide +kernel, rfl, rfl, rfl, go_of (by decide +kernel), by decide +kernel⟩,
   ⟨{ endWord with imm := 9 }, live, grp live, 1, _, by decide +kernel, by decide +kernel, rfl, rfl, rfl, go_of (by decide +kernel), by decide +kernel,
      rfl, by decide +kernel⟩,
   ⟨{ endWord with vd := 2, opx := 3 }, live, grp live, by decide +kernel, go_of (by decide +kernel)⟩,
   ⟨endWord, domLane, grp domLane, by decide +kernel, go_of (by decide +kernel), by decide +kernel⟩,
   ⟨beginWord, endWord, still, grp still, by decide +kernel, go_of (by decide +kernel), rfl, by decide +kernel, by decide +kernel, by decide +kernel,
      go_of (by decide +kernel), by decide +kernel, go_of (by decide +kernel), by decide +kernel⟩⟩

/-- A lane stream at a DBEGIN whose mask word checkpoints nothing and whose abort LPC is its third word, waiting for a slot. -/
def beginFetch : State :=
  let s := State.reset.withFetchWord 192 (((encodeLane (.dbegin beginWord)).getD 0).toNat + 2 ^ 96 * (0xFE * 2 ^ 88))
  (data (512 + 24) (leBytes 12 (0xB7 * 2 ^ 88)) { s with images := s.images.map fun i => { i with lwords := 8 } }).modDom fun d =>
    { d with fifo := [0] }
/-- A store of region 1 on its way, to a word that region 0 has written. -/
def regionStore : ASet :=
  { messageSet (laneIn 0 lw domLane (grp domLane)) .store [] .none with
    id := 7, spans := [{ line := 512 * placedGpn + 16, first := 0, count := 1, sent := true, done := false, wts := 0, rts := 0 }], phase := .gone, region := some 1 }
def edgeWorld : State :=
  { inRegion [region0 0 .live, region0 1 .live] [] with sets := [regionStore] }.modDom fun d => { d with marks := [(16384 * placedGpn + 512, 0)] }
/-- The one region of the table, in a state, with what it wrote and read. -/
def oneRegion (st : DomState) (wr : Tab Byte) (rd : List Nat) : State := late 100000 (inRegion [{ region0 1 st with wr := wr, rd := rd }] [])

theorem witness_DominoSteps :
    (∃ (s : State) (g : Nat) (gr : Group) (bs : List Byte) (w : LaneW) (k : Nat), g ∈ s.dom.fifo ∧ Claim.LaneFetch s g false gr bs ∧
      decodeLaneBytes bs = .ok (.dbegin w) ∧ LaneGo 0xA0 w (Claim.laneState s g false) gr ∧ Claim.ungarded w gr ∧ w.safe = true ∧
      domTarget (laneIn 0xA0 w (Claim.laneState s g false) gr) = none ∧ acting (laneIn 0xA0 w (Claim.laneState s g false) gr) ≠ [] ∧
      gr.region = none ∧ freeSlotNo (Claim.laneState s g false) = some k ∧
      coreRoom (Claim.laneState s g false) (gr.quad / 4) (ckptQuads ((maskAfter (laneIn 0xA0 w (Claim.laneState s g false) gr)).setWidth 88)).length = true ∧
      heldBack (Claim.laneState s g false) g = false) ∧
    (∃ (s : State) (n i k : Nat) (y z : DomSlot) (a : ASet) (p : Span), setAt s i = some a ∧ a.region = some n ∧ slotAt s n = some y ∧ y.slot = n ∧
      a.spans[k]? = some p ∧ p.done = false ∧ cycleHeld s n = false ∧ storeClass a.kind = true ∧ a.phase = .gone ∧ regionAt s a p = true ∧
      ownWords s a p.line n = false ∧ edgeTurn s y = true ∧ (i, k, z.slot) ∉ s.dom.stalls ∧
      edgesNeeded s n (readsToo a.kind) (storeClass a.kind) (spanLo p) (spanLen p) = [(z.slot, false)] ∧ slotAt s z.slot = some z ∧
      edgeFate s z y false = .record) ∧
    (∃ (s : State) (n : Nat) (y : DomSlot), slotAt s n = some y ∧ y.slot = n ∧ y.state = .waiting ∧ predsOf s n = []) ∧
    (∃ (s : State) (n : Nat) (y : DomSlot), slotAt s n = some y ∧ y.slot = n ∧ y.state = .committing ∧
      y.since + 40 + (y.wspans.length + 7) / 8 ≤ s.now ∧ commitMirrored s n = true ∧ y.g < s.groups.length ∧ ∃ a b, y.wr = [(a, b)]) ∧
    (∃ (s : State) (n : Nat) (y : DomSlot), slotAt s n = some y ∧ y.slot = n ∧ y.state = .aborting ∧
      y.since + 12 + (ckptQuads y.ckpt.mask).length ≤ s.now ∧ y.g < s.groups.length) ∧
    (∃ (s : State) (n : Nat) (y : DomSlot) (gpn at_ : Nat) (e : Env), slotAt s n = some y ∧ y.slot = n ∧ y.state = .live ∧ s.dom.reach = [] ∧
      s.dom.slots = [y] ∧ s.dom.holds = [(gpn, at_, e)] ∧ at_ + 2 ^ 14 ≤ s.now ∧ ∃ w ∈ y.rd, w / 16384 = gpn) ∧
    (∃ (s : State) (n : Nat) (y : DomSlot) (gi u : Nat), slotAt s n = some y ∧ y.slot = n ∧ y.state = .live ∧ s.dom.reach = [] ∧
      s.dom.slots = [y] ∧ (groupAt s gi).region = some n ∧ (teamOf s (groupAt s gi)).request = some u ∧ u + 2 ^ 16 ≤ s.now) :=
  let held := (oneRegion .live [] [5]).modDom fun d => { d with holds := [(0, 3, { src := 1, dst := 0, msg := .recall 0 1, at_ := 0 })] }
  let asked := (oneRegion .live [] []).modTeam 0 fun t => { t with request := some 4 }
  ⟨⟨beginFetch, 0, groupAt beginFetch 0, _, beginWord, 0, by decide +kernel,
      fetch_of (bs := leBytes 12 ((encodeLane (.dbegin beginWord)).getD 0).toNat) (by decide +kernel) (by decide +kernel) (by decide +kernel)
        (by decide +kernel), by decide +kernel, go_at (by decide +kernel), by decide +kernel, rfl, by decide +kernel⟩,
   ⟨edgeWorld, 1, 7, 0, region0 1 .live, region0 0 .live, regionStore, _, by decide +kernel, rfl, by decide +kernel, rfl, rfl, rfl, by decide +kernel,
      rfl, by decide +kernel⟩,
   ⟨oneRegion .waiting [] [], 1, _, rfl, rfl, rfl, by decide +kernel⟩,
   ⟨oneRegion .committing [(0x1000100000800, 5)] [], 1, _, rfl, rfl, rfl, by decide +kernel, by decide +kernel, by decide +kernel, _, _, rfl⟩,
   ⟨oneRegion .aborting [] [], 1, _, rfl, rfl, rfl, by decide +kernel⟩,
   ⟨held, 1, _, 0, 3, _, rfl, rfl, rfl, rfl, rfl, rfl, by decide +kernel, 5, by decide +kernel⟩,
   ⟨asked, 1, _, 0, 4, rfl, rfl, rfl, rfl, rfl, by decide +kernel⟩⟩

end Sys2Proof.Tests
end

