-- ==== Sys2Proof/Tests/WitSets.lean ====
section
/-! SUPPORT. Witnesses of the statements about access sets at the slices, walks and waited words. -/

namespace Sys2Proof.Tests

open Sys2Proof Sys2Proof.Machine

set_option Elab.async false

/-- The pod address of data in the placed page. -/
def dataPa : Nat := placedGpn * 65536 + 0x800
/-- An access of `n` bytes there. -/
def acc1 (n : Nat) : Acc :=
  { lane := 0, va := 0x10800, pa := dataPa, n := n, data := 0x1234, cmp := 0, got := 0, done := false, pte := w64 (placedGpn * 65536 + 7) }
/-- A set of one access. -/
def set1 (party : Party) (kind : SetKind) (phase : Phase) (x : Acc) : ASet :=
  { id := 7, party := party, kind := kind, sram := false, scope := .grp, pc := 0x10100, path1 := false, accs := [x], spans := spansOf [x],
    dest := .none, ifc := 4, issued := 0, floor := 0, phase := phase, region := none, entry := false }
/-- The machine with one set. -/
def holding (a : ASet) (s : State) : State := { s with sets := [a] }
/-- Every span answered, with a lease up to 100. -/
def answered (a : ASet) : ASet := { a with spans := a.spans.map fun p => { p with done := true, sent := true, rts := 100, wts := 3 } }

theorem one_of {s : State} {i k : Nat} {a : ASet} {p : Span} {x : Acc} (h : setAt s i = some a ∧ a.role = .access ∧ setAnswer s i = none)
    (h1 : a.spans[k]? = some p) (h2 : (p.done = false ∧ p.sent = false) ∧ (a.region = none ∧ a.sram = false) ∧ a.accs = [x] ∧ 0 < x.n ∧
      x.pa / 128 = p.line ∧ x.pa + x.n ≤ 128 * p.line + 128 ∧ gpnSpace (pageOf (spanLo p)) ≠ 0xFFD ∧ overtakes s a k = false ∧
      ∀ r ∈ s.am.crowns, r.effective = true ∨ r.pick.isSome = true) : Claim.OneAccess s i k a p x :=
  ⟨h.1, h.2.1, h.2.2, h1, h2.1, h2.2.1, h2.2.2.1, h2.2.2.2.1, h2.2.2.2.2.1, h2.2.2.2.2.2.1, h2.2.2.2.2.2.2.1, h2.2.2.2.2.2.2.2.1, h2.2.2.2.2.2.2.2.2⟩

/-- The span of that access. -/
def span1 (n : Nat) : Span := (spansOf [acc1 n]).headD default
/-- A lane block whose data line is in L2. -/
def filled : State := fillL2 lan (dataPa / 128)
/-- A store-class set that has left its quadrant, at a scope. -/
def gone1 (n : Nat) (kind : SetKind) (sc : Scope) : ASet := { set1 (.lane 0) kind .gone (acc1 n) with scope := sc }
/-- A write queue entry with one word, for nobody or for the span of set 7. -/
def entry1 (ret : Bool) : WqEntry :=
  { slice := homeSlice dataPa, line := dataPa / 128, op := 0, ty := .i32, ret := ret, t := 5,
    parts := [{ acc := 0, pa := dataPa, n := 4, data := 9, cmp := 0 }], who := if ret then [{ src := 0, id := 7, k := 0 }] else [] }
/-- The queue holds that entry. -/
def queuing (ret : Bool) : State :=
  { holding { gone1 4 (.atom 0 .i32) .pkg with spans := [{ span1 4 with sent := true, owe := 1 }] } filled with wq := [entry1 ret] }
/-- A line that the L1 of core 0 holds narrow. -/
def narrow1 : L1Line :=
  { core := 0, line := dataPa / 128, valid := 0, bytes := [], wts := [4, 4, 4, 4], rts := [9, 9, 9, 9], narrow := some (.grp, 0) }

theorem witness_HomeSlices_1 :
    ∃ (s : State) (i k : Nat) (a : ASet) (p : Span) (x : Acc), Claim.OneAccess s i k a p x ∧ a.kind = .load ∧ a.phase = .ready ∧ x.got = 0 ∧
      behindAtomic s a (spanLo p) (spanLen p) = false ∧
      readPlace s (partyGroup a.party) (spanPte a p) (spanLo p) (spanLen p) (.set a.id) = .here ∧ poisonAt s p.line = none :=
  let load := set1 (.scalar 0) .load .ready (acc1 8)
  ⟨holding load filled, 7, 0, load, span1 8, acc1 8, one_of (by decide +kernel) rfl (by decide +kernel), rfl, rfl, rfl, by decide +kernel⟩

theorem witness_HomeSlices_2 :
    ∀ k : Fin 6, ∃ (s : State) (a : ASet) (p : Span) (x : Acc), Claim.OneAccess s 7 0 a p x ∧ a.phase = .gone ∧
      mirroredHere s (p.line / 512) = false ∧ spanLo p ≤ x.pa ∧ x.pa + x.n ≤ spanLo p + spanLen p ∧ storeTurn s a p.line = true ∧
      writePlace s (partyGroup a.party) (spanPte a p) (a.scope = .pod) (spanLo p) (spanLen p) (.set a.id) = .here ∧ poisonAt s p.line = none ∧
      (let direct := atomicDirect s a p.line (spanPte a p)
       let free := (narrowFor s 0 a.scope).isSome = true → queued s (128 * p.line) 128 = false
       match k with
       | 0 => a.kind = .store ∧ a.scope ≠ .pod
       | 1 => a.kind = .atom 0 .i32 ∧ direct = true ∧ free
       | 2 => a.kind = .cas128 ∧ direct = true ∧ free
       | 3 => a.kind = .redg 0 .i32 ∧ x.n = 4 ∧ direct = true ∧ free
       | 4 => a.kind = .atom 0 .i32 ∧ direct = false
       | 5 => a.kind = .redg 0 .i32 ∧ direct = false) :=
  let at_ (a : ASet) : State := holding a filled
  fun k => match k with
    | 0 => ⟨at_ (gone1 4 .store .grp), gone1 4 .store .grp, span1 4, acc1 4, one_of (by decide +kernel) rfl (by decide +kernel), by decide +kernel⟩
    | 1 => ⟨at_ (gone1 4 (.atom 0 .i32) .grp), gone1 4 (.atom 0 .i32) .grp, span1 4, acc1 4, one_of (by decide +kernel) rfl (by decide +kernel),
        by decide +kernel⟩
    | 2 => ⟨at_ (gone1 16 .cas128 .team), gone1 16 .cas128 .team, span1 16, acc1 16, one_of (by decide +kernel) rfl (by decide +kernel),
        by decide +kernel⟩
    | 3 => ⟨at_ (gone1 4 (.redg 0 .i32) .grp), gone1 4 (.redg 0 .i32) .grp, span1 4, acc1 4, one_of (by decide +kernel) rfl (by decide +kernel),
        by decide +kernel⟩
    | 4 => ⟨at_ (gone1 4 (.atom 0 .i32) .pkg), gone1 4 (.atom 0 .i32) .pkg, span1 4, acc1 4, one_of (by decide +kernel) rfl (by decide +kernel),
        by decide +kernel⟩
    | 5 => ⟨at_ (gone1 4 (.redg 0 .i32) .pod), gone1 4 (.redg 0 .i32) .pod, span1 4, acc1 4, one_of (by decide +kernel) rfl (by decide +kernel),
        by decide +kernel⟩

theorem witness_HomeSlices_3 :
    (∀ ret : Bool, ∃ (s : State) (slice : Nat) (e : WqEntry) (v : Part), (s.wq.find? fun e => e.slice == slice) = some e ∧ e.parts = [v] ∧
      v.pa / 128 = e.line ∧ v.pa + v.n ≤ 128 * e.line + 128 ∧ 0 < v.n ∧ plainWriteHeld s v.pa v.n = false ∧ plainVictims s v.pa v.n = [] ∧
      mirroredHere s (pageOf v.pa) = false ∧ e.ret = ret ∧ v.n = tyWidth e.ty / 8 ∧
      (ret = true → ∃ a q, e.who = [{ src := aid s, id := 7, k := 0 }] ∧ 7 < noSet ∧ setAt s 7 = some a ∧ a.spans[0]? = some q)) ∧
    (∃ (s : State) (line : Nat) (l : L1Line), (s.l1.find? fun x => x.line == line && x.narrow.isSome) = some l) :=
  ⟨fun ret => match ret with
     | false => ⟨queuing false, homeSlice dataPa, entry1 false, _, by decide +kernel, rfl, by decide +kernel, by decide +kernel, by decide,
         by decide +kernel, by decide +kernel, by decide +kernel, rfl, rfl, nofun⟩
     | true => ⟨queuing true, homeSlice dataPa, entry1 true, _, by decide +kernel, rfl, by decide +kernel, by decide +kernel, by decide,
         by decide +kernel, by decide +kernel, by decide +kernel, rfl, rfl, fun _ => ⟨_, _, rfl, by decide, rfl, rfl⟩⟩,
   ⟨{ sca with l1 := [narrow1] }, dataPa / 128, narrow1, by decide +kernel⟩⟩

theorem ripe_of {s : State} {i : Nat} {a : ASet} (h : setAt s i = some a ∧ a.role = .access ∧ isHead s a = true ∧ (∀ p ∈ a.spans, p.done = true) ∧
    (a.region = none ∧ a.sram = false)) : Claim.Ripe s i a := ⟨h.1, h.2.1, h.2.2.1, h.2.2.2.1, h.2.2.2.2⟩

theorem witness_SetsLeaveAndCommit_1 :
    ∀ k : Fin 3, ∃ (s : State) (i : Nat) (a : ASet) (x : Acc), 0 < s.groups.length ∧ setAt s i = some a ∧ mayLeave s a = true ∧
      matrixHolds s a = false ∧
      (match k with
       | 0 => isMessage a = false ∧ a.sram = false ∧ a.kind = .store
       | 1 => a.kind = .store ∧ a.sram = true ∧ partyGroup a.party = some 0 ∧ a.accs = [x] ∧ 0 < x.n ∧ a.spans = spansOf [x] ∧
           x.pa % 128 + x.n ≤ 128 ∧ (groupAt s 0).team < s.teams.length
       | 2 => a.kind = .push 0 0x10 ∧ a.party = .scalar 0) :=
  let store := set1 (.lane 0) .store .ready (acc1 4)
  let row := { acc1 4 with va := 16, pa := 16 }
  let sram := { set1 (.lane 0) .store .ready row with sram := true }
  let push := { set1 (.scalar 0) (.push 0 0x10) .ready (acc1 4) with accs := [], spans := [] }
  fun k => match k with
    | 0 => ⟨late 1000 (holding store lan), 7, store, acc1 4, by decide +kernel⟩
    | 1 => ⟨late 1000 (holding sram lan), 7, sram, row, by decide +kernel⟩
    | 2 => ⟨late 1000 (holding push lan), 7, push, acc1 4, by decide +kernel⟩

theorem witness_SetsLeaveAndCommit_2 :
    ∀ k : Fin 4, ∃ (s : State) (i : Nat) (a : ASet) (x : Acc) (d : SReg), 0 < s.groups.length ∧ Claim.Ripe s i a ∧
      (match k with
       | 0 => a.kind = .load ∧ a.phase = .ready ∧ a.party = .scalar 0 ∧ (∀ p ∈ a.spans, (groupAt s 0).slt ≤ p.rts) ∧ a.dest = .sreg d x.n false ∧
           Claim.plain d ∧ (groupAt s 0).s.length = 48 ∧ a.accs = [x] ∧ x.lane = 0 ∧ a.ifc = 4
       | 1 => a.kind = .load ∧ a.phase = .ready ∧ a.party = .lane 0 ∧ (∀ p ∈ a.spans, (groupAt s 0).llt ≤ p.rts) ∧ a.dest = .lane .i32 5 ∧ a.ifc < 4
       | 2 => a.kind = .load ∧ a.phase = .ready ∧ ∃ p ∈ a.spans, p.rts < partyLt s a.party
       | 3 => storeClass a.kind = true ∧ a.phase = .gone ∧ a.party = .lane 0 ∧ a.dest = .none ∧ a.ifc < 4) :=
  let load := answered { set1 (.scalar 0) .load .ready (acc1 8) with dest := .sreg 3 8 false }
  let lane := answered { set1 (.lane 0) .load .ready (acc1 4) with dest := .lane .i32 5, ifc := 0 }
  let old := { lane with spans := lane.spans.map fun p => { p with rts := 0 } }
  let done := answered { set1 (.lane 0) .store .gone (acc1 4) with ifc := 1 }
  fun k => match k with
    | 0 => ⟨holding load sca, 7, load, acc1 8, 3, by decide +kernel, ripe_of (by decide +kernel), by decide +kernel⟩
    | 1 => ⟨holding lane lan, 7, lane, acc1 8, 3, by decide +kernel, ripe_of (by decide +kernel), by decide +kernel⟩
    | 2 => ⟨holding old lan, 7, old, acc1 8, 3, by decide +kernel, ripe_of (by decide +kernel), by decide +kernel⟩
    | 3 => ⟨holding done lan, 7, done, acc1 8, 3, by decide +kernel, ripe_of (by decide +kernel), by decide +kernel⟩

/-- A page walk of the scalar stream for VA `va`, of a helper lane or not. -/
def walking (va : Nat) (help : Bool) : ASet := set1 (.scalar 0) .load .xlate { acc1 8 with va := va, pa := 0, pte := 0, help := help }
/-- The tables of the context lie in a page that is not here, and the walk for VA 0x10000 has read them without an answer. -/
def lostTables : State :=
  let s := (holding (walking 0x10800 false) sca).modCtx 0 fun c => { c with ptroot := 0x5000000000000 }
  late (2 ^ 20) (joinWalk s 0 0 0x10800).1

theorem witness_WalksAndWaits_1 :
    ∀ k : Fin 4, ∃ (s : State) (a : ASet) (x : Acc), setAt s 7 = some a ∧ a.phase = .xlate ∧ partyGroup a.party = some 0 ∧ 0 < s.groups.length ∧
      a.accs = [x] ∧ 0 < x.n ∧ a.role = .access ∧ a.entry = false ∧ a.sram = false ∧
      (let c := ctxIx s (groupAt s 0)
       let core := (groupAt s 0).quad / 4
       let read := tlbLook s core c x.va (kindX a.kind) = none ∧ tableAway s c x.va = none ∧ walkHeld s c x.va = false
       let went := translate s c x.va (kindX a.kind)
       match k with
       | 0 => read ∧ went = .ok (w64 (placedGpn * 65536 + 7)) ∧
           afterChecks s { a with accs := [{ x with pa := podAddr (w64 (placedGpn * 65536 + 7)) x.va, pte := w64 (placedGpn * 65536 + 7) }] } = none
       | 1 => read ∧ went = .error ⟨Tc.xlateInvalid, 1, 0⟩ ∧ x.help = false
       | 2 => read ∧ went = .error ⟨Tc.xlateInvalid, 1, 0⟩ ∧ x.help = true
       | 3 => (walkLate s (core / 36) c x.va).isSome = true ∧ x.help = false ∧ ∀ b ∈ s.sets, b.entry = false ∧ (b.id = 7 → b = a)) :=
  let acc (va : Nat) (help : Bool) : Acc := { acc1 8 with va := va, pa := 0, pte := 0, help := help }
  fun k => match k with
    | 0 => ⟨holding (walking 0x10800 false) sca, walking 0x10800 false, acc 0x10800 false, by decide +kernel⟩
    | 1 => ⟨holding (walking 0x30000 false) sca, walking 0x30000 false, acc 0x30000 false, by decide +kernel⟩
    | 2 => ⟨holding (walking 0x30000 true) sca, walking 0x30000 true, acc 0x30000 true, by decide +kernel⟩
    | 3 => ⟨lostTables, walking 0x10800 false, acc 0x10800 false, by decide +kernel⟩

/-- A wait of group 0 for a word. -/
def word1 (pa : Nat) (sc : BitVec 3) (woken : Bool) : WordWait :=
  { va := 0x10800, pa := pa, n := 8, want := 0, mask := 0, c := 0, sc := sc, placed := false, woken := woken, at_ := 0, t := 1 }
def waiting (w : WordWait) : State := late 5000 (onG sca fun g => { g with wait := .word w })

theorem witness_WalksAndWaits_2 :
    ∀ k : Fin 3, ∃ (s : State) (w : WordWait), 0 < s.groups.length ∧ (groupAt s 0).wait = .word w ∧ waitReading s 0 = false ∧
      (let others := s.waits.filter fun e => !(e.g == 0 && e.src == aid s)
       let away := w.sc = 4 ∧ devicePage (pageOf w.pa) = true ∧ (tagOf s (pageOf w.pa)).any crowned = false
       let place := inboundMsg s (fun m => match m with | .waitPlace _ _ g _ => g == 0 | _ => false) = none ∧ w.placed = false ∧ w.woken = false ∧
         w.pa ≠ 0
       match k with
       | 0 => place ∧ ¬away ∧ (others.filter fun e => homeSlice e.pa == homeSlice w.pa).length < 1024 ∧ waitStale s w.pa w.t = false
       | 1 => place ∧ away
       | 2 => ((groupAt s 0).pend = none ∧ (groupAt s 0).saved = false ∧ (groupAt s 0).reached = false) ∧ (setsOf s (.scalar 0)).length < 16 ∧
           inboundMsg s (· == .wake 0) = none ∧ w.woken = true ∧ w.at_ + 4096 ≤ s.now) :=
  fun k => match k with
    | 0 => ⟨waiting (word1 dataPa 0 false), word1 dataPa 0 false, by decide +kernel⟩
    | 1 => ⟨waiting (word1 (dataPa + 65536 * 5) 4 false), word1 (dataPa + 65536 * 5) 4 false, by decide +kernel⟩
    | 2 => ⟨waiting (word1 dataPa 0 true), word1 dataPa 0 true, by decide +kernel⟩

end Sys2Proof.Tests
end

