-- ==== Sys2Proof/Tests/WitHome.lean ====
section
/-! SUPPORT. Witnesses of the statements about climbs, the home of a page, its holders and crowns. -/

namespace Sys2Proof.Tests

open Sys2Proof Sys2Proof.Machine

set_option Elab.async false

/-- A page that is not here. -/
def farGpn : Nat := 2 ^ 36 + 9
/-- Message 0 for this package. -/
def mailed (m : Msg) (s : State) : State := late 10 { s with net := [{ src := 1, dst := 0, msg := m, at_ := 3 }] }
def env0 (m : Msg) : Env := { src := 1, dst := 0, msg := m, at_ := 3 }
/-- A climb under way. -/
def climb1 (gpn : Nat) (st : ClimbStage) : Climb :=
  { id := 4, gpn := gpn, stage := st, set := setIndex gpn, way := 0, since := 0, acked := false, held := none, mirr := false, comp := false,
    line := 512 * gpn }
/-- The attraction memory changed. -/
def onAm (f : Am → Am) (s : State) : State := s.modAm f
def climbing (c : Climb) (s : State) : State := onAm (fun a => { a with climbs := [c] }) s
/-- A copy of the far page stands here. -/
def tagged (st : TagState) (transit : Bool) (s : State) : State :=
  putTag s (newTag s (setIndex farGpn) 0 farGpn st false transit false 2 5)
/-- The home's entry of the far page, with a crown elsewhere. -/
def entered (f : DirEntry → DirEntry) (s : State) : State := onAm (fun a => { a with dir := [f (newEntry farGpn 5)] }) s
/-- Every space is open. -/
def opened (s : State) : State := s.modHub fun h => { h with spaces := List.replicate 64 (~~~0#64) }

/-- Every way of the far page's set holds a master. -/
def fullSet (s : State) : State :=
  (List.range 16).foldl (fun s w => putTag s (newTag s (setIndex farGpn) w (farGpn + 100 + w) .master false false false 0 0)) s
/-- The state and way that a way's choice leaves. -/
def chosen (s : State) (gpn : Nat) : State × Nat :=
  match wayFor (decaySet s (setIndex gpn)) gpn with
  | .free t w => (t, w)
  | .pick t w => (t, w)
  | .wait t => (t, 99)
  | .disabled => (s, 99)

/-- A way's choice found a free way; it found one to give up. -/
def gives (w : WayFor) : Bool := match w with | .free _ _ => true | _ => false
def picks (w : WayFor) : Bool := match w with | .pick _ _ => true | _ => false
theorem wayFree_of {s : State} {gpn : Nat} (h : gives (wayFor (decaySet s (setIndex gpn)) gpn) = true) :
    wayFor (decaySet s (setIndex gpn)) gpn = .free (chosen s gpn).1 (chosen s gpn).2 := by
  unfold chosen; revert h; cases wayFor (decaySet s (setIndex gpn)) gpn <;> simp [gives]
theorem wayPick_of {s : State} {gpn : Nat} (h : picks (wayFor (decaySet s (setIndex gpn)) gpn) = true) :
    wayFor (decaySet s (setIndex gpn)) gpn = .pick (chosen s gpn).1 (chosen s gpn).2 := by
  unfold chosen; revert h; cases wayFor (decaySet s (setIndex gpn)) gpn <;> simp [picks]

theorem witness_ClimbsAndHome_1 :
    ∀ i : Fin 5, ∃ (s : State) (k : Climb), climbAt s 4 = some k ∧
      (let lacks := readableHere s k.gpn = false ∧ tagOf s k.gpn = none ∧ firstComing s k.gpn = false ∧ climbFor s k.gpn = none ∧
         (chosen s k.gpn).1.am.climbs = s.am.climbs
       match i with
       | 0 => k.stage = .amc ∧ readableHere s k.gpn = true ∧ k.who = []
       | 1 => k.stage = .amc ∧ lacks ∧ wayFor (decaySet s (setIndex k.gpn)) k.gpn = .free (chosen s k.gpn).1 (chosen s k.gpn).2
       | 2 => k.stage = .amc ∧ lacks ∧ wayFor (decaySet s (setIndex k.gpn)) k.gpn = .pick (chosen s k.gpn).1 (chosen s k.gpn).2
       | 3 => k.stage = .hint ∧ hintOf s k.gpn = some 5 ∧ 5 ≠ aid s ∧ 5 ∉ s.am.lost
       | 4 => k.stage = .hint ∧ hintOf s k.gpn = none) :=
  let here := climbing (climb1 placedGpn .amc) lan
  let away := climbing (climb1 farGpn .amc) lan
  let full := climbing (climb1 farGpn .amc) (fullSet lan)
  let hint := climbing (climb1 farGpn .hint) lan
  fun i => match i with
    | 0 => ⟨here, climb1 placedGpn .amc, by decide +kernel⟩
    | 1 => ⟨away, climb1 farGpn .amc, rfl, rfl, by decide +kernel, wayFree_of (by decide +kernel)⟩
    | 2 => ⟨full, climb1 farGpn .amc, rfl, rfl, by decide +kernel, wayPick_of (by decide +kernel)⟩
    | 3 => ⟨onAm (fun a => { a with hint := [(farGpn, 5)] }) hint, climb1 farGpn .hint, by decide +kernel⟩
    | 4 => ⟨hint, climb1 farGpn .hint, by decide +kernel⟩

theorem entry_of {s : State} {m gpn : Nat} {e : DirEntry} (h : firstFor s m gpn = true ∧ dirFind s gpn = some e ∧
    e.tx = none ∧ (e.mode = .precise ∨ e.mode = .coarse)) : Claim.Entry s m gpn e := ⟨h.1, h.2.1, h.2.2⟩
theorem fresh_of {s : State} {m gpn : Nat} (h : firstFor s m gpn = true ∧ (placing s gpn = false ∧ reportsDue s gpn = false) ∧
    dirFind s gpn = none ∧ (storeOf s (storeSet gpn)).length < 16) : Claim.Fresh s m gpn := ⟨h.1, h.2.1, h.2.2.1, h.2.2.2⟩

/-- A request that came to the home, and the messages that end its transactions. -/
def askMsg : Msg := .homeRead farGpn 1 none false false
def regMsg : Msg := .register farGpn 1 5 false false
/-- The entry of the far page with some change, and a message of number 0. -/
def homeOf (m : Msg) (e : DirEntry) : State := mailed m (onAm (fun a => { a with dir := [e] }) lan)
def far : DirEntry := newEntry farGpn 5
def inTx : DirEntry := { far with pool := some 3, tx := some { req := 1, acks := 1, floor := 0, since := 0, old := 5 } }
/-- The store of the far page has no room: its sixteen entries are in transactions. -/
def fullHome : State :=
  late (2 ^ 21) (mailed askMsg (onAm (fun a => { a with dir := List.replicate 16 { inTx with gpn := farGpn + 11198, pool := none } }) lan))

theorem witness_ClimbsAndHome_2 :
    (∃ (s : State) (v : Env), msgAt s 0 = some v ∧ v.msg = askMsg ∧ Claim.Fresh s 0 farGpn) ∧
    (∃ (s : State) (v : Env), msgAt s 0 = some v ∧ v.msg = regMsg ∧ Claim.Fresh s 0 farGpn) ∧
    (∀ local_ : Bool, ∃ (s : State) (v : Env) (e : DirEntry), msgAt s 0 = some v ∧ v.msg = askMsg ∧ Claim.Entry s 0 farGpn e ∧ e.pool = none ∧
      (1 < 1024 ∧ 1 ≠ aid s) ∧ (e.reps.contains (aid s)) = local_) ∧
    (∃ (s : State) (v : Env) (e : DirEntry), msgAt s 0 = some v ∧ v.msg = askMsg ∧ Claim.Entry s 0 farGpn e ∧ e.pool = some 3) ∧
    (∀ known : Bool, ∃ (s : State) (v : Env) (e : DirEntry), msgAt s 0 = some v ∧ v.msg = regMsg ∧ Claim.Entry s 0 farGpn e ∧ e.pool = none ∧
      recorded e 5 = known) ∧
    (∃ (s : State) (v : Env) (e : DirEntry) (tx : DirTx), msgAt s 0 = some v ∧ v.msg = .taken farGpn 1 ∧ dirFind s farGpn = some e ∧ e.tx = some tx) ∧
    (∃ (s : State) (v : Env), msgAt s 0 = some v ∧ v.msg = askMsg ∧ v.at_ + 2 ^ 20 ≤ s.now ∧ dirFind s farGpn = none ∧ placing s farGpn = false ∧
      dirAdd s (newEntry farGpn 1) = none) :=
  let held := { far with reps := [3, 0] }
  let strange := { far with crown := 7 }
  ⟨⟨mailed askMsg lan, env0 askMsg, by decide +kernel, rfl, fresh_of (by decide +kernel)⟩,
   ⟨mailed regMsg lan, env0 regMsg, by decide +kernel, rfl, fresh_of (by decide +kernel)⟩,
   fun b => match b with
     | true => ⟨homeOf askMsg held, env0 askMsg, held, by decide +kernel, rfl, entry_of (by decide +kernel), by decide +kernel⟩
     | false => ⟨homeOf askMsg far, env0 askMsg, far, by decide +kernel, rfl, entry_of (by decide +kernel), by decide +kernel⟩,
   ⟨homeOf askMsg { far with pool := some 3 }, env0 askMsg, _, by decide +kernel, rfl, entry_of (e := { far with pool := some 3 }) (by decide +kernel), rfl⟩,
   fun b => match b with
     | true => ⟨homeOf regMsg far, env0 regMsg, far, by decide +kernel, rfl, entry_of (by decide +kernel), by decide +kernel⟩
     | false => ⟨homeOf regMsg strange, env0 regMsg, strange, by decide +kernel, rfl, entry_of (by decide +kernel), by decide +kernel⟩,
   ⟨homeOf (.taken farGpn 1) inTx, env0 (.taken farGpn 1), inTx, _, rfl, rfl, by decide +kernel, rfl⟩,
   ⟨fullHome, env0 askMsg, by decide +kernel⟩⟩

/-- Page 1 of space 1 stands here as a master; a read of it, or of the far page, from package 1. -/
def rdMsg (gpn : Nat) (pin : Bool) : Msg := .read gpn 1 false pin
def reading (gpn : Nat) (pin : Bool) (s : State) : State := mailed (rdMsg gpn pin) (opened s)
def pageMsg : Msg := .page farGpn [(16, 9)] 1 2 5 false false false
def backMsg : Msg := .takeBack farGpn 3 7 5
def poolOn (s : State) : State := s.modHub fun h => { h with poolUp := true }
/-- The placed page is pinned here. -/
def pinnedPage : State := onAm (fun a => { a with tags := a.tags.map fun t => { t with pin := true } }) lan

theorem witness_HolderAnswers :
    ∀ i : Fin 9, ∃ (s : State) (v : Env), msgAt s 0 = some v ∧
      (match i with
       | 0 => v.msg = rdMsg placedGpn false ∧ spaceOpen s placedGpn 1 = true ∧ readableHere s placedGpn = true ∧ queuedPage s placedGpn = false ∧
           committingPage s placedGpn = false ∧ crownHere s placedGpn = true ∧ 1 ≠ aid s
       | 1 => v.msg = rdMsg placedGpn true ∧ spaceOpen s placedGpn 1 = true ∧ readableHere s placedGpn = true ∧ 1 ≠ aid s ∧ pinHeld s placedGpn = true
       | 2 => v.msg = rdMsg farGpn false ∧ spaceOpen s farGpn 1 = true ∧ readableHere s farGpn = false ∧ tagOf s farGpn = none
       | 3 => v.msg = .notHeld farGpn 5 false ∧ (climbFor s farGpn).map (·.stage) = some .sent
       | 4 => v.msg = .stale farGpn ∧ s.am.climbs = [climb1 farGpn .hinted]
       | 5 => v.msg = .regAck farGpn ∧ s.am.climbs = [climb1 farGpn .hinted]
       | 6 => v.msg = pageMsg ∧ spaceOpen s farGpn v.src = true ∧ s.am.climbs = [climb1 farGpn .sent] ∧
           (tagOf s farGpn).map (·.state) = some .replica ∧ Memory.wf [(16, 9)] = true
       | 7 => v.msg = backMsg ∧ s.hub.poolUp = true ∧ (tagOf s farGpn).isSome = true ∧ s.mem.wf = true
       | 8 => (climbAt s 4).map (fun k => (k.stage, k.since, k.gpn)) = some (.sent, 0, farGpn) ∧ 2 ^ 20 ≤ s.now ∧ climbAnswered s farGpn = false) :=
  let sent := climb1 farGpn .sent
  let hinted := climb1 farGpn .hinted
  fun i => match i with
    | 0 => ⟨reading placedGpn false lan, env0 (rdMsg placedGpn false), by decide +kernel⟩
    | 1 => ⟨reading placedGpn true pinnedPage, env0 (rdMsg placedGpn true), by decide +kernel⟩
    | 2 => ⟨reading farGpn false lan, env0 (rdMsg farGpn false), by decide +kernel⟩
    | 3 => ⟨mailed (.notHeld farGpn 5 false) (climbing sent lan), env0 (.notHeld farGpn 5 false), by decide +kernel⟩
    | 4 => ⟨mailed (.stale farGpn) (climbing hinted lan), env0 (.stale farGpn), by decide +kernel⟩
    | 5 => ⟨mailed (.regAck farGpn) (climbing hinted lan), env0 (.regAck farGpn), by decide +kernel⟩
    | 6 => ⟨mailed pageMsg (climbing sent (tagged .replica true (opened lan))), env0 pageMsg, by decide +kernel⟩
    | 7 => ⟨mailed backMsg (poolOn (tagged .replica false lan)), env0 backMsg, by decide +kernel⟩
    | 8 => ⟨late (2 ^ 21) (mailed pageMsg (climbing sent lan)) |> fun s => { s with net := [env0 (.stale 0)] }, env0 (.stale 0), by decide +kernel⟩

/-- A crown request of this package. -/
def crown1 (granted done : Bool) : CrownReq := { gpn := farGpn, granted := granted, done := done, floor := 3, since := 0 }
def crowns (r : CrownReq) (s : State) : State := onAm (fun a => { a with crowns := [r] }) s
def reqMsg (req : Nat) : Msg := .crownReq farGpn req false false 6
/-- The answer of the last of a crown's old holders is awaited. -/
def moving : DirEntry := { far with tx := some { req := 1, acks := 1, floor := 3, since := 0, old := 5 } }
/-- A grant with or without the page. -/
def grantMsg (d : Option Memory) : Msg := .grant farGpn 9 d 4 false

theorem witness_CrownMoves_1 :
    ∀ i : Fin 4, ∃ (s : State) (v : Env) (e : DirEntry), msgAt s 0 = some v ∧
      (match i with
       | 0 => v.msg = reqMsg 1 ∧ Claim.Entry s 0 farGpn e ∧ mirrorSent s farGpn = false ∧ e.pool = none ∧ e.crown ≠ 1 ∧ e.mirror = none ∧ e.reps ≠ []
       | 1 => v.msg = reqMsg 5 ∧ e.crown = 5 ∧ Claim.Entry s 0 farGpn e ∧ mirrorSent s farGpn = false ∧ e.pool = none ∧ e.mirror = none ∧
           replicaHolders s e 5 = []
       | 2 => v.msg = .inval farGpn ∧ pageMarkers s farGpn = [] ∧ (tagOf s farGpn).map (fun y => (y.state, y.transit)) = some (.replica, false)
       | 3 => v.msg = .invalAck farGpn 5 (some 8) ∧ dirFind s farGpn = some e ∧ e.tx.map (·.acks) = some 1 ∧ e.tx.all (fun x => x.old != x.req) = true ∧
           e.mirror = none) :=
  let shared := { far with reps := [3] }
  fun i => match i with
    | 0 => ⟨homeOf (reqMsg 1) shared, env0 (reqMsg 1), shared, by decide +kernel, rfl, entry_of (by decide +kernel), by decide +kernel⟩
    | 1 => ⟨homeOf (reqMsg 5) far, env0 (reqMsg 5), far, rfl, by decide +kernel, rfl, entry_of (by decide +kernel), by decide +kernel⟩
    | 2 => ⟨mailed (.inval farGpn) (tagged .replica false lan), env0 (.inval farGpn), far, by decide +kernel⟩
    | 3 => ⟨homeOf (.invalAck farGpn 5 (some 8)) moving, env0 (.invalAck farGpn 5 (some 8)), moving, by decide +kernel⟩

theorem witness_CrownMoves_2 :
    ∀ i : Fin 6, ∃ (s : State) (v : Env), msgAt s 0 = some v ∧
      (match i with
       | 0 => v.msg = .release placedGpn 1 false ∧ crownHere s placedGpn = true ∧ spaceOpen s placedGpn 1 = true ∧
           (tagOf s placedGpn).map (·.transit) = some false ∧ pinHeld s placedGpn = false ∧ crownHeld s placedGpn = false ∧
           queuedPage s placedGpn = false ∧ mirrorBusy s placedGpn = false ∧ pageMarkers s placedGpn = []
       | 1 => v.msg = grantMsg none ∧ spaceOpen s farGpn v.src = true ∧ s.am.crowns = [crown1 false false] ∧ (tagOf s farGpn).isSome = true
       | 2 => v.msg = grantMsg (some [(16, 9)]) ∧ spaceOpen s farGpn v.src = true ∧ s.am.crowns = [crown1 false false] ∧ (tagOf s farGpn).isSome = true ∧
           Memory.wf [(16, 9)] = true
       | 3 => v.msg = .complete farGpn 9 (aid s) none ∧ s.am.crowns = [crown1 true false] ∧ s.am.climbs = [] ∧ (tagOf s farGpn).any crowned = true
       | 4 => v.msg = .complete farGpn 9 7 none ∧ 7 ≠ aid s
       | 5 => s.am.crowns = [crown1 true true] ∧ 4096 ≤ s.now) :=
  fun i => match i with
    | 0 => ⟨mailed (.release placedGpn 1 false) (opened lan), env0 (.release placedGpn 1 false), by decide +kernel⟩
    | 1 => ⟨mailed (grantMsg none) (crowns (crown1 false false) (tagged .replica false (opened lan))), env0 (grantMsg none), by decide +kernel⟩
    | 2 => ⟨mailed (grantMsg (some [(16, 9)])) (crowns (crown1 false false) (tagged .replica true (opened lan))), env0 (grantMsg (some [(16, 9)])), rfl,
        by decide +kernel⟩
    | 3 => ⟨mailed (.complete farGpn 9 0 none) (crowns (crown1 true false) (tagged .master true lan)), env0 (.complete farGpn 9 0 none), rfl,
        by decide +kernel⟩
    | 4 => ⟨mailed (.complete farGpn 9 7 none) (tagged .master false lan), env0 (.complete farGpn 9 7 none), by decide +kernel⟩
    | 5 => ⟨late 5000 (mailed (.inval farGpn) (crowns (crown1 true true) lan)), env0 (.inval farGpn), by decide +kernel⟩

end Sys2Proof.Tests
end

