-- ==== Sys2Proof/Tests/WitInject.lean ====
section
/-! SUPPORT. Witnesses of the statements about injections, rebuilds and the AM ring. -/

namespace Sys2Proof.Tests

open Sys2Proof Sys2Proof.Machine

set_option Elab.async false

/-- Package 0 of a pod of four. -/
def inPod (s : State) : State := s.modHub fun h => { h with podId := w64 (4 * 1024) }
/-- An injection of the far page under way. -/
def inj1 (f : Inject → Inject) : Inject := f { gpn := farGpn, offers := [], rounds := 0, since := 0, sentTo := none, refused := false }
def injecting (f : Inject → Inject) (s : State) : State := onAm (fun a => { a with injects := [inj1 f] }) s

theorem witness_Injections_1 :
    ∃ s : State, s.cycle % 2 ^ 16 = 0 ∧ 1 < podSize s ∧ s.am.lost = [] := ⟨inPod lan, by decide +kernel⟩

theorem witness_Injections_2 :
    ∀ i : Fin 5, ∃ (s : State) (v : Env), msgAt s 0 = some v ∧
      (match i with
       | 0 => v.msg = .offer farGpn true ∧ spaceOpen s farGpn v.src = true ∧ tagOf s farGpn = none ∧
           offerWay (decaySet (dropMsg s 0) (setIndex farGpn)) farGpn = some 0 ∧
           tagAt (decaySet (dropMsg s 0) (setIndex farGpn)) (setIndex farGpn) 0 = none
       | 1 => v.msg = .offer farGpn true ∧ spaceOpen s farGpn v.src = true ∧ s.am.crowns = [] ∧
           (tagOf s farGpn).map (fun y => (y.state, y.transit)) = some (.replica, false)
       | 2 => v.msg = .offerAns farGpn 1 true false ∧ (injectOf s farGpn).map (·.mirror) = some none ∧ injectQuiet s farGpn = true
       | 3 => v.msg = .offerAns farGpn 1 false false ∧ (injectOf s farGpn).map (·.offers) = some [2]
       | 4 => v.msg = .injOk farGpn 1 ∧ 1 ≠ noAid ∧ (injectOf s farGpn).map (fun x => (x.mirror, x.sentTo)) = some (none, some 1)) :=
  let full := tagged .master false (inPod lan)
  fun i => match i with
    | 0 => ⟨mailed (.offer farGpn true) (opened (inPod lan)), env0 (.offer farGpn true), by decide +kernel⟩
    | 1 => ⟨mailed (.offer farGpn true) (tagged .replica false (opened (inPod lan))), env0 (.offer farGpn true), by decide +kernel⟩
    | 2 => ⟨mailed (.offerAns farGpn 1 true false) (injecting id full), env0 (.offerAns farGpn 1 true false), by decide +kernel⟩
    | 3 => ⟨mailed (.offerAns farGpn 1 false false) (injecting (fun x => { x with offers := [2] }) full), env0 (.offerAns farGpn 1 false false),
        by decide +kernel⟩
    | 4 => ⟨mailed (.injOk farGpn 1) (injecting (fun x => { x with sentTo := some 1 }) full), env0 (.injOk farGpn 1), by decide +kernel⟩

theorem witness_Injections_3 :
    ∀ i : Fin 3, ∃ (s : State) (x : Inject), injectOf s farGpn = some x ∧ x.refused = true ∧ x.sentTo = none ∧
      (match i with
       | 0 => s.am.poolFree = [7] ∧ x.mirror = none ∧ s.hub.poolUp = true ∧ injectQuiet s farGpn = true ∧ s.mem.wf = true
       | 1 => x.since + 4096 ≤ s.now ∧ x.rounds + 1 < 16
       | 2 => x.since + 4096 ≤ s.now ∧ 16 ≤ x.rounds + 1) :=
  let full := tagged .master false (inPod lan)
  let given (n : Nat) (x : Inject) : Inject := { x with refused := true, rounds := n }
  let pool := poolOn (onAm (fun a => { a with poolFree := [7] }) (injecting (given 0) full))
  let again (n : Nat) : State := late 5000 (injecting (given n) full)
  fun i => match i with
    | 0 => ⟨pool, inj1 (given 0), by decide +kernel⟩
    | 1 => ⟨again 14, inj1 (given 14), by decide +kernel⟩
    | 2 => ⟨again 15, inj1 (given 15), by decide +kernel⟩

/-- An access set that waits for the far page, on its way to its place. -/
def farAcc : Acc := { acc1 4 with pa := 65536 * farGpn }
def farSet : ASet := { set1 (.lane 0) .load .ready farAcc with spans := spansOf [farAcc] }

theorem witness_RebuildsAndTimeouts_1 :
    ∀ rebuild : Bool, ∃ (s : State) (x : Acc), Claim.WaitsOn s 7 0 farGpn farSet x ∧
      (if rebuild then s.am.recalls.lookup farGpn = some 0 ∧ s.am.climbs.map (fun c => (c.gpn, c.since)) = [(farGpn, 0)] ∧ 2 ^ 22 ≤ s.now ∧ s.net = [] ∧
          pageWaiters s farGpn = [.set 7]
        else s.am.behind[0]? = some (.set 7, farGpn, 0) ∧ inTransit s farGpn = true ∧ 2 ^ 20 ≤ s.now) :=
  let moving := onAm (fun a => { a with behind := [(.set 7, farGpn, 0)] }) (late (2 ^ 22) (holding farSet (tagged .master true lan)))
  let lost := onAm (fun a => { a with climbs := [{ climb1 farGpn .sent with who := [.set 7] }], recalls := [(farGpn, 0)] })
    (late (2 ^ 22) (holding farSet lan))
  fun b => match b with
    | true => ⟨lost, farAcc, ⟨by decide +kernel, by decide +kernel, by decide +kernel⟩, by decide +kernel⟩
    | false => ⟨moving, farAcc, ⟨by decide +kernel, by decide +kernel, by decide +kernel⟩, by decide +kernel⟩

/-- Package 9's answer is the last one that a rebuild waits for. -/
def rebuilt : DirEntry := { far with mode := .rebuilding, tx := some { req := 0, acks := 1, floor := 0, since := 0, old := 0 } }

theorem witness_RebuildsAndTimeouts_2 :
    ∀ i : Fin 3, ∃ (s : State) (v : Env) (e : DirEntry), (i.val ≠ 0 → msgAt s 0 = some v) ∧
      (match i with
       | 0 => dirFind s farGpn = some e ∧ e.tx = none ∧ e.mode ≠ .lost ∧ 1 < podSize s
       | 1 => v.msg = .recall farGpn 1
       | 2 => v.msg = .recallAns farGpn 9 .master none ∧ dirFind s farGpn = some e ∧ e.mode = .rebuilding ∧ e.tx.map (·.acks) = some 1 ∧
           e.reps.length ≤ 4) :=
  fun i => match i with
    | 0 => ⟨entered id (inPod lan), env0 (.stale 0), newEntry farGpn 5, by decide +kernel⟩
    | 1 => ⟨mailed (.recall farGpn 1) lan, env0 (.recall farGpn 1), far, by decide +kernel⟩
    | 2 => ⟨homeOf (.recallAns farGpn 9 .master none) rebuilt, env0 (.recallAns farGpn 9 .master none), rebuilt, by decide +kernel⟩

/-! ## The AM ring -/

/-- A ring of 16 records in host memory with one command. -/
def amRec (opc a0 a1 : Nat) : List Byte := leBytes 8 opc ++ leBytes 8 a0 ++ leBytes 8 a1 ++ leBytes 8 0
def amState (opc a0 a1 : Nat) (s : State) : State :=
  { s.modHub fun h => { h with amqBase := w64 (0xFFF * 2 ^ 52), amqSize := 16, amqHead := 0, amqTail := 1 } with
    mem := setBytes s.mem (0xFFF * 2 ^ 52) (amRec opc a0 a1) }
/-- What an access leaves, where it is done. -/
def reached {α : Type} (r : Reach α) : State := match r with | .done s _ => s | _ => State.reset

/-- What an access answers, where it is done. -/
def answer {α : Type} (r : Reach α) : Option α := match r with | .done _ v => some v | _ => none

theorem done_of {α : Type} {r : Reach α} {v : α} (h : answer r = some v) : r = .done (reached r) v := by
  cases r <;> simp_all [answer, reached]

/-- The command's record has been read. -/
def amRead (s : State) : State := reached (ringRead s 64 (amRing s) (32 * 0) 32)

theorem due_of {s : State} {opc a0 a1 : Nat} (h : amDue s = some 0) (h1 : answer (ringRead s 64 (amRing s) (32 * 0) 32) = some (amRec opc a0 a1))
    (h2 : field (amRec opc a0 a1) 0 2 = opc) : Claim.AmDue s (amRead s) 0 (amRec opc a0 a1) opc := ⟨h, done_of h1, h2⟩

def outPa : Nat := 0xFFF * 2 ^ 52 + 0x1000
/-- The address of its record. -/
def recPa : Nat := 0xFFF * 2 ^ 52
/-- The bank that the command before began to park; the far page stands in it, or in the way to retire. -/
def begun (l : List (Nat × Nat)) (s : State) : State := onAm (fun a => { a with busy := true, parked := l }) s
/-- The far page's master stands in way 2 of set 1; that way's frame is retired. -/
def wayTag (st : TagState) (s : State) : State := putTag s (newTag s 1 2 farGpn st false false false 2 5)
def lostEntry (s : State) : State := entered (fun e => { e with mode := .lost }) s
def amR0 : Nat := 0x200001
def amB0 : Nat := 0x503

theorem witness_AmCommands :
    ∀ i : Fin 6, ∃ (s s1 s2 s3 : State) (b : List Byte), Claim.AmDue s s1 0 b (i.val + 1) ∧
      (let a0 := field b 8 8
       let a1 := field b 16 8
       match i with
       | 0 => a0 < 2 ^ 48 ∧ a1 % 64 = 0 ∧ a1 / 2 ^ 52 = 0xFFF ∧
           writePa (decaySet s1 (setIndex a0)) .cp (.ring 64) a1 (Claim.queryBytes s1 a0) = .done s2 () ∧
           amWrite s2 0 1 (Claim.queryFlags s1 a0) = .done s3 ()
       | 1 => a0 = 0 ∧ a1 % 64 = 0 ∧ a1 / 2 ^ 52 = 0xFFF ∧
           writePa s1 .cp (.ring 64) a1 ((List.range 13).flatMap fun k => leBytes 8 (s1.am.stats.getD k 0)) = .done s2 () ∧
           amWrite s2 0 1 0 = .done s3 ()
       | 2 => Claim.BankOf a0 a1 ∧ s1.am.busy = true ∧ bankTags s1 (a0 % 8, a0 / 256 % 64) = [] ∧ a0 / 256 % 64 < 60 ∧
           amWrite { s1 with am := { s1.am with busy := false } } 0 1 0 = .done s3 ()
       | 3 => Claim.BankOf a0 a1 ∧ (a0 % 8, a0 / 256 % 64) ∈ s1.am.parked ∧
           amWrite { s1 with am := { s1.am with parked := s1.am.parked.filter (· != (a0 % 8, a0 / 256 % 64)) } } 0 1 0 = .done s3 ()
       | 4 => a0 / 2 ^ 24 = 0 ∧ a0.testBit 19 = false ∧ a1 = 0 ∧ reservedWay (a0 % 2 ^ 19) (a0 / 2 ^ 20) = false ∧
           tagAt s1 (a0 % 2 ^ 19) (a0 / 2 ^ 20) = none ∧
           amWrite (retireFrame { s1 with am := { s1.am with busy := false, retiring := [] } } (a0 % 2 ^ 19) (a0 / 2 ^ 20)) 0 1 0 = .done s3 ()
       | 5 => a0 < 2 ^ 48 ∧ a1 = 0 ∧ (dirFind s1 a0).map (·.mode) = some .lost ∧
           amWrite { s1 with am := { s1.am with dir := s1.am.dir.filter fun e => e.gpn != a0 } } 0 1 0 = .done s3 ()) :=
  let due (s : State) (opc a0 a1 : Nat) (h : amDue s = some 0 ∧ answer (ringRead s 64 (amRing s) (32 * 0) 32) = some (amRec opc a0 a1) ∧
      field (amRec opc a0 a1) 0 2 = opc) : Claim.AmDue s (amRead s) 0 (amRec opc a0 a1) opc := due_of h.1 h.2.1 h.2.2
  let q := amState 1 placedGpn outPa lan
  let st := amState 2 0 outPa lan
  let park := begun [(3, 5)] (amState 3 amB0 0 lan)
  let unpark := begun [(3, 5)] (amState 4 amB0 0 lan)
  let retire := amState 5 amR0 0 lan
  let gone := lostEntry (amState 6 farGpn 0 lan)
  fun i => match i with
    | 0 => ⟨q, amRead q, _, _, _, due q 1 placedGpn outPa (by decide +kernel), by decide +kernel, by decide +kernel, by decide +kernel,
        done_of (by decide +kernel), done_of (by decide +kernel)⟩
    | 1 => ⟨st, amRead st, _, _, _, due st 2 0 outPa (by decide +kernel), by decide +kernel, by decide +kernel, by decide +kernel,
        done_of (by decide +kernel), done_of (by decide +kernel)⟩
    | 2 => ⟨park, amRead park, lan, _, _, due park 3 amB0 0 (by decide +kernel), by decide +kernel, by decide +kernel, by decide +kernel,
        by decide +kernel, done_of (by decide +kernel)⟩
    | 3 => ⟨unpark, amRead unpark, lan, _, _, due unpark 4 amB0 0 (by decide +kernel), by decide +kernel, by decide +kernel,
        done_of (by decide +kernel)⟩
    | 4 => ⟨retire, amRead retire, lan, _, _, due retire 5 amR0 0 (by decide +kernel), by decide +kernel, by decide +kernel, by decide +kernel,
        by decide +kernel, by decide +kernel, done_of (by decide +kernel)⟩
    | 5 => ⟨gone, amRead gone, lan, _, _, due gone 6 farGpn 0 (by decide +kernel), by decide +kernel, by decide +kernel, by decide +kernel,
        done_of (by decide +kernel)⟩

/-- The commands of `witness_AmCompletes` and the states in which they are due. -/
def amCases (k : Nat) : Nat × Nat × Nat × (State → State) :=
  match k with
  | 0 => (1, placedGpn, outPa, id)
  | 1 => (1, 2 ^ 48, outPa, id)
  | 2 => (7, 0, 0, id)
  | 3 => (2, 0, outPa, id)
  | 4 => (2, 1, outPa, id)
  | 5 => (3, 1 <<< 20, 0, id)
  | 6 => (4, 8, 0, id)
  | 7 => (3, 60 * 256, 0, id)
  | 8 => (3, amB0, 0, onAm fun a => { a with parked := [(3, 5)] })
  | 9 => (3, amB0, 0, id)
  | 10 => (3, amB0, 0, begun [(3, 5)])
  | 11 => (3, (bankOf (setIndex farGpn) 0).1 + 256 * (bankOf (setIndex farGpn) 0).2, 0, fun s => begun [bankOf (setIndex farGpn) 0] (tagged .master false s))
  | 12 => (4, amB0, 0, begun [(3, 5)])
  | 13 => (4, amB0, 0, id)
  | 14 => (5, 1 <<< 19, 0, id)
  | 15 => (5, 24 + 15 * 2 ^ 20, 0, id)
  | 16 => (5, amR0, 0, id)
  | 17 => (5, amR0, 0, wayTag .retired)
  | 18 => (5, amR0, 0, wayTag .master)
  | 19 => (5, amR0, 0, fun s => begun [] (wayTag .master s))
  | 20 => (6, farGpn, 1, id)
  | 21 => (6, farGpn, 0, lostEntry)
  | _ => (6, farGpn, 0, id)

def amAt (k : Nat) : State := (amCases k).2.2.2 (amState (amCases k).1 (amCases k).2.1 (amCases k).2.2.1 lan)

theorem amAt_ready : ∀ i : Fin 23,
    let s := amAt i
    (ringSize s.hub.amqSize = some 16 ∧ s.hub.amqHold = false ∧ 0 = s.hub.amqHead.toNat % 16 ∧ 0 ≠ s.hub.amqTail.toNat % 16) ∧
    (s.hub.amqBase.toNat / 2 ^ 52 = 0xFFF ∧ recPa = s.hub.amqBase.toNat / 4096 * 4096 + 32 * 0) ∧
    (leNat (bytesAt s.mem recPa 2) = (amCases i).1 ∧ leNat (bytesAt s.mem (recPa + 8) 8) = (amCases i).2.1 ∧
      leNat (bytesAt s.mem (recPa + 16) 8) = (amCases i).2.2.1) ∧
    (s.mem.wf = true ∧ s.l1 = [] ∧ s.wq = [] ∧ s.am.mirs = [] ∧ s.am.poison = [] ∧ s.net = []) := by decide +kernel

/-- What the rules ask of each of these states. -/
def amCond (s : State) (opc a0 a1 k : Nat) : Bool :=
  let bk := (a0 % 8, a0 / 256 % 64)
  let set := a0 % 2 ^ 19
  let way := a0 / 2 ^ 20
  let retires := opc = 5 ∧ a0 / 2 ^ 24 = 0 ∧ a0.testBit 19 = false ∧ a1 = 0
  let parks := opc = 3 ∧ Claim.BankOf a0 a1 ∧ bk.2 < 60
  match k with
  | 0 => decide (opc = 1 ∧ a0 < 2 ^ 48 ∧ a1 % 64 = 0 ∧ a1 / 2 ^ 52 = 0xFFF ∧ a1 ≠ recPa / 64 * 64)
  | 1 => decide (opc = 1 ∧ 2 ^ 48 ≤ a0)
  | 2 => decide (6 < opc)
  | 3 => decide (opc = 2 ∧ a0 = 0 ∧ a1 % 64 = 0 ∧ a1 / 2 ^ 52 = 0xFFF ∧ recPa + 32 ≤ a1)
  | 4 => decide (opc = 2 ∧ a0 ≠ 0)
  | 5 => decide (opc = 3 ∧ ¬ Claim.BankOf a0 a1)
  | 6 => decide (opc = 4 ∧ ¬ Claim.BankOf a0 a1)
  | 7 => decide (opc = 3 ∧ Claim.BankOf a0 a1 ∧ bk.2 = 60)
  | 8 => decide (parks ∧ s.am.busy = false ∧ bk ∈ s.am.parked)
  | 9 => decide (parks ∧ s.am.busy = false ∧ bk ∉ s.am.parked)
  | 10 => decide (parks ∧ s.am.busy = true ∧ bankTags s bk = [])
  | 11 => decide (parks ∧ s.am.busy = true ∧ bankTags s bk ≠ [] ∧ ∀ x ∈ bankTags s bk, crowned x = true ∧ Machine.injecting s x.gpn = false)
  | 12 => decide (opc = 4 ∧ Claim.BankOf a0 a1 ∧ bk ∈ s.am.parked)
  | 13 => decide (opc = 4 ∧ Claim.BankOf a0 a1 ∧ bk ∉ s.am.parked)
  | 14 => decide (opc = 5 ∧ a0.testBit 19 = true)
  | 15 => decide (retires ∧ reservedWay set way = true)
  | 16 => decide (retires ∧ reservedWay set way = false ∧ tagAt s set way = none)
  | 17 => decide (retires ∧ reservedWay set way = false ∧ (tagAt s set way).map (·.state) = some .retired)
  | 18 => decide (retires ∧ reservedWay set way = false ∧ (tagAt s set way).map crowned = some true ∧ s.am.busy = false)
  | 19 => decide (retires ∧ reservedWay set way = false ∧ (tagAt s set way).map crowned = some true ∧ s.am.busy = true ∧ s.am.injects = [])
  | 20 => decide (opc = 6 ∧ a1 ≠ 0)
  | 21 => decide (opc = 6 ∧ a0 < 2 ^ 48 ∧ a1 = 0 ∧ (dirFind s a0).map (·.mode) = some .lost)
  | _ => decide (opc = 6 ∧ a0 < 2 ^ 48 ∧ a1 = 0 ∧ dirFind s a0 = none)

theorem amAt_cond : ∀ i : Fin 23, amCond (amAt i) (amCases i).1 (amCases i).2.1 (amCases i).2.2.1 i = true := by decide +kernel

theorem witness_AmCompletes :
    ∀ i : Fin 23, ∃ (s : State) (opc a0 a1 : Nat), Claim.AmReady s 16 0 recPa opc a0 a1 ∧ amCond s opc a0 a1 i = true :=
  fun i => ⟨amAt i, (amCases i).1, (amCases i).2.1, (amCases i).2.2.1,
    have h := amAt_ready i
    ⟨h.1, h.2.1, h.2.2.1, h.2.2.2⟩, amAt_cond i⟩

end Sys2Proof.Tests
end

