-- ==== Sys2Proof/Tests/WitEngines.lean ====
section
/-! SUPPORT. Witnesses of the statements about engines, granules and arrival counters. -/

namespace Sys2Proof.Tests

open Sys2Proof Sys2Proof.Machine

set_option Elab.async false

/-- A command of these words. -/
def cmd1 (ws : List Nat) : EngCmd :=
  { num := 1, words := ws.map w64, lt := 1, prog := 0, began := false, acks := 0, time := 0, stat := 0, fin := false }
/-- An engine context with one command and nothing else. -/
def eng1 (c : EngCmd) (e : Engine) : Engine := { e with cmds := [c], next := 2 }
/-- Group 0 with a command in a context. -/
def engined (fab : Bool) (c : EngCmd) (s : State) : State := late 100 (modEng s 0 fab (eng1 c))
/-- Both ends in team SRAM. -/
def sramHdr (opc : Nat) : Nat := opc + 3 * 2 ^ 16

theorem at_of {s : State} {gi : Nat} {fab : Bool} {c : EngCmd} (h : gi < s.groups.length ∧ (groupAt s gi).team < s.teams.length ∧
    (teamOf s (groupAt s gi)).state = .resident ∧ (engOf (groupAt s gi) fab).cmds = [c] ∧ (engOf (groupAt s gi) fab).held = [] ∧
    (engOf (groupAt s gi) fab).halted = false ∧ cmdParked s gi fab c.num = false ∧ c.since + 68 ≤ s.now ∧
    (c.fin = false ∧ c.stat = 0 ∧ c.buf = none ∧ c.olds = []) ∧ ∀ u ∈ s.units, u.2.run = none) : Claim.EngineAt s gi fab c :=
  ⟨h.1, h.2.1, h.2.2.1, h.2.2.2.1, h.2.2.2.2.1, h.2.2.2.2.2.1, h.2.2.2.2.2.2.1, h.2.2.2.2.2.2.2.1, h.2.2.2.2.2.2.2.2.1, h.2.2.2.2.2.2.2.2.2⟩

theorem witness_CopyCommandsMoveBytes :
    ∀ i : Fin 4, ∃ (s : State) (c : EngCmd), Claim.EngineAt s 0 false c ∧ Claim.InSram c ∧ cmdOpc c = i.val + 1 ∧
      (let len := cmdWord c 3
       match i with
       | 0 | 1 => c.prog = 0 ∧ 0 < len ∧ len ≤ 4096
       | 2 => c.prog = 1 * (len % 2 ^ 32) ∧ 1 < len / 2 ^ 32 ∧ 0 < len % 2 ^ 32 ∧ len % 2 ^ 32 ≤ 4096
       | 3 => c.prog = 0 * (32 * (cmdWord c 4 % 16)) ∧ 0 < len % 2 ^ 32 ∧ 0 < cmdWord c 4 % 16) :=
  let copy := cmd1 [sramHdr 1 + 2 ^ 19, 0, 128, 16]
  let fill := cmd1 [sramHdr 2, 0x0102030405060708, 128, 12]
  let rows := { cmd1 [sramHdr 3, 0, 128, 2 * 2 ^ 32 + 8, 16 * 2 ^ 32 + 32] with prog := 8, began := true }
  let bpn := cmd1 [sramHdr 4, 0, 128, 1, 2]
  fun i => match i with
    | 0 => ⟨engined false copy lan, copy, at_of (by decide +kernel), by decide +kernel⟩
    | 1 => ⟨engined false fill lan, fill, at_of (by decide +kernel), by decide +kernel⟩
    | 2 => ⟨engined false rows lan, rows, at_of (by decide +kernel), by decide +kernel⟩
    | 3 => ⟨engined false bpn lan, bpn, at_of (by decide +kernel), by decide +kernel⟩

/-- The page's entry. -/
def pte1 : Word := w64 (placedGpn * 65536 + 7)
/-- A fabric command asks for a page that its context maps. -/
def mayAsk (s : State) (c : EngCmd) (va : Nat) (k : Xk) : Prop :=
  tablesFor s (.fabric 0) (ctxIx s (groupAt s 0)) k (.engine 0 true c.num va) va 1 = .done s () ∧
    partyPte s (.fabric 0) (ctxIx s (groupAt s 0)) va k = .ok pte1 ∧ gpnSpace (pteGpn pte1) < 0xFFD
/-- An access is done and leaves this state; a translation gives this entry. -/
def leaves (r : Reach Unit) (s : State) : Bool := match r with | .done t _ => decide (t = s) | _ => false
def givesPte {ε : Type} (r : Except ε Word) (e : Word) : Bool := match r with | .ok x => x == e | .error _ => false
theorem leaves_of {r : Reach Unit} {s : State} (h : leaves r s = true) : r = .done s () := by cases r <;> simp_all [leaves]
theorem givesPte_of {ε : Type} {r : Except ε Word} {e : Word} (h : givesPte r e = true) : r = .ok e := by cases r <;> simp_all [givesPte]
theorem mayAsk_of {s : State} {c : EngCmd} {va : Nat} {k : Xk}
    (h : leaves (tablesFor s (.fabric 0) (ctxIx s (groupAt s 0)) k (.engine 0 true c.num va) va 1) s = true ∧
      givesPte (partyPte s (.fabric 0) (ctxIx s (groupAt s 0)) va k) pte1 = true) : mayAsk s c va k :=
  ⟨leaves_of h.1, givesPte_of h.2, by decide +kernel⟩

theorem witness_FabricCommandsSend :
    ∀ i : Fin 5, ∃ (s : State) (c : EngCmd), Claim.EngineAt s 0 true c ∧
      (match i with
       | 0 => cmdOpc c = 0x11 ∧ hdrSsram (cmdWord c 0) = true ∧ mayAsk s c (cmdWord c 2 + c.prog) .write
       | 1 => cmdOpc c = 0x12 ∧ mayAsk s c (cmdWord c 1 + c.prog) .read
       | 2 => cmdOpc c = 0x13 ∧ mayAsk s c (cmdWord c 1) .write
       | 3 => cmdOpc c = 0x14
       | 4 => c.outs = [(0x10800, 0)] ∧ 0 < c.acks ∧ 2 ^ 22 ≤ s.now) :=
  let put := cmd1 [0x11 + 2 ^ 16, 0, 0x10810, 300]
  let get := cmd1 [0x12 + 2 ^ 17, 0x10800, 0, 300]
  let atom := cmd1 [0x13, 0x10800, 0, 5, 0, 0]
  let sig := cmd1 [0x14 + 2 ^ 19, 7 * 2 ^ 32 + 1]
  let old := { get with acks := 1, outs := [(0x10800, 0)] }
  fun i => match i with
    | 0 => ⟨engined true put lan, put, at_of (by decide +kernel), by decide, by decide +kernel, mayAsk_of (by decide +kernel)⟩
    | 1 => ⟨engined true get lan, get, at_of (by decide +kernel), by decide, mayAsk_of (by decide +kernel)⟩
    | 2 => ⟨engined true atom lan, atom, at_of (by decide +kernel), by decide, mayAsk_of (by decide +kernel)⟩
    | 3 => ⟨engined true sig lan, sig, at_of (by decide +kernel), by decide +kernel⟩
    | 4 => ⟨late (2 ^ 22) (engined true old lan), old, at_of (by decide +kernel), by decide +kernel⟩

/-- A granule for the data of the placed page, come by its home. -/
def gran1 (op : BitVec 8) (data : List Byte) (n : Nat) : Gran :=
  { src := 0, cmd := 1, g := 0, space := 1, va := 0x10800, pa := dataPa, op := op, data := data, n := n, cnt := none, floor := 3, parked := false,
    mirr := false }
def granEnv (x : Gran) : Env := { src := 0, dst := 0, msg := x.msg, at_ := 0, passed := true }
/-- The line is in L2; the page is entered with `pte`. -/
def granWorld (x : Gran) (pte : Nat) : State :=
  { filled with net := [granEnv x], mem := storeLe filled.mem (placedTables + 0x1808) 8 (placedGpn * 65536 + pte) }
theorem gran_of {s : State} {v : Env} {x : Gran} (h : x.src = aid s ∧ (x.parked = false ∧ v.passed = true) ∧
    (crownHere s (pageOf x.pa) = true ∧ pageOf x.pa ∉ s.am.released) ∧ (0 < x.n ∧ x.pa % 128 + x.n ≤ 128 ∧ inL2 s (x.pa / 128) = true) ∧
    (sliceBusy s none x.pa x.n = false ∧ plainWriteHeld s x.pa x.n = false ∧ plainReadHeld s x.pa x.n = false) ∧
    (plainVictims s x.pa x.n = [] ∧ s.am.mirs = []) ∧ mirroredHere s (pageOf x.pa) = false) : Claim.GranHere s v x :=
  ⟨.inl h.1, h.2.1, h.2.2.1, h.2.2.2.1, h.2.2.2.2.1, h.2.2.2.2.2.1, h.2.2.2.2.2.2⟩

theorem witness_GranulesAtTarget :
    ∀ i : Fin 5, ∃ (s : State) (x : Gran), msgAt s 0 = some (granEnv x) ∧ Claim.GranHere s (granEnv x) x ∧
      (let atoms := x.op = 0x13 ∧ x.n = 8 ∧ x.data = leBytes 8 5 ++ leBytes 8 6 ++ leBytes 2 0x100 ∧
         writableHere s (pageOf x.pa) = true ∧ poisonAt s (x.pa / 128) = none
       match i with
       | 0 => x.op = 0x11 ∧ x.data.length = x.n ∧ writableHere s (pageOf x.pa) = true ∧ x.cnt = none
       | 1 => x.op = 0x11 ∧ x.data.length = x.n ∧ writableHere s (pageOf x.pa) = true ∧ x.cnt = some (3, 9)
       | 2 => x.op = 0x12 ∧ readableHere s (pageOf x.pa) = true ∧ poisonAt s (x.pa / 128) = none
       | 3 => atoms ∧ neverCached (granPte s x) = false
       | 4 => atoms ∧ neverCached (granPte s x) = true) :=
  let put := gran1 0x11 [1, 2, 3, 4] 4
  let counted := { put with cnt := some (3, 9) }
  let get := gran1 0x12 [] 4
  let atom := gran1 0x13 (leBytes 8 5 ++ leBytes 8 6 ++ leBytes 2 0x100) 8
  fun i => match i with
    | 0 => ⟨granWorld put 7, put, by decide +kernel, gran_of (by decide +kernel), by decide +kernel⟩
    | 1 => ⟨granWorld counted 7, counted, by decide +kernel, gran_of (by decide +kernel), by decide +kernel⟩
    | 2 => ⟨granWorld get 7, get, by decide +kernel, gran_of (by decide +kernel), by decide +kernel⟩
    | 3 => ⟨granWorld atom 7, atom, by decide +kernel, gran_of (by decide +kernel), by decide +kernel⟩
    | 4 => ⟨granWorld atom 15, atom, by decide +kernel, gran_of (by decide +kernel), by decide +kernel⟩

theorem witness_EngineCompletions :
    ∀ i : Fin 7, ∃ (s : State) (c : EngCmd), 0 < s.groups.length ∧ (engOf (groupAt s 0) true).cmds = [c] ∧
      (let e := engOf (groupAt s 0) true
       let word := c.fin = true ∧ c.acks = 0 ∧ (bit (cmdWord c 0) 18 = true ∨ c.stat ≠ 0)
       let put (data : List Byte) := (msgAt s 0).map (·.msg) = some (.granAck 0 c.num true 0 9 (cmdWord c 1) data) ∧ 0 < c.acks
       let lands := cmdParked s 0 true c.num = false ∧ (groupAt s 0).team < s.teams.length ∧ (teamOf s (groupAt s 0)).state = .resident ∧
         hdrDsram (cmdWord c 0) = true
       match i with
       | 0 => put []
       | 1 => put [7] ∧ cmdOpc c = 0x12 ∧ lands
       | 2 => put [7] ∧ cmdOpc c = 0x13 ∧ lands
       | 3 => c.fin = true ∧ c.acks = 0 ∧ c.stat = 0 ∧ bit (cmdWord c 0) 18 = false ∧ e.times = [] ∧ c.num = e.time + 1
       | 4 => word ∧ e.words.length < 16 ∧ e.held = []
       | 5 => word ∧ e.words.length = 16 ∧ e.held.length < 16
       | 6 => e.held = [(4, 5, 6)] ∧ e.words.length < 16) :=
  let get := { cmd1 [0x12 + 2 ^ 17, 0x10800, 0, 300] with acks := 2 }
  let atom := { cmd1 [0x13 + 2 ^ 17, 0x10800, 0, 5, 0, 0] with acks := 2 }
  let fin := { get with acks := 0, fin := true }
  let bad := { fin with stat := 3 }
  let ack (d : List Byte) : Msg := .granAck 0 1 true 0 9 0x10800 d
  let holds (f : Engine → Engine) (s : State) : State := modEng s 0 true f
  fun i => match i with
    | 0 => ⟨mailed (ack []) (engined true get lan), get, by decide +kernel⟩
    | 1 => ⟨mailed (ack [7]) (engined true get lan), get, by decide +kernel⟩
    | 2 => ⟨mailed (ack [7]) (engined true atom lan), atom, by decide +kernel⟩
    | 3 => ⟨engined true fin lan, fin, by decide +kernel⟩
    | 4 => ⟨engined true bad lan, bad, by decide +kernel⟩
    | 5 => ⟨holds (fun e => { e with words := List.replicate 16 0 }) (engined true bad lan), bad, by decide +kernel⟩
    | 6 => ⟨holds (fun e => { e with held := [(4, 5, 6)] }) (engined true get lan), get, by decide +kernel⟩

theorem witness_ArrivalCounts :
    ∀ i : Fin 3, ∃ s : State, msgAt s 0 = some (env0 (.count 4096 3 300 9 0 0 1 true 0)) ∧ 0 < s.ctxs.length ∧
      (let at_ := (ctxAt s 0).arrivals.find? fun e => e.1 == 3
       match i with
       | 0 => at_ = some (3, some (0, 64), 0, 0) ∧ 0 < s.teams.length ∧ (s.teams.getD 0 default).state = .resident ∧
           (rowTimes (s.teams.getD 0 default) (64 / 128)).2 < 2 ^ 63
       | 1 => at_ = none ∧ arrivalUsed s < 4096
       | 2 => at_ = none ∧ 4096 ≤ arrivalUsed s ∧ 3 + 2 ^ 20 ≤ s.now) :=
  let sent := mailed (.count 4096 3 300 9 0 0 1 true 0) lan
  fun i => match i with
    | 0 => ⟨sent.modCtx 0 fun c => { c with arrivals := [(3, some (0, 64), 0, 0)] }, by decide +kernel⟩
    | 1 => ⟨sent, by decide +kernel⟩
    | 2 => ⟨late (2 ^ 21) (sent.modCtx 0 fun c => { c with arrivals := List.replicate 4096 (4, none, 1, 1) }), by decide +kernel⟩

end Sys2Proof.Tests
end

