-- ==== Sys2Proof/Tests/WitLaunch.lean ====
section
/-! SUPPORT. Witnesses of the statements about launches, teams, barriers, counters and slots. -/

namespace Sys2Proof.Tests

open Sys2Proof Sys2Proof.Machine

set_option Elab.async false

/-! ## Records -/

/-- Words of a record: kind, WIDTH 8, 192 registers, CIMS 4, one group; ENTRY at the placed page; TEAMS 1; SRAM 256; TILEROWS; SEGTAB. -/
def recW (kind tile seg : Nat) : List Nat :=
  [kind + 8 * 2 ^ 8 + 192 * 2 ^ 16 + 4 * 2 ^ 24 + 2 ^ 32, 0x10000, 1 + 8 * 2 ^ 32, 256 + tile * 2 ^ 32, 0, 0, 0, seg]
/-- Queue 0 of context 0 holds one record at VA 0x11000; a segment record stands at VA 0x12000. -/
def queued (ws : List Nat) : State :=
  let s := data 0x2000 (leBytes 4 5 ++ leBytes 4 6 ++ leBytes 4 3 ++ leBytes 4 16) (data 0x1000 (ws.flatMap (leBytes 8)) lan)
  modLq s 0 0 fun x => { x with base := 0x11000, ctl := w64 (2 ^ 24 + 16), tail := 1 }
/-- The record has been read, and the CP serves it. -/
def taken (s : State) : State := reached (cpTake s 0 .read (headVa (lqAt s 0 0)) 64)

theorem head_of {s : State} {ws : List Nat} {b : List Byte} (h : s.ctxs.length = 64 ∧ (ctxAt s 0).queues.length = 16)
    (h1 : cpParked s 0 = false ∧ lqLive s 0 0 = true) (h2 : answer (cpTake s 0 .read (headVa (lqAt s 0 0)) 64) = some b) (h3 : recWords b = ws)
    (h4 : queueEligible (taken s) 0 0 ws = true ∧ firstChoice (taken s) (lqPri (lqAt (taken s) 0 0)) 0 = true) :
    Claim.HeadRead s (taken s) 0 0 ws := ⟨⟨by decide, by decide, h.1, h.2⟩, h1.1, h1.2, ⟨b, done_of h2, h3⟩, h4⟩

def kernelW : List Nat := recW 1 0 0
def raggedW : List Nat := recW 2 2 0x12000
def waitW : List Nat := 3 :: List.replicate 7 0
/-- The states between the CP's reads of a record. -/
def afterWins (ws : List Nat) : State := reached (readWindows (Claim.served (taken (queued ws)) 0 0) 0 (parseRecord ws))
def afterPlan (ws : List Nat) : State := reached (readPlan (afterWins ws) 0 (parseRecord ws) (List.replicate 8 (0, 0)))
def afterSnaps (ws : List Nat) : State := reached (readSnaps (afterPlan ws) 0 (parseRecord ws))
def afterImage (ws : List Nat) : State := reached (readLaunchImage (afterSnaps ws) 0 (parseRecord ws))
def imageRead (ws : List Nat) : Image × Option Cause := (answer (readLaunchImage (afterSnaps ws) 0 (parseRecord ws))).getD (placedImage, none)

theorem witness_RecordsAccepted :
    (∀ kind ∈ [1, 2], ∃ (s s1 s3 s4 s5 s6 : State) (c q : Nat) (ws : List Nat) (wins : List (Word × Word)) (plan : List TeamPlan)
      (snaps : List (Nat × Nat)) (im : Image) (bad : Option Cause), Claim.HeadRead s s1 c q ws ∧
      recordStatus ws (some (q, (lqAt s1 c q).next)) = 0 ∧
      readWindows (Claim.served s1 c q) (16 * c + q) (parseRecord ws) = .done s3 wins ∧ windowsBad wins = false ∧
      readPlan s3 (16 * c + q) (parseRecord ws) wins = .done s4 (some plan) ∧ plan ≠ [] ∧
      (flagCoop (parseRecord ws) = true → coopPossible s4 (parseRecord ws) plan.length = true) ∧
      readSnaps s4 (16 * c + q) (parseRecord ws) = .done s5 snaps ∧ readLaunchImage s5 (16 * c + q) (parseRecord ws) = .done s6 (im, bad) ∧
      (parseRecord ws).kind.toNat = kind) ∧
    (∃ (s s1 s3 : State) (c q : Nat) (ws : List Nat), Claim.HeadRead s s1 c q ws ∧ recordStatus ws (some (q, (lqAt s1 c q).next)) = 0 ∧
      (parseRecord ws).kind = 3 ∧ writeStatus (Claim.served s1 c q) c (headVa (lqAt s1 c q)) 1 = .done s3 ()) ∧
    (∃ (s : State) (c q : Nat), c < s.ctxs.length ∧ q < (ctxAt s c).queues.length) := by
  refine ⟨fun kind h => ?_, ?_, lan, 0, 0, by decide +kernel⟩
  · simp only [List.mem_cons, List.not_mem_nil, or_false] at h
    rcases h with rfl | rfl
    · exact ⟨queued kernelW, taken (queued kernelW), afterWins kernelW, afterPlan kernelW, afterSnaps kernelW, afterImage kernelW, 0, 0, kernelW,
        List.replicate 8 (0, 0), [((0, 0, 0), 0)], [], (imageRead kernelW).1, (imageRead kernelW).2,
        head_of (b := kernelW.flatMap (leBytes 8)) (by decide +kernel) (by decide +kernel) (by decide +kernel) (by decide +kernel) (by decide +kernel),
        by decide +kernel, done_of (by decide +kernel), by decide +kernel, done_of (by decide +kernel), by decide, by decide +kernel,
        done_of (by decide +kernel), done_of (by decide +kernel), by decide +kernel⟩
    · exact ⟨queued raggedW, taken (queued raggedW), afterWins raggedW, afterPlan raggedW, afterSnaps raggedW, afterImage raggedW, 0, 0, raggedW,
        List.replicate 8 (0, 0), [((5, 6, 2), 16), ((5, 8, 1), 16)], [], (imageRead raggedW).1, (imageRead raggedW).2,
        head_of (b := raggedW.flatMap (leBytes 8)) (by decide +kernel) (by decide +kernel) (by decide +kernel) (by decide +kernel) (by decide +kernel),
        by decide +kernel, done_of (by decide +kernel), by decide +kernel, done_of (by decide +kernel), by decide, by decide +kernel,
        done_of (by decide +kernel), done_of (by decide +kernel), by decide +kernel⟩
  · exact ⟨queued waitW, taken (queued waitW), _, 0, 0, waitW,
      head_of (b := waitW.flatMap (leBytes 8)) (by decide +kernel) (by decide +kernel) (by decide +kernel) (by decide +kernel) (by decide +kernel),
      by decide +kernel, by decide +kernel, done_of (by decide +kernel)⟩

/-! ## Teams, blocks, barriers, the end -/

/-- The placed team is only dealt. -/
def dealtLane : State := lan.modTeam 0 fun t => { t with state := .dealt, groups := [] }
/-- The group exits with nothing outstanding. -/
def leavingLane : State := onG lan fun g => { g with exiting := true, block := none }
/-- The placed launch has no team left, and it was record 1 of queue 0. -/
def endedLaunch : State :=
  (data 0x1000 [] lan).modLaunch 0 fun l => { l with left := 0, queue := some (0, 1), recVa := 0x11000 }
def bar1 : Barrier := { gen := 4, arrived := [0], lt := 9, rel := 0 }

theorem witness_TeamsAndGroups :
    (∃ (s : State) (i : Nat), i < s.teams.length ∧ placeable s i = true ∧ (∀ t ∈ s.teams, t.placed ≠ s.cycle + 1) ∧
      (∀ j, j < s.teams.length → placeable s j = true → teamRank s i ≤ teamRank s j) ∧
      (s.launches.getD (s.teams.getD i default).launch default).bad = none) ∧
    (∃ (s : State) (k core n u : Nat), s.clears[k]? = some (core, n, u) ∧ u ≤ s.now) ∧
    (∃ (s : State) (gi : Nat) (b : Block) (r : List Block), gi < s.groups.length ∧ Claim.Free s gi ∧ (groupAt s gi).block = none ∧
      (groupAt s gi).queue = b :: r ∧ liveLanes (groupAt s gi) ≠ 0) ∧
    (∃ (s : State) (l i : Nat) (x : Team), s.teams[i]? = some x ∧ x.launch = l ∧ x.state = .resident ∧ x.groups ≠ [] ∧ x.bar.arrived ≠ [] ∧
      ∀ gi ∈ x.groups, (groupAt s gi).retired = true ∨ gi ∈ x.bar.arrived) ∧
    (∃ (s : State) (l d : Nat) (x : Launch) (b : Barrier), s.launches[l]? = some x ∧ x.bar.arrived ≠ [] ∧ x.crew[d]? = some b ∧ b.arrived ≠ [] ∧
      (∃ y ∈ s.teams, y.launch = l ∧ y.state ≠ .retired ∧ dieOf s y.dealt = d) ∧
      (∀ y ∈ s.teams, y.launch = l → y.state ≠ .retired → y.groups ≠ [] ∧ ∀ gi ∈ y.groups, gi ∈ x.bar.arrived ∧ gi ∈ b.arrived)) ∧
    (∃ (s : State) (gi : Nat), gi < s.groups.length ∧ (groupAt s gi).team < s.teams.length ∧ (groupAt s gi).exiting = true ∧
      (groupAt s gi).retired = false ∧ (groupAt s gi).pend = none ∧ blocksOutstanding (groupAt s gi) = false ∧ (∀ a ∈ s.sets, ofGroup gi a = false) ∧
      (groupAt s gi).copy.cmds = [] ∧ (groupAt s gi).fabric.cmds = [] ∧ (groupAt s gi).region = none ∧ (teamOf s (groupAt s gi)).groups = [gi] ∧
      (teamOf s (groupAt s gi)).launch < s.launches.length) ∧
    (∃ (s s1 : State) (l : Nat) (x : Launch) (q n : Nat), s.launches[l]? = some x ∧ x.retired = false ∧ x.left = 0 ∧ x.builder = none ∧
      x.queue = some (q, n) ∧ x.ctx < s.ctxs.length ∧ q < (ctxAt s x.ctx).queues.length ∧ (lqAt s x.ctx q).fin = [] ∧
      (lqAt s x.ctx q).done.toNat + 1 = n ∧ writeStatus s x.ctx x.recVa 1 = .done s1 ()) :=
  let block : Block := { lofs := 0, snap := [], lt := 5 }
  let ready := onG lan fun g => { g with block := none, queue := [block] }
  let met := lan.modTeam 0 fun t => { t with bar := bar1 }
  let far := lan.modLaunch 0 fun l => { l with bar := bar1, crew := [bar1, bar1] }
  ⟨⟨dealtLane, 0, by decide +kernel⟩,
   ⟨{ lan with clears := [(0, 256, 0)] }, 0, 0, 256, 0, rfl, by decide +kernel⟩,
   ⟨ready, 0, block, [], by decide +kernel⟩,
   ⟨met, 0, 0, met.teams.headD default, by decide +kernel⟩,
   ⟨far, 0, 0, far.launches.headD default, bar1, by decide +kernel⟩,
   ⟨leavingLane, 0, by decide +kernel⟩,
   ⟨endedLaunch, _, 0, endedLaunch.launches.headD default, 0, 1, by decide +kernel, by decide +kernel, by decide +kernel, by decide +kernel,
      (by decide +kernel), by decide +kernel, by decide +kernel, by decide +kernel, by decide +kernel, done_of (by decide +kernel)⟩⟩

/-- A trap of the group waits to be delivered. -/
def trapPend : Pending := { (default : Pending) with cause := 0x2D }
def owing : State := onG (vectored lan) fun g => { g with pend := some trapPend }

theorem witness_CountersAndSlots :
    (∃ (s : State) (q u : Nat), s.hub.cslReq = [q + 512 * u] ∧ q < 288 ∧ 64 * (u / 64 + 1) ≤ s.cycle) ∧
    (∀ gapped : Bool, ∃ s : State, mayCount s (groupAt s 0) = true ∧ reachesFirst s 0 (groupAt s 0) (duePath (groupAt s 0)) = false ∧
      (if gapped then 4096 ≤ (groupAt s 0).gap ∧ laneMayRun s (groupAt s 0) (duePath (groupAt s 0)) = true
        else dogPeriod s (groupAt s 0) ≤ (groupAt s 0).prog)) ∧
    (∃ (s : State) (p : Pending), 0 < s.groups.length ∧ (groupAt s 0).pend = some p ∧ (groupAt s 0).retired = false ∧ quiescent s 0 = true ∧
      (groupAt s 0).frame = none ∧ handlerReady s ((groupAt s 0).quad / 4) (ctxIx s (groupAt s 0)) p.cause = true ∧
      (Claim.handler s (groupAt s 0) p.cause).isSome = true) :=
  ⟨⟨late 128 { lan with cycle := 0, hub := { lan.hub with cslReq := [3 + 512 * 5] } }, 3, 5, by decide +kernel⟩,
   fun b => match b with
     | true => ⟨onG lan fun g => { g with gap := 4096 }, by decide +kernel⟩
     | false => ⟨onG lan fun g => { g with prog := 2 ^ 24 }, by decide +kernel⟩,
   ⟨owing, trapPend, by decide +kernel⟩⟩

end Sys2Proof.Tests
end

