-- ==== Sys2Proof/Tests/WitRecover.lean ====
section
/-! SUPPORT. Witnesses of the statements about pre-emption, checkpoints, rollback and strikes. -/

namespace Sys2Proof.Tests

open Sys2Proof Sys2Proof.Machine

set_option Elab.async false

/-- A launch of 4 registers, no CIM and no team SRAM, and three save slots of 64 KiB at VA 0x10000. -/
def swapWorld (s : State) : State :=
  let s := s.modLaunch 0 fun l => { l with record := { placedRecord with regs := 4, cims := 0, sram := 0 } }
  s.modCtx 0 fun c => { c with save := 0x10003, savesz := 1, ckpt := c.ckpt ||| 4 }
def onTeam (f : Team → Team) (s : State) : State := s.modTeam 0 f
def swapLane : State := swapWorld (vectored lan)
def team0 (s : State) : Team := teamAt s 0

theorem group_of {s : State} (h : s.teams[0]? = some (team0 s) ∧ (team0 s).groups = [0] ∧ 0 < s.groups.length ∧ (groupAt s 0).team = 0 ∧
    (groupAt s 0).retired = false) : Claim.OneGroup s 0 0 (team0 s) := ⟨h.1, h.2.1, h.2.2.1, h.2.2.2.1, h.2.2.2.2⟩

/-- A team of higher priority waits for the core, which has no room for it. -/
def outrankedWorld : State :=
  let s := swapLane
  let l := (s.launches.headD default)
  let s := { s with launches := s.launches ++ [{ l with pri := 3, record := { l.record with sram := 524288 } }] }
  let s := s.modLaunch 0 fun l => { l with record := { l.record with sram := 256 } }
  let s := s.modCtx 0 fun c => { c with savesz := 9 }
  { s with teams := s.teams ++ [freshTeam 1 0 0 (0, 0, 0) 0] }
def waitingWorld : State := onG swapLane fun g => { g with block := none, wait := .scalar }

/-- A page of another package, mapped at VA 0x20000, where the save slots stand, with the answers to the CP's accesses there. -/
def slotGpn : Nat := farGpn
def lineAns (k : Nat × Nat × Nat) : Env :=
  { src := 1, dst := 0, msg := .remoteAns (partyTok .cp) (65536 * slotGpn + k.1) (65536 * slotGpn + k.1) [k.2.2] 5 0 0, at_ := 3 }
def slotsAway (ks : List (Nat × Nat × Nat)) (s : State) : State :=
  let s := (inPod s).modCtx 0 fun c => { c with save := 0x20003 }
  { s with mem := storeLe s.mem (placedTables + 0x1810) 8 (slotGpn * 65536 + 7), net := ks.map lineAns }
/-- `n` lines from offset `o` whose bytes are 0. -/
def zeroLines (o n : Nat) : List (Nat × Nat × Nat) := (List.range n).map fun k => (o + 128 * k, 128, 0)

def askedWorld : State := slotsAway ((0x1020, 96, 0) :: zeroLines 0x1080 63) (onTeam (fun t => { t with request := some 0 }) waitingWorld)
def controlled : State := reached (writeControls (sealSrc 0 (teamCtx askedWorld 0)) askedWorld [0])
theorem controlled_done : writeControls (sealSrc 0 (teamCtx askedWorld 0)) askedWorld [0] = .done controlled () := done_of (by decide +kernel)

theorem witness_TeamsAskedToLeave :
    (∀ swap : Bool, ∃ s : State, Claim.OneGroup s 0 0 (team0 s) ∧ freeSlotFor s 0 = some 0 ∧ mayRequest s 0 = true ∧
      (if swap then isWaiting s 0 (groupAt s 0) = true else outranked s 0 = true)) ∧
    (∃ s s1 : State, Claim.OneGroup s 0 0 (team0 s) ∧ freeSlotFor s 0 = some 1 ∧
      ((team0 s).state = .resident ∧ (team0 s).request.isSome = true ∧ mayEnter s 0 = true ∧ cpParked s (sealSrc 0 (teamCtx s 0)) = false ∧
        handlerReady s (physOf s (team0 s).core) (teamCtx s 0) Tc.preemptSave = true) ∧
      writeControls (sealSrc 0 (teamCtx s 0)) s [0] = .done s1 () ∧
      (Claim.handler { s1 with sets := s1.sets.filter fun a => !(ofGroup 0 a) } (groupAt s1 0) Tc.preemptSave).isSome = true) :=
  ⟨fun b => match b with
     | true => ⟨waitingWorld, group_of (by decide +kernel), by decide +kernel⟩
     | false => ⟨outrankedWorld, group_of (by decide +kernel), by decide +kernel⟩,
   ⟨askedWorld, controlled, group_of (by decide +kernel), by decide +kernel, by decide +kernel, controlled_done, by decide +kernel⟩⟩

/-! ## The seal and the return -/

/-- Every group of the team is saved. -/
def sealWorld : State :=
  slotsAway (zeroLines 0 32 ++ zeroLines 0 128 ++ [(4, 4, 0)]) (onTeam (fun t => { t with state := .saving })
    (onG swapLane fun g => { g with saved := true }))
def seal1 : State := reached (cpPut sealWorld (sealSrc 0 (teamCtx sealWorld 0)) (slotVa sealWorld (teamCtx sealWorld 0) (team0 sealWorld).slot)
  (headerBytes sealWorld 0 ((ctxAt sealWorld (teamCtx sealWorld 0)).sealGen + 1)))
def seal2 : State := reached (cpPut seal1 (sealSrc 0 (teamCtx sealWorld 0)) (slotVa sealWorld (teamCtx sealWorld 0) (team0 sealWorld).slot +
  sramAt (recordOf sealWorld (team0 sealWorld))) (bytesAt (team0 sealWorld).sram 0 (4096 * ceilDiv (recordOf sealWorld (team0 sealWorld)).sram.toNat 4096)))
def seal3 : State := reached (sealImage seal2 (sealSrc 0 (teamCtx sealWorld 0)) (slotVa sealWorld (teamCtx sealWorld 0) (team0 sealWorld).slot)
  (imageBytes (recordOf sealWorld (team0 sealWorld))))

theorem witness_TeamSealed :
    ∃ (s s1 s2 s3 : State) (ti gi : Nat) (x : Team), Claim.OneGroup s ti gi x ∧ x.state = .saving ∧ (groupAt s gi).saved = true ∧
      (∀ u ∈ s.units, u.2.run = none) ∧ teamCtx s ti < s.ctxs.length ∧ Claim.ckptReady s (teamCtx s ti) ∧
      cpParked s (sealSrc ti (teamCtx s ti)) = false ∧
      cpPut s (sealSrc ti (teamCtx s ti)) (slotVa s (teamCtx s ti) x.slot) (headerBytes s ti ((ctxAt s (teamCtx s ti)).sealGen + 1)) = .done s1 () ∧
      cpPut s1 (sealSrc ti (teamCtx s ti)) (slotVa s (teamCtx s ti) x.slot + sramAt (recordOf s x))
        (bytesAt x.sram 0 (4096 * ceilDiv (recordOf s x).sram.toNat 4096)) = .done s2 () ∧
      sealImage s2 (sealSrc ti (teamCtx s ti)) (slotVa s (teamCtx s ti) x.slot) (imageBytes (recordOf s x)) = .done s3 () :=
  ⟨sealWorld, seal1, seal2, seal3, 0, 0, team0 sealWorld, group_of (by decide +kernel), by decide +kernel, by decide +kernel, by decide +kernel,
    by decide +kernel, by decide +kernel, by decide +kernel, done_of (by decide +kernel), done_of (by decide +kernel), done_of (by decide +kernel)⟩

/-- The team is out; its image is four bytes FF, their CRC, and zeros. -/
def outWorld (gen : Nat) : State :=
  slotsAway ((0, 128, 2 ^ 64 - 1) :: zeroLines 128 127) (onTeam (fun t => { t with state := .out, slotGen := gen })
    (onG swapLane fun g => { g with frame := some (aFrame 0xB7), saved := true }))
def outRead (gen : Nat) : Reach (List Byte) :=
  cpTake (outWorld gen) (sealSrc 0 (teamCtx (outWorld gen) 0)) .read (slotVa (outWorld gen) (teamCtx (outWorld gen) 0) (team0 (outWorld gen)).slot)
    (imageBytes (recordOf (outWorld gen) (team0 (outWorld gen))))
def outImage : List Byte := (answer (outRead 0)).getD []
theorem crcByte_zero (l : List Byte) (h : l.all (· == 0) = true) : l.foldl crcByte 0 = 0 := by
  induction l with
  | nil => rfl
  | cons b r ih =>
    simp only [List.all_cons, Bool.and_eq_true, beq_iff_eq] at h
    rw [h.1]
    exact ih h.2

theorem read_of {r : Reach (List Byte)} (h : (answer r).isSome = true) : r = .done (reached r) ((answer r).getD []) := by
  apply done_of
  revert h
  cases answer r <;> simp

theorem crcOmit_zeros (b : List Byte) (h4 : b.take 4 = [255, 255, 255, 255]) (h1 : ((b.drop 8).take 8000).all (· == 0) = true)
    (h2 : ((b.drop 8).drop 8000).all (· == 0) = true) : crcOmit b 4 = 0xFFFFFFFF := by
  have h : (b.drop 8).all (· == 0) = true := by rw [← List.take_append_drop 8000 (b.drop 8), List.all_append, h1, h2]; rfl
  have h0 : ([255, 255, 255, 255] ++ [0, 0, 0, 0] : List Byte).foldl crcByte 0xFFFFFFFF = 0 := by decide +kernel
  unfold crcOmit crc32c
  rw [h4, List.foldl_append, h0, crcByte_zero _ h]
  rfl

theorem outImage_facts : outImage.take 4 = [255, 255, 255, 255] ∧ ((outImage.drop 8).take 8000).all (· == 0) = true ∧
    ((outImage.drop 8).drop 8000).all (· == 0) = true ∧ 0xFFFFFFFF = field outImage 4 4 ∧ field outImage 8 8 = 0 ∧ outImage.length = 0x4000 := by
  decide +kernel
theorem outImage_crc : crcOmit outImage 4 = field outImage 4 4 :=
  (crcOmit_zeros outImage outImage_facts.1 outImage_facts.2.1 outImage_facts.2.2.1).trans outImage_facts.2.2.2.1

theorem witness_TeamResumed :
    ∀ good : Bool, ∃ (s s1 : State) (b : List Byte) (core : Nat), Claim.OneGroup s 0 0 (team0 s) ∧
      (let x := team0 s
       let c := teamCtx s 0
       (x.state = .out ∧ mayPlace s c = true ∧ (∀ l, l < s.launches.length → l ≠ x.launch → halfPlaced s l = false) ∧
         cpParked s (sealSrc 0 c) = false ∧ resumeCore s x = some core ∧ coreWanted s core (priOf s x) = false ∧
         handlerReady s (physOf s core) c Tc.resumeRestore = true) ∧
       cpTake s (sealSrc 0 c) .read (slotVa s c x.slot) (imageBytes (recordOf s x)) = .done s1 b ∧
       (if good then crcOmit b 4 = field b 4 4 ∧ field b 8 8 = x.slotGen ∧ (groupAt s 0).frame = some (aFrame 0xB7) ∧ x.counts = [] ∧
           b.length = imageBytes (recordOf s x) ∧
           (handlerFor (handlerWalks s1 (physOf s core) c Tc.resumeRestore) (physOf s core) c Tc.resumeRestore).isSome = true
         else field b 8 8 ≠ x.slotGen)) :=
  fun good => match good with
    | true => ⟨outWorld 0, reached (outRead 0), outImage, 0, group_of (by decide +kernel), by decide +kernel,
        read_of (r := outRead 0) (by decide +kernel), outImage_crc, outImage_facts.2.2.2.2.1, by decide +kernel⟩
    | false => ⟨outWorld 1, reached (outRead 1), (answer (outRead 1)).getD [], 0, group_of (by decide +kernel), by decide +kernel,
        read_of (r := outRead 1) (by decide +kernel), by decide +kernel⟩

end Sys2Proof.Tests
end

