-- ==== Sys2Proof/Tests/WitCheck.lean ====
section
/-! SUPPORT. Witnesses of the statements about checkpoints, rollback, strikes, fault records, TLB invalidation and the host. -/

namespace Sys2Proof.Tests

open Sys2Proof Sys2Proof.Machine

set_option Elab.async false

/-! ## Checkpoints, rollback, strikes -/

theorem witness_CheckpointsOfContexts :
    (∃ (s : State) (c : Nat) (v : Word) (ti gi : Nat) (x : Team) (k : Nat), c < s.ctxs.length ∧ Claim.ckptReady s c ∧ v.getLsbD 0 = true ∧
      Claim.OneGroup s ti gi x ∧ teamsOfCtx s c = [ti] ∧ onCore x = true ∧ mayRequest s ti = true ∧ freeSlotFor s ti = some k) ∧
    (∃ (s : State) (c : Nat) (v : Word), c < s.ctxs.length ∧ Claim.ckptReady s c ∧ v.getLsbD 0 = true ∧ teamsOfCtx s c = [] ∧
      slotCount s c = 0 ∧ cpParked s (sealSrc (2 ^ 40) c) = false) :=
  ⟨⟨swapLane, 0, 1, 0, 0, team0 swapLane, 0, by decide +kernel, by decide +kernel, by decide, group_of (by decide +kernel), by decide +kernel⟩,
   ⟨lan, 1, 3, by decide +kernel⟩⟩

/-- The placed launch is protected and its context may roll back. -/
def protectedLane : State := (lan.modLaunch 0 fun l => { l with protect := true }).modCtx 0 fun c => { c with rb := 1 }

theorem witness_RollbackAndStrikes_1 :
    ∀ i : Fin 3, ∃ (s : State) (cause : Cause), 0 < s.groups.length ∧ 0xB0 ≤ cause.toNat ∧ cause.toNat ≤ 0xB6 ∧
      (let g := groupAt s 0
       let root := shadowRoot s (launchIx s g)
       let x := s.launches.getD root default
       (x.stopping = false ∧ g.retired = false) ∧
       (match i with
        | 0 => x.protect = false ∧ g.pend = none ∧ (g.block = none ∨ cause = Tc.ueScalarReg)
        | 1 => x.protect = false ∧ g.pend = none ∧ g.block.isSome = true ∧ cause ≠ Tc.ueScalarReg
        | 2 => x.protect = true ∧ root < s.launches.length ∧ rollbackOn s x.ctx = true ∧ x.replays < 3 ∧
            familyBusy (stopFamily s root) root = false ∧ cpParked (stopFamily s root) (sealSrc (2 ^ 41 + root) x.ctx) = false ∧
            ∀ y ∈ s.am.shadows, y.1 ≠ root)) :=
  fun i => match i with
    | 0 => ⟨sca, 0xB0, by decide +kernel⟩
    | 1 => ⟨lan, 0xB2, by decide +kernel⟩
    | 2 => ⟨protectedLane, 0xB2, by decide +kernel⟩

theorem witness_RollbackAndStrikes_2 :
    ∀ restoring : Bool, ∃ (s : State) (a : ASet), s.sets[0]? = some a ∧ partyGroup a.party = some 0 ∧ (groupAt s 0).quad = 0 ∧ a.phase ≠ .gone ∧
      s.now < a.issued + 48 ∧
      (if restoring then s.hub.strikes = [(0, 1)] ∧ s.now < 1 + 17 else ∀ x ∈ s.hub.strikes, x.1 = 0 → x.2 + 17 ≤ s.now) :=
  let struck := set1 (.lane 0) .load .ready (acc1 4)
  fun b => match b with
    | true => ⟨late 5 ((holding struck lan).modHub fun h => { h with strikes := [(0, 1)] }), struck, by decide +kernel⟩
    | false => ⟨late 20 ((holding struck lan).modHub fun h => { h with strikes := [(0, 1)] }), struck, by decide +kernel⟩

/-! ## Fault records -/

/-- A fault of a set, and context 0 with a ring in host memory. -/
def fault1 : FaultRec := { newFault lan 0x90 0x10800 with seq := 1, issuers := [.set 7] }
def faulted (r : FaultRec) (s : State) : State :=
  s.modCtx 0 fun x => { x with faults := [r], seq := 2, fqBase := w64 (0xFFF * 2 ^ 52), fqCtl := 16, msix := w64 (4 * 2 ^ 16) }
def ringed : State := late 100 (faulted fault1 lan)
def ringedWrite : State := reached (ringWrite ringed 0 (ringAt (ctxAt ringed 0).fqBase (some 0)) (64 * ((ctxAt ringed 0).fqTail.toNat % 16)) (faultBytes fault1))
def startedCmd : EngCmd := { cmd1 [0] with began := true }
def killFault : FaultRec := { fault1 with issuers := [.engine 0 false 1 0x10800] }

def askedFault : FaultRec := { fault1 with issuers := [.host 0x100 0x10800 false] }
def ringed2 : State := late 100 (faulted askedFault lan)

theorem witness_FaultRecordsWritten :
    ∀ host : Bool, ∃ (s s1 : State) (r : FaultRec), 0 < s.ctxs.length ∧
      (let x := ctxAt s 0
       ((unwritten x).head? = some r ∧ x.faults.head? = some r ∧ fqRoom x = some 16 ∧ r.at_ + 96 ≤ s.now ∧ ringAt x.fqBase (some 0) ≠ .none ∧
         x.waitFaults = []) ∧
       ringWrite s 0 (ringAt x.fqBase (some 0)) (64 * (x.fqTail.toNat % 16)) (faultBytes r) = .done s1 () ∧
       (ctxAt s1 0 = x ∧ bits x.fqCtl.toNat 26 16 < bits x.msix.toNat 27 16) ∧
       (if host then r.issuers = [.host 0x100 0x10800 false] else ∀ i ∈ r.issuers, hostIssuer i = false)) :=
  fun b => match b with
    | true => ⟨ringed2, _, askedFault, by decide +kernel, by decide +kernel, done_of (by decide +kernel), by decide +kernel⟩
    | false => ⟨ringed, ringedWrite, fault1, by decide +kernel, by decide +kernel, done_of (by decide +kernel), by decide +kernel⟩

theorem witness_FaultsReleasedOrKilled :
    (∃ (s : State) (r : FaultRec), Claim.OneFault s 0 r) ∧
    (∃ (s : State) (r : FaultRec) (e : EngCmd), Claim.OneFault s 0 r ∧ r.seq < 2 ^ 32 ∧ r.issuers = [.engine 0 false e.num 0x10800] ∧
      0 < s.groups.length ∧ (groupAt s 0).copy.cmds = [e] ∧ e.began = true) ∧
    (∃ (s : State) (r : FaultRec) (a : ASet), (ctxAt s 0).faults = [r] ∧ r.released = true ∧ r.kill = false ∧ r.at_ + 40 ≤ s.now ∧
      0 < s.ctxs.length ∧ (ctxAt s 0).waitFaults = [] ∧ r.issuers = [.set a.id] ∧ s.sets[0]? = some a ∧
      (∀ b ∈ s.sets, b.id = a.id → b = a) ∧ isParked a = true ∧ a.role = .access ∧ a.kind = .load ∧ framedSet s a.id = none) :=
  let killed := faulted killFault (engined false startedCmd lan)
  let parked := set1 (.lane 0) .load (.parked 0x10800 1 0) (acc1 4)
  let base := holding parked lan
  ⟨⟨faulted fault1 lan, fault1, by decide +kernel, by decide +kernel, by decide +kernel, by decide +kernel⟩,
   ⟨killed, killFault, startedCmd, ⟨by decide +kernel, by decide +kernel, by decide +kernel, by decide +kernel⟩, by decide +kernel⟩,
   ⟨late 100 (faulted (Claim.released base false fault1) base), Claim.released base false fault1, parked, by decide +kernel⟩⟩

/-! ## TLB invalidation and the host -/

/-- Window 0 of context 0 maps 4 KiB at VA 0x10000. -/
def windowed : State := lan.modCtx 0 fun x => { x with wins := x.wins.set 0 (w64 (0x10000 + 12 * 2 ^ 8 + 1)) }
theorem witness_TlbInvalidation :
    ∀ i : Fin 4, ∃ (s : State) (v : Word), 0 < s.ctxs.length ∧
      (let x := ctxAt s 0
       match i with
       | 0 => x.tlbiCtl.getLsbD 18 = true ∧ v.getLsbD 17 = true ∧ s.l1tlb ≠ []
       | 1 => x.tlbiCtl.getLsbD 18 = false
       | 2 => x.tlbiCtl.getLsbD 18 = true ∧ v.getLsbD 17 = false
       | 3 => x.tlbiCtl.getLsbD 18 = false ∧ x.tlbiGo + (if x.tlbiRange.2.getLsbD 16 then 600 else 120 + ceilDiv (x.tlbiRange.2.toNat % 65536) 16) ≤ s.now ∧
           s.sets = [] ∧ s.net = [] ∧ ∀ g ∈ s.groups, g.fabric.cmds = []) :=
  let going := late 700 (lan.modCtx 0 fun x => { x with tlbiCtl := 0x10000, tlbiRange := (0, 0x30000) })
  fun i => match i with
    | 0 => ⟨warm lan, 0x30000, by decide +kernel⟩
    | 1 => ⟨going, 3, by decide +kernel⟩
    | 2 => ⟨lan, 3, by decide +kernel⟩
    | 3 => ⟨going, 0, by decide +kernel⟩

theorem witness_HostAccesses :
    (∃ (s : State) (c w o n r : Nat) (s1 : State) (b : List Byte), c < 64 ∧ w < 4 ∧ o < 2 ^ 30 ∧ r = ((ctxAt s c).wins.getD w 0).toNat ∧
      bit r 0 = true ∧ o < 2 ^ bits r 12 8 ∧ readAsParty s .host c .read (.host (c * 2 ^ 32 + w * 2 ^ 30 + o) (bits r 47 16 * 65536 + o) false)
        (bits r 47 16 * 65536 + o) n = .done s1 b) ∧
    (∃ (s : State) (c w o n r : Nat) (v : Word) (s1 : State), c < 64 ∧ w < 4 ∧ o < 2 ^ 30 ∧ r = ((ctxAt s c).wins.getD w 0).toNat ∧
      bit r 0 = true ∧ o < 2 ^ bits r 12 8 ∧ writeAsParty s .host c (.host (c * 2 ^ 32 + w * 2 ^ 30 + o) (bits r 47 16 * 65536 + o) true)
        (bits r 47 16 * 65536 + o) (leBytes n v.toNat) = .done s1 ()) ∧
    (∃ (s : State) (c w o r : Nat), c < 64 ∧ w < 4 ∧ o < 2 ^ 30 ∧ r = ((ctxAt s c).wins.getD w 0).toNat ∧
      (bit r 0 = false ∨ 2 ^ bits r 12 8 ≤ o)) :=
  let r := ((ctxAt windowed 0).wins.getD 0 0).toNat
  ⟨⟨windowed, 0, 0, 0x100, 4, r,
      reached (readAsParty windowed .host 0 .read (.host (0 * 2 ^ 32 + 0 * 2 ^ 30 + 0x100) (bits r 47 16 * 65536 + 0x100) false) (bits r 47 16 * 65536 + 0x100) 4),
      [0, 0, 0, 0], by decide, by decide, by decide, rfl, by decide +kernel, by decide +kernel, done_of (by decide +kernel)⟩,
   ⟨windowed, 0, 0, 0x800, 4, r, 5,
      reached (writeAsParty windowed .host 0 (.host (0 * 2 ^ 32 + 0 * 2 ^ 30 + 0x800) (bits r 47 16 * 65536 + 0x800) true) (bits r 47 16 * 65536 + 0x800)
        (leBytes 4 (5 : Word).toNat)), by decide, by decide, by decide, rfl, by decide +kernel, by decide +kernel, done_of (by decide +kernel)⟩,
   ⟨lan, 0, 1, 0, _, by decide, by decide, by decide, rfl, .inl (by decide +kernel)⟩⟩

end Sys2Proof.Tests
end

