-- ==== Sys2Proof/Tests/WitMailbox.lean ====
section
/-! SUPPORT. Witnesses of the statements about mailbox words, the mailbox unit, episodes and posts. -/

namespace Sys2Proof.Tests

open Sys2Proof Sys2Proof.Machine

set_option Elab.async false

/-- Mailboxes of context 0: four episodes, enabled, generation 7, records at VA 0x14000; no command under way. -/
def boxed (s : State) : State :=
  s.modCtx 0 fun x => { x with mbxCtl := w64 (4 + 2 ^ 15 + 7 * 2 ^ 32), mbxBase := 0x14000, epRes := 1 }
/-- Episode 1. -/
def ep1 (st : EpState) : Episode :=
  { ix := 1, state := st, wins := [(0x10000, 4096, 7), (0x11000, 256, 2)], entry := 0x10100, budget := 5000, rule := 0, step := 3, gen := 6,
    cid := 0, note := none, alen := 4, act := [1, 2, 3, 4], stat := 0, errs := 0, lastst := 0, lastDone := false, mcause := 0, mepc := 0,
    mark := .none, stage := none, lt := 0, saved := false, dog := 0, dogOn := false, since := 0 }
def withEp (y : Episode) (s : State) : State := (boxed s).modCtx 0 fun x => { x with eps := [y] }
def sendWord : LaneW := { lw with vd := 5, va := 1, vb := 2, vc := 0, ty := .b32, imm := 0x11 }
def genWord : LaneW := { lw with vd := 0, va := 0, vb := 0, vc := 0, ty := .b32, i := true, imm := 8 }

/-- The form that takes 8 bytes of team SRAM. -/
def sramWord : LaneW := { sendWord with opx := 1, imm := 8 * 2 ^ 12 + 0x11 }

theorem witness_MailboxWordsIssue :
    ∀ i : Fin 4, ∃ (w : LaneW) (s : State), LaneGo (if i = 2 then 0xA9 else 0xA8) w s (grp s) ∧
      (match i with
       | 0 => w.opx.getLsbD 0 = false ∧ sendChecks (laneIn 0xA8 w s (grp s)) = none ∧ partyFull s (.lane s.cur) = false ∧
           (∃ k ∈ acting (laneIn 0xA8 w s (grp s)), (laneAt (grp s) k).helper = false)
       | 1 => w.opx.getLsbD 0 = true ∧ sendChecks (laneIn 0xA8 w s (grp s)) = none ∧ partyFull s (.lane s.cur) = false ∧ s.sets = [] ∧
           (∃ k ∈ acting (laneIn 0xA8 w s (grp s)), (laneAt (grp s) k).helper = false)
       | 2 => genChecks (laneIn 0xA9 w s (grp s)) = none ∧ partyFull s (.lane s.cur) = false ∧ w.i = true ∧ acting (laneIn 0xA9 w s (grp s)) ≠ []
       | 3 => w.opx.getLsbD 0 = false ∧ mbxOn s (ctxIx s (grp s)) = false) :=
  fun i => match i with
    | 0 => ⟨sendWord, boxed lan, go_of (by decide +kernel), by decide +kernel⟩
    | 1 => ⟨sramWord, boxed lan, go_of (by decide +kernel), by decide +kernel⟩
    | 2 => ⟨genWord, boxed lan, go_of (by decide +kernel), by decide +kernel⟩
    | 3 => ⟨sendWord, lan, go_of (by decide +kernel), by decide +kernel⟩

/-- A message set of one lane that has reached the unit. -/
def message (kind : SetKind) (accs : List Acc) : ASet :=
  { id := 7, party := .lane 0, kind := kind, sram := false, scope := .grp, pc := 0, path1 := false, accs := accs,
    spans := [{ line := 2 ^ 70, first := 0, count := 1, sent := false, done := false, wts := 0, rts := 0 }], dest := .none, ifc := 1,
    issued := 0, floor := 0, phase := .gone, region := none, entry := false }
def action1 : Acc := { lane := 0, va := 1, pa := 0, n := 0, data := 0x55, cmp := 0, got := 0, done := false }
def sent1 : ASet := message (.mbsend 9 true 4) [action1]
def gen8 : ASet := message (.mbgen 8) []
/-- The message stands at the unit long after. -/
def posted (a : ASet) (s : State) : State := late 1000 (holding a s)

theorem witness_MessagesTaken_1 :
    ∀ i : Fin 3, ∃ s : State, Claim.Written s ∧ setAt s 7 = some sent1 ∧ takable s sent1 0 = true ∧ setCtx s sent1 = 0 ∧ 0 < s.ctxs.length ∧
      (match i with
       | 0 => 1 < mbxNum s 0 ∧ (epAt s 0 1).map (·.state) = some .idle
       | 1 => 1 < mbxNum s 0 ∧ (epAt s 0 1).map (·.state) = some .held
       | 2 => epAt s 0 1 = none) :=
  fun i => match i with
    | 0 => ⟨posted sent1 (withEp (ep1 .idle) lan), by decide +kernel⟩
    | 1 => ⟨posted sent1 (withEp (ep1 .held) lan), by decide +kernel⟩
    | 2 => ⟨posted sent1 (boxed lan), by decide +kernel⟩

theorem witness_MessagesTaken_2 :
    ∀ rule : Fin 3, ∃ (s : State) (y : Episode), Claim.Written s ∧ setAt s 7 = some gen8 ∧ setCtx s gen8 = 0 ∧ 0 < s.ctxs.length ∧
      8 ≠ mbxGen s 0 ∧ takable s gen8 (ceilDiv (mbxNum s 0) 64) = true ∧ (ctxAt s 0).eps = [y] ∧ y.state = .idle ∧ y.stage = none ∧ y.rule = rule :=
  fun rule =>
    let s := posted gen8 (withEp { ep1 .idle with rule := rule } lan)
    have h : ∀ k : Fin 3, let s := posted gen8 (withEp { ep1 .idle with rule := k } lan)
        Claim.Written s ∧ setAt s 7 = some gen8 ∧ setCtx s gen8 = 0 ∧ 0 < s.ctxs.length ∧ 8 ≠ mbxGen s 0 ∧
          takable s gen8 (ceilDiv (mbxNum s 0) 64) = true ∧ (ctxAt s 0).eps = [{ ep1 .idle with rule := k }] := by decide +kernel
    ⟨s, { ep1 .idle with rule := rule }, (h rule).1, (h rule).2.1, (h rule).2.2.1, (h rule).2.2.2.1, (h rule).2.2.2.2.1, (h rule).2.2.2.2.2.1,
      (h rule).2.2.2.2.2.2, rfl, rfl, rfl⟩

theorem witness_MessagesTaken_3 :
    (∀ known : Bool, ∃ (s : State) (q : Word), 0 < s.groups.length ∧
      (let g := groupAt s 0
       (g.q3asked = [q] ∧ g.q3owed = [] ∧ g.q3.length < 64 ∧ g.q3loss = false) ∧
       (if known then q.toNat % 2 ^ 14 < mbxNum s (ctxIx s g) ∧ (epAt s (ctxIx s g) (q.toNat % 2 ^ 14)).isSome = true
         else mbxNum s (ctxIx s g) ≤ q.toNat % 2 ^ 14))) ∧
    (∃ (s : State) (v : Word), 0 < s.ctxs.length ∧ v.toNat % 2 ^ 15 ≤ 16384 ∧ numSum s 0 (v.toNat % 2 ^ 15) (v.getLsbD 15) ≤ 16384) :=
  let asked (q : Word) := onG (withEp (ep1 .stepping) lan) fun g => { g with q3asked := [q] }
  ⟨fun b => match b with
     | true => ⟨asked 1, 1, by decide +kernel⟩
     | false => ⟨asked 9, 9, by decide +kernel⟩,
   ⟨lan, 0x8004, by decide +kernel⟩⟩

/-! ## Commands -/

theorem command_of {s : State} {c e : Nat} (h : c < s.ctxs.length ∧ Claim.Written s ∧ (ctxAt s c).epRes.getLsbD 0 = true ∧
    (arrived s c s.now = [] ∧ someExpired s c = false) ∧ (e < mbxNum s c ∧ e < 2 ^ 14)) : Claim.MayCommand s c e :=
  ⟨h.1, h.2.1, h.2.2.1, h.2.2.2.1, h.2.2.2.2⟩

/-- The record of episode 1 at VA 0x14400: ENTRY, BUDGET 5000, RULE 1; windows 0 (RWX) and 1 (W). -/
def recBytes : List Byte :=
  leBytes 8 0x10100 ++ leBytes 4 5000 ++ [1] ++ List.replicate 0x173 0 ++ (leBytes 8 0x10000 ++ leBytes 4 4096 ++ leBytes 4 7) ++
    (leBytes 8 0x11000 ++ leBytes 4 256 ++ leBytes 4 2) ++ List.replicate 0x60 0
def recorded1 : State := data 0x4400 recBytes (boxed lan)
def recRead (s : State) : Reach (List Byte) :=
  readAsParty (Claim.commanded s 0 1 0) .cp 0 .read (.epCmd 0 1 (recordVa s 0 1)) (recordVa s 0 1) 512

theorem witness_EpisodeCommands :
    (∃ (s s1 : State) (c e : Nat) (b : List Byte), Claim.MayCommand s c e ∧ epAt s c e = none ∧
      readAsParty (Claim.commanded s c e 0) .cp c .read (.epCmd c e (recordVa s c e)) (recordVa s c e) 512 = .done s1 b ∧
      issuerParked (Claim.commanded s c e 0) (fun i => match i with | .epCmd x y v => x == c && y == e && v == recordVa s c e | _ => false) = false ∧
      recordOk (recordVa s c e) b = true) ∧
    (∃ (s s1 : State) (c e : Nat) (b : List Byte), Claim.MayCommand s c e ∧ epAt s c e = none ∧
      readAsParty (Claim.commanded s c e 0) .cp c .read (.epCmd c e (recordVa s c e)) (recordVa s c e) 512 = .done s1 b ∧
      issuerParked (Claim.commanded s c e 0) (fun i => match i with | .epCmd x y v => x == c && y == e && v == recordVa s c e | _ => false) = false ∧
      recordOk (recordVa s c e) b = false) ∧
    (∃ (s : State) (c e : Nat) (x : Episode), Claim.MayCommand s c e ∧ epAt s c e = some x ∧ x.state = .held) ∧
    (∃ (s : State) (c e : Nat) (x : Episode), Claim.MayCommand s c e ∧ epAt s c e = some x ∧ x.state = .idle ∧ x.stage = none) :=
  ⟨⟨recorded1, reached (recRead recorded1), 0, 1, recBytes, command_of (by decide +kernel), by decide +kernel, done_of (by decide +kernel), by decide +kernel⟩,
   ⟨boxed lan, reached (recRead (boxed lan)), 0, 1, List.replicate 512 0, command_of (by decide +kernel), by decide +kernel,
      done_of (by decide +kernel), by decide +kernel⟩,
   ⟨withEp (ep1 .held) lan, 0, 1, ep1 .held, command_of (by decide +kernel), by decide +kernel, rfl⟩,
   ⟨withEp (ep1 .idle) lan, 0, 1, ep1 .idle, command_of (by decide +kernel), by decide +kernel, rfl, rfl⟩⟩

/-! ## Posts -/

def post1 (w : Bool) : Post :=
  { num := 1, ctx := 0, ep := 1, va := 0x11000, hdr := headerWords (ep1 .stepping) 0 0x101 9 5, cid := 0, bytes := 256, at_ := 0, written := w,
    time := 4, note := none }
def posting (p : Post) (s : State) : State := { late 100 (withEp (ep1 .idle) s) with posts := [p] }
def postWrite : Reach Unit :=
  writeAsParty (posting (post1 false) lan) .cp 0 (.post 1 0x11000) 0x11000 ((post1 false).hdr.flatMap fun w => leBytes 8 w.toNat)
def runaway : Episode := { ep1 .stepping with dogOn := true, dog := 5000 }

theorem witness_PostsAndRunaways :
    (∃ (s s1 : State) (p : Post), Claim.Written s ∧ s.posts = [p] ∧ p.written = false ∧ postParked s p.num = false ∧ storeParked s p.ctx p.ep = false ∧
      writeAsParty s .cp p.ctx (.post p.num p.va) p.va (p.hdr.flatMap fun w => leBytes 8 w.toNat) = .done s1 ()) ∧
    (∃ (s s1 : State) (p : Post), Claim.Written s ∧ s.posts = [p] ∧ p.written = true ∧ p.at_ + 60 ≤ s.now ∧
      addCount s p.ctx p.cid.toNat p.bytes p.time = some s1 ∧ p.note = none) ∧
    (∃ (s : State) (c e : Nat) (x : Episode), Claim.Written s ∧ epAt s c e = some x ∧ x.state = .stepping ∧ x.dogOn = true ∧
      x.budget ≤ x.dog ∧ x.stage = none) :=
  ⟨⟨posting (post1 false) lan, reached postWrite, post1 false, by decide +kernel, rfl, rfl, by decide +kernel, by decide +kernel, done_of (by decide +kernel)⟩,
   ⟨posting (post1 true) lan, _, post1 true, by decide +kernel, rfl, rfl, by decide +kernel,
      Option.some_get (x := addCount (posting (post1 true) lan) 0 0 256 4) (by decide +kernel) |>.symm, rfl⟩,
   ⟨withEp runaway lan, 0, 1, runaway, by decide +kernel, by decide +kernel, rfl, rfl, by decide, rfl⟩⟩

end Sys2Proof.Tests
end

