-- ==== Sys2Proof/Tests/WitStages.lean ====
section
/-! SUPPORT. Witnesses of the statements about marionette stages and their instructions. -/

namespace Sys2Proof.Tests

open Sys2Proof Sys2Proof.Machine

set_option Elab.async false

/-- Stage 0 with episode 1, its pc two bytes before the end of a line. -/
def stage0 (st : StState) : Stage := { freshStage 0 with ctx := 0, ep := 1, state := st, pc := 0x1017E, x := [(5, 0x1FF), (6, 9)] }
def staged (st : StState) (y : Episode) (s : State) : State := { withEp { y with stage := some 0 } s with stages := [stage0 st] }
def savingWorld : State := late 300 (staged .saving (ep1 .idle) lan)
def save1 : State := reached (writeAsParty savingWorld .cp 0 (.epCmd 0 1 (0x14400 + 0x60)) (0x14400 + 0x60) (leBytes 4 (0 : W32).toNat))
def save2 : State := reached (writeAsParty save1 .cp 0 (.epCmd 0 1 (0x14400 + 0x200)) (0x14400 + 0x200) (savedBytes (stage0 .saving)))
def restoringWorld : State := late 300 (staged .restoring (ep1 .action) lan)
def restoreRead : Reach (List Byte) := readAsParty restoringWorld .cp 0 .read (.epCmd 0 1 (0x14400 + 0x60)) (0x14400 + 0x60) 0x3A0

theorem witness_StagesComeAndGo :
    (∃ (s : State) (st c e : Nat) (x : Episode), Claim.Written s ∧ needStage s = [(c, e)] ∧ epAt s c e = some x ∧
      emptyStage s = some st ∧ c < s.ctxs.length ∧ x.saved = false) ∧
    (∃ (s s1 s2 : State) (st : Nat) (y : Stage) (va : Nat), Claim.Written s ∧ y = stageOr s st ∧ va = recordVa s y.ctx y.ep ∧ y.state = .saving ∧
      y.since + 300 ≤ s.now ∧ storeParked s y.ctx y.ep = false ∧ epState s y.ctx y.ep ≠ .unbound ∧
      writeAsParty s .cp y.ctx (.epCmd y.ctx y.ep (va + 0x60)) (va + 0x60) (leBytes 4 y.fcsr.toNat) = .done s1 () ∧
      writeAsParty s1 .cp y.ctx (.epCmd y.ctx y.ep (va + 0x200)) (va + 0x200) (savedBytes y) = .done s2 ()) ∧
    (∃ (s s1 : State) (st : Nat) (b : List Byte) (y : Stage) (va : Nat), Claim.Written s ∧ y = stageOr s st ∧
      va = recordVa s y.ctx y.ep + 0x60 ∧ y.state = .restoring ∧ y.since + 300 ≤ s.now ∧ storeParked s y.ctx y.ep = false ∧
      readAsParty s .cp y.ctx .read (.epCmd y.ctx y.ep va) va 0x3A0 = .done s1 b) ∧
    (∃ (s : State) (st : Nat), Claim.Written s ∧ (stageOr s st).state = .resetting ∧ (stageOr s st).since + 50 ≤ s.now) :=
  let starting := withEp (ep1 .start) lan
  ⟨⟨starting, 0, 0, 1, ep1 .start, by decide +kernel, by decide +kernel, by decide +kernel, by decide +kernel, by decide +kernel, rfl⟩,
   ⟨savingWorld, save1, save2, 0, stage0 .saving, 0x14400, by decide +kernel, by decide +kernel, by decide +kernel, rfl, by decide +kernel,
      by decide +kernel, by decide +kernel, done_of (by decide +kernel), done_of (by decide +kernel)⟩,
   ⟨restoringWorld, reached restoreRead, 0, List.replicate 0x3A0 0, stage0 .restoring, 0x14400 + 0x60, by decide +kernel, by decide +kernel,
      by decide +kernel, rfl, by decide +kernel, by decide +kernel, done_of (by decide +kernel)⟩,
   ⟨late 50 (staged .resetting (ep1 .idle) lan), 0, by decide +kernel⟩⟩

/-! ## Instructions -/

/-- Stage 0 runs the word `w` in a state of its episode. -/
def runs (w : Nat) (st : EpState) : State := data 0x17E (leBytes 4 w) (staged .running (ep1 st) lan)
/-- What a fetch leaves, and what it gives. -/
def gotten {α : Type} (r : Got α) : State := match r with | .ok s _ => s | _ => State.reset
def got {α : Type} (r : Got α) : Option α := match r with | .ok _ v => some v | _ => none
theorem got_of {α : Type} {r : Got α} {v : α} (h : got r = some v) : r = .ok (gotten r) v := by
  cases r <;> simp_all [got, gotten]
/-- The state in which stage 0 fetches, and the state after. -/
def turned (s : State) : State := startDog { s with coreRr := tset 3 s.coreRr 0 0 } 0
def afterFetch (s : State) : State := gotten (stageFetch (turned s) 0)

theorem fetched_of {s : State} {w : Nat} {x : Episode} (h : (Claim.Written s ∧ (coreOrder s 0).head? = some 0) ∧
    got (stageFetch (turned s) 0) = some (w, 4) ∧
    epAt (afterFetch s) (stageOr (afterFetch s) 0).ctx (stageOr (afterFetch s) 0).ep = some x ∧ (stageOr (afterFetch s) 0).state = .running ∧
    (x.stage = some 0 ∧ x.dirty = false) ∧ (stageOr (afterFetch s) 0).ctx < (afterFetch s).ctxs.length) :
    Claim.Fetched s (afterFetch s) 0 w x :=
  ⟨h.1.1, h.1.2, got_of h.2.1, h.2.2.1, h.2.2.2.1, h.2.2.2.2.1, h.2.2.2.2.2⟩

def ofStage (st : EpState) : Episode := { ep1 st with stage := some 0 }
/-- addi x7, x6, 5. -/
def addiWord : Nat := 5 * 2 ^ 20 + 6 * 2 ^ 15 + 7 * 2 ^ 7 + 0x13

/-- CSRRS x7 of mbx_step, mbx_gen and mbx_act; CSRRW of mbx_stat and mbx_obs; ECALL. -/
def csrs (k : Nat) : Nat := Claim.csrCode k 0 2 7

theorem witness_StageInstructions :
    ∀ i : Fin 7, ∃ (s s1 : State) (w : Nat) (x : Episode), Claim.Fetched s s1 0 w x ∧
      (match i with
       | 0 => w = 5 * 2 ^ 20 + 6 * 2 ^ 15 + 7 * 2 ^ 7 + 0x13
       | 1 => w = Claim.csrCode 0x801 0 2 7
       | 2 => w = Claim.csrCode 0x802 0 2 7
       | 3 => w = Claim.csrCode 0x804 5 1 7
       | 4 => w = Claim.csrCode 0x803 6 1 0 ∧ arrived s1 (stageOr s1 0).ctx (s1.now - 1) = [] ∧ x.state = .stepping ∧ x.mark = .none
       | 5 => w = Claim.csrCode 0x800 0 2 7 ∧ x.state = .stepping
       | 6 => w = Claim.csrCode 0x800 0 2 7 ∧ x.state = .action) :=
  let obs := Claim.csrCode 0x803 6 1 0
  let stat := Claim.csrCode 0x804 5 1 7
  fun i => match i with
    | 0 => ⟨runs addiWord .stepping, _, addiWord, ofStage .stepping, fetched_of (by decide +kernel), by decide +kernel⟩
    | 1 => ⟨runs (csrs 0x801) .stepping, _, csrs 0x801, ofStage .stepping, fetched_of (by decide +kernel), by decide +kernel⟩
    | 2 => ⟨runs (csrs 0x802) .stepping, _, csrs 0x802, ofStage .stepping, fetched_of (by decide +kernel), by decide +kernel⟩
    | 3 => ⟨runs stat .stepping, _, stat, ofStage .stepping, fetched_of (by decide +kernel), by decide +kernel⟩
    | 4 => ⟨runs obs .stepping, _, obs, ofStage .stepping, fetched_of (by decide +kernel), by decide +kernel⟩
    | 5 => ⟨runs (csrs 0x800) .stepping, _, csrs 0x800, ofStage .stepping, fetched_of (by decide +kernel), by decide +kernel⟩
    | 6 => ⟨runs (csrs 0x800) .action, _, csrs 0x800, ofStage .action, fetched_of (by decide +kernel), by decide +kernel⟩

theorem witness_StageInstructions_ecall :
    ∃ (s s1 : State) (x : Episode), Claim.Fetched s s1 0 0x73 x ∧ stageExec s1 0 0x73 4 = .exc 8 ∧ (stageOr s 0).pc = (stageOr s1 0).pc :=
  ⟨runs 0x73 .stepping, _, ofStage .stepping, fetched_of (by decide +kernel), rfl, by decide +kernel⟩

end Sys2Proof.Tests
end

