-- ==== Sys2Proof/Tests/WitBound.lean ====
section
/-! SUPPORT. Witnesses of the statements about the boundaries, encodings, steps and reset. -/

namespace Sys2Proof.Tests

open Sys2Proof Sys2Proof.Machine

set_option Elab.async false

def onHub (f : Hub → Hub) (s : State) : State := s.modHub f

theorem witness_FaultAddressesQueued :
    (∃ (s : State) (kind a : Nat), s.hub.faqHold = true ∧ s.hub.faq.length < 256 ∧ a < 2 ^ 64 ∧ 1 ≤ kind ∧ kind ≤ 2) ∧
    (∃ (s : State) (kind a : Nat), s.hub.faqHold = true ∧ s.hub.faq.length < 256 ∧ a < 2 ^ 64 ∧ kind = 3) ∧
    (∃ (s : State) (kind a : Nat), s.hub.faqHold = true ∧ s.hub.faq.length < 256 ∧ a < 2 ^ 64 ∧ kind = 5) ∧
    (∃ (s : State) (a c : Nat), s.hub.faqHold = true ∧ s.hub.faq.length < 256 ∧ a < 2 ^ 64 ∧ c < 64 ∧ c < s.ctxs.length) :=
  let held := onHub (fun h => { h with faqHold := true }) lan
  ⟨⟨held, 2, 0, by decide +kernel⟩,
   ⟨held, 3, 2 ^ 63, by decide +kernel, by decide +kernel, by decide, rfl⟩,
   ⟨held, 5, 2 ^ 63, by decide +kernel, by decide +kernel, by decide, rfl⟩,
   ⟨held, 0, 63, by decide +kernel⟩⟩

theorem witness_BanksTested :
    (∀ i : Fin 5, ∃ (s : State) (v : Word),
      (let b := (v.toNat % 8, bits v.toNat 13 8)
       match i with
       | 0 => s.hub.btCtl.getLsbD 17 = true ∧ v.getLsbD 16 = true ∧ b ∈ s.am.parked ∧ bankHolds s b = false
       | 1 => s.hub.btCtl.getLsbD 17 = true ∧ v.getLsbD 16 = true ∧ b ∉ s.am.parked
       | 2 => s.hub.btCtl.getLsbD 17 = false
       | 3 => s.hub.btCtl.getLsbD 17 = true ∧ v.getLsbD 16 = false
       | 4 => s.hub.btCtl.getLsbD 17 = false ∧ s.hub.btAt + 5242880 ≤ s.now)) ∧
    (∃ s : State, s.hub.badFrames.length < 4096) ∧
    (∃ (s : State) (k p : Nat), k < 8 ∧ p < 32 ∧ 32 * k + p ∉ s.hub.selfRef ∧ tget 0 s.hub.chanUse (32 * k + p) + 2 ^ 16 ≤ s.cycle) :=
  let testing := onHub (fun h => { h with btCtl := 0x10000 }) lan
  ⟨fun i => match i with
     | 0 => ⟨onAm (fun a => { a with parked := [(7, 63)] }) lan, 0x13F07, by decide +kernel⟩
     | 1 => ⟨lan, 0x10000, by decide +kernel⟩
     | 2 => ⟨testing, 0x13F07, by decide +kernel⟩
     | 3 => ⟨lan, 0x3F07, by decide +kernel⟩
     | 4 => ⟨late 5242880 testing, 0, by decide +kernel⟩,
   ⟨lan, by decide +kernel⟩,
   ⟨late (2 ^ 16) lan, 7, 31, by decide +kernel⟩⟩

/-- A SIGNAL to the last package. -/
def signal1 : EngCmd := cmd1 [0x14, 1023]

theorem witness_LinksAndLostPackages :
    (∃ (s : State) (k : Nat), k < 16 ∧ s.am.lost = [] ∧ s.hub.aidClash = false) ∧
    (∃ (s : State) (k : Nat), k < 16 ∧ s.hub.aidClash = true) ∧
    (∃ (s : State) (k j gi : Nat) (e : EngCmd), k < 16 ∧ j < 64 ∧ s.hub.podLost.length = 16 ∧ (s.hub.podLost.getD k 0).getLsbD j = false ∧
      64 * k + j ≠ aid s ∧ gi < s.groups.length ∧ (groupAt s gi).fabric.cmds = [e] ∧ cmdOpc e = 0x14 ∧ cmdWord e 1 % 1024 = 64 * k + j ∧
      e.fin = false) :=
  let sending := engined true signal1 lan
  ⟨⟨lan, 15, by decide +kernel⟩,
   ⟨onHub (fun h => { h with aidClash := true }) lan, 0, by decide +kernel⟩,
   ⟨sending, 15, 63, 0, signal1, by decide, by decide, by decide +kernel, by decide +kernel, by decide +kernel, by decide +kernel,
      by decide +kernel, by decide +kernel, by decide +kernel, rfl⟩⟩

theorem witness_PowerStates :
    (∀ p ∈ [Power.off, .d0, .d3cold, .d3hot], ∃ s : State, s.hub.power = p) ∧
    (∃ s : State, s.hub.power = .d0 ∧ quietModule s = true) ∧
    (∃ (s : State) (d : Nat), d < 2 ∧ s.hub.gateAt.length = 2 ∧ s.hub.busyAt.length = 2 ∧ dieGated s d = false ∧ s.hub.pmGate.getLsbD 8 = true ∧
      dieBusy s d = false ∧ dieWanted s d = false ∧ s.hub.busyAt.getD d 0 + 2 ^ 20 ≤ s.cycle) ∧
    (∃ (s : State) (d : Nat), d < 2 ∧ s.hub.gateAt.length = 2 ∧ s.hub.busyAt.length = 2 ∧ s.hub.gateAt.getD d none = none ∧
      dieGated s d = true ∧ dieWanted s d = true) ∧
    (∃ (s : State) (d u : Nat), d < 2 ∧ s.hub.gateAt.length = 2 ∧ s.hub.busyAt.length = 2 ∧ s.hub.gateAt.getD d none = some u ∧
      u + 28000 ≤ s.now) ∧
    (∃ v : Word, v.getLsbD 8 = true) :=
  let gated := onHub (fun h => { h with pmGate := 0x102 }) lan
  let wanted := { gated with teams := gated.teams ++ [freshTeam 0 1 36 (0, 0, 0) 0] }
  ⟨fun p _ => ⟨onHub (fun h => { h with power := p }) lan, rfl⟩,
   ⟨{ lan with hub := { lan.hub with power := .d0 }, ctxs := [], teams := [] }, rfl, by decide +kernel⟩,
   ⟨late (2 ^ 20) lan, 1, by decide +kernel⟩,
   ⟨wanted, 1, by decide +kernel⟩,
   ⟨late 28000 (onHub (fun h => { h with gateAt := [none, some 0] }) wanted), 1, 0, by decide +kernel⟩,
   ⟨0x100, by decide⟩⟩

theorem witness_ThermalLimits :
    (∃ (s : State) (w tj th : Nat), s.cycle % 2 ^ 14 = 0 ∧ s.hub.pmAt < s.cycle ∧ w < 2 ^ 12 ∧ tj < 256 ∧ th < 256 ∧
      s.hub.pmLimit.toNat % 2 ^ 12 < w) ∧
    (∃ (s : State) (w tj th : Nat), s.cycle % 2 ^ 14 = 0 ∧ s.hub.pmAt < s.cycle ∧ w < 2 ^ 12 ∧ tj < 256 ∧ th < 256 ∧ (95 < tj ∨ 85 < th)) ∧
    (∃ (s : State) (w tj th : Nat), s.cycle % 2 ^ 14 = 0 ∧ s.hub.pmAt < s.cycle ∧ w < 2 ^ 12 ∧ tj < 256 ∧ th < 256 ∧
      100 * w ≤ 95 * (s.hub.pmLimit.toNat % 2 ^ 12) ∧ tj ≤ 92 ∧ th ≤ 82) ∧
    (∃ (s : State) (w tj th : Nat), s.cycle % 2 ^ 14 = 0 ∧ s.hub.pmAt < s.cycle ∧ w < 2 ^ 12 ∧ tj < 256 ∧ th < 256 ∧ 110 ≤ tj) :=
  let due : State := { lan with cycle := 2 ^ 14, hub := { lan.hub with pmAt := 0 } }
  ⟨⟨due, 2101, 20, 20, by decide +kernel⟩,
   ⟨due, 0, 96, 85, by decide +kernel, by decide +kernel, by decide, by decide, by decide, .inl (by decide)⟩,
   ⟨due, 1995, 92, 82, by decide +kernel⟩,
   ⟨due, 0, 110, 0, by decide +kernel⟩⟩

theorem witness_SpdmAnswered :
    ∀ p ∈ [(Instr.getVersion, 0), (.getCapabilities, 1), (.negotiateAlgorithms, 2), (.getDigests, 3), (.getCertificate, 4), (.challenge, 5),
      (.getMeasurements, 6)], ∃ (i : Instr) (n : Nat), p = (i, n) :=
  fun p _ => ⟨p.1, p.2, rfl⟩

theorem witness_RegisterWrites :
    (∃ (s : State) (c q : Nat), s.ctxs.length = 64 ∧ c < 64 ∧ q < (ctxAt s c).queues.length ∧ q < 16) ∧ (∃ off, off % 8 ≠ 0) :=
  ⟨⟨lan, 63, 15, by decide +kernel⟩, ⟨0x10009, by decide⟩⟩

/-! ## Encodings and steps -/

theorem witness_ScalarRoundTrip :
    (∃ (i : Instr) (w : W32), encodeScalar i = some w ∧ i.wf = true) ∧ (∃ (i : Instr) (w : W32), decodeScalar w = .ok i) :=
  ⟨⟨.saddImm 4 4 0x100, 0x08410100, by decide +kernel⟩, ⟨.saddImm 4 4 0x100, 0x08410100, by decide +kernel⟩⟩

/-- `@p3 fmul.f32 v2, v2, 0.5` (R52). -/
def fmulWord : BitVec 96 := 0x32030101_00002808_3F000000
def fmulW : LaneW := { lw with g := 3, vd := 2, va := 2, vb := 0, vc := 0, ty := .f32, i := true, imm := 0x3F000000 }
theorem witness_LaneRoundTrip :
    (∃ (i : Instr) (w : BitVec 96), encodeLane i = some w ∧ i.wf = true) ∧ (∃ (i : Instr) (w : BitVec 96), decodeLane w = .ok i) :=
  ⟨⟨.fmul fmulW, (encodeLane (.fmul fmulW)).getD 0, by decide +kernel⟩,
   ⟨match decodeLane fmulWord with | .ok i => i | _ => .snop, fmulWord, by decide +kernel⟩⟩

/-- A scalar word and a lane word placed, and the states after the turn's dc. -/
def scaWord (w : Nat) : State := State.reset.withFetchWord 32 w
def lanWord (w : Nat) : State := State.reset.withFetchWord 96 w
def passed (s : State) : State := Claim.turned s 1 []

theorem scalarFetch_of {s : State} {gi : Nat} {g : Group} {bs : List Byte} (h : s.groups[gi]? = some g ∧ scalarMayRun g = true ∧
      requested s g = false ∧ slotAllows s g.quad (ctxIx s g) = true ∧ fetchParked { s with cur := gi, path1 := false } gi false false = false ∧
      scalarInside { s with cur := gi, path1 := false } g g.spc.toNat = true)
    (hw : (fetchWaits (takeFetched { s with cur := gi, path1 := false } gi false false) gi false false g.spc.toNat 8).isNone = true)
    (hp : rangePoison (Claim.scalarState s gi) (g.quad / 4) (ctxIx s g) g.spc.toNat 4 .fetch = none)
    (hb : coreRead (Claim.scalarState s gi) (g.quad / 4) (ctxIx s g) g.spc.toNat 4 .fetch = .ok bs) : Claim.ScalarFetch s gi g bs :=
  ⟨h.1, h.2.1, h.2.2.1, h.2.2.2.1, h.2.2.2.2.1, h.2.2.2.2.2, Option.isNone_iff_eq_none.mp hw, hp, hb⟩

/-- Another turn of the dc in which the quadrant's scalar slot is taken. -/
def secondTurn (s : State) : State := { s with sched := [{ dc := 0, act := .scalar 0 }], served := [((3, 0), 0)] }

theorem witness_ScalarStepRuns :
    (∀ taken : Bool, ∃ (s : State) (dc : Nat) (g : Group) (bs : List Byte) (i : Instr), s.sched = [{ dc := dc, act := .scalar 0 }] ∧
      powered s = true ∧ Claim.ScalarFetch (Claim.turned s dc []) 0 g bs ∧ decodeScalarBytes bs = .ok i ∧
      issues (dropFetched (exec i (Claim.scalarState (Claim.turned s dc []) 0))) (Claim.turned s dc []) 0 = true ∧
      slotGives exec (Claim.turned s dc []) false g.quad 0 false = !taken) ∧
    (∃ (s : State) (g : Group) (bs : List Byte) (c : Cause), s.sched = [{ dc := 1, act := .scalar 0 }] ∧ powered s = true ∧
      Claim.ScalarFetch (Claim.turned s 1 []) 0 g bs ∧ decodeScalarBytes bs = .error c) :=
  let word := scaWord 0x08410100
  let at_ (s : State) : Group := groupAt s 0
  ⟨fun b => match b with
     | false => ⟨word, 1, at_ (passed word), leBytes 4 0x08410100, .saddImm 4 4 0x100, by decide +kernel, by decide +kernel,
         scalarFetch_of (by decide +kernel) (by decide +kernel) (by decide +kernel) (by decide +kernel), by decide +kernel⟩
     | true => ⟨secondTurn word, 0, at_ (Claim.turned (secondTurn word) 0 []), leBytes 4 0x08410100, .saddImm 4 4 0x100, by decide +kernel,
         by decide +kernel, scalarFetch_of (by decide +kernel) (by decide +kernel) (by decide +kernel) (by decide +kernel), by decide +kernel⟩,
   ⟨scaWord 0, at_ (passed (scaWord 0)), leBytes 4 0, Tc.zeroWord, by decide +kernel, by decide +kernel,
      scalarFetch_of (by decide +kernel) (by decide +kernel) (by decide +kernel) (by decide +kernel), by decide +kernel⟩⟩

def fmulState : State := lanWord 0x32030101_00002808_3F000000
theorem witness_LaneAndEventStepsRun :
    (∃ (s : State) (g : Group) (bs : List Byte) (i : Instr), powered s = true ∧ s.sched = [{ dc := 1, act := .lane 0 false }] ∧
      Claim.LaneFetch (Claim.turned s 1 []) 0 false g bs ∧ decodeLaneBytes bs = .ok i ∧
      issues (dropFetched (exec i (Claim.laneState (Claim.turned s 1 []) 0 false))) (Claim.turned s 1 []) 0 = true ∧
      slotGives exec (Claim.turned s 1 []) true g.quad 0 false = true) ∧
    (∃ (s : State) (r : List Turn) (dc : Nat) (i : Instr), powered s = true ∧ s.sched = { dc := dc, act := .event i } :: r) :=
  ⟨⟨fmulState, groupAt (passed fmulState) 0, leBytes 12 0x32030101_00002808_3F000000, match decodeLane fmulWord with | .ok i => i | _ => .snop,
      by decide +kernel, by decide +kernel,
      fetch_of (by decide +kernel) (by decide +kernel) (by decide +kernel) (by decide +kernel), by decide +kernel⟩,
   ⟨{ lan with sched := [{ dc := 0, act := .event .d3hotEntry }] }, [], 0, .d3hotEntry, by decide +kernel, rfl⟩⟩

theorem witness_MemoryStaysCanonical : ∃ s t : State, s.mem.wf = true ∧ step s = .next t :=
  ⟨scaWord 0x08410100, out (step (scaWord 0x08410100)), by decide +kernel, by rfl⟩

end Sys2Proof.Tests
end

