-- ==== Sys2Proof/Tests/Slice0.lean ====
section
/-! SUPPORT. Tests: ill-formed terms that each check refuses, words written out from the manual's encodings, and single steps. -/

namespace Sys2Proof.Tests

open Sys2Proof Sys2Proof.Machine

set_option Elab.async false

/-! ## WellFormed: a term that each check refuses -/

/-- SBAR names barrier level 0 to 2 (R92). -/
theorem test_wf_sbar : (Instr.sbar 3).wf = false ∧ (Instr.sbar 2).wf = true := by decide
/-- STRAP raises software causes only (R340). -/
theorem test_wf_strap : (Instr.strap 3 0x40).wf = false ∧ (Instr.strap 3 0x2D).wf = true := by decide
/-- A lane word that is well formed, and changes that are not (R52, R63). -/
def addW : LaneW := { lw with vc := 0, ty := .n32 }
theorem test_wf_lane : (Instr.vadd addW).wf = true := by decide +kernel
/-- A field the major does not use. -/
theorem test_wf_unused : (Instr.vadd { addW with vc := 4 }).wf = false := by decide +kernel
/-- A TYPE the major does not accept. -/
theorem test_wf_type : (Instr.vadd { addW with ty := .f32 }).wf = false := by decide +kernel
/-- A RND value the major does not accept. -/
theorem test_wf_rnd : (Instr.vadd { addW with rnd := .sr }).wf = false := by decide +kernel
/-- A SCOPE the major does not accept. -/
theorem test_wf_scope : (Instr.vadd { addW with scope := .pod }).wf = false := by decide +kernel
/-- I on a major without an immediate form. -/
theorem test_wf_imm_form : (Instr.vclz { lw with vb := 0, vc := 0, ty := .n32, i := true }).wf = false := by decide +kernel
/-- IMM beside I = 0. -/
theorem test_wf_imm_zero : (Instr.vadd { addW with imm := 1 }).wf = false := by decide +kernel
/-- The field that IMM replaces must hold 0. -/
theorem test_wf_imm_field : (Instr.vadd { addW with i := true, imm := 1 }).wf = false := by decide +kernel
/-- A reserved OPX bit, and a minor that no row names. -/
theorem test_wf_opx : (Instr.dcommit { addW with va := 0, vb := 0, vd := 0, ty := .b32, opx := 1 }).wf = false ∧
    (Instr.vtrap { addW with va := 5, vb := 0, vd := 0, ty := .b32, imm := 0x40 }).wf = false := by decide +kernel

/-! ## Words from the encoding tables (R44 to R54) -/

/-- The worked word of R44, and majors of each scalar family. -/
theorem test_decode_sadd : decodeTableWord 32 0x08410100 = some (.saddImm 4 4 0x100) := by decide +kernel
theorem test_decode_sld64 : decodeTableWord 32 0x40614000 = some (.sld64 6 5 0) := by decide +kernel
theorem test_decode_sldw : decodeTableWord 32 0x54400000 = some (.sldw 4 0 0) := by decide +kernel
theorem test_decode_scmp : decodeTableWord 32 0x0470838E = some (.scmp 7 2 3 4) := by decide +kernel
theorem test_decode_sbr : decodeTableWord 32 0x610627FD = some (.sbr 2 3 4 0x7FD) := by decide +kernel
theorem test_decode_sget : decodeTableWord 32 0xC050000A = some (.sget 5 0x0A) := by decide +kernel
theorem test_decode_strap : decodeTableWord 32 0xC800C02D = some (.strap 3 0x2D) := by decide +kernel
theorem test_decode_waitcmp : decodeTableWord 32 0xB0930840 = some (.waitcmp 9 12 8 4 0 0) := by decide +kernel
theorem test_decode_arma : decodeTableWord 32 0xA861C800 = some (.arma 6 7 8 0) := by decide +kernel
/-- The LIMM pair of R47. -/
theorem test_decode_limm : decodeTableWord 32 0xFC0048D1 = some (.limm 0x48D1) ∧ decodeTableWord 32 0x08501678 = some (.saddImm 5 0 0x1678) := by
  decide +kernel
/-- A zero word and a reserved major stand for no instruction (R48, R63). -/
theorem test_decode_reserved : decodeTableWord 32 0 = none ∧ decodeTableWord 96 (0xFE * 2 ^ 88) = none := by decide +kernel
/-- `@p3 fmul.f32 v2, v2, 0.5`, the worked word of R52. -/
theorem test_decode_fmul : decodeTableWord 96 0x32030101_00002808_3F000000 = some (.fmul fmulW) := by decide +kernel
/-- A lane word of each other family: G 7 and the fields named, all others 0. -/
def zeroW : LaneW := { lw with vd := 0, va := 0, vb := 0, vc := 0, ty := .b32 }
theorem test_decode_vshfl : decodeTableWord 96 0x60070101_8000000B_00000001 =
    some (.vshfl { zeroW with vd := 2, va := 3, i := true, opx := 3, imm := 1 }) := by decide +kernel
theorem test_decode_ldg : decodeTableWord 96 0x70070162_00000000_00000040 = some (.ldg { zeroW with vd := 2, va := 196, imm := 64 }) := by
  decide +kernel
theorem test_decode_mma : decodeTableWord 96 0x91070004_63638000_00000018 =
    some (.mma { zeroW with va := 8, vb := 198, vc := 199, imm := 0x18 }) := by decide +kernel
theorem test_decode_dbegin : decodeTableWord 96 0xA0870000_00000000_00000028 = some (.dbegin { zeroW with safe := true, imm := 40 }) := by
  decide +kernel
theorem test_decode_mbsend : decodeTableWord 96 0xA8070280_81000000_00000011 =
    some (.mbsend { zeroW with vd := 5, va := 1, vb := 2, imm := 0x11 }) := by decide +kernel
theorem test_decode_vbr : decodeTableWord 96 0xB0020000_000C0000_00000014 = some (.vbr { zeroW with g := 2, vc := 0x18, imm := 0x14 }) := by
  decide +kernel
theorem test_decode_vgett : decodeTableWord 96 0xC5070100_00000400_00000034 = some (.vgett { zeroW with vd := 2, ty := .b64, imm := 0x34 }) := by
  decide +kernel
/-- A pair word (R53): an f32 FADD of v4 and an integer VADD of v9. -/
def subA : SubOp := { op := 0x30, vd := 4, va := 5, vb := 6, g := 7, n := false, cls := 1, sgn := false, res0 := 0 }
def subB : SubOp := { op := 0x01, vd := 9, va := 10, vb := 11, g := 7, n := false, cls := 0, sgn := true, res0 := 0 }
theorem test_decode_pair : decodeTableWord 96 0xF0300405_06E40010_90A0BE20 = some (.pairWord ⟨false, 0, subA, subB⟩) := by decide +kernel

/-! ## Single steps -/

/-- SADD adds its sign-extended immediate and SPC moves by 4 (R44, R92). -/
theorem test_step_sadd : (sreg (groupAt (out (step (scaWord 0x08410100))) 0) 4, (groupAt (out (step (scaWord 0x08410100))) 0).spc) =
    (0x100, 0x10104) := by decide +kernel
/-- A negative SADD wraps below 0: `sadd s4, s4, -1`. -/
theorem test_step_sadd_wraps : sreg (groupAt (out (step (scaWord 0x08413FFF))) 0) 4 = 0xFFFFFFFFFFFFFFFF := by decide +kernel
/-- 0.5 times 3.0 is 1.5, in the lanes whose p3 is set alone (R52, R97). -/
def half : State := onG lan fun g => { vset 1 2 0x40400000 (vset 0 2 0x40400000 g) with
  lanes := (vset 1 2 0x40400000 (vset 0 2 0x40400000 g)).lanes.modify 0 fun l => { l with p := 8 } }
theorem test_fmul : let t := out (exec (.fmul fmulW) half)
    ((laneAt (groupAt t 0) 0).vreg 2, (laneAt (groupAt t 0) 1).vreg 2) = (0x3FC00000, 0x40400000) := by decide +kernel
/-- A zero word traps ZERO_WORD: the handler's first word is next, and TSPC names the word (R63, R335). -/
theorem test_step_zero_word : let g := groupAt (out (step (vectored (scaWord 0)))) 0
    (g.trap.tcause, g.trap.tspc, g.spc) = (Tc.zeroWord, 0x10100, 0x19080) := by decide +kernel

end Sys2Proof.Tests
end

section
/-! SUPPORT. A scalar word of an idle stream: what holds it, what it reads, when it traps, when it does what its effect says. -/

namespace Sys2Proof.Proofs

open Sys2Proof Sys2Proof.Machine

variable {s s1 : State} {g : Group} {gi : Nat} {r d : SReg} {rs : List SReg} {dst : Option SReg} {o : ScalOp} {vs : List Word}

/-! ## Groups, ports, registers -/

theorem groupAt_of_getElem? (h : s.groups[gi]? = some g) : groupAt s gi = g := by
  simp [groupAt, List.getD_eq_getElem?_getD, h]

theorem isPort_of_plain (h : Claim.plain r) : isPort r = false := by
  simpa [isPort] using h

/-- Registers alone fail neither check of a port (R33). -/
theorem portFails_of_plain (hs : ∀ r ∈ rs, Claim.plain r) (hd : ∀ d ∈ dst, Claim.plain d) : portFails rs dst = none := by
  have named : (rs ++ dst.toList).filter isPort = [] := by
    simp only [List.filter_eq_nil_iff, List.mem_append, Option.mem_toList]
    rintro r (hr | hr)
    · simp [isPort_of_plain (hs r hr)]
    · simp [isPort_of_plain (hd r hr)]
  have hsrc : (rs.any fun r => isPort r && portOf r == 4) = false := by
    simp only [List.any_eq_false]
    intro r hr
    simp [isPort_of_plain (hs r hr)]
  have hdst : (dst.any fun r => isPort r && portOf r == 5) = false := by
    cases dst with
    | none => rfl
    | some d => simp [isPort_of_plain (hd d rfl)]
  simp only [portFails, named, hsrc, hdst]
  rfl

theorem noRoom_of_plain (hd : ∀ d ∈ o.dst, Claim.plain d) : noRoom s gi o = false := by
  cases hod : o.dst with
  | none => simp [noRoom, hod]
  | some d => simp [noRoom, hod, isPort_of_plain (hd d hod)]

theorem readSources_cons_of_plain (h : Claim.plain r) :
    readSources gi (r :: rs) s = (readSources gi rs s).map fun x => (x.1, sreg (groupAt s gi) r.toNat :: x.2) :=
  if_neg (c := isPort r = true) (by simp [isPort_of_plain h])

/-- Reading registers pops nothing (R32). -/
theorem readSources_of_plain (hs : ∀ r ∈ rs, Claim.plain r) :
    readSources gi rs s = some (s, rs.map fun r => sreg (groupAt s gi) r.toNat) := by
  induction rs with
  | nil => rfl
  | cons r rest ih =>
    obtain ⟨hr, hrest⟩ := List.forall_mem_cons.mp hs
    rw [readSources_cons_of_plain hr, ih hrest]
    rfl

/-! ## An idle stream -/

theorem setsOf_of_idle (h : Claim.ScalarIdle s g) : setsOf s (.scalar s.cur) = [] :=
  List.filter_eq_nil_iff.mpr fun a ha hp => h.quiet a ha (beq_iff_eq.mp hp)

theorem regionLive_of_idle (h : Claim.ScalarIdle s g) : regionLive s g = false := by
  simp [regionLive, h.calm]

theorem partyFull_of_idle (h : Claim.ScalarIdle s g) : partyFull s (.scalar s.cur) = false := by
  simp [partyFull, setsOf_of_idle h]

theorem scalarHeld_of_idle (h : Claim.ScalarIdle s g) : scalarHeld s s.cur g o = false := by
  simp [scalarHeld, vtosPending, loadPending, h.lanes, setsOf_of_idle h, partyFull_of_idle h]

/-- A scalar word of an idle stream whose sources are registers does what its effect says, once its own checks pass, its own waits are over
and its destination has room. -/
theorem scalGo_of_idle (h : Claim.ScalarIdle s g) (pre : o.pre = none) (ports : portFails o.srcs o.dst = none)
    (own : o.own { s := s, gi := s.cur, g := g, s0 := s } = none) (hold : o.hold { s := s, gi := s.cur, g := g, s0 := s } = false)
    (room : noRoom s s.cur o = false) (wait : o.wait { s := s, gi := s.cur, g := g, s0 := s } = false)
    (hs : ∀ r ∈ o.srcs, Claim.plain r) : ScalGo o s g s (o.srcs.map fun r => sreg g r.toNat) where
  group := h.group
  run   := h.run
  pre   := by simp [pre, ports]
  own   := own
  free  := by simp [scalarHeld_of_idle h, hold, regionHolds, regionLive_of_idle h]
  room  := by simp [room, wait]
  srcs  := by rw [readSources_of_plain hs, groupAt_of_getElem? h.group]

/-- A word of an idle stream that names registers only needs its own checks and waits alone. -/
theorem scalGo_of_plain (h : Claim.ScalarIdle s g) (pre : o.pre = none)
    (own : o.own { s := s, gi := s.cur, g := g, s0 := s } = none) (hold : o.hold { s := s, gi := s.cur, g := g, s0 := s } = false)
    (wait : o.wait { s := s, gi := s.cur, g := g, s0 := s } = false) (hs : ∀ r ∈ o.srcs, Claim.plain r) (hd : ∀ d ∈ o.dst, Claim.plain d) :
    ScalGo o s g s (o.srcs.map fun r => sreg g r.toNat) :=
  scalGo_of_idle h pre (portFails_of_plain hs hd) own hold (noRoom_of_plain hd) wait hs

/-! ## Traps and waits of a word -/

/-- A word whose own check fails traps with what the check says, before it waits or reads (R63). -/
theorem scalExec_own_trap {t : STrap} (hg : s.groups[s.cur]? = some g) (run : scalarMayRun g = true)
    (pre : o.pre.or (portFails o.srcs o.dst) = none) (own : o.own { s := s, gi := s.cur, g := g, s0 := s } = some t) :
    scalExec o s = .next (scalarTrap s s.cur g t.cause t.addr t.info) := by
  simp only [scalExec, hg, run, pre, own]
  rfl

/-- A word that nothing holds back, and whose effect traps, traps in the state before it: nothing is popped. -/
theorem scalExec_eff_trap {t : STrap} (h : ScalGo o s g s1 vs)
    (eff : o.eff { s := s1, gi := s.cur, g := groupAt s1 s.cur, s0 := s } vs = .trap t) :
    scalExec o s = .next (scalarTrap s s.cur g t.cause t.addr t.info) := by
  rw [scalExec_go h, eff]

/-- A word that nothing holds back, and whose effect keeps it unissued, leaves the state of its effect. -/
theorem scalExec_eff_hold {s2 : State} (h : ScalGo o s g s1 vs)
    (eff : o.eff { s := s1, gi := s.cur, g := groupAt s1 s.cur, s0 := s } vs = .hold s2) : scalExec o s = .next s2 := by
  rw [scalExec_go h, eff]

/-! ## Scalar accesses (R156, R204 to R206) -/

theorem noncanon_of_ge {a : Word} (h : 2 ^ 48 ≤ a.toNat) : noncanon a.toNat = some { cause := Tc.addrNoncanon, addr := a } := by
  rw [noncanon, if_pos h, w64, BitVec.ofNat_toNat, BitVec.setWidth_eq]

theorem noncanon_of_lt {va : Nat} (h : va < 2 ^ 48) : noncanon va = none :=
  if_neg (Nat.not_le.mpr h)

/-- A scalar access whose pages are translated and whose checks pass issues its set. -/
theorem issueScalar_of_issues {x : ScalIn} {a : ASet} {after : State → ScalRes} (room : partyFull x.s0 (.scalar x.gi) = false)
    (h : Claim.Issues x.s x.g a) : issueScalar x a after = after (issueSet x.s a) := by
  simp [issueScalar, room, h.pages, h.checks]

/-- What a load pops when it commits, and the length of its word, are no matter of its translation and its checks. -/
theorem issues_with_pops {a : ASet} (ps : List SReg) (len : Nat) (h : Claim.Issues s g a) :
    Claim.Issues s g { a with pops := ps, len := len } :=
  ⟨h.pages, h.checks⟩

variable {a : SReg} {imm : Word} {n len : Nat} {signed : Bool}

/-- SLD above the canonical addresses (R204, R205). -/
theorem sldOp_noncanon (h : Claim.ScalarIdle s g) (hd : Claim.plain d) (ha : Claim.plain a) (hi : 2 ^ 48 ≤ (sreg g a.toNat + imm).toNat) :
    sldOp d a imm n signed len s = .next (scalarTrap s s.cur g Tc.addrNoncanon (sreg g a.toNat + imm)) := by
  have hs : ∀ r ∈ [a], Claim.plain r := by simpa using ha
  have hds : ∀ r ∈ some d, Claim.plain r := by simpa using hd
  refine scalExec_eff_trap (t := { cause := Tc.addrNoncanon, addr := sreg g a.toNat + imm })
    (scalGo_of_plain h rfl rfl rfl rfl hs hds) ?_
  simp only [arg, List.map, List.getD_cons_zero, noncanon_of_ge hi]

/-- SST above the canonical addresses (R204, R205). -/
theorem sstOp_noncanon (h : Claim.ScalarIdle s g) (hd : Claim.plain d) (ha : Claim.plain a) (hi : 2 ^ 48 ≤ (sreg g a.toNat + imm).toNat) :
    sstOp d a imm n len s = .next (scalarTrap s s.cur g Tc.addrNoncanon (sreg g a.toNat + imm)) := by
  have hs : ∀ r ∈ [a, d], Claim.plain r := by simp [ha, hd]
  have hds : ∀ r ∈ (none : Option SReg), Claim.plain r := by simp
  refine scalExec_eff_trap (t := { cause := Tc.addrNoncanon, addr := sreg g a.toNat + imm })
    (scalGo_of_plain h rfl rfl (regionLive_of_idle h) rfl hs hds) ?_
  simp only [arg, List.map, List.getD_cons_zero, noncanon_of_ge hi]

/-- A load into a port with room issues its set and waits for its commit (R9, R34). -/
theorem sldOp_port (h : Claim.ScalarIdle s g) (hd : isPort d = true) (ha : Claim.plain a) (ports : portFails [a] (some d) = none)
    (room : pushRoom s s.cur (portOf d) = true) (lo : (sreg g a.toNat + imm).toNat < 2 ^ 48)
    (issues : Claim.Issues s g (Claim.scalarAccess s g .load (sreg g a.toNat + imm).toNat n 0 (.sreg d n signed))) :
    sldOp d a imm n signed len s = .next (enterWait (issueSet s
      { Claim.scalarAccess s g .load (sreg g a.toNat + imm).toNat n 0 (.sreg d n signed) with pops := [a], len := len }) s.cur) := by
  have hs : ∀ r ∈ [a], Claim.plain r := by simpa using ha
  refine scalExec_eff_hold (scalGo_of_idle h rfl ports rfl rfl (by simp [noRoom, room]) rfl hs) ?_
  simp only [arg, List.map, List.getD_cons_zero, noncanon_of_lt lo, issueLoad, hd, if_true, groupAt_of_getElem? h.group]
  rw [issueScalar_of_issues (partyFull_of_idle h) (issues_with_pops [a] len issues)]
  rfl

/-! ## Parameter reads (R206) -/

variable {w : BitVec 3}

/-- A word without sources whose destination is a register fails no check of a port. -/
theorem portFails_nil_of_plain (hd : Claim.plain d) : portFails [] (some d) = none :=
  portFails_of_plain (by simp) (by simpa using hd)

theorem sldwOp_unbound (h : Claim.ScalarIdle s g) (hd : Claim.plain d) (hw : (windowOf s g w.toNat).2 = 0) :
    sldwOp d w imm len s = .next (scalarTrap s s.cur g Tc.paramUnbound) :=
  scalExec_own_trap (t := { cause := Tc.paramUnbound }) h.group h.run (portFails_nil_of_plain hd) (if_pos hw)

theorem sldwOp_misaligned (h : Claim.ScalarIdle s g) (hd : Claim.plain d) (hw : (windowOf s g w.toNat).2 ≠ 0) (hi : imm.toNat % 8 ≠ 0) :
    sldwOp d w imm len s = .next (scalarTrap s s.cur g Tc.paramAlign) :=
  scalExec_own_trap (t := { cause := Tc.paramAlign }) h.group h.run (portFails_nil_of_plain hd) ((if_neg hw).trans (if_pos hi))

/-- Sign extension keeps the residue of 8 (R45). -/
theorem imm14_mod_eight (m : BitVec 14) : (imm14 m).toNat % 8 = m.toNat % 8 := by
  have hm := m.isLt
  rw [imm14, BitVec.toNat_signExtend, BitVec.toNat_setWidth]
  split <;> omega

/-! ## LIMM (R46, R47) -/

variable {hi : BitVec 26} {bs : List Byte}

/-- A LIMM with no word of `.scalar` behind it. -/
theorem execLimm_outside (h : Claim.ScalarIdle s g) (out : scalarInside s g (g.spc + 4).toNat = false) :
    execLimm hi s = .next (scalarTrap s s.cur g Tc.fetchBounds) := by
  simp only [execLimm, h.group, h.run, out]
  rfl

/-- A LIMM before a word that takes no immediate. -/
theorem execLimm_not_si (h : Claim.ScalarIdle s g) (inside : scalarInside s g (g.spc + 4).toNat = true)
    (read : coreRead s (g.quad / 4) (ctxIx s g) (g.spc + 4).toNat 4 .fetch = .ok bs) (other : isSi (BitVec.ofNat 32 (leNat bs)) = false) :
    execLimm hi s = .next (scalarTrap s s.cur g Tc.illegalPrefix) := by
  simp only [execLimm, h.group, h.run, inside, read, other]
  rfl

/-! ## The commit of a load into a port (R9, R34) -/

variable {x : ASet} {v : Word} {q t : Nat} {r1 : State}

/-- A ready head load of a scalar stream whose leases run, with a port as destination, is delivered to the port at its time. -/
theorem loadSetCommit_port (hg : s.groups[s.cur]? = some g) (at_ : setAt s x.id = some x) (dest : x.dest = .sreg d n signed)
    (port : isPort d = true) (party : x.party = .scalar s.cur) (kind : x.kind = .load) (phase : x.phase = .ready) (sram : x.sram = false)
    (may : mayCommit s x = true) (leases : leasesRun x g.slt = true) :
    exec (.loadSetCommit x.id) s =
      .next (deliverPort s s.cur x (portOf d) (scalarGot n signed (laneGot x 0)) (max g.slt (setTime x))) := by
  have lt : partyLt s x.party = g.slt := by rw [party, partyLt, groupAt_of_getElem? hg]
  have commit : tryCommitLoad s x = commitLoad s x (max g.slt (setTime x)) := by
    simp [tryCommitLoad, storeClass, kind, phase, may, sram, lt, leases]
  show execLoadSetCommit x.id s = _
  rw [execLoadSetCommit, at_]
  simp [commit, commitLoad, dest, party, partyGroup, port]

/-- The whole word happens: what was read stays popped, the set retires, the value is sent, SPC goes on. -/
theorem deliverPort_send (live : regionLive s (groupAt s gi) = false) (read : readSources gi x.pops s = some (r1, vs))
    (check : pushCheck r1 gi q v = none) (room : pushRoom r1 gi q = true) :
    deliverPort s gi x q v t = (sendPush (retireSet (raiseLt r1 x.party t) x) gi q x.pc x.issued v).modGroup gi fun h =>
      { h with spc := h.spc + BitVec.ofNat 64 x.len, wait := .none } := by
  simp [deliverPort, live, read, check, room]

/-- A port that has lost its room has the word done again: only the set goes. -/
theorem deliverPort_full (live : regionLive s (groupAt s gi) = false) (read : readSources gi x.pops s = some (r1, vs))
    (check : pushCheck r1 gi q v = none) (room : pushRoom r1 gi q = false) : deliverPort s gi x q v t = dropSet s x.id := by
  simp [deliverPort, live, read, check, room]

/-- A value that fails the port's checks traps in the state before the pops. -/
theorem deliverPort_trap {k : STrap} (live : regionLive s (groupAt s gi) = false) (read : readSources gi x.pops s = some (r1, vs))
    (check : pushCheck r1 gi q v = some k) : deliverPort s gi x q v t = trapOfSet s x k.cause 0 k.addr.toNat k.info := by
  simp [deliverPort, live, read, check]

/-! ## The obligation -/

/-- A load word is SLD of the bytes and sign that its form gives. -/
theorem exec_of_loadForm {i : Instr} {m : BitVec 14} (h : Claim.loadForm i = some (d, a, m, n, signed)) :
    exec i s = sldOp d a (imm14 m) n signed 4 s := by
  unfold Claim.loadForm at h
  split at h <;> cases h <;> rfl

/-- A store word is SST of the bytes that its form gives. -/
theorem exec_of_storeForm {i : Instr} {m : BitVec 14} (h : Claim.storeForm i = some (d, a, m, n)) :
    exec i s = sstOp d a (imm14 m) n 4 s := by
  unfold Claim.storeForm at h
  split at h <;> cases h <;> rfl

theorem scalarAccessTraps : Claim.ScalarAccessTraps := by
  intro i s g d a m idle hd ha
  refine ⟨?_, fun w hw => sldwOp_unbound idle hd hw, fun w hw hm => sldwOp_misaligned idle hd hw (by rwa [imm14_mod_eight])⟩
  rintro (⟨n, signed, hi⟩ | ⟨n, hi⟩) high
  · rw [exec_of_loadForm hi]
    exact sldOp_noncanon idle hd ha high
  · rw [exec_of_storeForm hi]
    exact sstOp_noncanon idle hd ha high

theorem portLoads : Claim.PortLoads := by
  intro s g hg
  constructor
  · intro i d a m n signed hi idle port ha ports room low issues
    rw [exec_of_loadForm hi]
    exact sldOp_port idle port ha ports room low issues
  · intro x d n signed r vs v t at_ dest port party kind phase sram may leases calm read
    have live : regionLive s (groupAt s s.cur) = false := by rwa [groupAt_of_getElem? hg]
    rw [loadSetCommit_port hg at_ dest port party kind phase sram may leases]
    exact ⟨fun check room => congrArg _ (deliverPort_send live read check room),
      fun check room => congrArg _ (deliverPort_full live read check room),
      fun k check => congrArg _ (deliverPort_trap live read check)⟩

theorem limmTraps : Claim.LimmTraps := fun _ _ _ _ idle =>
  ⟨fun inside read other => execLimm_not_si idle inside read other, fun out => execLimm_outside idle out⟩

/-- Settles O11: each word is the shared scalar frame on an idle stream, whose own check or effect gives the trap; a load into a port issues
without popping, and its commit takes one of the three ways of `deliverPort`. -/
theorem scalarAccessAndLimmTraps : Obligations.ScalarAccessAndLimmTraps :=
  ⟨scalarAccessTraps, portLoads, limmTraps⟩

end Sys2Proof.Proofs
end

section
/-! SUPPORT. The register BAR: which block a write goes to, what the fields of a register keep of a value, what a read answers. -/

namespace Sys2Proof.Proofs

open Sys2Proof Sys2Proof.Machine

variable {s : State} {v : Word} {off c q o n lo m : Nat}

/-! ## Fields of a value -/

theorem getLsbD_w64 {i : Nat} (h : i < 64) : (w64 n).getLsbD i = n.testBit i := by
  rw [w64, BitVec.getLsbD_ofNat, decide_eq_true h, Bool.true_and]

/-- The `m` bits of a value from bit `lo` up, left in their place, are its AND with a mask of ones there. -/
theorem w64_field_in_place : w64 (v.toNat / 2 ^ lo % 2 ^ m * 2 ^ lo) = v &&& w64 ((2 ^ m - 1) * 2 ^ lo) := by
  refine BitVec.eq_of_getLsbD_eq fun i hi => ?_
  rw [getLsbD_w64 hi, BitVec.getLsbD_and, getLsbD_w64 hi, Nat.testBit_mul_two_pow, Nat.testBit_mul_two_pow, Nat.testBit_mod_two_pow,
    Nat.testBit_div_two_pow, Nat.testBit_two_pow_sub_one, BitVec.testBit_toNat]
  by_cases h : lo ≤ i
  · simp [h, Bool.and_comm]
  · simp [h]

/-- A value with its bits below `lo` cleared is its AND with a mask of ones from `lo` up. -/
theorem w64_clear_low (h : lo ≤ 64) : w64 (v.toNat / 2 ^ lo * 2 ^ lo) = v &&& w64 ((2 ^ (64 - lo) - 1) * 2 ^ lo) := by
  have top : v.toNat / 2 ^ lo < 2 ^ (64 - lo) := by
    rw [Nat.div_lt_iff_lt_mul (by positivity), ← pow_add, Nat.sub_add_cancel h]
    exact v.isLt
  rw [← w64_field_in_place, Nat.mod_eq_of_lt top]

theorem w64_page : w64 (v.toNat / 4096 * 4096) = v &&& ~~~0xFFF#64 :=
  w64_clear_low (lo := 12) (by decide)

/-- An address of a page with bit 0 as a flag beside it (CTX_TVEC, R336). -/
theorem w64_page_and_bit0 : w64 (v.toNat / 4096 * 4096 + v.toNat % 2) = v &&& ~~~0xFFF#64 ||| v &&& 1 := by
  have flag : w64 (v.toNat % 2) = v &&& 1 := by simpa [w64] using w64_field_in_place (v := v) (lo := 0) (m := 1)
  have apart : (v &&& ~~~0xFFF#64) &&& (v &&& 1) = 0#64 := by
    have masks : ~~~0xFFF#64 &&& 1 = 0#64 := by decide
    rw [BitVec.and_comm v 1, BitVec.and_assoc, ← BitVec.and_assoc (~~~_), masks, BitVec.zero_and, BitVec.and_zero]
  calc w64 (v.toNat / 4096 * 4096 + v.toNat % 2)
    _ = w64 (v.toNat / 4096 * 4096) + w64 (v.toNat % 2) := BitVec.ofNat_add _ _
    _ = (v &&& ~~~0xFFF#64) + (v &&& 1) := by rw [w64_page, flag]
    _ = v &&& ~~~0xFFF#64 ||| v &&& 1 := BitVec.add_eq_or_of_and_eq_zero _ _ apart

/-- A register of fifteen bits that keeps its own bit 0 takes the others from the value written (HOST_CTL, R361). -/
theorem w64_keep_bit0 (old : Word) : (w64 (old.toNat % 2 + 2 * bits v.toNat 14 1)).getLsbD 0 = old.getLsbD 0 ∧
    ∀ k, 1 ≤ k → k ≤ 14 → (w64 (old.toNat % 2 + 2 * bits v.toNat 14 1)).getLsbD k = v.getLsbD k := by
  have testBit (k : Nat) : (old.toNat % 2 + 2 * bits v.toNat 14 1).testBit k =
      if k < 1 then (old.toNat % 2).testBit k else (bits v.toNat 14 1).testBit (k - 1) := by
    rw [Nat.add_comm]
    exact Nat.testBit_two_pow_mul_add (i := 1) _ (Nat.mod_lt _ (by decide)) k
  constructor
  · rw [getLsbD_w64 (by decide), testBit]
    simp [BitVec.getLsbD]
  · intro k h1 h14
    rw [getLsbD_w64 (by omega), testBit, if_neg (by omega), bits, Nat.testBit_mod_two_pow, Nat.testBit_div_two_pow, BitVec.testBit_toNat]
    simp [show k - 1 < 14 by omega, show k - 1 + 1 = k by omega]

/-! ## Blocks of the register BAR (R357) -/

theorem registerWrite_misaligned (h : off % 8 ≠ 0) : exec (.registerWrite off v) s = .next (hostAnswer s 1 0) :=
  congrArg _ (if_pos (.inl h))

/-- An aligned write inside the BAR goes to the block that holds its offset. -/
theorem registerWrite_inside (h8 : off % 8 = 0) (h : off < 2 ^ 24) : exec (.registerWrite off v) s =
    .next (if off < 0x40000 then writeCp s off v
      else if off < 0x50000 then writeCtx s off v
      else if 0x60000 ≤ off ∧ off < 0x61000 then writeMbx s off v
      else if 0x80000 ≤ off ∧ off < 0x81000 then writeLink s off v
      else writeHubReg s off v) :=
  congrArg _ (if_neg (by omega))

theorem registerWrite_cp (h8 : off % 8 = 0) (h : off < 0x40000) : exec (.registerWrite off v) s = .next (writeCp s off v) := by
  rw [registerWrite_inside h8 (by omega), if_pos h]

theorem registerWrite_ctx (h8 : off % 8 = 0) (lo : 0x40000 ≤ off) (hi : off < 0x50000) :
    exec (.registerWrite off v) s = .next (writeCtx s off v) := by
  rw [registerWrite_inside h8 (by omega), if_neg (by omega), if_pos hi]

theorem registerWrite_mbx (h8 : off % 8 = 0) (lo : 0x60000 ≤ off) (hi : off < 0x61000) :
    exec (.registerWrite off v) s = .next (writeMbx s off v) := by
  rw [registerWrite_inside h8 (by omega), if_neg (by omega), if_neg (by omega), if_pos ⟨lo, hi⟩]

/-! ## Writes of one register -/

theorem ctxAt_modCtx_same (f : Ctx → Ctx) (hc : c < s.ctxs.length) : ctxAt (s.modCtx c f) c = f (ctxAt s c) := by
  simp [ctxAt, List.getD_eq_getElem?_getD, hc]

theorem lqAt_modLq_same (f : LaunchQ → LaunchQ) (hc : c < s.ctxs.length) (hq : q < (ctxAt s c).queues.length) :
    lqAt (modLq s c q f) c q = f (lqAt s c q) := by
  rw [lqAt, modLq, ctxAt_modCtx_same _ hc]
  simp [lqAt, List.getD_eq_getElem?_getD, hq]

/-- LQ_CTL of queue `q` of context `c` (R252). -/
theorem writeCp_lqCtl (hc : c < 64) (hq : q < 16) :
    writeCp s (0x10008 + 0x400 * c + 0x40 * q) v = modLq s c q fun x => { x with ctl := v &&& 0x1031FFF } := by
  have ctx : (0x10008 + 0x400 * c + 0x40 * q - 0x10000) / 0x400 = c := by omega
  have queue : (0x10008 + 0x400 * c + 0x40 * q) % 0x400 / 0x40 = q := by omega
  have reg : (0x10008 + 0x400 * c + 0x40 * q) % 0x40 = 0x08 := by omega
  rw [writeCp, if_pos (by omega), ctx, queue, reg]
  rfl

/-- Register `o` of context `c` (R295). -/
theorem registerWrite_ctxReg (hc : c < 64) (ho : o < 0x200) (h8 : o % 8 = 0) :
    exec (.registerWrite (0x40000 + o + 0x200 * c) v) s = .next (writeCtxReg s c o v) := by
  have ctx : (0x40000 + o + 0x200 * c - 0x40000) / 0x200 = c := by omega
  have reg : (0x40000 + o + 0x200 * c) % 0x200 = o := by omega
  rw [registerWrite_ctx (by omega) (by omega) (by omega), writeCtx, if_pos (by omega), ctx, reg]

/-- A word of the table of spaces other than its last (R298). -/
theorem writeCtx_space (hc : c < 63) : writeCtx s (0x48000 + 8 * c) v = s.modHub fun h => { h with spaces := h.spaces.set c v } := by
  have ix : (0x48000 + 8 * c - 0x48000) / 8 = c := by omega
  rw [writeCtx, if_neg (by omega), if_pos (by omega), ix]
  simp [show c ≠ 63 by omega]

/-- MBX_BASE of context `c` (R317). -/
theorem writeMbx_base (hc : c < 64) : writeMbx s (0x60000 + 0x40 * c) v = s.modCtx c fun x => { x with mbxBase := v &&& 0xFFFFFFFFFC00 } := by
  have ctx : (0x60000 + 0x40 * c - 0x60000) / 0x40 = c := by omega
  have reg : (0x60000 + 0x40 * c) % 0x40 = 0 := by omega
  have field : w64 (bits v.toNat 47 10 * 1024) = v &&& 0xFFFFFFFFFC00 := w64_field_in_place (lo := 10) (m := 38)
  simp only [writeMbx, ctx, reg, field]

/-! ## Reads -/

theorem hostRead_aligned (h8 : off % 8 = 0) (h : off < 2 ^ 24) :
    runAct (.hostRead off 8) s = .next (hostAnswer s 0 (readRegister s off)) :=
  congrArg _ (if_neg (by omega))

theorem readRegister_lqCtl (hc : c < 64) (hq : q < 16) : readRegister s (0x10008 + 0x400 * c + 0x40 * q) = (lqAt s c q).ctl := by
  have ctx : (0x10008 + 0x400 * c + 0x40 * q - 0x10000) / 0x400 = c := by omega
  have queue : (0x10008 + 0x400 * c + 0x40 * q) % 0x400 / 0x40 = q := by omega
  have reg : (0x10008 + 0x400 * c + 0x40 * q) % 0x40 = 0x08 := by omega
  rw [readRegister, if_neg (by omega), if_pos (by omega), ctx, queue, reg]
  rfl

theorem readRegister_ctxReg (hc : c < 64) (ho : o < 0x200) :
    readRegister s (0x40000 + o + 0x200 * c) = readCtxReg (ctxAt s c) o := by
  have ctx : (0x40000 + o + 0x200 * c - 0x40000) / 0x200 = c := by omega
  have reg : (0x40000 + o + 0x200 * c) % 0x200 = o := by omega
  rw [readRegister, if_neg (by omega), if_neg (by omega), if_neg (by omega), if_neg (by omega), if_pos (by omega), ctx, reg]

theorem readRegister_mbxReg (hc : c < 64) (ho : o < 0x40) :
    readRegister s (0x60000 + o + 0x40 * c) = readMbxReg (ctxAt s c) o := by
  have ctx : (0x60000 + o + 0x40 * c - 0x60000) / 0x40 = c := by omega
  have reg : (0x60000 + o + 0x40 * c) % 0x40 = o := by omega
  rw [readRegister, if_neg (by omega), if_neg (by omega), if_neg (by omega), if_neg (by omega), if_neg (by omega), if_neg (by omega),
    if_pos (by omega), ctx, reg]

/-! ## The obligation -/

theorem spdmAnswered : Claim.SpdmAnswered := by
  intro s i n hi
  have answer : exec i s = .next (answerSpdm s n) := by
    simp only [List.mem_cons, Prod.mk.injEq, List.not_mem_nil, or_false] at hi
    rcases hi with ⟨rfl, rfl⟩ | ⟨rfl, rfl⟩ | ⟨rfl, rfl⟩ | ⟨rfl, rfl⟩ | ⟨rfl, rfl⟩ | ⟨rfl, rfl⟩ | ⟨rfl, rfl⟩ <;> rfl
  exact ⟨_, answer⟩

/-- The registers whose reads are shown: LQ_CTL, CTX_PTROOT, FQ_REPLAY, EP_CMD, PM_LIMIT. -/
theorem registerReads (hc : c < 64) (hq : q < 16) : ∀ off x,
    (off, x) ∈ [(0x10008 + 0x400 * c + 0x40 * q, (lqAt s c q).ctl), (0x40008 + 0x200 * c, (ctxAt s c).ptroot),
      (0x40038 + 0x200 * c, 0), (0x60010 + 0x40 * c, 0), (0x90000, s.hub.pmLimit)] →
    runAct (.hostRead off 8) s = .next (hostAnswer s 0 x) := by
  intro off x hx
  simp only [List.mem_cons, Prod.mk.injEq, List.not_mem_nil, or_false] at hx
  rcases hx with ⟨rfl, rfl⟩ | ⟨rfl, rfl⟩ | ⟨rfl, rfl⟩ | ⟨rfl, rfl⟩ | ⟨rfl, rfl⟩
  · rw [hostRead_aligned (by omega) (by omega), readRegister_lqCtl hc hq]
  · rw [hostRead_aligned (by omega) (by omega), readRegister_ctxReg (o := 0x08) hc (by decide)]
    rfl
  · rw [hostRead_aligned (by omega) (by omega), readRegister_ctxReg (o := 0x38) hc (by decide)]
    rfl
  · rw [hostRead_aligned (by omega) (by omega), readRegister_mbxReg (o := 0x10) hc (by decide)]
    rfl
  · rfl

theorem registerWrites : Claim.RegisterWrites := by
  intro s v c q hlen hc hq hq16
  refine ⟨fun off h => registerWrite_misaligned h, ?lqCtl, ?ptroot, ?tvec, ?harea, ?spaces, rfl, ?mbxBase, ?hostCtl, rfl,
    registerReads hc hq16⟩
  case lqCtl =>
    refine ⟨_, registerWrite_cp (by omega) (by omega), ?_⟩
    rw [writeCp_lqCtl hc hq16, lqAt_modLq_same _ (by omega) hq]
    exact ⟨rfl, rfl, rfl⟩
  case ptroot =>
    have field : w64 (v.toNat / 2 ^ 11 * 2 ^ 11) = v &&& ~~~0x7FF#64 := w64_clear_low (lo := 11) (by decide)
    rw [registerWrite_ctxReg (o := 0x08) hc (by decide) (by decide), ← field]
    rfl
  case tvec =>
    rw [registerWrite_ctxReg (o := 0x80) hc (by decide) (by decide), ← w64_page_and_bit0]
    rfl
  case harea =>
    rw [registerWrite_ctxReg (o := 0x88) hc (by decide) (by decide), Claim.page4k, ← w64_page]
    rfl
  case spaces => rw [registerWrite_ctx (by omega) (by omega) (by omega), writeCtx_space (by omega)]
  case mbxBase => rw [registerWrite_mbx (by omega) (by omega) (by omega), writeMbx_base hc]
  case hostCtl =>
    obtain ⟨coherent, rest⟩ := w64_keep_bit0 (v := v) s.hub.hostCtl
    exact ⟨_, rfl, coherent, rest, rfl⟩

/-- Settles O54: every SPDM request is one `answerSpdm`; each write goes through its block to its register, whose fields are a mask of the
value; each read through its block to its register. -/
theorem hubRegistersAndSpdm : Obligations.HubRegistersAndSpdm :=
  ⟨spdmAnswered, registerWrites⟩

end Sys2Proof.Proofs
end

section
/-! SUPPORT. Scalar words without sources and destination: when they stand, wait, and go to the next word; lane blocks and barriers. -/

namespace Sys2Proof.Proofs

open Sys2Proof Sys2Proof.Machine

variable {s : State} {g : Group} {o : ScalOp}

/-! ## Words that name no register -/

/-- A word that its own rule holds back stands where it stood (R63). -/
theorem scalExec_own_hold (hg : s.groups[s.cur]? = some g) (run : scalarMayRun g = true) (pre : o.pre.or (portFails o.srcs o.dst) = none)
    (own : o.own { s := s, gi := s.cur, g := g, s0 := s } = none) (hold : o.hold { s := s, gi := s.cur, g := g, s0 := s } = true) :
    scalExec o s = .next s := by
  simp only [scalExec, hg, run, pre, own, hold, Bool.or_true, Bool.true_or]
  rfl

/-- A word that only its own blocking wait keeps begins that wait (R267). -/
theorem scalExec_own_wait (hg : s.groups[s.cur]? = some g) (run : scalarMayRun g = true) (pre : o.pre.or (portFails o.srcs o.dst) = none)
    (own : o.own { s := s, gi := s.cur, g := g, s0 := s } = none)
    (free : (scalarHeld s s.cur g o || o.hold { s := s, gi := s.cur, g := g, s0 := s } || regionHolds s g o) = false)
    (wait : o.wait { s := s, gi := s.cur, g := g, s0 := s } = true) : scalExec o s = .next (enterWait s s.cur) := by
  simp only [scalExec, hg, run, pre, own, free, wait, Bool.or_true]
  rfl

/-- A word without a destination whose effect ends goes to the next word. -/
theorem scalExec_next_word {s1 s2 : State} {vs : List Word} (h : ScalGo o s g s1 vs) (dst : o.dst = none)
    (eff : o.eff { s := s1, gi := s.cur, g := groupAt s1 s.cur, s0 := s } vs = .done s2 none none) :
    scalExec o s = .next (s2.modGroup s.cur fun h => { h with spc := h.spc + BitVec.ofNat 64 o.len, wait := .none }) := by
  rw [scalExec_go h, eff]
  simp only [resultFails, writeResult, dst, Option.getD_none]

/-- The next word, after an update of the same group. -/
theorem modGroup_then_next_word (f : Group → Group) (i : Nat) :
    (s.modGroup i f).modGroup i (fun h => { h with spc := h.spc + BitVec.ofNat 64 4, wait := .none }) =
      s.modGroup i fun h => { f h with spc := (f h).spc + 4, wait := .none } := by
  simp only [State.modGroup, List.modify_modify_eq]
  rfl

/-- Only what an update makes of the group that stands there counts. -/
theorem modGroup_congr {f f' : Group → Group} {i : Nat} (hg : s.groups[i]? = some g) (h : f g = f' g) : s.modGroup i f = s.modGroup i f' := by
  have same : s.groups.modify i f = s.groups.modify i f' := by
    refine List.ext_getElem? fun j => ?_
    rw [List.getElem?_modify, List.getElem?_modify]
    split
    · subst j
      simp [hg, h]
    · rfl
  simp [State.modGroup, same]

/-- Settled sets hold back no word that names no register. -/
theorem scalarHeld_of_settled (h : Claim.ScalarMay s g) (srcs : o.srcs = []) (dst : o.dst = none) : scalarHeld s s.cur g o = false := by
  have settled : (setsOf s (.scalar s.cur)).any unsettled = false := by
    simp only [setsOf, List.any_eq_false, List.mem_filter, beq_iff_eq]
    exact fun a ⟨mem, party⟩ => by simp [h.firm a mem party]
  simp [scalarHeld, srcs, dst, settled]

/-! ## LRUN (R24, R25, R274) -/

theorem exec_lrun {o : BitVec 24} : exec (.lrun o) s = execLrun o s := rfl

variable {o : BitVec 24}

/-- LRUN is held by a scalar load that has not committed and, with VTOS registers, by every earlier block. -/
theorem lrun_held_iff (calm : g.region = none) :
    (regionLive s g || anyLoadPending s s.cur || ((imageOf s g).vtos != 0 && blocksOutstanding g)) = true ↔
      (anyLoadPending s s.cur = true ∨ ((imageOf s g).vtos ≠ 0 ∧ blocksOutstanding g = true)) := by
  simp [regionLive, calm]

/-- What LRUN's frame asks, once its offset lies in `.lanes` and nothing holds it. -/
theorem lrun_free (h : Claim.ScalarMay s g) (calm : g.region = none)
    (closed : ¬(anyLoadPending s s.cur = true ∨ ((imageOf s g).vtos ≠ 0 ∧ blocksOutstanding g = true))) {op : ScalOp}
    (srcs : op.srcs = []) (dst : op.dst = none) :
    (scalarHeld s s.cur g op || (regionLive s g || anyLoadPending s s.cur || ((imageOf s g).vtos != 0 && blocksOutstanding g)) ||
      regionHolds s g op) = false := by
  rw [scalarHeld_of_settled h srcs dst, Bool.eq_false_iff.mpr (mt (lrun_held_iff calm).mp closed)]
  simp [regionHolds, dst]

theorem lrunEnqueues : Claim.LrunEnqueues := by
  intro s g o may calm held
  rw [exec_lrun]
  refine ⟨fun out => ?bounds, fun inside h => ?held, fun inside h room => ?queued, fun inside h full => ?full⟩
  case bounds => exact scalExec_own_trap (t := { cause := Tc.fetchBounds }) may.group may.run rfl (if_pos out)
  case held => exact scalExec_own_hold may.group may.run rfl (if_neg (Nat.not_le.mpr inside)) ((lrun_held_iff calm).mpr h)
  case full =>
    exact scalExec_own_wait may.group may.run rfl (if_neg (Nat.not_le.mpr inside)) (lrun_free may calm h rfl rfl) (decide_eq_true full)
  case queued =>
    calc execLrun o s
      _ = .next _ := scalExec_next_word (vs := []) ⟨may.group, may.run, rfl, if_neg (Nat.not_le.mpr inside), lrun_free may calm h rfl rfl,
            decide_eq_false (Nat.not_le.mpr room), rfl⟩ rfl rfl
      _ = .next (s.modGroup s.cur _) := congrArg _ (modGroup_then_next_word _ _)
      _ = _ := congrArg _ (modGroup_congr may.group rfl)

/-! ## SBAR (R277, R278) -/

theorem exec_sbar {k : BitVec 2} : exec (.sbar k) s = execSbar k s := rfl

/-- A level that the group may use breaks no scope (R278). -/
theorem sbar_in_scope {k : BitVec 2} (may : k = 0 ∨ coop s g = true) : ¬(k ≠ 0 ∧ (!coop s g) = true) := by
  rintro ⟨above, alone⟩
  rcases may with rfl | may
  · exact above rfl
  · simp [may] at alone

theorem barrierArrivesAndCompletes : Claim.BarrierArrivesAndCompletes := by
  intro s g k idle hk
  have defined : k ≠ 3 := by rintro rfl; contradiction
  have quiet : (blocksOutstanding g || !(setsOf s (.scalar s.cur)).isEmpty) = false := by simp [idle.lanes, setsOf_of_idle idle]
  have at_ : groupAt s s.cur = g := groupAt_of_getElem? idle.group
  rw [exec_sbar]
  refine ⟨fun may unarrived => ?arrives, fun may l n waiting passed => ?completes, fun above alone => ?scope⟩
  case arrives =>
    refine scalExec_eff_hold (scalGo_of_plain idle (if_neg defined) (if_neg (sbar_in_scope may)) (regionLive_of_idle idle) quiet
      (by simp) (by simp)) ?_
    -- `unarrived` rules out the first arm of the effect.
    simp only [at_]
    rfl
  case completes =>
    calc execSbar k s
      _ = .next _ := by
        refine scalExec_next_word (scalGo_of_plain idle (if_neg defined) (if_neg (sbar_in_scope may)) (regionLive_of_idle idle) quiet
          (by simp) (by simp)) rfl ?_
        simp only [at_, waiting]
        exact if_pos passed
      _ = _ := congrArg _ (modGroup_then_next_word _ _)
  case scope =>
    have pre : (if k = 3 then some Tc.illegalMinor else none : Option Cause).or (portFails [] none) = none := by
      rw [if_neg defined]
      rfl
    exact scalExec_own_trap (t := { cause := Tc.barrierScope }) idle.group idle.run pre (if_pos ⟨above, by simp [alone]⟩)

/-- Settles O5: LRUN and SBAR are the shared scalar frame without a port: each clause is one way out of it, by the word's own check, its own
hold, its own wait, or its effect. -/
theorem blocksAndBarriersOfScalar : Obligations.BlocksAndBarriersOfScalar :=
  ⟨lrunEnqueues, barrierArrivesAndCompletes⟩

end Sys2Proof.Proofs
end

section
/-! SUPPORT. What an access of the CP leaves: every launch and every context stand as they were. -/

namespace Sys2Proof.Proofs

open Sys2Proof Sys2Proof.Machine

/-- Every launch and every context of `s` stands in `t`. -/
structure KeepsLaunches (s t : State) : Prop where
  launches : t.launches = s.launches
  ctxs     : t.ctxs = s.ctxs

variable {s t : State} {α β : Type}

theorem KeepsLaunches.trans {u : State} (h : KeepsLaunches s t) (h' : KeepsLaunches t u) : KeepsLaunches s u :=
  ⟨h'.launches.trans h.launches, h'.ctxs.trans h.ctxs⟩

/-- An update of other fields before. -/
theorem KeepsLaunches.before {u : State} (h : KeepsLaunches t u) (launches : t.launches = s.launches := by rfl)
    (ctxs : t.ctxs = s.ctxs := by rfl) : KeepsLaunches s u :=
  KeepsLaunches.trans ⟨launches, ctxs⟩ h

/-- An update of other fields behind. -/
theorem KeepsLaunches.behind {u : State} (h : KeepsLaunches s t) (launches : u.launches = t.launches := by rfl)
    (ctxs : u.ctxs = t.ctxs := by rfl) : KeepsLaunches s u :=
  h.trans ⟨launches, ctxs⟩

/-- Steps that each keep the launches keep them in a row. -/
theorem keepsLaunches_foldl {f : State → α → State} (h : ∀ s x, KeepsLaunches s (f s x)) (l : List α) (s : State) :
    KeepsLaunches s (l.foldl f s) := by
  induction l generalizing s with
  | nil => exact ⟨rfl, rfl⟩
  | cons x r ih => exact (h s x).trans (ih (f s x))

/-- The same of steps that carry on a value beside the state. -/
theorem keepsLaunches_foldl_fst {f : State × β → α → State × β} (h : ∀ b x, KeepsLaunches b.1 (f b x).1) (l : List α) (b : State × β) :
    KeepsLaunches b.1 (l.foldl f b).1 := by
  induction l generalizing b with
  | nil => exact ⟨rfl, rfl⟩
  | cons x r ih => exact (h b x).trans (ih (f b x))

theorem modAm_keeps {f : Am → Am} : KeepsLaunches s (s.modAm f) := ⟨rfl, rfl⟩
theorem modHub_keeps {f : Hub → Hub} : KeepsLaunches s (s.modHub f) := ⟨rfl, rfl⟩
theorem modTag_keeps {gpn : Nat} {f : Tag → Tag} : KeepsLaunches s (modTag s gpn f) := modAm_keeps

/-! ## Regions, tags, times -/

theorem abortOne_keeps {n : Nat} {c : BitVec 4} {b : Nat} : KeepsLaunches s (abortOne s n c b) := by
  unfold abortOne
  split
  · exact ⟨rfl, rfl⟩
  · dsimp only
    split <;> exact ⟨rfl, rfl⟩

theorem abortRegion_keeps {n : Nat} {c : BitVec 4} {b : Nat} : KeepsLaunches s (abortRegion s n c b) :=
  (keepsLaunches_foldl (fun _ _ => abortOne_keeps) _ s).trans
    (keepsLaunches_foldl (fun s _ => keepsLaunches_foldl (fun _ _ => abortOne_keeps) _ s) _ _)

theorem setSector_keeps {sec : Nat} {x : Nat × Nat} : KeepsLaunches s (setSector s sec x) := by
  unfold setSector
  split <;> exact ⟨rfl, rfl⟩

theorem setTimesAt_keeps {sec : Nat} {x : Nat × Nat} : KeepsLaunches s (setTimesAt s sec x) := by
  unfold setTimesAt
  split
  · exact ⟨rfl, rfl⟩
  · exact setSector_keeps

theorem sampleLine_keeps {gpn line : Nat} {hs : Bool} : KeepsLaunches s (sampleLine s gpn line hs) := by
  unfold sampleLine
  dsimp only
  split
  · exact (modHub_keeps.trans modAm_keeps).trans modTag_keeps
  · exact modHub_keeps.trans modAm_keeps

theorem writeBlock_keeps {b : Nat} : KeepsLaunches s (writeBlock s b) := ⟨rfl, rfl⟩

theorem writeBack_keeps {line : Nat} : KeepsLaunches s (writeBack s line) := by
  unfold writeBack
  dsimp only
  split
  · exact sampleLine_keeps.trans writeBlock_keeps
  · exact sampleLine_keeps

theorem grantLease_keeps {lo n f : Nat} : KeepsLaunches s (grantLease s lo n f).1 :=
  keepsLaunches_foldl (fun _ _ => setTimesAt_keeps) _ s

theorem stampRange_keeps {lo n ts : Nat} : KeepsLaunches s (stampRange s lo n ts) :=
  keepsLaunches_foldl (fun _ _ => setTimesAt_keeps) _ s

theorem writeBack_if_keeps {line : Nat} {c : Bool} : KeepsLaunches s (if c then writeBack s line else s) := by
  split
  · exact writeBack_keeps
  · exact ⟨rfl, rfl⟩

/-! ## Lines and pages that leave -/

theorem l1Put_keeps {l : L1Line} : KeepsLaunches s (l1Put s l) := ⟨rfl, rfl⟩

theorem giveTimes_keeps {l : L1Line} : KeepsLaunches s (giveTimes s l) :=
  keepsLaunches_foldl (fun _ _ => setSector_keeps) (List.range 4) s

theorem publishLine_keeps {line : Nat} : KeepsLaunches s (publishLine s line) := by
  unfold publishLine
  split
  · exact ⟨rfl, rfl⟩
  · exact giveTimes_keeps.trans l1Put_keeps

theorem publishPage_keeps {gpn : Nat} : KeepsLaunches s (publishPage s gpn) :=
  keepsLaunches_foldl (fun _ _ => publishLine_keeps) _ s

theorem evictLine_keeps {line : Nat} : KeepsLaunches s (evictLine s line) := by
  have aborted : KeepsLaunches s ((lineMarkers s line).foldl (fun s x => abortRegion s x 3 x) s) :=
    keepsLaunches_foldl (fun _ _ => abortRegion_keeps) _ s
  unfold evictLine
  extract_lets s1 _ _ _ s2 s3 s4 s5
  have marked : KeepsLaunches s1 s4 := ⟨rfl, rfl⟩
  have written : KeepsLaunches s4 s5 := writeBack_if_keeps
  exact ((aborted.trans marked).trans written).behind

theorem wakeWhere_keeps {p : WaitEntry → Bool} : KeepsLaunches s (wakeWhere s p) := by
  unfold wakeWhere
  refine (keepsLaunches_foldl (fun s w => ?_) _ _).before
  split <;> exact ⟨rfl, rfl⟩

theorem wakePage_keeps {gpn : Nat} : KeepsLaunches s (wakePage s gpn) :=
  wakeWhere_keeps.before

theorem wakeLine_keeps {line : Nat} : KeepsLaunches s (wakeLine s line) :=
  wakeWhere_keeps.before

theorem endTransit_keeps {gpn : Nat} : KeepsLaunches s (endTransit s gpn) := modAm_keeps

theorem dropPage_keeps {gpn : Nat} : KeepsLaunches s (dropPage s gpn) :=
  publishPage_keeps.trans (wakePage_keeps.before.trans endTransit_keeps)

theorem evictReplica_keeps {gpn : Nat} : KeepsLaunches s (evictReplica s gpn) :=
  (keepsLaunches_foldl (fun _ _ => abortRegion_keeps) _ s).trans dropPage_keeps

/-! ## Lines that come -/

theorem l2Room_keeps {line : Nat} : KeepsLaunches s (l2Room s line) := by
  unfold l2Room
  split
  · exact ⟨rfl, rfl⟩
  · dsimp only
    split
    · exact ⟨rfl, rfl⟩
    · split
      · exact evictLine_keeps.before
      · exact ⟨rfl, rfl⟩

theorem bringLine_keeps {line : Nat} {hs : Bool} : KeepsLaunches s (bringLine s line hs) := by
  unfold bringLine
  split
  · exact ⟨rfl, rfl⟩
  · exact sampleLine_keeps.trans l2Room_keeps.behind

theorem fillHere_keeps {pte : Word} {pa : Nat} : KeepsLaunches s (fillHere s pte pa) := by
  unfold fillHere
  dsimp only
  split
  · exact bringLine_keeps
  · exact ⟨rfl, rfl⟩

theorem l1Evict_keeps {core line : Nat} : KeepsLaunches s (l1Evict s core line) := by
  unfold l1Evict
  dsimp only
  split
  · exact ⟨rfl, rfl⟩
  · split
    · exact ⟨rfl, rfl⟩
    · rename_i v _
      have published : KeepsLaunches s (publishLine (s.modHub fun h => { h with draws := h.draws + 1 }) v.line) := publishLine_keeps.before
      exact published.behind

theorem l1Install_keeps {core lo n : Nat} {x : Option (Scope × Nat)} : KeepsLaunches s (l1Install s core lo n x) :=
  l1Evict_keeps.trans l1Put_keeps

theorem pinFill_keeps {line : Nat} : KeepsLaunches s (pinFill s line) := by
  unfold pinFill
  split
  · split
    · exact ⟨rfl, rfl⟩
    · exact l1Install_keeps
  · exact ⟨rfl, rfl⟩

theorem l1Update_keeps {core lo n : Nat} {was : Nat → Nat × Nat} {ws : List (Nat × List Byte)} :
    KeepsLaunches s (l1Update s core lo n was ws) := by
  unfold l1Update
  split
  · exact ⟨rfl, rfl⟩
  · split <;> exact ⟨rfl, rfl⟩

/-! ## Places of pages (R178, R187) -/

/-- A way that is free to take has been emptied. -/
theorem wayFor_free_keeps {gpn w : Nat} (h : wayFor s gpn = .free t w) : KeepsLaunches s t := by
  unfold wayFor at h
  dsimp only at h
  split at h
  · split at h <;> cases h
  · split at h
    · cases h
      exact ⟨rfl, rfl⟩
    · split at h
      · cases h
        exact evictReplica_keeps.before
      · cases h

theorem setPick_none_keeps {gpn : Nat} : KeepsLaunches s (setPick s gpn none) := by
  unfold setPick
  split <;> exact ⟨rfl, rfl⟩

theorem choosePlace_free_keeps {gpn w : Nat} (h : choosePlace s gpn = .free t w) : KeepsLaunches s t := by
  unfold choosePlace at h
  split at h
  · cases h
  · exact wayFor_free_keeps h

theorem placeFor_free_keeps {gpn w : Nat} (h : placeFor s gpn = .free t w) : KeepsLaunches s t := by
  unfold placeFor at h
  split at h
  · cases h
    exact ⟨rfl, rfl⟩
  · exact choosePlace_free_keeps h
  · split at h
    · exact setPick_none_keeps.trans (choosePlace_free_keeps h)
    · split at h
      · cases h
        exact setPick_none_keeps
      · split at h
        · cases h
        · exact setPick_none_keeps.trans (choosePlace_free_keeps h)

theorem fillFrame_keeps {x : Tag} {d : Memory} : KeepsLaunches s (fillFrame s x d) := by
  unfold fillFrame
  dsimp only
  split
  · generalize List.range 128 = blocks
    exact (keepsLaunches_foldl (fun _ _ => writeBlock_keeps) blocks _).before
  · exact ⟨rfl, rfl⟩

theorem raiseFloor_keeps {gpn floor : Nat} : KeepsLaunches s (raiseFloor s gpn floor) := ⟨rfl, rfl⟩

theorem settleCrown_keeps {gpn floor : Nat} {m : Option Nat} : KeepsLaunches s (settleCrown s gpn floor m) :=
  (modTag_keeps.trans raiseFloor_keeps).trans (modAm_keeps.trans endTransit_keeps)

theorem firstHere_free_keeps {gpn w : Nat} {comp : Bool} {m : Option Nat} (h : firstHere s gpn comp m = .free t w) : KeepsLaunches s t := by
  unfold firstHere at h
  split at h
  · rename_i place
    cases h
    exact (placeFor_free_keeps place).trans (fillFrame_keeps.trans settleCrown_keeps)
  · rename_i other
    exact absurd h (other _ _)

theorem dirAdd_keeps {e : DirEntry} (h : dirAdd s e = some t) : KeepsLaunches s t := by
  simp only [dirAdd, Option.map_eq_some_iff, makeRoom] at h
  obtain ⟨r, room, rfl⟩ := h
  have made : KeepsLaunches s r := by
    split at room
    · cases room
      exact ⟨rfl, rfl⟩
    · split at room
      · cases room
        exact ⟨rfl, rfl⟩
      · cases room
  split <;> exact made.behind

theorem touchHere_keeps {gpn : Nat} {pte : Word} : KeepsLaunches s (touchHere s gpn pte) := by
  unfold touchHere
  split
  · exact ⟨rfl, rfl⟩
  · split
    · rename_i place
      cases added : dirAdd (bumpStat _ 1) (newEntry gpn (aid s)) with
      | none => exact ⟨rfl, rfl⟩
      | some u => exact (firstHere_free_keeps place).trans (dirAdd_keeps added).before
    · exact ⟨rfl, rfl⟩

/-! ## Translations -/

theorem dropWalk_keeps {d c va : Nat} : KeepsLaunches s (dropWalk s d c va) := ⟨rfl, rfl⟩
theorem tlbFill_keeps {core c va : Nat} {pte : Word} : KeepsLaunches s (tlbFill s core c va pte) := ⟨rfl, rfl⟩
theorem hubFill_keeps {c va : Nat} {pte : Word} : KeepsLaunches s (hubFill s c va pte) := ⟨rfl, rfl⟩

theorem walkTimes_keeps {d c va : Nat} : KeepsLaunches s (walkTimes s d c va) := by
  unfold walkTimes
  extract_lets lt reads r
  have read : KeepsLaunches s r.1 := keepsLaunches_foldl_fst (fun _ _ => by exact grantLease_keeps) reads (s, lt)
  exact read.behind

theorem enterPage_keeps {core c va : Nat} {k : Xk} : KeepsLaunches s (enterPage s core c k va) := by
  unfold enterPage
  split
  · exact ⟨rfl, rfl⟩
  · dsimp only
    split
    · exact (dropWalk_keeps.trans walkTimes_keeps).trans tlbFill_keeps
    · exact dropWalk_keeps.trans walkTimes_keeps

theorem enterPte_keeps {p : Party} {c va : Nat} {k : Xk} : KeepsLaunches s (enterPte s p c va k) := by
  unfold enterPte
  split
  · exact enterPage_keeps
  · split
    · exact ⟨rfl, rfl⟩
    · dsimp only
      split
      · exact (dropWalk_keeps.trans walkTimes_keeps).trans hubFill_keeps
      · exact dropWalk_keeps.trans walkTimes_keeps

theorem enterPtes_keeps {p : Party} {c va n : Nat} {k : Xk} : KeepsLaunches s (enterPtes s p c va n k) :=
  keepsLaunches_foldl (fun _ _ => enterPte_keeps) _ s

/-! ## Stores -/

theorem noteWrite_keeps {lo n : Nat} : KeepsLaunches s (noteWrite s lo n) := by
  unfold noteWrite
  dsimp only
  split
  · split <;> exact ⟨rfl, rfl⟩
  · exact ⟨rfl, rfl⟩

theorem noteHost_keeps {lo n : Nat} {pte : Word} {wr : Bool} : KeepsLaunches s (noteHost s lo n pte wr) := by
  unfold noteHost
  split <;> exact ⟨rfl, rfl⟩

theorem performStore_keeps {core : Option Nat} {lo n f : Nat} {ws : List (Nat × List Byte)} :
    KeepsLaunches s (performStore s core lo n f ws).1 := by
  refine KeepsLaunches.trans ?_ wakeLine_keeps
  refine KeepsLaunches.trans ?_ (keepsLaunches_foldl (fun _ _ => l1Update_keeps) _ _)
  exact (pinFill_keeps.trans stampRange_keeps).trans noteWrite_keeps.before

theorem mirrorPiece_keeps {p : Party} {f : Nat} {x : Piece} {bs : List Byte} : KeepsLaunches s (mirrorPiece s p f x bs).1 := by
  unfold mirrorPiece mirrorFirst
  split
  · exact ⟨rfl, rfl⟩
  · split
    · exact ⟨rfl, rfl⟩
    · split <;> exact ⟨rfl, rfl⟩

theorem putPiece_keeps {p : Party} {f : Nat} {x : Piece} {bs : List Byte} : KeepsLaunches s (putPiece s p f x bs).1 := by
  unfold putPiece
  dsimp only
  split
  · exact mirrorPiece_keeps.trans (noteHost_keeps.trans performStore_keeps)
  · split
    · split <;> exact ⟨rfl, rfl⟩
    · exact noteHost_keeps.trans performStore_keeps

theorem raiseLt_keeps {p : Party} {v : Nat} : KeepsLaunches s (raiseLt s p v) := by
  cases p <;> exact ⟨rfl, rfl⟩

/-! ## Accesses that do not wait -/

/-- What an access leaves where it does not wait: it is performed, or it faults. -/
def Leaves (s : State) : Reach α → Prop
  | .done t _ | .fault t _ _ => KeepsLaunches s t
  | .wait _ => True

theorem Leaves.after {u : State} {r : Reach α} (h : KeepsLaunches s u) (hr : Leaves u r) : Leaves s r := by
  cases r with
  | wait => trivial
  | done | fault => exact h.trans hr

theorem remotePiece_leaves {p : Party} {x : Piece} {op : BitVec 8} {ty : Ty} {data cmp f : Nat} {wr : Bool} :
    Leaves s (remotePiece s p x op ty data cmp f wr) := by
  unfold remotePiece
  dsimp only
  split
  · split
    · split
      · exact ⟨rfl, rfl⟩
      · split
        · exact ⟨rfl, rfl⟩
        · trivial
    · trivial
  · split
    · split
      · exact ⟨rfl, rfl⟩
      · trivial
    · trivial

theorem pieceReady_leaves {p : Party} {gi : Option Nat} {who : Issuer} {wr : Bool} {f : Nat} {x : Piece} {d : Nat} :
    Leaves s (pieceReady s p gi who wr f x d) := by
  refine Leaves.after (touchHere_keeps.trans fillHere_keeps) (u := fillHere (touchHere s (pageOf x.pa) x.pte) x.pte x.pa) ?_
  unfold pieceReady
  dsimp only
  split
  · exact ⟨rfl, rfl⟩
  · split
    · split
      · exact ⟨rfl, rfl⟩
      · trivial
    · split
      · trivial
      · exact remotePiece_leaves
      · split
        · exact ⟨rfl, rfl⟩
        · split
          · trivial
          · exact ⟨rfl, rfl⟩

theorem readyAll_leaves {p : Party} {gi : Option Nat} {who : Issuer} {wr : Bool} {f : Nat} {xs : List (Piece × Nat)} :
    Leaves s (readyAll p gi who wr f s xs) := by
  induction xs generalizing s with
  | nil => exact ⟨rfl, rfl⟩
  | cons x r ih =>
    have first := pieceReady_leaves (s := s) (p := p) (gi := gi) (who := who) (wr := wr) (f := f) (x := x.1) (d := x.2)
    rw [readyAll]
    cases ready : pieceReady s p gi who wr f x.1 x.2 with
    | wait => trivial
    | fault =>
      rw [ready] at first
      exact first
    | done u =>
      rw [ready] at first
      exact Leaves.after first ih

theorem askDone_keeps {gpn : Nat} {who : Issuer} : KeepsLaunches s (askDone s gpn who) := modAm_keeps

theorem writePieces_leaves {p : Party} {gi : Option Nat} {who : Issuer} {f : Nat} {xs : List Piece} {bs : List Byte} :
    Leaves s (writePieces s p gi who f xs bs) := by
  have all := readyAll_leaves (s := s) (p := p) (gi := gi) (who := who) (wr := true) (f := f)
    (xs := (dealBytes xs bs).map fun d => (d.1, leNat d.2))
  unfold writePieces
  dsimp only
  split <;> rename_i ready <;> rw [ready] at all
  · trivial
  · exact all
  · rename_i u _
    have put : KeepsLaunches u ((dealBytes xs bs).foldl
        (fun (a : State × Nat) d => ((putPiece a.1 p f d.1 d.2).1, max a.2 (putPiece a.1 p f d.1 d.2).2)) (u, f)).1 :=
      keepsLaunches_foldl_fst (fun _ _ => by exact putPiece_keeps) (dealBytes xs bs) (u, f)
    exact (all.trans put).trans (keepsLaunches_foldl (fun _ _ => askDone_keeps) _ _)

/-! The functions below match on the pages of a range. Unfolded at their arguments, the kernel evaluates that match; unfolded as functions
they cost it nothing, so each is named, unfolded and put in. -/

theorem tablesFor_leaves {p : Party} {c va n : Nat} {k : Xk} {who : Issuer} : Leaves s (tablesFor s p c k who va n) := by
  generalize unfolded : tablesFor = f
  delta tablesFor at unfolded
  subst unfolded
  beta_reduce
  extract_lets misses die
  clear_value misses die
  split
  · split
    · trivial
    · exact ⟨rfl, rfl⟩
  · split
    · exact dropWalk_keeps
    · dsimp only
      split <;> trivial

theorem writeAsParty_leaves {p : Party} {c va : Nat} {who : Issuer} {bs : List Byte} : Leaves s (writeAsParty s p c who va bs) := by
  have tables := tablesFor_leaves (s := s) (p := p) (c := c) (k := .write) (who := who) (va := va) (n := bs.length)
  generalize unfolded : writeAsParty = f
  delta writeAsParty at unfolded
  subst unfolded
  dsimp only
  split <;> rename_i walked <;> rw [walked] at tables
  · trivial
  · exact tables
  · refine Leaves.after tables ?_
    split
    · exact ⟨rfl, rfl⟩
    · rename_i u _ _ xs _
      have written := writePieces_leaves (s := enterPtes u p c va bs.length .write) (p := p) (gi := none) (who := who)
        (f := partyLt u p) (xs := xs) (bs := bs)
      split <;> rename_i wrote <;> rw [wrote] at written
      · trivial
      · exact enterPtes_keeps.trans written
      · exact (enterPtes_keeps.trans written).trans raiseLt_keeps

/-- A STATUS that is written, or dropped, leaves every launch and every context as it was (R255). -/
theorem writeStatus_keeps {c va st : Nat} (h : writeStatus s c va st = .done t ()) : KeepsLaunches s t := by
  have write := writeAsParty_leaves (s := s) (p := .cp) (c := c) (who := .cpRead (16 * c) va) (va := va + 6) (bs := [BitVec.ofNat 8 st])
  generalize unfolded : writeStatus = f at h
  delta writeStatus at unfolded
  subst unfolded
  dsimp only at h
  generalize writeAsParty s .cp c (.cpRead (16 * c) va) (va + 6) [BitVec.ofNat 8 st] = r at h write
  cases r with
  | wait => cases h
  | done | fault =>
    cases h
    exact write

end Sys2Proof.Proofs
end

section
/-! SUPPORT. Teams, blocks, barriers, and the end of groups, teams and launches: what each turn of the CP and of a core makes of the state. -/

namespace Sys2Proof.Proofs

open Sys2Proof Sys2Proof.Machine

variable {s t : State} {i j k gi ti n l : Nat} {x : Team} {b : Barrier}

/-! ## Entries of the tables -/

theorem modTeam_teams_same {f : Team → Team} (h : s.teams[i]? = some x) : (s.modTeam i f).teams[i]? = some (f x) := by
  simp [h]

theorem modLaunch_launches_same {f : Launch → Launch} {y : Launch} (h : s.launches[l]? = some y) :
    (s.modLaunch l f).launches[l]? = some (f y) := by
  simp [h]

theorem modGroup_groups_same {f : Group → Group} (h : gi < s.groups.length) : (s.modGroup gi f).groups[gi]? = some (f (groupAt s gi)) := by
  simp [groupAt, List.getD_eq_getElem?_getD, h]

theorem getD_of_getElem? {α : Type} {d y : α} {ys : List α} (h : ys[i]? = some y) : ys.getD i d = y := by
  simp [List.getD_eq_getElem?_getD, h]

theorem getElem?_getD_of_lt {α : Type} {d : α} {ys : List α} (h : i < ys.length) : ys[i]? = some (ys.getD i d) := by
  simp [List.getD_eq_getElem?_getD, h]

theorem getD_mem_of_lt {α : Type} {d : α} {ys : List α} (h : i < ys.length) : ys.getD i d ∈ ys :=
  List.mem_of_getElem? (getElem?_getD_of_lt h)

/-! ## Placement (R31, R264 to R266) -/

theorem execTeamPlace_first (here : placeable s i = true) (one : ∀ t ∈ s.teams, t.placed ≠ s.cycle + 1)
    (first : ∀ j, j < s.teams.length → placeable s j = true → teamRank s i ≤ teamRank s j) : execTeamPlace i s = .next (placeTeam s i) := by
  refine if_neg ?_
  simp only [List.any_eq_true, beq_iff_eq, List.mem_range, Bool.and_eq_true, decide_eq_true_eq, here, Bool.not_true, Bool.false_eq_true,
    false_or, not_or, not_exists, not_and]
  exact ⟨one, fun j hj hp => Nat.not_lt.mpr (first j hj hp)⟩

section
variable (good : (s.launches.getD (s.teams.getD i default).launch default).bad = none)
include good

theorem placeTeam_mem : (placeTeam s i).mem = s.mem := by
  simp only [placeTeam, good]
  rfl

/-- The placed team stands on the core it was dealt to, with the next groups of the machine and empty team SRAM. -/
theorem placeTeam_team (hi : i < s.teams.length) :
    let x := s.teams.getD i default
    let r := (s.launches.getD x.launch default).record
    (placeTeam s i).teams[i]? = some { x with
      state := .resident, core := x.dealt, groups := (List.range r.groups.toNat).map (s.groups.length + ·), sram := [], rows := []
      cims := freshCims r, placed := s.cycle + 1 } := by
  intro x r
  simp only [placeTeam, good]
  exact modTeam_teams_same (getElem?_getD_of_lt hi)

/-- Group `j` of the placed team starts fresh in quadrant `j mod 4` of its core. -/
theorem placeTeam_group :
    let x := s.teams.getD i default
    let y := s.launches.getD x.launch default
    let im := s.images.getD y.image default
    j < y.record.groups.toNat → ∃ pos width lanes, (placeTeam s i).groups[s.groups.length + j]? =
      some (freshGroup i j (4 * physOf s x.dealt + j % 4) pos width lanes im.va (im.va + im.sofs) y.image y.lambda) := by
  intro x y im hj
  have seat : (seats s x.dealt y.record.groups.toNat).zipIdx[j]? =
      some ((4 * physOf s x.dealt + j % 4, (freePos s x.dealt (j % 4)).getD (j / 4) 0), j) := by
    simp [seats, hj]
  refine ⟨(freePos s x.dealt (j % 4)).getD (j / 4) 0, y.record.width.toNat,
    if y.record.lanes = 0 then y.record.width.toNat * y.record.groups.toNat else y.record.lanes.toNat, ?_⟩
  simp only [placeTeam, good, State.modTeam_groups]
  rw [List.getElem?_append_right (Nat.le_add_right _ _), Nat.add_sub_cancel_left, List.getElem?_map, seat]
  rfl

end

/-- Registers s1 to s47 of a fresh group read 0 (R31). -/
theorem sreg_freshGroup_zero {team gid quad pos width lanes va entry image lt r : Nat} (h0 : 0 < r) (h : r < 48) :
    sreg (freshGroup team gid quad pos width lanes va entry image lt) r = 0 := by
  obtain ⟨m, rfl⟩ : ∃ m, r = m + 1 := ⟨r - 1, by omega⟩
  show (List.replicate 47 (0 : Word)).getD m 0 = 0
  rw [List.getD_replicate _ (by omega)]

theorem teamsPlaced : Claim.TeamsPlaced := by
  intro s i hi x y im
  refine ⟨fun here one first good => ?_, fun k core n u hk hu => ?_⟩
  · refine ⟨_, _, execTeamPlace_first here one first, placeTeam_team good hi, rfl, rfl, rfl, rfl, placeTeam_mem good, fun j hj => ?_⟩
    obtain ⟨pos, width, lanes, group⟩ := placeTeam_group good hj
    exact ⟨_, group, rfl, rfl, rfl, rfl, rfl, rfl, fun r h0 h => sreg_freshGroup_zero h0 h, rfl, rfl, rfl⟩
  · exact congrArg _ (if_pos (by simp [hk, hu]))

/-! ## Lane blocks (R24) -/

theorem startBlock_of_live {g : Group} {b : Block} (h : liveLanes g ≠ 0) : startBlock g b =
    { g with
      block := some b, queue := g.queue.drop 1, p1 := none, llt := max g.llt b.lt, last1 := false, lwait := false
      p0 := { lpc := b.lofs, exec := liveLanes g, laneSet := liveLanes g, stack := [], look := [], arrived := false } } :=
  if_neg h

theorem execLaneBlockStart_starts {b : Block} {r : List Block} (free : Claim.Free s gi) (idle : (groupAt s gi).block = none)
    (queue : (groupAt s gi).queue = b :: r) : execLaneBlockStart gi s = .next (s.modGroup gi fun g => startBlock g b) := by
  obtain ⟨pend, retired, saved, reached, unasked⟩ := free
  unfold execLaneBlockStart
  simp only [queue]
  refine if_neg ?_
  simp [idle, pend, retired, saved, reached, unasked]

theorem blocksStart (s : State) (gi : Nat) (b : Block) (r : List Block) (hgi : gi < s.groups.length) (free : Claim.Free s gi)
    (idle : (groupAt s gi).block = none) (queue : (groupAt s gi).queue = b :: r) (live : liveLanes (groupAt s gi) ≠ 0) :
    ∃ t h, exec (.laneBlockStart gi) s = .next t ∧ t.groups[gi]? = some h ∧ h.block = some b ∧ h.queue = r ∧ h.p0.lpc = b.lofs ∧
      h.p0.exec = liveLanes (groupAt s gi) ∧ h.p0.stack = [] ∧ h.p1 = none ∧ h.llt = max (groupAt s gi).llt b.lt ∧
      h.lanes = (groupAt s gi).lanes ∧ h.s = (groupAt s gi).s ∧ t.mem = s.mem := by
  refine ⟨_, _, execLaneBlockStart_starts free idle queue, modGroup_groups_same hgi, ?_⟩
  rw [startBlock_of_live live]
  exact ⟨rfl, by simp [queue], rfl, rfl, rfl, rfl, rfl, rfl, rfl, rfl⟩

/-! ## Barriers (R277, R278) -/

/-- Team `j` is one whose barrier of a level is released with team or die `d` of launch `l`. -/
def memberOf (s : State) (l d level j : Nat) : Bool :=
  let o := s.teams.getD j default
  o.launch == l && o.state != .retired && (match level with | 0 => j == d | 1 => dieOf s o.dealt == d | _ => true)

/-- A group that names its team alone, as a barrier is looked up for a team. -/
def ofTeam (ti : Nat) : Group := { (default : Group) with team := ti }

variable {d level : Nat}

theorem memberOf_team_iff : memberOf s l d 0 j = true ↔
    (s.teams.getD j default).launch = l ∧ (s.teams.getD j default).state ≠ .retired ∧ j = d := by
  simp [memberOf, and_assoc]

theorem memberOf_crew_iff : memberOf s l d 1 j = true ↔
    (s.teams.getD j default).launch = l ∧ (s.teams.getD j default).state ≠ .retired ∧ dieOf s (s.teams.getD j default).dealt = d := by
  simp [memberOf, and_assoc]

theorem memberOf_launch_iff : memberOf s l d 2 j = true ↔
    (s.teams.getD j default).launch = l ∧ (s.teams.getD j default).state ≠ .retired := by
  simp [memberOf]

/-- The barrier of a member takes in members only. -/
theorem memberOf_of_mem_levelTeams (hti : ti < s.teams.length) (member : memberOf s l d level ti = true) (h : j ∈ levelTeams s ti level) :
    j < s.teams.length ∧ memberOf s l d level j = true := by
  match level with
  | 0 =>
    rw [List.mem_singleton.mp h]
    exact ⟨hti, member⟩
  | 1 =>
    obtain ⟨launch, -, die⟩ := memberOf_crew_iff.mp member
    obtain ⟨hj, same⟩ := List.mem_filter.mp h
    simp only [Bool.and_eq_true, beq_iff_eq, bne_iff_ne] at same
    obtain ⟨⟨launch', die'⟩, live⟩ := same
    exact ⟨List.mem_range.mp hj, memberOf_crew_iff.mpr ⟨launch'.trans launch, live, die'.trans die⟩⟩
  | k + 2 =>
    have of_launch {i : Nat} : memberOf s l d (k + 2) i = memberOf s l d 2 i := rfl
    rw [of_launch] at member ⊢
    obtain ⟨launch, -⟩ := memberOf_launch_iff.mp member
    obtain ⟨hj, same⟩ := List.mem_filter.mp h
    simp only [Bool.and_eq_true, beq_iff_eq, bne_iff_ne] at same
    obtain ⟨launch', live⟩ := same
    exact ⟨List.mem_range.mp hj, memberOf_launch_iff.mpr ⟨launch'.trans launch, live⟩⟩

/-- A barrier at which every group of every member has arrived is released. -/
theorem barrierRelease_releases (members : ∃ j, j < s.teams.length ∧ memberOf s l d level j = true)
    (bar : ∀ j, memberOf s l d level j = true → barrierOf s (ofTeam j) level = b) (arrived : b.arrived ≠ [])
    (all : ∀ j, j < s.teams.length → memberOf s l d level j = true → (s.teams.getD j default).groups ≠ [] ∧
      ∀ gi ∈ (s.teams.getD j default).groups, (groupAt s gi).retired = true ∨ gi ∈ b.arrived) :
    ∃ ti, ti < s.teams.length ∧ memberOf s l d level ti = true ∧
      exec (.barrierRelease l d level) s = .next (modBarrier s (ofTeam ti) level releaseBarrier) := by
  obtain ⟨j, hj, member⟩ := members
  show ∃ ti, ti < s.teams.length ∧ memberOf s l d level ti = true ∧
    execBarrierRelease l d level s = .next (modBarrier s (ofTeam ti) level releaseBarrier)
  unfold execBarrierRelease
  dsimp only
  split
  · rename_i nobody
    have empty : (List.range s.teams.length).filter (memberOf s l d level) = [] := List.head?_eq_none_iff.mp nobody
    have : j ∈ (List.range s.teams.length).filter (memberOf s l d level) := List.mem_filter.mpr ⟨List.mem_range.mpr hj, member⟩
    simp [empty] at this
  · rename_i ti first
    have : ti ∈ (List.range s.teams.length).filter (memberOf s l d level) := List.mem_of_head? first
    obtain ⟨hti, member⟩ := List.mem_filter.mp this
    have hti := List.mem_range.mp hti
    have here : allArrived s ti level b = true := by
      have others : ∀ k ∈ levelTeams s ti level, (s.teams.getD k default).groups ≠ [] ∧
          ∀ gi ∈ (s.teams.getD k default).groups, (groupAt s gi).retired = true ∨ gi ∈ b.arrived := fun k hk =>
        have ⟨hk, kmember⟩ := memberOf_of_mem_levelTeams hti member hk
        all k hk kmember
      simpa [allArrived, arrived] using others
    exact ⟨ti, hti, member, congrArg _ (if_pos (by rw [← bar ti member] at here; exact here))⟩

theorem teamBarrierReleased (s : State) (l i : Nat) (x : Team) (hx : s.teams[i]? = some x) (launch : x.launch = l) (resident : x.state = .resident)
    (groups : x.groups ≠ []) (arrived : x.bar.arrived ≠ []) (all : ∀ gi ∈ x.groups, (groupAt s gi).retired = true ∨ gi ∈ x.bar.arrived) :
    ∃ t y, exec (.barrierRelease l i 0) s = .next t ∧ t.teams[i]? = some y ∧ y.bar = ⟨x.bar.gen + 1, [], 0, x.bar.lt⟩ ∧
      t.groups = s.groups ∧ t.launches = s.launches ∧ t.mem = s.mem := by
  have at_ : s.teams.getD i default = x := getD_of_getElem? hx
  have only {j : Nat} (h : memberOf s l i 0 j = true) : j = i := (memberOf_team_iff.mp h).2.2
  obtain ⟨j, -, member, run⟩ := barrierRelease_releases (s := s) (l := l) (d := i) (level := 0) (b := x.bar)
    ⟨i, (List.getElem?_eq_some_iff.mp hx).1, memberOf_team_iff.mpr (by simp [hx, launch, resident])⟩
    (fun j hj => by rw [only hj, ← at_]; rfl) arrived (fun j _ hj => by rw [only hj, at_]; exact ⟨groups, all⟩)
  rw [only member] at run
  exact ⟨_, _, run, modTeam_teams_same hx, rfl, rfl, rfl, rfl⟩

section
variable {g : Group} {f : Barrier → Barrier} {y : Launch}

theorem barrierOf_crew : barrierOf s g 1 = (launchOf s g).crew.getD (dieOf s (teamOf s g).dealt) default := rfl
theorem barrierOf_launch : barrierOf s g 2 = (launchOf s g).bar := rfl
theorem modBarrier_crew : modBarrier s g 1 f =
    s.modLaunch (launchIx s g) fun l => { l with crew := l.crew.modify (dieOf s (teamOf s g).dealt) f } := rfl
theorem modBarrier_launch : modBarrier s g 2 f = s.modLaunch (launchIx s g) fun l => { l with bar := f l.bar } := rfl

theorem launchIx_ofTeam (h : (s.teams.getD j default).launch = l) : launchIx s (ofTeam j) = l := h

theorem launchOf_ofTeam (hy : s.launches[l]? = some y) (h : (s.teams.getD j default).launch = l) : launchOf s (ofTeam j) = y := by
  rw [launchOf, launchIx_ofTeam h, getD_of_getElem? hy]

theorem launchBarrierReleased (hy : s.launches[l]? = some y) (arrived : y.bar.arrived ≠ [])
    (members : ∃ x ∈ s.teams, x.launch = l ∧ x.state ≠ .retired)
    (all : ∀ x ∈ s.teams, x.launch = l → x.state ≠ .retired →
      x.groups ≠ [] ∧ ∀ gi ∈ x.groups, (groupAt s gi).retired = true ∨ gi ∈ y.bar.arrived) :
    ∃ t z, exec (.barrierRelease l d 2) s = .next t ∧ t.launches[l]? = some z ∧ z.bar = ⟨y.bar.gen + 1, [], 0, y.bar.lt⟩ ∧
      t.groups = s.groups ∧ t.teams = s.teams ∧ t.mem = s.mem := by
  obtain ⟨x, mem, launch, live⟩ := members
  obtain ⟨i, hi, rfl⟩ := List.getElem_of_mem mem
  obtain ⟨j, -, member, run⟩ := barrierRelease_releases (s := s) (l := l) (d := d) (level := 2) (b := y.bar)
    ⟨i, hi, memberOf_launch_iff.mpr (by simp [hi, launch, live])⟩
    (fun j hj => by rw [barrierOf_launch, launchOf_ofTeam hy (memberOf_launch_iff.mp hj).1]) arrived
    (fun j hj hm => by
      obtain ⟨launch, live⟩ := memberOf_launch_iff.mp hm
      exact all _ (getD_mem_of_lt hj) launch live)
  rw [modBarrier_launch, launchIx_ofTeam (memberOf_launch_iff.mp member).1] at run
  exact ⟨_, _, run, modLaunch_launches_same hy, rfl, rfl, rfl, rfl⟩

theorem crewBarrierReleased (hy : s.launches[l]? = some y) (hb : y.crew[d]? = some b) (arrived : b.arrived ≠ [])
    (members : ∃ x ∈ s.teams, x.launch = l ∧ x.state ≠ .retired ∧ dieOf s x.dealt = d)
    (all : ∀ x ∈ s.teams, x.launch = l → x.state ≠ .retired → dieOf s x.dealt = d →
      x.groups ≠ [] ∧ ∀ gi ∈ x.groups, (groupAt s gi).retired = true ∨ gi ∈ b.arrived) :
    ∃ t z, exec (.barrierRelease l d 1) s = .next t ∧ t.launches[l]? = some z ∧ z.crew[d]? = some ⟨b.gen + 1, [], 0, b.lt⟩ ∧
      t.groups = s.groups ∧ t.teams = s.teams ∧ t.mem = s.mem := by
  obtain ⟨x, mem, launch, live, die⟩ := members
  obtain ⟨i, hi, rfl⟩ := List.getElem_of_mem mem
  obtain ⟨j, -, member, run⟩ := barrierRelease_releases (s := s) (l := l) (d := d) (level := 1) (b := b)
    ⟨i, hi, memberOf_crew_iff.mpr (by simp [hi, launch, live, die])⟩
    (fun j hj => by
      obtain ⟨launch, -, die⟩ := memberOf_crew_iff.mp hj
      have die : dieOf s (teamOf s (ofTeam j)).dealt = d := die
      rw [barrierOf_crew, launchOf_ofTeam hy launch, die, getD_of_getElem? hb]) arrived
    (fun j hj hm => by
      obtain ⟨launch, live, die⟩ := memberOf_crew_iff.mp hm
      exact all _ (getD_mem_of_lt hj) launch live die)
  obtain ⟨launch, -, die⟩ := memberOf_crew_iff.mp member
  have die : dieOf s (teamOf s (ofTeam j)).dealt = d := die
  rw [modBarrier_crew, launchIx_ofTeam launch, die] at run
  exact ⟨_, _, run, modLaunch_launches_same hy, by simp [hb, releaseBarrier], rfl, rfl, rfl⟩

end

theorem blocksAndBarriers : Claim.BlocksAndBarriers :=
  ⟨blocksStart, teamBarrierReleased, fun _ _ _ _ _ hy => ⟨launchBarrierReleased hy, crewBarrierReleased hy⟩⟩

/-! ## The end of groups and teams (R256, R266, R276) -/

/-- Between `s` and `t` nothing has moved but barriers of teams and launches. -/
structure OnlyBarriers (s t : State) : Prop where
  rest     : t = { s with teams := t.teams, launches := t.launches }
  teams    : ∀ (i : Nat) (x : Team), s.teams[i]? = some x → ∃ b, t.teams[i]? = some { x with bar := b }
  launches : ∀ (i : Nat) (x : Launch), s.launches[i]? = some x → ∃ c b, t.launches[i]? = some { x with crew := c, bar := b }

theorem OnlyBarriers.refl : OnlyBarriers s s :=
  ⟨rfl, fun _ x h => ⟨x.bar, h⟩, fun _ x h => ⟨x.crew, x.bar, h⟩⟩

theorem OnlyBarriers.trans {u : State} (h : OnlyBarriers s t) (h' : OnlyBarriers t u) : OnlyBarriers s u := by
  refine ⟨?_, fun i x hx => ?_, fun i x hx => ?_⟩
  · rw [h'.rest, h.rest]
  · obtain ⟨b, hb⟩ := h.teams i x hx
    obtain ⟨b', hb'⟩ := h'.teams i _ hb
    exact ⟨b', hb'⟩
  · obtain ⟨c, b, hb⟩ := h.launches i x hx
    obtain ⟨c', b', hb'⟩ := h'.launches i _ hb
    exact ⟨c', b', hb'⟩

theorem modBarrier_onlyBarriers {g : Group} {f : Barrier → Barrier} : OnlyBarriers s (modBarrier s g level f) := by
  have launches {f : Launch → Launch} (hf : ∀ y, ∃ c b, f y = { y with crew := c, bar := b }) (l : Nat) :
      OnlyBarriers s (s.modLaunch l f) := by
    refine ⟨rfl, fun _ x h => ⟨x.bar, h⟩, fun i x h => ?_⟩
    obtain ⟨c, b, hcb⟩ := hf x
    by_cases hi : l = i
    · subst hi
      exact ⟨c, b, hcb ▸ modLaunch_launches_same h⟩
    · exact ⟨x.crew, x.bar, by simp [hi, h]⟩
  match level with
  | 0 =>
    refine ⟨rfl, fun i x h => ?_, fun _ x h => ⟨x.crew, x.bar, h⟩⟩
    by_cases hi : g.team = i
    · subst hi
      exact ⟨f x.bar, modTeam_teams_same h⟩
    · exact ⟨x.bar, by simp [modBarrier, hi, h]⟩
  | 1 => exact launches (fun y => ⟨_, y.bar, rfl⟩) _
  | _ + 2 => exact launches (fun y => ⟨y.crew, _, rfl⟩) _

theorem leaveBarriers_onlyBarriers {g : Group} : OnlyBarriers s (leaveBarriers s g) := by
  have leaves (s : State) (level : Nat) : OnlyBarriers s (if allArrived s g.team level (barrierOf s g level) then
      modBarrier s g level fun b => { b with lt := max b.lt g.slt } else s) := by
    split
    · exact modBarrier_onlyBarriers
    · exact .refl
  exact ((leaves _ 0).trans (leaves _ 1)).trans (leaves _ 2)

theorem startClear_pos {core : Nat} (h : n ≠ 0) :
    startClear s core n = { s with clears := s.clears ++ [(core, n, s.now + ceilDiv n 4096)] } :=
  if_neg h

/-- What becomes of a team with its last group. -/
theorem retireTeam_spec {y : Launch} {r : Record} (hx : s.teams[ti]? = some x) (hy : s.launches[x.launch]? = some y) (hr : y.record = r) :
    (retireTeam s ti).mem = s.mem ∧ (retireTeam s ti).groups = s.groups ∧
      (retireTeam s ti).teams[ti]? = some { x with state := .retired, sram := [], rows := [], chans := List.replicate 8 [], cims := [] } ∧
      (retireTeam s ti).launches[x.launch]? = some { y with left := y.left - 1 } ∧
      (retireTeam s ti).clears = (startClear s x.core r.sram.toNat).clears := by
  subst hr
  have at_ : s.teams.getD ti default = x := getD_of_getElem? hx
  have record : recordOf s x = y.record := by rw [recordOf, getD_of_getElem? hy]
  have cleared : ∃ c, startClear s x.core y.record.sram.toNat = { s with clears := c } := by
    unfold startClear
    split
    · exact ⟨s.clears, rfl⟩
    · exact ⟨_, rfl⟩
  obtain ⟨c, hc⟩ := cleared
  unfold retireTeam
  simp only [at_, record, hc]
  exact ⟨rfl, rfl, by simp [hx], by simp [hy], rfl⟩

/-- The group has retired, and has left its launch its time. -/
def groupLeft (s : State) (gi : Nat) : State :=
  let g := groupAt s gi
  let s := s.modGroup gi fun g => { g with retired := true, exiting := false }
  s.modLaunch (launchIx s g) fun l => { l with maxLt := max l.maxLt g.slt }

/-- It has left its barriers as well. -/
def groupGone (s : State) (gi : Nat) : State := leaveBarriers (groupLeft s gi) (groupAt s gi)

theorem execGroupRetire_quiet (exiting : (groupAt s gi).exiting = true) (live : (groupAt s gi).retired = false)
    (pend : (groupAt s gi).pend = none) (blocks : blocksOutstanding (groupAt s gi) = false) (sets : ∀ a ∈ s.sets, ofGroup gi a = false)
    (copy : (groupAt s gi).copy.cmds = []) (fabric : (groupAt s gi).fabric.cmds = []) (region : (groupAt s gi).region = none) :
    execGroupRetire gi s = .next
      (if (teamOf (groupGone s gi) (groupAt s gi)).groups.all fun k => (groupAt (groupGone s gi) k).retired then
        retireTeam (groupGone s gi) (groupAt s gi).team else groupGone s gi) := by
  have quiet : s.sets.any (ofGroup gi) = false := by simpa using sets
  unfold execGroupRetire
  extract_lets g
  rw [if_neg]
  · rfl
  · simp [g, exiting, live, pend, blocks, quiet, cmdsLeft, copy, fabric, region]

theorem groupRetires (s : State) (gi : Nat) (hgi : gi < s.groups.length) (hti : (groupAt s gi).team < s.teams.length) :
    let g := groupAt s gi
    let x := teamOf s g
    g.exiting = true → g.retired = false → g.pend = none → blocksOutstanding g = false → (∀ a ∈ s.sets, ofGroup gi a = false) →
    g.copy.cmds = [] → g.fabric.cmds = [] → g.region = none → x.groups = [gi] → x.launch < s.launches.length →
    ∃ t h y, exec (.groupRetire gi) s = .next t ∧ t.groups[gi]? = some h ∧ h.retired = true ∧ h.exiting = false ∧
      t.teams[g.team]? = some y ∧ y.state = .retired ∧ y.sram = [] ∧ y.chans = List.replicate 8 [] ∧ t.mem = s.mem ∧
      (t.launches.getD x.launch default).left = (s.launches.getD x.launch default).left - 1 ∧
      ((recordOf s x).sram.toNat ≠ 0 → t.clears = s.clears ++ [(x.core, (recordOf s x).sram.toNat,
        s.now + ceilDiv (recordOf s x).sram.toNat 4096)]) := by
  intro g x exiting live pend blocks sets copy fabric region alone hl
  have left : OnlyBarriers (groupLeft s gi) (groupGone s gi) := leaveBarriers_onlyBarriers
  have gone : (groupGone s gi).groups[gi]? = some { g with retired := true, exiting := false } := by
    rw [left.rest]
    exact modGroup_groups_same hgi
  obtain ⟨b, team⟩ := left.teams g.team x (getElem?_getD_of_lt hti)
  obtain ⟨c, b', launch⟩ := left.launches x.launch _ (modLaunch_launches_same (getElem?_getD_of_lt hl))
  obtain ⟨mem, groups, team', launch', clears⟩ := retireTeam_spec (r := recordOf s x) team launch rfl
  have last : ((teamOf (groupGone s gi) g).groups.all fun k => (groupAt (groupGone s gi) k).retired) = true := by
    rw [teamOf, getD_of_getElem? team]
    simp [alone, groupAt_of_getElem? gone]
  have run : exec (.groupRetire gi) s = .next (retireTeam (groupGone s gi) g.team) := by
    show execGroupRetire gi s = _
    rw [execGroupRetire_quiet exiting live pend blocks sets copy fabric region, if_pos last]
  have group' : (retireTeam (groupGone s gi) g.team).groups[gi]? = some { g with retired := true, exiting := false } := by rw [groups, gone]
  refine ⟨_, _, _, run, group', rfl, rfl, team', rfl, rfl, rfl, ?memory, ?left, fun held => ?cleared⟩
  case memory =>
    rw [mem, left.rest]
    rfl
  case left =>
    rw [getD_of_getElem? launch']
    rfl
  case cleared =>
    rw [clears, startClear_pos held, left.rest]
    rfl

/-! ## The end of launches (R252, R256) -/

/-- The next record of the timeline moves DONE to its number. -/
theorem lqFinish_next {q : LaunchQ} (fin : q.fin = []) (next : q.done.toNat + 1 = n) : (lqFinish q n).done = w64 n := by
  subst next
  simp [lqFinish, fin]

theorem freeFamily_keeps : KeepsLaunches s (freeFamily s l) := by
  unfold freeFamily
  dsimp only
  split
  · unfold freeShadows
    exact modAm_keeps
  · exact ⟨rfl, rfl⟩

/-- The launch has retired, and its record counts as retired in its queue. -/
def launchGone (s : State) (l : Nat) (x : Launch) : State :=
  freeFamily (finishRecord (s.modLaunch l fun x => { x with retired := true }) x.ctx x.queue) l

theorem execLaunchRetire_status {s1 : State} {y : Launch} (hy : s.launches[l]? = some y) (live : y.retired = false) (empty : y.left = 0)
    (queued : y.builder = none) (status : writeStatus s y.ctx y.recVa 1 = .done s1 ()) :
    execLaunchRetire l s = .next (launchGone s1 l y) := by
  simp [execLaunchRetire, hy, live, empty, queued, status, launchGone]

theorem launchRetires (s s1 : State) (l : Nat) (x : Launch) (q n : Nat) (hx : s.launches[l]? = some x) (live : x.retired = false)
    (empty : x.left = 0) (built : x.builder = none) (queue : x.queue = some (q, n)) (hc : x.ctx < s.ctxs.length)
    (hq : q < (ctxAt s x.ctx).queues.length) (fin : (lqAt s x.ctx q).fin = []) (next : (lqAt s x.ctx q).done.toNat + 1 = n)
    (status : writeStatus s x.ctx x.recVa 1 = .done s1 ()) :
    ∃ t y, exec (.launchRetire l) s = .next t ∧ t.launches[l]? = some y ∧ y.retired = true ∧ (lqAt t x.ctx q).done = w64 n := by
  have written := writeStatus_keeps status
  have freed : KeepsLaunches (modLq (s1.modLaunch l fun x => { x with retired := true }) x.ctx q fun y => lqFinish y n) (launchGone s1 l x) := by
    rw [launchGone, queue]
    exact freeFamily_keeps
  have ctx : ctxAt s1 x.ctx = ctxAt s x.ctx := by rw [ctxAt, written.ctxs, ctxAt]
  refine ⟨_, { x with retired := true }, execLaunchRetire_status hx live empty built status, ?_, rfl, ?_⟩
  · rw [freed.launches]
    exact modLaunch_launches_same (written.launches ▸ hx)
  · have lq : lqAt (launchGone s1 l x) x.ctx q = lqFinish (lqAt s x.ctx q) n := by
      rw [lqAt, ctxAt, freed.ctxs, ← ctxAt, ← lqAt, lqAt_modLq_same _ (by simpa [written.ctxs] using hc) (by rw [← ctx] at hq; exact hq)]
      exact congrArg (fun c : Ctx => lqFinish (c.queues.getD q LaunchQ.reset) n) ctx
    rw [lq, lqFinish_next fin next]

theorem groupsAndLaunchesRetire : Claim.GroupsAndLaunchesRetire :=
  ⟨groupRetires, launchRetires⟩

/-- Settles O42: placement, block start and release are one update each where their conditions hold; a retiring group only moves barriers
before its team goes; the write of STATUS keeps every launch and context (`writeStatus_keeps`), so the record's place in its queue stands. -/
theorem teamsAndGroups : Obligations.TeamsAndGroups :=
  ⟨teamsPlaced, blocksAndBarriers, groupsAndLaunchesRetire⟩

end Sys2Proof.Proofs
end

section
/-! SUPPORT. Scalar words: what the fields of an encoded word read as, and a word put together again from its fields. -/

namespace Sys2Proof.Proofs

open Sys2Proof Sys2Proof.Machine

variable {i : Instr} {w : W32} {op op' : BitVec 6} {d a b d' a' b' : SReg} {fn fn' : BitVec 8} {imm : BitVec 14} {k : Nat}

/-! ## Fields as numbers -/

theorem toNat_append_add {n m : Nat} (x : BitVec n) (y : BitVec m) : (x ++ y).toNat = x.toNat * 2 ^ m + y.toNat := by
  rw [BitVec.toNat_append, ← Nat.shiftLeft_add_eq_or_of_lt y.isLt, Nat.shiftLeft_eq]

theorem field_toNat {n : Nat} (x : BitVec n) (lo k : Nat) : (x.extractLsb' lo k).toNat = x.toNat / 2 ^ lo % 2 ^ k := by
  rw [BitVec.extractLsb'_toNat, Nat.shiftRight_eq_div_pow]

theorem field_eq {n lo : Nat} {x : BitVec n} {y : BitVec k} (h : x.toNat / 2 ^ lo % 2 ^ k = y.toNat) : x.extractLsb' lo k = y :=
  BitVec.eq_of_toNat_eq (by rw [field_toNat, h])

theorem field_free {n lo : Nat} {x : BitVec n} (h : x.extractLsb' lo k = 0) : x.toNat / 2 ^ lo % 2 ^ k = 0 := by
  rw [← field_toNat, h]
  exact Nat.zero_mod _

/-- A field that lies in a clear mask is 0. -/
theorem field_eq_zero {n lo : Nat} {x m : BitVec n} (h : (x &&& m != 0) = false) (hm : m.extractLsb' lo k = BitVec.allOnes k) :
    x.extractLsb' lo k = 0 := by
  have masked := congrArg (BitVec.extractLsb' lo k) (bne_eq_false_iff_eq.mp h)
  rw [BitVec.extractLsb'_and, hm, BitVec.and_allOnes] at masked
  exact masked.trans (field_eq (by simp))

/-! ## Words of the SR format (R44) -/

theorem encSr_toNat : (encSr op d a b fn).toNat =
    (((op.toNat * 2 ^ 6 + d.toNat) * 2 ^ 6 + a.toNat) * 2 ^ 6 + b.toNat) * 2 ^ 8 + fn.toNat := by
  show (op ++ d ++ a ++ b ++ fn : BitVec (6 + 6 + 6 + 6 + 8)).toNat = _
  simp only [toNat_append_add]

@[simp] theorem encSr_op : (encSr op d a b fn).extractLsb' 26 6 = op := field_eq (by rw [encSr_toNat]; omega)
@[simp] theorem encSr_d : (encSr op d a b fn).extractLsb' 20 6 = d := field_eq (by rw [encSr_toNat]; omega)
@[simp] theorem encSr_a : (encSr op d a b fn).extractLsb' 14 6 = a := field_eq (by rw [encSr_toNat]; omega)
@[simp] theorem encSr_b : (encSr op d a b fn).extractLsb' 8 6 = b := field_eq (by rw [encSr_toNat]; omega)
@[simp] theorem encSr_fn : (encSr op d a b fn).extractLsb' 0 8 = fn := field_eq (by rw [encSr_toNat]; omega)

theorem encSr_fn_field {lo : Nat} (h : lo + k ≤ 8) : (encSr op d a b fn).extractLsb' lo k = fn.extractLsb' lo k :=
  BitVec.extractLsb'_append_eq_of_add_le (xhi := op ++ d ++ a ++ b) (xlo := fn) h

theorem encSr_fields : encSr (w.extractLsb' 26 6) (w.extractLsb' 20 6) (w.extractLsb' 14 6) (w.extractLsb' 8 6) (w.extractLsb' 0 8) = w :=
  BitVec.eq_of_toNat_eq (by rw [encSr_toNat]; simp only [field_toNat]; have := w.isLt; omega)

theorem encSr_and : encSr op d a b fn &&& encSr op' d' a' b' fn' =
    encSr (op &&& op') (d &&& d') (a &&& a') (b &&& b') (fn &&& fn') := by
  show (op ++ d ++ a ++ b ++ fn : BitVec (6 + 6 + 6 + 6 + 8)) &&& (op' ++ d' ++ a' ++ b' ++ fn' : BitVec (6 + 6 + 6 + 6 + 8)) = _
  simp only [BitVec.and_append]
  rfl

theorem encSr_and_mask {m : W32} : encSr op d a b fn &&& m =
    encSr (op &&& m.extractLsb' 26 6) (d &&& m.extractLsb' 20 6) (a &&& m.extractLsb' 14 6) (b &&& m.extractLsb' 8 6)
      (fn &&& m.extractLsb' 0 8) := by
  rw [← encSr_and, encSr_fields]

@[simp] theorem encSr_eq_zero : encSr op d a b fn = 0#32 ↔ op = 0 ∧ d = 0 ∧ a = 0 ∧ b = 0 ∧ fn = 0 := by
  constructor
  · intro h
    exact ⟨encSr_op.symm.trans (congrArg _ h), encSr_d.symm.trans (congrArg _ h), encSr_a.symm.trans (congrArg _ h),
      encSr_b.symm.trans (congrArg _ h), encSr_fn.symm.trans (congrArg _ h)⟩
  · rintro ⟨rfl, rfl, rfl, rfl, rfl⟩
    rfl

theorem encSr_of_fields (hop : (w.extractLsb' 26 6).toNat = op.toNat) (hd : w.extractLsb' 20 6 = d)
    (ha : w.extractLsb' 14 6 = a) (hb : w.extractLsb' 8 6 = b) (hfn : w.extractLsb' 0 8 = fn) : encSr op d a b fn = w := by
  rw [← BitVec.eq_of_toNat_eq hop, ← hd, ← ha, ← hb, ← hfn, encSr_fields]

/-! ## Words of the SI format (R44) -/

theorem encSi_toNat : (encSi op d a imm).toNat = ((op.toNat * 2 ^ 6 + d.toNat) * 2 ^ 6 + a.toNat) * 2 ^ 14 + imm.toNat := by
  show (op ++ d ++ a ++ imm : BitVec (6 + 6 + 6 + 14)).toNat = _
  simp only [toNat_append_add]

@[simp] theorem encSi_op : (encSi op d a imm).extractLsb' 26 6 = op := field_eq (by rw [encSi_toNat]; omega)
@[simp] theorem encSi_d : (encSi op d a imm).extractLsb' 20 6 = d := field_eq (by rw [encSi_toNat]; omega)
@[simp] theorem encSi_a : (encSi op d a imm).extractLsb' 14 6 = a := field_eq (by rw [encSi_toNat]; omega)
@[simp] theorem encSi_imm : (encSi op d a imm).extractLsb' 0 14 = imm := field_eq (by rw [encSi_toNat]; omega)

theorem ne_zero_of_op (h : w.extractLsb' 26 6 ≠ 0) : w ≠ 0 := fun hz => h (by rw [hz]; rfl)

theorem encSi_ne_zero (h : op ≠ 0) : encSi op d a imm ≠ 0#32 := ne_zero_of_op (by rwa [encSi_op])

theorem encSi_of_fields (hop : (w.extractLsb' 26 6).toNat = op.toNat) (ha : w.extractLsb' 14 6 = a) :
    encSi op (w.extractLsb' 20 6) a (w.extractLsb' 0 14) = w := by
  rw [← BitVec.eq_of_toNat_eq hop, ← ha]
  exact BitVec.eq_of_toNat_eq (by rw [encSi_toNat]; simp only [field_toNat]; have := w.isLt; omega)

/-- The window number fills the low half of the field of `sa` (R206). -/
theorem window_field (free : w.extractLsb' 17 3 = 0) : w.extractLsb' 14 6 = (w.extractLsb' 14 3).setWidth 6 := by
  have high := field_free free
  exact field_eq (by rw [BitVec.toNat_setWidth, field_toNat]; omega)

theorem decodeScalar_sldw {x : BitVec 3} : decodeScalar (encSi 0x15 d (x.setWidth 6) imm) = .ok (.sldw d x imm) := by
  have hx : (encSi 0x15 d (x.setWidth 6) imm).extractLsb' 14 3 = x :=
    field_eq (by rw [encSi_toNat, BitVec.toNat_setWidth]; omega)
  have free : encSi 0x15 d (x.setWidth 6) imm &&& 0x000E0000 = 0 := by
    have high : x.setWidth 6 &&& 0x38#6 = 0 := by clear hx; revert x; decide
    show (0x15#6 ++ d ++ x.setWidth 6 ++ imm : BitVec (6 + 6 + 6 + 14)) &&& (0#6 ++ 0#6 ++ 0x38#6 ++ 0#14) = 0
    simp only [BitVec.and_append, high, BitVec.and_zero]
    rfl
  rw [decodeScalar, if_neg (ne_zero_of_op (by rw [encSi_op]; decide)), encSi_op, encSi_d, encSi_imm, hx, free]
  rfl

/-! ## Jumps, branches, LRUN, and words without a field (R44) -/

section

variable {o : BitVec 26}

theorem jump_toNat : (op ++ o : W32).toNat = op.toNat * 2 ^ 26 + o.toNat := toNat_append_add op o
@[simp] theorem jump_op : (op ++ o : W32).extractLsb' 26 6 = op := field_eq (by rw [jump_toNat]; omega)
@[simp] theorem jump_target : (op ++ o : W32).extractLsb' 0 26 = o := field_eq (by rw [jump_toNat]; omega)

theorem jump_ne_zero (h : op ≠ 0) : (op ++ o : W32) ≠ 0#32 := ne_zero_of_op (by rwa [jump_op])

end

theorem jump_of_fields (hop : (w.extractLsb' 26 6).toNat = op.toNat) : op ++ w.extractLsb' 0 26 = w := by
  rw [← BitVec.eq_of_toNat_eq hop]
  exact BitVec.eq_of_toNat_eq (by rw [jump_toNat]; simp only [field_toNat]; have := w.isLt; omega)

theorem decodeScalar_sbr {c : BitVec 3} {o : BitVec 11} : decodeScalar (0x18#6 ++ c ++ a ++ b ++ o) = .ok (.sbr c a b o) := by
  have value : (0x18#6 ++ c ++ a ++ b ++ o : W32).toNat =
      (((24 * 2 ^ 3 + c.toNat) * 2 ^ 6 + a.toNat) * 2 ^ 6 + b.toNat) * 2 ^ 11 + o.toNat := by
    show (0x18#6 ++ c ++ a ++ b ++ o : BitVec (6 + 3 + 6 + 6 + 11)).toNat = _
    simp only [toNat_append_add]
    rfl
  have hop : (0x18#6 ++ c ++ a ++ b ++ o : W32).extractLsb' 26 6 = 24 :=
    field_eq (by rw [value, show (24 : BitVec 6).toNat = 24 from rfl]; omega)
  have hc : (0x18#6 ++ c ++ a ++ b ++ o : W32).extractLsb' 23 3 = c := field_eq (by rw [value]; omega)
  have ha : (0x18#6 ++ c ++ a ++ b ++ o : W32).extractLsb' 17 6 = a := field_eq (by rw [value]; omega)
  have hb : (0x18#6 ++ c ++ a ++ b ++ o : W32).extractLsb' 11 6 = b := field_eq (by rw [value]; omega)
  have ho : (0x18#6 ++ c ++ a ++ b ++ o : W32).extractLsb' 0 11 = o := field_eq (by rw [value]; omega)
  rw [decodeScalar, if_neg (ne_zero_of_op (by rw [hop]; decide)), hop, hc, ha, hb, ho]
  rfl

theorem sbr_of_fields (hop : (w.extractLsb' 26 6).toNat = 24) :
    0x18#6 ++ w.extractLsb' 23 3 ++ w.extractLsb' 17 6 ++ w.extractLsb' 11 6 ++ w.extractLsb' 0 11 = w := by
  rw [← BitVec.eq_of_toNat_eq (x := w.extractLsb' 26 6) (y := 0x18#6) hop]
  refine BitVec.eq_of_toNat_eq ?_
  simp only [toNat_append_add, field_toNat]
  have := w.isLt
  omega

theorem decodeScalar_lrun {o : BitVec 24} : decodeScalar (0x80#8 ++ o) = .ok (.lrun o) := by
  have value : (0x80#8 ++ o : W32).toNat = 128 * 2 ^ 24 + o.toNat := toNat_append_add 0x80#8 o
  have hop : (0x80#8 ++ o : W32).extractLsb' 26 6 = 32 :=
    field_eq (by rw [value, show (32 : BitVec 6).toNat = 32 from rfl]; omega)
  have ho : (0x80#8 ++ o : W32).extractLsb' 0 24 = o := field_eq (by rw [value]; omega)
  have free : (0x80#8 ++ o : W32) &&& 0x03000000 = 0 := by
    show (0x80#8 ++ o : BitVec (8 + 24)) &&& (3#8 ++ 0#24) = 0
    rw [BitVec.and_append, BitVec.and_zero]
    rfl
  rw [decodeScalar, if_neg (ne_zero_of_op (by rw [hop]; decide)), hop, ho, free]
  rfl

theorem lrun_of_fields (hop : (w.extractLsb' 26 6).toNat = 32) (free : w.extractLsb' 24 2 = 0) : 0x80#8 ++ w.extractLsb' 0 24 = w := by
  have high := field_free free
  have value : (0x80#8 ++ w.extractLsb' 0 24 : W32).toNat = 128 * 2 ^ 24 + (w.extractLsb' 0 24).toNat := toNat_append_add 0x80#8 _
  rw [field_toNat] at hop
  exact BitVec.eq_of_toNat_eq (by rw [value, field_toNat]; have := w.isLt; omega)

theorem bare_of_fields (hop : (w.extractLsb' 26 6).toNat = k) (free : w.extractLsb' 0 26 = 0) : BitVec.ofNat 32 (k * 2 ^ 26) = w := by
  have low := field_free free
  rw [field_toNat] at hop
  exact BitVec.eq_of_toNat_eq (by rw [BitVec.toNat_ofNat]; have := w.isLt; omega)

/-! ## The low byte of a word -/

theorem low_field (hk : k ≤ 8) (free : w.extractLsb' k (8 - k) = 0) : w.extractLsb' 0 8 = (w.extractLsb' 0 k).setWidth 8 := by
  have high := field_free free
  refine field_eq ?_
  rw [BitVec.toNat_setWidth, field_toNat]
  interval_cases k <;> omega

theorem waitcmp_field (free : w.extractLsb' 7 1 = 0) :
    w.extractLsb' 0 8 = 0#1 ++ w.extractLsb' 4 3 ++ w.extractLsb' 3 1 ++ w.extractLsb' 0 3 := by
  rw [← show w.extractLsb' 7 1 = 0#1 from free]
  exact field_eq (by simp only [toNat_append_add, field_toNat]; omega)

theorem sfence_field (free : w.extractLsb' 4 4 = 0) : w.extractLsb' 0 8 = 0#4 ++ w.extractLsb' 3 1 ++ w.extractLsb' 0 3 := by
  rw [← show w.extractLsb' 4 4 = 0#4 from free]
  exact field_eq (by simp only [toNat_append_add, field_toNat]; omega)

theorem fn_plain (low : (fn &&& 0x1F).toNat = k) (free : (fn &&& 0xE0 != 0) = false) : BitVec.ofNat 8 k = fn := by
  subst low; revert fn; decide

theorem fn_flag (low : (fn &&& 0x1F).toNat = k) (free : (fn &&& 0xC0 != 0) = false) :
    BitVec.ofNat 8 k ||| (fn.extractLsb' 5 1).setWidth 8 <<< 5 = fn := by
  subst low; revert fn; decide

theorem fn_cond (low : (fn &&& 0x1F).toNat = k) : BitVec.ofNat 8 k ||| (fn.extractLsb' 5 3).setWidth 8 <<< 5 = fn := by
  subst low; revert fn; decide

end Sys2Proof.Proofs
end

section
/-! SUPPORT. The round trip of scalar words. -/

namespace Sys2Proof.Proofs

open Sys2Proof Sys2Proof.Machine

variable {i : Instr} {w : W32} {d a b : SReg} {fn : BitVec 8}

/-! ## What the encoder writes decodes to its instruction -/

theorem decodeScalar_reg : decodeScalar (encSr 0x01 d a b fn) = decodeFn d a b fn := by
  simp [decodeScalar]

theorem decodeScalar_of_encodeScalar (h : encodeScalar i = some w) : decodeScalar w = .ok i := by
  cases i with
  | saddReg d a b | ssub d a b | smulReg d a b | sandReg d a b | sorReg d a b | sxorReg d a b | sshlReg d a b | sshrReg d a b
    | ssraReg d a b | ssel d a b | smovReg d a => cases h; exact decodeScalar_reg
  | smulh d a b u | sdivReg d a b u | sremReg d a b u | sminReg d a b u | smaxReg d a b u =>
    cases h
    rw [decodeScalar_reg]
    rcases BitVec.eq_zero_or_eq_one u with rfl | rfl <;> rfl
  | scmp d a b c =>
    cases h
    have low : (0x0E#8 ||| c.setWidth 8 <<< 5) &&& 0x1F = 0x0E := by revert c; decide
    have high : (0x0E#8 ||| c.setWidth 8 <<< 5).extractLsb' 5 3 = c := by revert c; decide
    show decodeScalar (encSr 0x01 d a b (0x0E#8 ||| c.setWidth 8 <<< 5)) = _
    rw [decodeScalar_reg, decodeFn, low, high]
    rfl
  | saddImm d a imm | smulImm d a imm | sdivImm d a imm | sremImm d a imm | sandImm d a imm | sorImm d a imm | sxorImm d a imm
    | sshlImm d a imm | sshrImm d a imm | ssraImm d a imm | sminImm d a imm | smaxImm d a imm | sld64 d a imm | sldN32 d a imm
    | sldI32 d a imm | sst64 d a imm | sstN32 d a imm => cases h; simp [decodeScalar, encSi_ne_zero]
  | smovImm d imm => cases h; simp [decodeScalar, encSi_ne_zero, orRes]
  | sldw d x imm => cases h; exact decodeScalar_sldw
  | sbr c a b o => cases h; exact decodeScalar_sbr
  | sjmp o | scall o | limm o => cases h; simp [decodeScalar, jump_ne_zero]
  | lrun o => cases h; exact decodeScalar_lrun
  | lsync | sexit | eret | snop => cases h; rfl
  | sjmpi a | sret a | waita a | sget d ix | sset a ix | strap a c => cases h; simp [decodeScalar, orRes, encSr_and_mask]
  | sbar l =>
    cases h
    have field : (l.setWidth 8).extractLsb' 0 2 = l := by revert l; decide
    have free : l.setWidth 8 &&& 0xFC#8 = 0 := by revert l; decide
    simp [decodeScalar, orRes, encSr_and_mask, encSr_fn_field, field, free]
  | waittl a f =>
    cases h
    have field : (f.setWidth 8).extractLsb' 0 1 = f := by revert f; decide
    have free : f.setWidth 8 &&& 0xFE#8 = 0 := by revert f; decide
    simp [decodeScalar, orRes, encSr_and_mask, encSr_fn_field, field, free]
  | arma d a b c =>
    cases h
    have field : (c.setWidth 8).extractLsb' 0 1 = c := by revert c; decide
    have free : c.setWidth 8 &&& 0xFE#8 = 0 := by revert c; decide
    simp [decodeScalar, orRes, encSr_and_mask, encSr_fn_field, field, free]
  | waitif a n =>
    cases h
    have field : (n.setWidth 8).extractLsb' 0 2 = n := by revert n; decide
    have free : n.setWidth 8 &&& 0xFC#8 = 0 := by revert n; decide
    simp [decodeScalar, orRes, encSr_and_mask, encSr_fn_field, field, free]
  | waitcmp d a b sc w c =>
    cases h
    have scope : (0#1 ++ sc ++ w ++ c : BitVec 8).extractLsb' 4 3 = sc := by revert sc w c; decide
    have width : (0#1 ++ sc ++ w ++ c : BitVec 8).extractLsb' 3 1 = w := by revert sc w c; decide
    have cond : (0#1 ++ sc ++ w ++ c : BitVec 8).extractLsb' 0 3 = c := by revert sc w c; decide
    have free : (0#1 ++ sc ++ w ++ c : BitVec 8) &&& 0x80#8 = 0 := by revert sc w c; decide
    simp [decodeScalar, orRes, encSr_and_mask, encSr_fn_field, scope, width, cond, free]
  | sfence f sc =>
    cases h
    have flag : (0#4 ++ f ++ sc : BitVec 8).extractLsb' 3 1 = f := by revert f sc; decide
    have scope : (0#4 ++ f ++ sc : BitVec 8).extractLsb' 0 3 = sc := by revert f sc; decide
    have free : (0#4 ++ f ++ sc : BitVec 8) &&& 0xF0#8 = 0 := by revert f sc; decide
    simp [decodeScalar, orRes, encSr_and_mask, encSr_fn_field, flag, scope, free]
  | _ => cases h

/-! ## What decodes encodes to its word -/

theorem orRes_ok {bad : Bool} {j : Instr} (h : orRes bad i = .ok j) : bad = false ∧ i = j := by
  cases bad
  · exact ⟨rfl, Except.ok.inj h⟩
  · cases h

/-- A word rejected for its minor first (R63) is not rejected when it decodes. -/
theorem orRes_of_minor {bad : Bool} {p : Prop} [Decidable p] {c : Cause} {j : Instr} (h : (if p then .error c else orRes bad i) = .ok j) :
    orRes bad i = .ok j := by
  split at h
  · cases h
  · exact h

theorem encodeScalar_of_decodeFn (h : decodeFn d a b fn = .ok i) : encodeScalar i = some (encSr 0x01 d a b fn) := by
  unfold decodeFn at h
  split at h
  -- forms without a flag
  case h_1 low | h_2 low | h_3 low | h_7 low | h_8 low | h_9 low | h_10 low | h_11 low | h_12 low | h_16 low =>
    obtain ⟨free, rfl⟩ := orRes_ok h
    exact congrArg (fun f => some (encSr 0x01 d a b f)) (fn_plain low free)
  -- SMULH, SDIV, SREM, SMIN, SMAX
  case h_4 low | h_5 low | h_6 low | h_13 low | h_14 low =>
    obtain ⟨free, rfl⟩ := orRes_ok h
    exact congrArg (fun f => some (encSr 0x01 d a b f)) (fn_flag low free)
  -- SCMP
  case h_15 low =>
    cases h
    exact congrArg (fun f => some (encSr 0x01 d a b f)) (fn_cond low)
  -- SMOV
  case h_17 low =>
    obtain ⟨free, rfl⟩ := orRes_ok h
    obtain ⟨free, hb⟩ := Bool.or_eq_false_iff.mp free
    rw [bne_eq_false_iff_eq.mp hb]
    exact congrArg (fun f => some (encSr 0x01 d a 0 f)) (fn_plain low free)
  case h_18 => cases h

theorem encodeScalar_of_decodeScalar (h : decodeScalar w = .ok i) : encodeScalar i = some w := by
  unfold decodeScalar at h
  dsimp only at h
  split at h
  · cases h
  split at h
  -- the register forms
  case h_1 op => rw [encodeScalar_of_decodeFn h, encSr_of_fields op rfl rfl rfl rfl]
  -- the immediate forms, SLD and SST; SMOV; SLDW
  case h_2 op | h_3 op | h_4 op | h_5 op | h_6 op | h_7 op | h_8 op | h_9 op | h_10 op | h_11 op | h_12 op | h_13 op
    | h_15 op | h_16 op | h_17 op | h_18 op | h_19 op => cases h; exact congrArg some (encSi_of_fields op rfl)
  case h_14 op =>
    obtain ⟨free, rfl⟩ := orRes_ok h
    exact congrArg some (encSi_of_fields op (bne_eq_false_iff_eq.mp free))
  case h_20 op =>
    obtain ⟨free, rfl⟩ := orRes_ok h
    exact congrArg some (encSi_of_fields op (window_field (field_eq_zero free rfl)))
  -- SBR; SJMP, SCALL and LIMM; LRUN
  case h_21 op => cases h; exact congrArg some (sbr_of_fields op)
  case h_22 op | h_24 op | h_41 op => cases h; exact congrArg some (jump_of_fields op)
  case h_26 op =>
    obtain ⟨free, rfl⟩ := orRes_ok h
    exact congrArg some (lrun_of_fields op (field_eq_zero free rfl))
  -- LSYNC, SEXIT, ERET, SNOP
  case h_27 op | h_38 op | h_39 op | h_40 op =>
    obtain ⟨free, rfl⟩ := orRes_ok h
    exact congrArg some (bare_of_fields op (field_eq_zero free rfl))
  -- SJMPI, SRET, WAITA: `sa` alone
  case h_23 op | h_25 op | h_31 op =>
    obtain ⟨free, rfl⟩ := orRes_ok h
    exact congrArg some (encSr_of_fields op (field_eq_zero free rfl) rfl (field_eq_zero free rfl) (field_eq_zero free rfl))
  -- SBAR; WAITTL and WAITIF; ARMA: a short field at the bottom of `fn`
  case h_28 op =>
    obtain ⟨free, rfl⟩ := orRes_ok (orRes_of_minor h)
    exact congrArg some (encSr_of_fields op (field_eq_zero free rfl) (field_eq_zero free rfl) (field_eq_zero free rfl)
      (low_field (by decide) (field_eq_zero free rfl)))
  case h_29 op | h_33 op =>
    obtain ⟨free, rfl⟩ := orRes_ok h
    exact congrArg some (encSr_of_fields op (field_eq_zero free rfl) rfl (field_eq_zero free rfl)
      (low_field (by decide) (field_eq_zero free rfl)))
  case h_30 op =>
    obtain ⟨free, rfl⟩ := orRes_ok h
    exact congrArg some (encSr_of_fields op rfl rfl rfl (low_field (by decide) (field_eq_zero free rfl)))
  -- WAITCMP, SFENCE
  case h_32 op =>
    obtain ⟨free, rfl⟩ := orRes_ok h
    exact congrArg some (encSr_of_fields op rfl rfl rfl (waitcmp_field (field_eq_zero free rfl)))
  case h_34 op =>
    obtain ⟨free, rfl⟩ := orRes_ok h
    exact congrArg some (encSr_of_fields op (field_eq_zero free rfl) (field_eq_zero free rfl) (field_eq_zero free rfl)
      (sfence_field (field_eq_zero free rfl)))
  -- SGET, SSET, STRAP: one register and the byte `fn`
  case h_35 op =>
    obtain ⟨free, rfl⟩ := orRes_ok h
    exact congrArg some (encSr_of_fields op rfl (field_eq_zero free rfl) (field_eq_zero free rfl) rfl)
  case h_36 op =>
    obtain ⟨free, rfl⟩ := orRes_ok h
    exact congrArg some (encSr_of_fields op (field_eq_zero free rfl) rfl (field_eq_zero free rfl) rfl)
  case h_37 op =>
    obtain ⟨free, rfl⟩ := orRes_ok (orRes_of_minor h)
    exact congrArg some (encSr_of_fields op (field_eq_zero free rfl) rfl (field_eq_zero free rfl) rfl)
  case h_42 => cases h

/-- Settles O56: each format puts its fields side by side, so the decoder reads them back; the bits it wants clear are the ones the encoder
leaves 0. -/
theorem scalarRoundTrip : Obligations.ScalarRoundTrip :=
  ⟨fun _ _ h _ => decodeScalar_of_encodeScalar h, fun _ _ h => encodeScalar_of_decodeScalar h⟩

end Sys2Proof.Proofs
end

section
/-! SUPPORT. Lane words and pair words: what the fields of an encoded word read as, and a word put together again from its fields. -/

namespace Sys2Proof.Proofs

open Sys2Proof Sys2Proof.Machine

variable {i : Instr} {w : BitVec 96} {x : LaneW} {maj : Nat} {m : BitVec 8} {k : LaneW → Instr} {r : LaneRow}

/-! ## Codes of R50 and R51 -/

theorem tyOf_tyCode (t : Ty) : tyOf (tyCode t) = some t := by
  cases t with
  | bpn k => revert k; decide
  | _ => rfl

theorem tyCode_of_tyOf {c : BitVec 5} {t : Ty} (h : tyOf c = some t) : tyCode t = c := by
  unfold tyOf at h
  split at h
  all_goals cases h
  all_goals exact BitVec.eq_of_toNat_eq (Eq.symm ‹_›)

theorem rndOf_rndCode (d : Rnd) : rndOf (rndCode d) = some d := by cases d <;> rfl

theorem rndCode_of_rndOf {c : BitVec 3} {d : Rnd} (h : rndOf c = some d) : rndCode d = c := by
  unfold rndOf at h
  split at h
  all_goals cases h
  all_goals exact BitVec.eq_of_toNat_eq (Eq.symm ‹_›)

theorem scopeOf_scopeCode (d : Scope) : scopeOf (scopeCode d) = some d := by cases d <;> rfl

theorem scopeCode_of_scopeOf {c : BitVec 3} {d : Scope} (h : scopeOf c = some d) : scopeCode d = c := by
  unfold scopeOf at h
  split at h
  all_goals cases h
  all_goals exact BitVec.eq_of_toNat_eq (Eq.symm ‹_›)

/-! ## Single bits -/

theorem getLsbD_of_field {n lo : Nat} {v : BitVec n} {b : Bool} (h : v.extractLsb' lo 1 = BitVec.ofBool b) : v.getLsbD lo = b := by
  have bit := congrArg (BitVec.getLsbD · 0) h
  simpa using bit

theorem ofBool_getLsbD {n : Nat} (v : BitVec n) (lo : Nat) : BitVec.ofBool (v.getLsbD lo) = v.extractLsb' lo 1 := by
  refine BitVec.eq_of_getLsbD_eq fun j hj => ?_
  obtain rfl : j = 0 := by omega
  simp

/-! ## Words of R49 and R50 -/

theorem packLane_toNat : (packLane m x).toNat =
    (((((((((((((m.toNat * 2 ^ 1 + (BitVec.ofBool x.safe).toNat) * 2 ^ 4 + x.look.toNat) * 2 ^ 3 + x.g.toNat) * 2 ^ 1 +
      (BitVec.ofBool x.n).toNat) * 2 ^ 8 + x.vd.toNat) * 2 ^ 8 + x.va.toNat) * 2 ^ 8 + x.vb.toNat) * 2 ^ 8 + x.vc.toNat) * 2 ^ 5 +
      (tyCode x.ty).toNat) * 2 ^ 3 + (rndCode x.rnd).toNat) * 2 ^ 3 + (scopeCode x.scope).toNat) * 2 ^ 1 + (BitVec.ofBool x.i).toNat)
      * 2 ^ 3 + x.opx.toNat) * 2 ^ 32 + x.imm.toNat := by
  show (m ++ BitVec.ofBool x.safe ++ x.look ++ x.g ++ BitVec.ofBool x.n ++ x.vd ++ x.va ++ x.vb ++ x.vc ++ tyCode x.ty ++
    rndCode x.rnd ++ scopeCode x.scope ++ BitVec.ofBool x.i ++ x.opx ++ x.imm :
      BitVec (8 + 1 + 4 + 3 + 1 + 8 + 8 + 8 + 8 + 5 + 3 + 3 + 1 + 3 + 32)).toNat = _
  simp only [toNat_append_add]

theorem packLane_major : (packLane m x).extractLsb' 88 8 = m := field_eq (by rw [packLane_toNat]; omega)
theorem packLane_safe : (packLane m x).getLsbD 87 = x.safe := getLsbD_of_field (field_eq (by rw [packLane_toNat]; omega))
theorem packLane_look : (packLane m x).extractLsb' 83 4 = x.look := field_eq (by rw [packLane_toNat]; omega)
theorem packLane_guard : (packLane m x).extractLsb' 80 3 = x.g := field_eq (by rw [packLane_toNat]; omega)
theorem packLane_sense : (packLane m x).getLsbD 79 = x.n := getLsbD_of_field (field_eq (by rw [packLane_toNat]; omega))
theorem packLane_vd : (packLane m x).extractLsb' 71 8 = x.vd := field_eq (by rw [packLane_toNat]; omega)
theorem packLane_va : (packLane m x).extractLsb' 63 8 = x.va := field_eq (by rw [packLane_toNat]; omega)
theorem packLane_vb : (packLane m x).extractLsb' 55 8 = x.vb := field_eq (by rw [packLane_toNat]; omega)
theorem packLane_vc : (packLane m x).extractLsb' 47 8 = x.vc := field_eq (by rw [packLane_toNat]; omega)
theorem packLane_ty : (packLane m x).extractLsb' 42 5 = tyCode x.ty := field_eq (by rw [packLane_toNat]; omega)
theorem packLane_rnd : (packLane m x).extractLsb' 39 3 = rndCode x.rnd := field_eq (by rw [packLane_toNat]; omega)
theorem packLane_scope : (packLane m x).extractLsb' 36 3 = scopeCode x.scope := field_eq (by rw [packLane_toNat]; omega)
theorem packLane_i : (packLane m x).getLsbD 35 = x.i := getLsbD_of_field (field_eq (by rw [packLane_toNat]; omega))
theorem packLane_opx : (packLane m x).extractLsb' 32 3 = x.opx := field_eq (by rw [packLane_toNat]; omega)
theorem packLane_imm : (packLane m x).extractLsb' 0 32 = x.imm := field_eq (by rw [packLane_toNat]; omega)

/-- The fields of a lane word, with the types, rounding and scope that its codes name. -/
def laneFields (w : BitVec 96) (ty : Ty) (rnd : Rnd) (scope : Scope) : LaneW :=
  { safe := w.getLsbD 87, look := w.extractLsb' 83 4, g := w.extractLsb' 80 3, n := w.getLsbD 79,
    vd := w.extractLsb' 71 8, va := w.extractLsb' 63 8, vb := w.extractLsb' 55 8, vc := w.extractLsb' 47 8,
    ty := ty, rnd := rnd, scope := scope, i := w.getLsbD 35, opx := w.extractLsb' 32 3, imm := w.extractLsb' 0 32 }

theorem packLane_laneFields {ty : Ty} {rnd : Rnd} {scope : Scope} (hty : tyOf (w.extractLsb' 42 5) = some ty)
    (hrnd : rndOf (w.extractLsb' 39 3) = some rnd) (hscope : scopeOf (w.extractLsb' 36 3) = some scope) :
    packLane (w.extractLsb' 88 8) (laneFields w ty rnd scope) = w := by
  have joined : packLane (w.extractLsb' 88 8) (laneFields w ty rnd scope) = w.extractLsb' 0 96 := by
    simp only [packLane, laneFields, ofBool_getLsbD, tyCode_of_tyOf hty, rndCode_of_rndOf hrnd, scopeCode_of_scopeOf hscope]
    simp only [BitVec.extractLsb'_append_extractLsb'_eq_extractLsb']
  rw [joined, BitVec.extractLsb'_eq_self]

/-! ## Pair words (R53) -/

theorem packSub_toNat {u : SubOp} : (packSub u).toNat =
    (((((((u.op.toNat * 2 ^ 8 + u.vd.toNat) * 2 ^ 8 + u.va.toNat) * 2 ^ 8 + u.vb.toNat) * 2 ^ 3 + u.g.toNat) * 2 ^ 1 +
      (BitVec.ofBool u.n).toNat) * 2 ^ 2 + u.cls.toNat) * 2 ^ 1 + (BitVec.ofBool u.sgn).toNat) * 2 ^ 5 + u.res0.toNat := by
  show (u.op ++ u.vd ++ u.va ++ u.vb ++ u.g ++ BitVec.ofBool u.n ++ u.cls ++ BitVec.ofBool u.sgn ++ u.res0 :
    BitVec (8 + 8 + 8 + 8 + 3 + 1 + 2 + 1 + 5)).toNat = _
  simp only [toNat_append_add]

theorem decodeSub_packSub (u : SubOp) : decodeSub (packSub u) = u := by
  have field {lo k : Nat} {y : BitVec k} (h : (packSub u).toNat / 2 ^ lo % 2 ^ k = y.toNat) : (packSub u).extractLsb' lo k = y := field_eq h
  have bit {lo : Nat} {b : Bool} (h : (packSub u).toNat / 2 ^ lo % 2 ^ 1 = (BitVec.ofBool b).toNat) : (packSub u).getLsbD lo = b :=
    getLsbD_of_field (field_eq h)
  rw [packSub_toNat] at field bit
  show decodeSub (packSub u) = ⟨u.op, u.vd, u.va, u.vb, u.g, u.n, u.cls, u.sgn, u.res0⟩
  rw [decodeSub, SubOp.mk.injEq]
  exact ⟨field (by omega), field (by omega), field (by omega), field (by omega), field (by omega), bit (by omega), field (by omega),
    bit (by omega), field (by omega)⟩

theorem packSub_decodeSub (v : BitVec 44) : packSub (decodeSub v) = v := by
  have joined : packSub (decodeSub v) = v.extractLsb' 0 44 := by
    simp only [packSub, decodeSub, ofBool_getLsbD]
    simp only [BitVec.extractLsb'_append_extractLsb'_eq_extractLsb']
  rw [joined, BitVec.extractLsb'_eq_self]

theorem packPair_toNat {u : PairW} : (packPair u).toNat =
    (((30 * 2 ^ 1 + (BitVec.ofBool u.sat).toNat) * 2 ^ 2 + u.rnd.toNat) * 2 ^ 44 + (packSub u.a).toNat) * 2 ^ 44 + (packSub u.b).toNat := by
  show (0x1E#5 ++ BitVec.ofBool u.sat ++ u.rnd ++ packSub u.a ++ packSub u.b : BitVec (5 + 1 + 2 + 44 + 44)).toNat = _
  simp only [toNat_append_add]
  rfl

/-- The fields of a pair word. -/
def pairFields (w : BitVec 96) : PairW :=
  { sat := w.getLsbD 90, rnd := w.extractLsb' 88 2, a := decodeSub (w.extractLsb' 44 44), b := decodeSub (w.extractLsb' 0 44) }

theorem pairFields_packPair (u : PairW) : pairFields (packPair u) = u := by
  have sat : (packPair u).getLsbD 90 = u.sat := getLsbD_of_field (field_eq (by rw [packPair_toNat]; omega))
  have rnd : (packPair u).extractLsb' 88 2 = u.rnd := field_eq (by rw [packPair_toNat]; omega)
  have a : (packPair u).extractLsb' 44 44 = packSub u.a := field_eq (by rw [packPair_toNat]; omega)
  have b : (packPair u).extractLsb' 0 44 = packSub u.b := field_eq (by rw [packPair_toNat]; omega)
  rw [pairFields, sat, rnd, a, b, decodeSub_packSub, decodeSub_packSub]

theorem packPair_major {u : PairW} : (packPair u).extractLsb' 88 8 = 0x1E#5 ++ BitVec.ofBool u.sat ++ u.rnd :=
  field_eq (by rw [packPair_toNat]; simp only [toNat_append_add, show (0x1E#5).toNat = 30 from rfl]; omega)

theorem pair_major_iff : m &&& 0xF8 = 0xF0 ↔ m.extractLsb' 3 5 = 0x1E := by revert m; decide

theorem packPair_pairFields (h : w.extractLsb' 91 5 = 0x1E#5) : packPair (pairFields w) = w := by
  have joined : packPair (pairFields w) = w.extractLsb' 0 96 := by
    simp only [packPair, pairFields, ofBool_getLsbD, packSub_decodeSub, ← h]
    simp only [BitVec.extractLsb'_append_extractLsb'_eq_extractLsb']
  rw [joined, BitVec.extractLsb'_eq_self]

end Sys2Proof.Proofs
end

section
/-! SUPPORT. The round trip of lane words and pair words. -/

namespace Sys2Proof.Proofs

open Sys2Proof Sys2Proof.Machine

variable {i : Instr} {w : BitVec 96} {x : LaneW} {maj : Nat} {m : BitVec 8} {k : LaneW → Instr} {r : LaneRow}

/-! ## Majors -/

theorem laneCtor_of_laneOf (h : laneOf i = some (maj, x)) : ∃ k, laneCtor maj = some k ∧ k x = i ∧ i.wf = laneWf maj x := by
  unfold laneOf at h
  split at h
  all_goals cases h
  all_goals exact ⟨_, rfl, rfl, rfl⟩

theorem laneOf_of_laneCtor (h : laneCtor maj = some k) : laneOf (k x) = some (maj, x) := by
  unfold laneCtor at h
  split at h
  all_goals cases h
  all_goals rfl

/-- The majors of lane instructions are bytes other than 0, MASK and those of pair words. -/
theorem laneCtor_major (h : laneCtor maj = some k) : maj < 0xF0 ∧ maj ≠ 0 := by
  unfold laneCtor at h
  split at h
  all_goals cases h
  all_goals decide

theorem encodeLane_of_laneOf (h : laneOf i = some (maj, x)) : encodeLane i = some (packLane (BitVec.ofNat 8 maj) x) := by
  unfold encodeLane
  split
  · cases h
  · rw [h]

theorem encodeLane_cases (h : encodeLane i = some w) :
    (∃ u, i = .pairWord u ∧ packPair u = w) ∨ ∃ maj x, laneOf i = some (maj, x) ∧ packLane (BitVec.ofNat 8 maj) x = w := by
  unfold encodeLane at h
  split at h
  next u => exact .inl ⟨u, rfl, Option.some.inj h⟩
  next =>
    split at h
    next maj x hi => exact .inr ⟨maj, x, hi, Option.some.inj h⟩
    next => cases h

/-! ## The decoder, by the kind of the word -/

theorem decodeLane_pair (h : w.extractLsb' 88 8 &&& 0xF8 = 0xF0) : decodeLane w = .ok (.pairWord (pairFields w)) := by
  have hz : w ≠ 0 := by rintro rfl; revert h; decide
  have hm : (w.extractLsb' 88 8).toNat ≠ 0xFE := by
    generalize w.extractLsb' 88 8 = m at h
    revert h; revert m; decide
  rw [decodeLane, if_neg hz, if_neg hm, if_pos h]
  rfl

theorem decodeLane_row (hw : w.extractLsb' 88 8 = m) (hk : laneCtor m.toNat = some k) (hr : rowFor m.toNat (w.extractLsb' 32 3) = some r) :
    decodeLane w = decodeLaneRow m.toNat r k w := by
  obtain ⟨below, pos⟩ := laneCtor_major hk
  have hz : w ≠ 0 := by rintro rfl; subst hw; exact pos rfl
  have hp : m &&& 0xF8 ≠ 0xF0 := by
    clear hk hr hw hz pos
    revert below; revert m; decide
  rw [decodeLane, hw, if_neg hz, if_neg (by omega), if_neg hp, hk, hr]

theorem decodeLane_cases (h : decodeLane w = .ok i) :
    (i = .pairWord (pairFields w) ∧ w.extractLsb' 88 8 &&& 0xF8 = 0xF0) ∨
      ∃ k r, laneCtor (w.extractLsb' 88 8).toNat = some k ∧ decodeLaneRow (w.extractLsb' 88 8).toNat r k w = .ok i := by
  unfold decodeLane at h
  dsimp only at h
  split at h
  · cases h
  split at h
  · cases h
  split at h
  next hp => exact .inl ⟨(Except.ok.inj h).symm, hp⟩
  next =>
    split at h
    next k r hk hr => exact .inr ⟨k, r, hk, h⟩
    next => cases h

/-! ## Rows -/

theorem laneWf_row (h : laneWf maj x = true) : ∃ r, rowFor maj x.opx = some r ∧
    staticCheck maj r x.vd x.va x.vb x.vc (some x.ty) (some x.rnd) (some x.scope) x.i x.opx x.imm = none := by
  unfold laneWf at h
  split at h
  next => cases h
  next r hr => exact ⟨r, hr, Option.isNone_iff_eq_none.mp h⟩

/-- Codes that pass the checks of R63 name a type, a rounding and a scope. -/
theorem staticCheck_named {vd va vb vc : LReg} {ty : Option Ty} {rnd : Option Rnd} {scope : Option Scope} {n : Bool} {opx : BitVec 3} {imm : W32}
    (h : staticCheck maj r vd va vb vc ty rnd scope n opx imm = none) : ty.isSome ∧ rnd.isSome ∧ scope.isSome := by
  unfold staticCheck at h
  split at h
  · cases h
  split at h
  · cases h
  split at h
  · cases h
  next hty =>
    split at h
    · cases h
    next hrnd =>
      split at h
      · cases h
      next hscope =>
        refine ⟨?_, ?_, ?_⟩
        · cases ty with
          | none => exact absurd rfl hty
          | some t => rfl
        · cases rnd with
          | none => exact absurd rfl hrnd
          | some d => rfl
        · cases scope with
          | none => exact absurd rfl hscope
          | some d => rfl

theorem decodeLaneRow_packLane
    (h : staticCheck maj r x.vd x.va x.vb x.vc (some x.ty) (some x.rnd) (some x.scope) x.i x.opx x.imm = none) :
    decodeLaneRow maj r k (packLane m x) = .ok (k x) := by
  simp only [decodeLaneRow, packLane_safe, packLane_look, packLane_guard, packLane_sense, packLane_vd, packLane_va, packLane_vb, packLane_vc,
    packLane_ty, packLane_rnd, packLane_scope, packLane_i, packLane_opx, packLane_imm, tyOf_tyCode, rndOf_rndCode, scopeOf_scopeCode, h]
  rfl

theorem decodeLaneRow_ok (h : decodeLaneRow maj r k w = .ok i) : ∃ ty rnd scope, i = k (laneFields w ty rnd scope) ∧
    tyOf (w.extractLsb' 42 5) = some ty ∧ rndOf (w.extractLsb' 39 3) = some rnd ∧ scopeOf (w.extractLsb' 36 3) = some scope := by
  unfold decodeLaneRow at h
  dsimp only at h
  split at h
  next => cases h
  next pass =>
    obtain ⟨hty, hrnd, hscope⟩ := staticCheck_named pass
    obtain ⟨ty, hty⟩ := Option.isSome_iff_exists.mp hty
    obtain ⟨rnd, hrnd⟩ := Option.isSome_iff_exists.mp hrnd
    obtain ⟨scope, hscope⟩ := Option.isSome_iff_exists.mp hscope
    rw [hty, hrnd, hscope] at h
    exact ⟨ty, rnd, scope, (Except.ok.inj h).symm, hty, hrnd, hscope⟩

/-! ## The round trip -/

theorem decodeLane_of_encodeLane (h : encodeLane i = some w) (wf : i.wf = true) : decodeLane w = .ok i := by
  rcases encodeLane_cases h with ⟨u, rfl, rfl⟩ | ⟨maj, x, hi, rfl⟩
  · have major : (packPair u).extractLsb' 88 8 &&& 0xF8 = 0xF0 := by
      rw [packPair_major]
      generalize u.sat = sat, u.rnd = rnd
      revert sat rnd; decide
    rw [decodeLane_pair major, pairFields_packPair]
  · obtain ⟨k, hk, rfl, hwf⟩ := laneCtor_of_laneOf hi
    obtain ⟨r, hr, pass⟩ := laneWf_row (hwf ▸ wf)
    have value : (BitVec.ofNat 8 maj).toNat = maj := by
      have := laneCtor_major hk
      rw [BitVec.toNat_ofNat]
      omega
    rw [decodeLane_row packLane_major (by rw [value]; exact hk) (by rw [value, packLane_opx]; exact hr), value]
    exact decodeLaneRow_packLane pass

theorem encodeLane_of_decodeLane (h : decodeLane w = .ok i) : encodeLane i = some w := by
  rcases decodeLane_cases h with ⟨rfl, hp⟩ | ⟨k, r, hk, hrow⟩
  · have major : w.extractLsb' 91 5 = 0x1E := by
      rw [← pair_major_iff.mp hp]
      exact field_eq (by simp only [field_toNat]; omega)
    exact congrArg some (packPair_pairFields major)
  · obtain ⟨ty, rnd, scope, rfl, hty, hrnd, hscope⟩ := decodeLaneRow_ok hrow
    rw [encodeLane_of_laneOf (laneOf_of_laneCtor hk), BitVec.ofNat_toNat, BitVec.setWidth_eq, packLane_laneFields hty hrnd hscope]

/-- Settles O57: the fields of a lane word stand side by side, a major has one instruction (`laneCtor_of_laneOf`, `laneOf_of_laneCtor`), and
codes that pass R63 name what they encode. -/
theorem laneRoundTrip : Obligations.LaneRoundTrip :=
  ⟨fun _ _ => decodeLane_of_encodeLane, fun _ _ => encodeLane_of_decodeLane⟩

end Sys2Proof.Proofs
end

section
/-! SUPPORT. How a scalar word of an idle stream ends: its result in a register, in a port, or none, and SPC at the next word or at a target. -/

namespace Sys2Proof.Proofs

open Sys2Proof Sys2Proof.Machine

variable {s s1 s2 : State} {g : Group} {gi : Nat} {r d a : SReg} {o : ScalOp} {vs : List Word} {v : Word} {next : Option Word} {len : Nat}

/-! ## The end of a word -/

theorem modGroup_comp (f f' : Group → Group) : (s.modGroup gi f).modGroup gi f' = s.modGroup gi (f' ∘ f) := by
  simp only [State.modGroup, List.modify_modify_eq]

/-- Where a word goes: its target, or the next word (R46). -/
def goTo (next : Option Word) (len : Nat) (h : Group) : Group := { h with spc := next.getD (h.spc + BitVec.ofNat 64 len), wait := .none }

theorem writeResult_none : writeResult gi o s none next = s.modGroup gi (goTo next o.len) := by
  unfold writeResult
  split
  · next h => cases h
  · rfl

theorem writeResult_reg (dst : o.dst = some d) (hd : Claim.plain d) :
    writeResult gi o s (some v) next = s.modGroup gi (goTo next o.len ∘ fun h => setSreg h d.toNat v) := by
  rw [← modGroup_comp]
  simp only [writeResult, dst, isPort_of_plain hd]
  rfl

theorem writeResult_port (dst : o.dst = some d) (hd : isPort d = true) :
    writeResult gi o s (some v) next = (sendPush s gi (portOf d) (groupAt s gi).spc.toNat s.now v).modGroup gi (goTo next o.len) := by
  simp only [writeResult, dst, hd]
  rfl

theorem resultFails_none : resultFails gi o s none = none := by
  unfold resultFails
  split
  · next h => cases h
  · rfl

theorem resultFails_reg (dst : o.dst = some d) (hd : Claim.plain d) : resultFails gi o s (some v) = none := by
  simp [resultFails, dst, isPort_of_plain hd]

/-- A word without a result moves SPC. -/
theorem scalExec_moves (h : ScalGo o s g s1 vs) (eff : o.eff { s := s1, gi := s.cur, g := groupAt s1 s.cur, s0 := s } vs = .done s2 none next) :
    scalExec o s = .next (s2.modGroup s.cur (goTo next o.len)) := by
  simp only [scalExec_go h, eff, resultFails_none, writeResult_none]

/-- A word with a register as destination writes its result and moves SPC. -/
theorem scalExec_writes (h : ScalGo o s g s1 vs) (dst : o.dst = some d) (hd : Claim.plain d)
    (eff : o.eff { s := s1, gi := s.cur, g := groupAt s1 s.cur, s0 := s } vs = .done s2 (some v) next) :
    scalExec o s = .next (s2.modGroup s.cur (goTo next o.len ∘ fun h => setSreg h d.toNat v)) := by
  simp only [scalExec_go h, eff, resultFails_reg dst hd, writeResult_reg dst hd]

/-- A word with a register as destination that goes to the next word. -/
theorem scalExec_wrote (h : ScalGo o s g s1 vs) (dst : o.dst = some d) (hd : Claim.plain d)
    (eff : o.eff { s := s1, gi := s.cur, g := groupAt s1 s.cur, s0 := s } vs = .done s2 (some v) none) :
    scalExec o s = .next (s2.modGroup s.cur (Claim.wrote d v o.len)) :=
  scalExec_writes h dst hd eff

/-- A word with a port as destination sends its result, where the port's checks take it (R34). -/
theorem scalExec_sends (h : ScalGo o s g s1 vs) (dst : o.dst = some d) (hd : isPort d = true)
    (eff : o.eff { s := s1, gi := s.cur, g := groupAt s1 s.cur, s0 := s } vs = .done s2 (some v) none)
    (check : pushCheck s2 s.cur (portOf d) v = none) :
    scalExec o s = .next ((sendPush s2 s.cur (portOf d) (groupAt s2 s.cur).spc.toNat s2.now v).modGroup s.cur (goTo none o.len)) := by
  have passes : resultFails s.cur o s2 (some v) = none := by simp [resultFails, dst, hd, check]
  simp only [scalExec_go h, eff, passes, writeResult_port dst hd]

/-! ## Arithmetic on registers and an immediate (R45, R92) -/

variable {imm : Word} {f : Word → Word → Word}

theorem plain_one (ha : Claim.plain a) : ∀ r ∈ [a], Claim.plain r := by simpa using ha
theorem plain_some (hd : Claim.plain d) : ∀ r ∈ some d, Claim.plain r := by simpa using hd

theorem siAlu_writes (h : Claim.ScalarIdle s g) (hd : Claim.plain d) (ha : Claim.plain a) :
    siAlu d a imm len f s = .next (s.modGroup s.cur (Claim.wrote d (f (sreg g a.toNat) imm) len)) := by
  unfold siAlu
  exact scalExec_wrote (scalGo_of_plain h rfl rfl rfl rfl (plain_one ha) (plain_some hd)) rfl hd rfl

theorem siMov_writes (h : Claim.ScalarIdle s g) (hd : Claim.plain d) : siMov d imm len s = .next (s.modGroup s.cur (Claim.wrote d imm len)) := by
  unfold siMov
  exact scalExec_wrote (scalGo_of_plain h rfl rfl rfl rfl (by simp) (plain_some hd)) rfl hd rfl

theorem w64_wrapInt (n : Int) : w64 (wrapInt 64 n) = BitVec.ofInt 64 n := by
  refine BitVec.eq_of_toNat_eq ?_
  rw [w64, wrapInt, BitVec.toNat_ofNat, BitVec.toNat_ofInt]
  omega

theorem signedOf_toNat (b : Word) : signedOf 64 b.toNat = b.toInt := by
  have := b.isLt
  rw [signedOf, BitVec.toInt_eq_toNat_cond]
  split <;> split <;> omega

theorem opSdiv_eq_quot {b : Word} : opSdiv false v b = Claim.quot false v b := by
  unfold opSdiv Claim.quot intDiv
  by_cases hb : b = 0
  · subst hb
    rfl
  · have hn : b.toNat ≠ 0 := fun h => hb (BitVec.eq_of_toNat_eq h)
    simp only [hn, hb, Bool.not_false, if_true, if_false, signedOf_toNat, w64_wrapInt]
    rfl

theorem opSrem_eq_remn {b : Word} : opSrem false v b = Claim.remn false v b := by
  unfold opSrem Claim.remn intDiv
  by_cases hb : b = 0
  · subst hb
    exact (BitVec.ofNat_toNat 64 v).trans (BitVec.setWidth_eq v)
  · have hn : b.toNat ≠ 0 := fun h => hb (BitVec.eq_of_toNat_eq h)
    simp only [hn, hb, Bool.not_false, if_true, if_false, signedOf_toNat, w64_wrapInt]
    rfl

end Sys2Proof.Proofs
end

section
/-! SUPPORT. Words with an immediate, with and without LIMM (R45, R47): one meaning of the extended immediate and the length. -/

namespace Sys2Proof.Proofs

open Sys2Proof Sys2Proof.Machine

variable {s : State} {g : Group} {i : Instr} {d a : SReg} {imm : Word} {n len : Nat} {signed : Bool} {ext : BitVec 14 → Word} {o : Out}

/-! ## Loads, stores and parameter reads whose checks pass -/

/-- A load into a register whose pages are translated and whose checks pass issues its set. -/
theorem issueLoad_issues {va : Nat} {srcs : List SReg} (h : Claim.ScalarIdle s g) (hd : Claim.plain d)
    (issues : Claim.Issues s g (Claim.scalarAccess s g .load va n 0 (.sreg d n signed))) :
    issueLoad { s := s, gi := s.cur, g := g, s0 := s } srcs d len va n signed =
      .done (issueSet s (Claim.scalarAccess s g .load va n 0 (.sreg d n signed))) none none :=
  (if_neg (c := isPort d = true) (by simp [isPort_of_plain hd])).trans
    (issueScalar_of_issues (x := { s := s, gi := s.cur, g := g, s0 := s }) (partyFull_of_idle h) issues)

theorem sldOp_issues (h : Claim.ScalarIdle s g) (hd : Claim.plain d) (ha : Claim.plain a) (low : (sreg g a.toNat + imm).toNat < 2 ^ 48)
    (issues : Claim.Issues s g (Claim.scalarAccess s g .load (sreg g a.toNat + imm).toNat n 0 (.sreg d n signed))) :
    sldOp d a imm n signed len s = .next ((issueSet s
      (Claim.scalarAccess s g .load (sreg g a.toNat + imm).toNat n 0 (.sreg d n signed))).modGroup s.cur (Claim.wordBy len id)) := by
  unfold sldOp
  refine scalExec_moves (scalGo_of_plain h rfl rfl rfl rfl (plain_one ha) (plain_some hd)) (next := none) ?_
  simp only [arg, List.map, List.getD_cons_zero, noncanon_of_lt low, groupAt_of_getElem? h.group]
  exact issueLoad_issues h hd issues

theorem sstOp_issues (h : Claim.ScalarIdle s g) (hd : Claim.plain d) (ha : Claim.plain a) (low : (sreg g a.toNat + imm).toNat < 2 ^ 48)
    (issues : Claim.Issues s g (Claim.scalarAccess s g .store (sreg g a.toNat + imm).toNat n ((sreg g d.toNat).toNat % 2 ^ (8 * n)) .none)) :
    sstOp d a imm n len s = .next ((issueSet s (Claim.scalarAccess s g .store (sreg g a.toNat + imm).toNat n
      ((sreg g d.toNat).toNat % 2 ^ (8 * n)) .none)).modGroup s.cur (Claim.wordBy len fun h => { h with prog := 0 })) := by
  have moved : Claim.wordBy len (fun h => { h with prog := 0 }) = goTo none len ∘ fun h => { h with prog := 0 } := rfl
  rw [moved, ← modGroup_comp]
  unfold sstOp
  refine scalExec_moves (scalGo_of_plain h rfl rfl (regionLive_of_idle h) rfl (by simp [ha, hd]) (by simp)) (next := none) ?_
  simp only [arg, List.map, List.getD_cons_zero, List.getD_cons_succ, noncanon_of_lt low, groupAt_of_getElem? h.group]
  exact issueScalar_of_issues (x := { s := s, gi := s.cur, g := g, s0 := s }) (partyFull_of_idle h) issues

/-- A read of a parameter window that passes the window puts 0 in sd and sets the window's bit (R206). -/
theorem sldwOp_past {w : BitVec 3} (h : Claim.ScalarIdle s g) (hd : Claim.plain d) (bound : (windowOf s g w.toNat).2 ≠ 0) (aligned : imm.toNat % 8 = 0)
    (past : imm.toInt < 0 ∨ ((windowOf s g w.toNat).2 : Int) < imm.toInt + 8) :
    sldwOp d w imm len s = .next (s.modGroup s.cur fun h => { Claim.wrote d 0 len h with pwstat := h.pwstat ||| (1#8 <<< w.toNat) }) := by
  unfold sldwOp
  have after : Claim.wrote d 0 len ∘ (fun h => { h with pwstat := h.pwstat ||| (1#8 <<< w.toNat) }) =
      fun h : Group => { Claim.wrote d 0 len h with pwstat := h.pwstat ||| (1#8 <<< w.toNat) } := rfl
  rw [← after, ← modGroup_comp]
  refine scalExec_wrote (v := 0) (scalGo_of_plain h rfl ?own rfl rfl (by simp) (plain_some hd)) rfl hd ?eff
  case own => exact (if_neg bound).trans (if_neg (not_not.mpr aligned))
  case eff =>
    simp only [groupAt_of_getElem? h.group]
    exact if_pos past

theorem sldwOp_issues {w : BitVec 3} (h : Claim.ScalarIdle s g) (hd : Claim.plain d) (aligned : imm.toNat % 8 = 0) (pos : 0 ≤ imm.toInt)
    (inside : imm.toInt + 8 ≤ ((windowOf s g w.toNat).2 : Int)) (low : (windowOf s g w.toNat).1 + imm.toNat < 2 ^ 48)
    (issues : Claim.Issues s g (Claim.scalarAccess s g .load ((windowOf s g w.toNat).1 + imm.toNat) 8 0 (.sreg d 8 false))) :
    sldwOp d w imm len s = .next ((issueSet s
      (Claim.scalarAccess s g .load ((windowOf s g w.toNat).1 + imm.toNat) 8 0 (.sreg d 8 false))).modGroup s.cur (Claim.wordBy len id)) := by
  have bound : (windowOf s g w.toNat).2 ≠ 0 := by omega
  unfold sldwOp
  refine scalExec_moves (scalGo_of_plain h rfl ?own rfl rfl (by simp) (plain_some hd)) (next := none) ?eff
  case own => exact (if_neg bound).trans (if_neg (not_not.mpr aligned))
  case eff =>
    have within : ¬(imm.toInt < 0 ∨ ((windowOf s g w.toNat).2 : Int) < imm.toInt + 8) := by omega
    simp only [groupAt_of_getElem? h.group, if_neg within, noncanon_of_lt low]
    exact issueLoad_issues h hd issues

/-! ## One meaning for both lengths -/

/-- What an SI word does with its immediate extended by `ext`, as `len` bytes; `o` for every other instruction. -/
def siWord (ext : BitVec 14 → Word) (len : Nat) (o : Out) (s : State) (i : Instr) : Out :=
  match i with
  | .saddImm d a m => siAlu d a (ext m) len (· + ·) s
  | .smulImm d a m => siAlu d a (ext m) len (· * ·) s
  | .sdivImm d a m => siAlu d a (ext m) len (opSdiv false) s
  | .sremImm d a m => siAlu d a (ext m) len (opSrem false) s
  | .sandImm d a m => siAlu d a (ext m) len (· &&& ·) s
  | .sorImm d a m => siAlu d a (ext m) len (· ||| ·) s
  | .sxorImm d a m => siAlu d a (ext m) len (· ^^^ ·) s
  | .sshlImm d a m => siAlu d a (ext m) len opSshl s
  | .sshrImm d a m => siAlu d a (ext m) len opSshr s
  | .ssraImm d a m => siAlu d a (ext m) len opSsra s
  | .sminImm d a m => siAlu d a (ext m) len (opSmin false) s
  | .smaxImm d a m => siAlu d a (ext m) len (opSmax false) s
  | .smovImm d m => siMov d (ext m) len s
  | .sld64 d a m => sldOp d a (ext m) 8 false len s
  | .sldN32 d a m => sldOp d a (ext m) 4 false len s
  | .sldI32 d a m => sldOp d a (ext m) 4 true len s
  | .sst64 d a m => sstOp d a (ext m) 8 len s
  | .sstN32 d a m => sstOp d a (ext m) 4 len s
  | .sldw d w m => sldwOp d w (ext m) len s
  | _ => o

theorem exec_eq_siWord (i : Instr) : exec i s = siWord imm14 4 (exec i s) s i := by
  unfold siWord
  split <;> rfl

theorem runSi_eq_siWord (i : Instr) (hi : BitVec 26) : runSi i hi s = siWord (limmImm hi) 8 (.next s) s i := rfl

theorem siWord_alu {m : BitVec 14} {rs : List SReg} {f : Word → Group → Word} (h : Claim.ScalarIdle s g)
    (hi : Claim.immVal i = some (d, rs, m, f)) (hd : Claim.plain d) (hs : ∀ r ∈ rs, Claim.plain r) :
    siWord ext len o s i = .next (s.modGroup s.cur (Claim.wrote d (f (ext m) g) len)) := by
  unfold Claim.immVal at hi
  split at hi
  -- SDIV, SREM and SMOV
  case h_3 => cases hi; simp only [← opSdiv_eq_quot]; exact siAlu_writes h hd (hs _ (.head _))
  case h_4 => cases hi; simp only [← opSrem_eq_remn]; exact siAlu_writes h hd (hs _ (.head _))
  case h_13 => cases hi; exact siMov_writes h hd
  case h_14 => cases hi
  all_goals cases hi; exact siAlu_writes h hd (hs _ (.head _))

theorem siWord_load {m : BitVec 14} (h : Claim.ScalarIdle s g) (hi : Claim.loadForm i = some (d, a, m, n, signed)) (hd : Claim.plain d)
    (ha : Claim.plain a) (low : (sreg g a.toNat + ext m).toNat < 2 ^ 48)
    (issues : Claim.Issues s g (Claim.scalarAccess s g .load (sreg g a.toNat + ext m).toNat n 0 (.sreg d n signed))) :
    siWord ext len o s i = .next ((issueSet s
      (Claim.scalarAccess s g .load (sreg g a.toNat + ext m).toNat n 0 (.sreg d n signed))).modGroup s.cur (Claim.wordBy len id)) := by
  unfold Claim.loadForm at hi
  split at hi
  all_goals cases hi
  all_goals exact sldOp_issues h hd ha low issues

theorem siWord_store {m : BitVec 14} (h : Claim.ScalarIdle s g) (hi : Claim.storeForm i = some (d, a, m, n)) (hd : Claim.plain d)
    (ha : Claim.plain a) (low : (sreg g a.toNat + ext m).toNat < 2 ^ 48)
    (issues : Claim.Issues s g (Claim.scalarAccess s g .store (sreg g a.toNat + ext m).toNat n ((sreg g d.toNat).toNat % 2 ^ (8 * n)) .none)) :
    siWord ext len o s i = .next ((issueSet s (Claim.scalarAccess s g .store (sreg g a.toNat + ext m).toNat n
      ((sreg g d.toNat).toNat % 2 ^ (8 * n)) .none)).modGroup s.cur (Claim.wordBy len fun h => { h with prog := 0 })) := by
  unfold Claim.storeForm at hi
  split at hi
  all_goals cases hi
  all_goals exact sstOp_issues h hd ha low issues

theorem siWord_runs (h : Claim.ScalarIdle s g) : Claim.SiRuns (siWord ext len o s i) s g i ext len where
  alu _ _ _ _ hi hd hs := siWord_alu h hi hd hs
  load _ _ _ _ _ hi hd ha low issues := siWord_load h hi hd ha low issues
  store _ _ _ _ hi hd ha low issues := siWord_store h hi hd ha low issues
  param _ _ _ hi hd bound aligned past := hi ▸ sldwOp_past h hd bound aligned past
  read _ _ _ hi hd aligned pos inside low issues := hi ▸ sldwOp_issues h hd aligned pos inside low issues

/-- A LIMM before an SI word runs it with the forty bits (R47). -/
theorem execLimm_si {hi : BitVec 26} {bs : List Byte} (h : Claim.ScalarIdle s g) (inside : scalarInside s g (g.spc + 4).toNat = true)
    (read : coreRead s (g.quad / 4) (ctxIx s g) (g.spc + 4).toNat 4 .fetch = .ok bs) (si : isSi (BitVec.ofNat 32 (leNat bs)) = true)
    (word : decodeScalar (BitVec.ofNat 32 (leNat bs)) = .ok i) : execLimm hi s = runSi i hi s := by
  simp only [execLimm, h.group, h.run, inside, read, si, word]
  rfl

/-- Settles O10: an SI word is `siWord` of its extended immediate and its length (`exec_eq_siWord`), and behind a LIMM it is the same word of
the forty bits and eight bytes (`runSi_eq_siWord`). -/
theorem immediateWords : Obligations.ImmediateWords := by
  intro s g i idle
  refine ⟨?_, fun hi bs inside read si word => ?_⟩
  · rw [exec_eq_siWord]
    exact siWord_runs idle
  · have run : exec (.limm hi) s = siWord (limmImm hi) 8 (.next s) s i := (execLimm_si idle inside read si word).trans (runSi_eq_siWord i hi)
    rw [run]
    exact siWord_runs idle

end Sys2Proof.Proofs
end

section
/-! SUPPORT. Queue ports of scalar words, transfers, and special registers (R32 to R34, R42, R46, R93, R273, R309, R310). -/

namespace Sys2Proof.Proofs

open Sys2Proof Sys2Proof.Machine

variable {s : State} {g : Group} {d a b : SReg} {o : ScalOp} {v : Word} {t : Option Word}

/-! ## Ports (R32 to R34, R93) -/

/-- A word of an idle stream whose destination has no room begins a blocking wait (R34). -/
theorem scalExec_full (h : Claim.ScalarIdle s g) (pre : o.pre.or (portFails o.srcs o.dst) = none)
    (own : o.own { s := s, gi := s.cur, g := g, s0 := s } = none) (hold : o.hold { s := s, gi := s.cur, g := g, s0 := s } = false)
    (full : noRoom s s.cur o = true) : scalExec o s = .next (enterWait s s.cur) := by
  have calm : regionHolds s g o = false := by simp [regionHolds, regionLive_of_idle h]
  simp only [scalExec, h.group, h.run, pre, own, scalarHeld_of_idle h, hold, calm, full]
  rfl

theorem saddReg_of_read {s1 : State} {x y : Word} (h : Claim.ScalarIdle s g) (hd : Claim.plain d) (ports : portFails [a, b] (some d) = none)
    (read : readSources s.cur [a, b] s = some (s1, [x, y])) :
    exec (.saddReg d a b) s = .next (s1.modGroup s.cur (Claim.wrote d (x + y) 4)) := by
  show alu2 d a b (· + ·) s = _
  unfold alu2
  refine scalExec_wrote (vs := [x, y]) ⟨h.group, h.run, ports, rfl, ?_, ?_, read⟩ rfl hd rfl
  · simp [scalarHeld_of_idle h, regionHolds, regionLive_of_idle h]
  · rw [noRoom_of_plain (plain_some hd)]
    rfl

theorem smovReg_sends (h : Claim.ScalarIdle s g) (hd : isPort d = true) (ha : Claim.plain a) (ports : portFails [a] (some d) = none)
    (room : pushRoom s s.cur (portOf d) = true) (check : pushCheck s s.cur (portOf d) (sreg g a.toNat) = none) :
    exec (.smovReg d a) s = .next ((sendPush s s.cur (portOf d) g.spc.toNat s.now (sreg g a.toNat)).modGroup s.cur fun h =>
      { h with spc := h.spc + 4, wait := .none }) := by
  have sent := scalExec_sends (d := d) (o := { srcs := [a], dst := some d, eff := pureEff fun vs => arg vs 0 })
    (scalGo_of_idle h rfl ports rfl rfl (by simp [noRoom, room]) rfl (plain_one ha)) rfl hd rfl check
  rw [groupAt_of_getElem? h.group] at sent
  exact sent

theorem smovReg_waits (h : Claim.ScalarIdle s g) (hd : isPort d = true) (ports : portFails [a] (some d) = none)
    (full : pushRoom s s.cur (portOf d) = false) : exec (.smovReg d a) s = .next (enterWait s s.cur) :=
  scalExec_full h ports rfl rfl (by simp [noRoom, hd, full])

theorem ssel_port_traps (hg : s.groups[s.cur]? = some g) (run : scalarMayRun g = true) (ports : portFails [a, b] (some d) = none)
    (hd : isPort d = true) : exec (.ssel d a b) s = .next (scalarTrap s s.cur g Tc.sdQueue) :=
  scalExec_own_trap (t := { cause := Tc.sdQueue }) hg run ports (if_pos hd)

/-- Settles O3: SADD and SMOV are the shared scalar frame with what `readSources` pops and what `writeResult` sends; SSEL's own check comes
before any port is touched. -/
theorem scalarPorts : Obligations.ScalarPorts := fun _ _ _ _ _ =>
  ⟨fun _ _ _ idle hd ports read => saddReg_of_read idle hd ports read, fun idle hd ha ports room check => smovReg_sends idle hd ha ports room check,
    fun idle hd _ ports full => smovReg_waits idle hd ports full, fun hg run ports hd => ssel_port_traps hg run ports hd⟩

/-! ## Transfers (R46, R273) -/

theorem condCode_eq_holds {c : BitVec 3} (hc : c.toNat < 6) (x y : Word) : condCode c x y = Claim.holds c x y := by
  unfold condCode condOf Claim.holds
  generalize c.toNat = n at hc
  interval_cases n
  · rfl
  · rfl
  · rfl
  · simp [condHolds, BitVec.slt, ← decide_not]
  · rfl
  · simp [condHolds, BitVec.ult, ← decide_not]

theorem condOf_isNone {c : BitVec 3} (hc : 6 ≤ c.toNat) : (condOf c).isNone = true := by
  revert c; decide

theorem condOf_isSome {c : BitVec 3} (hc : c.toNat < 6) : (condOf c).isNone = false := by
  revert c; decide

theorem plain_none : ∀ r ∈ (none : Option SReg), Claim.plain r := by simp

theorem sbr_goes {c : BitVec 3} {off : BitVec 11} (h : Claim.ScalarIdle s g) (hc : c.toNat < 6) (ha : Claim.plain a) (hb : Claim.plain b) :
    exec (.sbr c a b off) s = .next (s.modGroup s.cur (Claim.went
      (if Claim.holds c (sreg g a.toNat) (sreg g b.toNat) then g.spc + 4 * off.signExtend 64 else g.spc + 4))) := by
  have moved : exec (.sbr c a b off) s = .next (s.modGroup s.cur (goTo
      (if condCode c (sreg g a.toNat) (sreg g b.toNat) then some (relTarget g.spc off) else none) 4)) := by
    show execSbr c a b off s = _
    unfold execSbr
    refine scalExec_moves (scalGo_of_plain h (if_neg (by rw [condOf_isSome hc]; decide)) rfl rfl rfl (by simp [ha, hb]) plain_none) ?_
    rw [groupAt_of_getElem? h.group]
    rfl
  rw [moved, condCode_eq_holds hc]
  refine congrArg _ (modGroup_congr h.group ?_)
  cases Claim.holds c (sreg g a.toNat) (sreg g b.toNat) <;> rfl

theorem sjmp_goes {off : BitVec 26} (h : Claim.ScalarIdle s g) :
    exec (.sjmp off) s = .next (s.modGroup s.cur (Claim.went (g.spc + 4 * off.signExtend 64))) := by
  show execSjmp off s = _
  unfold execSjmp
  refine scalExec_moves (next := some (relTarget g.spc off)) (scalGo_of_plain h rfl rfl rfl rfl (by simp) plain_none) ?_
  rw [groupAt_of_getElem? h.group]

theorem scall_goes {off : BitVec 26} (h : Claim.ScalarIdle s g) :
    exec (.scall off) s = .next (s.modGroup s.cur fun h => { setSreg h 47 (g.spc + 4) with spc := g.spc + 4 * off.signExtend 64, wait := .none }) := by
  have link : Claim.plain 47 := by decide
  show execScall off s = _
  unfold execScall
  refine scalExec_writes (d := 47) (v := g.spc + 4) (next := some (relTarget g.spc off))
    (scalGo_of_plain h rfl rfl rfl rfl (by simp) (plain_some link)) rfl link ?_
  rw [groupAt_of_getElem? h.group]

theorem snop_goes (h : Claim.ScalarIdle s g) : exec .snop s = .next (s.modGroup s.cur (Claim.went (g.spc + 4))) := by
  have moved : exec .snop s = .next (s.modGroup s.cur (goTo none 4)) := by
    show execSnop s = _
    unfold execSnop
    exact scalExec_moves (next := none) (scalGo_of_plain h rfl rfl rfl rfl (by simp) plain_none) rfl
  rw [moved]
  exact congrArg _ (modGroup_congr h.group rfl)

theorem jumpTo_goes (h : Claim.ScalarIdle s g) (ha : Claim.plain a) (aligned : (sreg g a.toNat).toNat % 4 = 0) :
    jumpTo a s = .next (s.modGroup s.cur (Claim.went (sreg g a.toNat))) := by
  unfold jumpTo
  exact scalExec_moves (next := some (sreg g a.toNat)) (scalGo_of_plain h rfl rfl rfl rfl (plain_one ha) plain_none) (if_neg (not_not.mpr aligned))

theorem jumpTo_traps (h : Claim.ScalarIdle s g) (ha : Claim.plain a) (misaligned : (sreg g a.toNat).toNat % 4 ≠ 0) :
    jumpTo a s = .next (scalarTrap s s.cur g Tc.fetchMisaligned) := by
  unfold jumpTo
  exact scalExec_eff_trap (t := { cause := Tc.fetchMisaligned }) (scalGo_of_plain h rfl rfl rfl rfl (plain_one ha) plain_none) (if_pos misaligned)

theorem scalarTransfers : Claim.ScalarTransfers := fun _ _ idle =>
  ⟨fun _ _ _ _ hc ha hb => sbr_goes idle hc ha hb, fun _ => sjmp_goes idle, fun _ => scall_goes idle,
    fun _ ha aligned => ⟨jumpTo_goes idle ha aligned, jumpTo_goes idle ha aligned⟩, snop_goes idle⟩

/-- A word that fails its encoding check traps before anything else of it counts (R63). -/
theorem scalExec_pre_trap {c : Cause} (h : Claim.ScalarIdle s g) (pre : o.pre = some c) : scalExec o s = .next (scalarTrap s s.cur g c) := by
  simp only [scalExec, h.group, h.run, pre]
  rfl

theorem scalarTransferTraps : Claim.ScalarTransferTraps := fun _ _ idle =>
  ⟨fun _ ha misaligned => ⟨jumpTo_traps idle ha misaligned, jumpTo_traps idle ha misaligned⟩,
    fun _ _ _ _ _ hc => ⟨scalExec_pre_trap idle (if_pos (condOf_isNone hc)), scalExec_pre_trap idle (if_pos (condOf_isNone hc))⟩⟩

/-- Settles O4: each transfer is the shared scalar frame with a target, and a group moved to it is looked at only where it stands. -/
theorem scalarTransfersAndTraps : Obligations.ScalarTransfersAndTraps :=
  ⟨scalarTransfers, scalarTransferTraps⟩

/-! ## SGET (R42, R309, R310) -/

variable {ix : BitVec 8}

theorem sget_reads (h : Claim.ScalarIdle s g) (hd : Claim.plain d) (value : sgetValue s g ix.toNat = some v) (allowed : privBad s g ix.toNat = false) :
    exec (.sget d ix) s = .next (s.modGroup s.cur (Claim.wrote d v 4)) := by
  show execSget d ix s = _
  unfold execSget
  refine scalExec_wrote (scalGo_of_plain h rfl ?own rfl ?wait (by simp) (plain_some hd)) rfl hd ?eff
  case own => simp only [value, allowed]; rfl
  case wait => simp [h.lanes]
  case eff => simp only [groupAt_of_getElem? h.group, value]

theorem sget_undefined (h : Claim.ScalarIdle s g) (hd : Claim.plain d) (value : sgetValue s g ix.toNat = none) :
    exec (.sget d ix) s = .next (scalarTrap s s.cur g Tc.specialUndefined) :=
  scalExec_own_trap (t := { cause := Tc.specialUndefined }) h.group h.run (portFails_nil_of_plain hd) (if_pos (by rw [value]; rfl))

theorem sget_refused (h : Claim.ScalarIdle s g) (hd : Claim.plain d) (value : (sgetValue s g ix.toNat).isSome = true)
    (refused : privBad s g ix.toNat = true) : exec (.sget d ix) s = .next (scalarTrap s s.cur g Tc.privSpecial) :=
  scalExec_own_trap (t := { cause := Tc.privSpecial }) h.group h.run (portFails_nil_of_plain hd)
    ((if_neg (by simp [Option.isSome_iff_ne_none.mp value])).trans (if_pos refused))

theorem sgetReadsSpecial : Claim.SgetReadsSpecial := by
  intro s g d ix v idle hd hv
  suffices value : sgetValue s g ix.toNat = some v ∧ privBad s g ix.toNat = false from sget_reads idle hd value.1 value.2
  generalize ix.toNat = n at hv
  simp only [List.mem_cons, Prod.mk.injEq, List.not_mem_nil, or_false] at hv
  rcases hv with ⟨rfl, rfl⟩ | ⟨rfl, rfl⟩ | ⟨rfl, rfl⟩ | ⟨rfl, rfl⟩ | ⟨rfl, rfl⟩ | ⟨rfl, rfl⟩ | ⟨rfl, rfl⟩ | ⟨rfl, rfl⟩ | ⟨rfl, rfl⟩ | ⟨rfl, rfl⟩ |
    ⟨rfl, rfl⟩ | ⟨rfl, rfl⟩ | ⟨rfl, rfl⟩ | ⟨rfl, rfl⟩ | ⟨rfl, rfl⟩ | ⟨rfl, rfl⟩ | ⟨rfl, rfl⟩ | ⟨rfl, rfl⟩ | ⟨rfl, rfl⟩ | ⟨rfl, rfl⟩ | ⟨rfl, rfl⟩ <;>
    exact ⟨rfl, rfl⟩

theorem bit_toNat (x : Word) (k : Nat) : bit x.toNat k = x.getLsbD k := by
  rw [bit, BitVec.getLsbD, Nat.testBit_eq_decide_div_mod_eq]
  rfl

/-- No special register has a number above those of the trap registers. -/
theorem sgetValue_above {n : Nat} (h : 0x37 ≤ n) : sgetValue s g n = none := by
  have notTrap : isTrapIx n = false := by simp [isTrapIx]; omega
  rw [sgetValue, notTrap, if_neg Bool.false_ne_true, specialValue]
  all_goals omega

theorem sgetPrivilege : Claim.SgetPrivilege := by
  intro s g d ix idle hd
  have ctl (k : Nat) {b : Bool} (h : (ctxOf s g).ctl.getLsbD k = b) : bit (ctxOf s g).ctl.toNat k = b := (bit_toNat _ k).trans h
  refine ⟨fun allowed => ?_, fun refused => ?_, fun allowed => ?_, fun refused hix => ?_, fun above => sget_undefined idle hd (sgetValue_above above)⟩
  · exact sget_reads idle hd rfl (by simp [privBad, ctl 2 allowed])
  · exact sget_refused idle hd rfl (by simp [privBad, ctl 2 refused])
  · exact sget_reads idle hd rfl (by simp [privBad, ctl 1 allowed])
  · simp only [List.mem_cons, List.not_mem_nil, or_false] at hix
    rcases hix with rfl | rfl | rfl | rfl | rfl | rfl <;> exact sget_refused idle hd rfl (by simp [privBad, ctl 1 refused])

/-! ## SSET (R39, R42, R86, R309) -/

theorem sset_writes (h : Claim.ScalarIdle s g) (ha : Claim.plain a) (may : ssetFails s g ix.toNat = none)
    (part : ix.toNat = 0x21 → (sreg g a.toNat).toNat % 8 < 5)
    (mode : ix.toNat = 0x22 → cvmodeOk ((sreg g a.toNat).toNat % 2 ^ 32) = true) {f : Group → Group}
    (write : ssetGroup g ix.toNat (sreg g a.toNat) = f g) (spc : (f g).spc = g.spc) :
    exec (.sset a ix) s = .next (s.modGroup s.cur (Claim.nextWord f)) := by
  have moved : exec (.sset a ix) s = .next ((s.modGroup s.cur fun h => ssetGroup h ix.toNat (sreg g a.toNat)).modGroup s.cur (goTo none 4)) := by
    show execSset a ix s = _
    unfold execSset
    refine scalExec_moves (next := none) (scalGo_of_plain h rfl may rfl ?wait (plain_one ha) plain_none) ?eff
    case wait => simp [h.lanes]
    case eff =>
      have partOk : ¬(ix.toNat = 0x21 ∧ 5 ≤ (sreg g a.toNat).toNat % 8) := fun ⟨hix, hv⟩ => Nat.not_le.mpr (part hix) hv
      have modeOk : ¬(ix.toNat = 0x22 ∧ (!cvmodeOk ((sreg g a.toNat).toNat % 2 ^ 32)) = true) := fun ⟨hix, hv⟩ => by
        rw [mode hix] at hv
        cases hv
      exact (if_neg partOk).trans (if_neg modeOk)
  rw [moved, modGroup_comp]
  refine congrArg _ (modGroup_congr h.group ?_)
  simp only [Function.comp, write, goTo, Claim.nextWord, Option.getD_none, spc]
  rfl

theorem sset_readonly (h : Claim.ScalarIdle s g) (ha : Claim.plain a) (fails : ssetFails s g ix.toNat = some { cause := Tc.specialReadonly }) :
    exec (.sset a ix) s = .next (scalarTrap s s.cur g Tc.specialReadonly) :=
  scalExec_own_trap (t := { cause := Tc.specialReadonly }) h.group h.run (portFails_of_plain (plain_one ha) plain_none) fails

theorem ssetWritesSpecial : Claim.SsetWritesSpecial := by
  intro s g a idle ha v
  have no {m n : Nat} {p : Prop} (differ : (m == n) = false := by rfl) : m = n → p := fun same => absurd same (beq_eq_false_iff_ne.mp differ)
  refine ⟨?pwstat, ?exec, fun part => ?part, fun mode => ?mode, ?seed, fun handler => ⟨?tspc, ?tinfo⟩, fun out => ?readonly⟩
  case pwstat => exact sset_writes idle ha rfl no no rfl rfl
  case exec => exact sset_writes idle ha rfl no no rfl rfl
  case part => exact sset_writes idle ha rfl (fun _ => part) no rfl rfl
  case mode => exact sset_writes idle ha rfl no (fun _ => mode) rfl rfl
  case seed => exact sset_writes idle ha rfl no no rfl rfl
  case tspc => exact sset_writes idle ha (by simp [ssetFails, isTrapIx, handler]) no no rfl rfl
  case tinfo => exact sset_writes idle ha (by simp [ssetFails, isTrapIx, handler]) no no rfl rfl
  case readonly => exact sset_readonly idle ha (by simp [ssetFails, isTrapIx, waitsBlocks, out])

/-- Settles O7: SGET and SSET are the shared scalar frame; what an index reads, who may read it and what it writes are `sgetValue`, `privBad`
and `ssetGroup` at that index. -/
theorem scalarSpecialRegisters : Obligations.ScalarSpecialRegisters :=
  ⟨sgetReadsSpecial, sgetPrivilege, ssetWritesSpecial⟩

/-! ## Sample words (R44 to R63) -/

/-- Settles O55: each word is decoded as it stands. -/
theorem sampleWordsDecode : Obligations.SampleWordsDecode :=
  ⟨rfl, rfl, rfl, rfl, rfl, ⟨_, rfl, rfl, rfl, rfl, rfl, rfl⟩, ⟨_, rfl, rfl, rfl, rfl⟩⟩

end Sys2Proof.Proofs
end

section
/-! SUPPORT. Lane words that give lanes a register or a predicate: writing one lane's registers, writing a list of lanes, moving on,
and from these what a register-giving lane word leaves as it was (R30, R38, R88, R95). -/

namespace Sys2Proof.Proofs

open Sys2Proof Sys2Proof.Machine

variable {s : State} {g : Group} {maj : Nat} {w : LaneW} {l l' l'' : Lane} {vd : Nat}

/-! ## Writing one lane -/

/-- All but the register or pair at `vd` and the predicates stands in a lane. -/
structure KeepsRest (vd : Nat) (l l' : Lane) : Prop where
  launched : l'.launched = l.launched
  helper   : l'.helper = l.helper
  exited   : l'.exited = l.exited
  sr       : l'.sr = l.sr
  vreg     : ∀ r, r ≠ vd → r ≠ vd + 1 → l'.vreg r = l.vreg r

theorem KeepsRest.refl : KeepsRest vd l l := ⟨rfl, rfl, rfl, rfl, fun _ _ _ => rfl⟩

theorem KeepsRest.trans (h : KeepsRest vd l l') (h' : KeepsRest vd l' l'') : KeepsRest vd l l'' where
  launched := h'.launched.trans h.launched
  helper := h'.helper.trans h.helper
  exited := h'.exited.trans h.exited
  sr := h'.sr.trans h.sr
  vreg r low high := (h'.vreg r low high).trans (h.vreg r low high)

theorem vreg_setV_ne {r q : Nat} {v : W32} (ne : q ≠ r) : (l.setV r v).vreg q = l.vreg q := by
  simp [Lane.vreg, Lane.setV, tget_tset, ne]

theorem setV_keepsRest {r : Nat} {v : W32} (within : r = vd ∨ r = vd + 1) : KeepsRest vd l (l.setV r v) :=
  ⟨rfl, rfl, rfl, rfl, fun q low high => vreg_setV_ne (by rcases within with rfl | rfl <;> assumption)⟩

theorem setWide_keepsRest {width v : Nat} : KeepsRest vd l (l.setWide width vd v) := by
  unfold Lane.setWide
  split
  · exact (setV_keepsRest (.inl rfl)).trans (setV_keepsRest (.inr rfl))
  · exact setV_keepsRest (.inl rfl)

theorem setP_keepsRest {k : Nat} {b : Bool} : KeepsRest vd l (l.setP k b) := by
  unfold Lane.setP
  split
  · exact .refl
  · exact ⟨rfl, rfl, rfl, rfl, fun _ _ _ => rfl⟩

theorem writeTy_keepsRest {t : Ty} {v : Nat} : KeepsRest vd l (writeTy t l vd v) := by
  unfold writeTy
  split <;> exact setWide_keepsRest

/-! ## Writing a list of lanes -/

variable {ls : List Nat} {f : Nat → Lane → Lane} {k : Nat}

theorem mapLanes_nil : mapLanes g [] f = g := rfl

theorem mapLanes_cons (i : Nat) : mapLanes g (i :: ls) f = mapLanes { g with lanes := g.lanes.modify i (f i) } ls f := rfl

theorem lanes_length_mapLanes : (mapLanes g ls f).lanes.length = g.lanes.length := by
  induction ls generalizing g with
  | nil => rfl
  | cons i ls ih => rw [mapLanes_cons, ih]; exact List.length_modify ..

theorem laneAt_modify_ne {i : Nat} (ne : i ≠ k) : laneAt { g with lanes := g.lanes.modify i (f i) } k = laneAt g k := by
  simp [laneAt, List.getD_eq_getElem?_getD, ne]

theorem laneAt_modify_self (inside : k < g.lanes.length) :
    laneAt { g with lanes := g.lanes.modify k (f k) } k = f k (laneAt g k) := by
  simp [laneAt, List.getD_eq_getElem?_getD, inside]

/-- A lane that is not listed stands. -/
theorem laneAt_mapLanes_of_notMem (out : k ∉ ls) : laneAt (mapLanes g ls f) k = laneAt g k := by
  induction ls generalizing g with
  | nil => rfl
  | cons i ls ih =>
    rw [List.mem_cons, not_or] at out
    rw [mapLanes_cons, ih out.2, laneAt_modify_ne (Ne.symm out.1)]

/-- A lane that is listed once is written once. -/
theorem laneAt_mapLanes_of_mem (once : ls.Nodup) (inside : k < g.lanes.length) (listed : k ∈ ls) :
    laneAt (mapLanes g ls f) k = f k (laneAt g k) := by
  induction ls generalizing g with
  | nil => cases listed
  | cons i ls ih =>
    rw [List.nodup_cons] at once
    rw [mapLanes_cons]
    obtain rfl | later := List.mem_cons.mp listed
    · rw [laneAt_mapLanes_of_notMem once.1, laneAt_modify_self inside]
    · have ne : i ≠ k := fun same => once.1 (same ▸ later)
      rw [ih once.2 (by simpa using inside) later, laneAt_modify_ne ne]

/-- What every write keeps of a lane, writing a list of lanes keeps. -/
theorem mapLanes_keepsRest (keeps : ∀ i l, KeepsRest vd l (f i l)) (inside : k < g.lanes.length) :
    KeepsRest vd (laneAt g k) (laneAt (mapLanes g ls f) k) := by
  induction ls generalizing g with
  | nil => exact .refl
  | cons i ls ih =>
    rw [mapLanes_cons]
    refine KeepsRest.trans ?_ (ih (by simpa using inside))
    by_cases here : i = k
    · subst here; rw [laneAt_modify_self inside]; exact keeps i _
    · rw [laneAt_modify_ne here]; exact .refl

/-! ## Moving on -/

/-- A path that has been changed is the change of the path as it was. -/
theorem pathOf_modPath {path1 : Bool} {change : Path → Path} : pathOf (modPath g path1 change) path1 = change (pathOf g path1) := by
  cases path1 <;> rfl

/-- Moving on changes the paths and what is counted of them; the other parts of the group stand. -/
theorem advance_keeps (x : LaneIn) {set : Option Nat} : (advance x set g).lanes = g.lanes ∧ (advance x set g).s = g.s ∧
    (advance x set g).spc = g.spc ∧ (advance x set g).part = g.part ∧ (advance x set g).cvmode = g.cvmode ∧
    (advance x set g).cvseed = g.cvseed ∧ (advance x set g).ifc = g.ifc ∧ (advance x set g).trap = g.trap := by
  unfold advance modPath setPath
  cases x.path1 <;> exact ⟨rfl, rfl, rfl, rfl, rfl, rfl, rfl, rfl⟩

theorem pathOf_advance (x : LaneIn) {set : Option Nat} : pathOf (advance x set g) x.path1 =
    { pathOf g x.path1 with
      lpc := nextLpc (pathOf g x.path1).lpc x.w.safe + (pathOf g x.path1).skip, skip := 0,
      look := (if closes x.maj x.w then [] else stepLook (pathOf g x.path1).look) ++ openLook x set } := by
  unfold advance
  exact pathOf_modPath

theorem laneAt_advance (x : LaneIn) {set : Option Nat} : laneAt (advance x set g) k = laneAt g k := by
  simp [laneAt, (advance_keeps x).1]

/-! ## Words that give lanes a register or a predicate -/

/-- The word gives acting lanes the register or pair at its VD, predicates, or both, and goes by. -/
def GivesLanes (maj : Nat) (w : LaneW) (o : State → Out) : Prop :=
  ∃ f : LaneIn → Nat → Lane → Lane, (∀ x i l, x.w = w → KeepsRest w.vd.toNat l (f x i l)) ∧ ∀ s, o s = laneMap maj w s f

theorem laneMap_gives {f : LaneIn → Nat → Lane → Lane} (keeps : ∀ x i l, x.w = w → KeepsRest w.vd.toNat l (f x i l)) :
    GivesLanes maj w (laneMap maj w · f) := ⟨f, keeps, fun _ => rfl⟩

theorem laneValue_gives {f : LaneIn → Lane → Nat} : GivesLanes maj w (laneValue maj w · f) :=
  laneMap_gives fun _ _ _ same => same ▸ writeTy_keepsRest

theorem laneWord32_gives {f : LaneIn → Lane → Nat} : GivesLanes maj w (laneWord32 maj w · f) :=
  laneMap_gives fun _ _ _ same => same ▸ setV_keepsRest (.inl rfl)

theorem lanePred_gives {f : LaneIn → Lane → Bool} : GivesLanes maj w (lanePred maj w · f) :=
  laneMap_gives fun _ _ _ _ => setP_keepsRest

theorem laneFp_gives {f : LaneIn → Lane → Fv} : GivesLanes maj w (laneFp maj w · f) := laneValue_gives

theorem intForm_gives {i : Instr} {f : LaneIn → Nat → Lane → Lane} (form : Claim.intForm i = some (maj, w, f)) :
    GivesLanes maj w (exec i) := by
  unfold Claim.intForm at form
  split at form
  case h_20 | h_21 => cases form; exact laneWord32_gives
  case h_27 | h_28 => cases form; exact lanePred_gives
  case h_29 => cases form; exact laneMap_gives fun _ _ _ _ => writeTy_keepsRest.trans setP_keepsRest
  case h_30 => cases form
  all_goals cases form; exact laneValue_gives

theorem fpForm_gives {i : Instr} {f : LaneIn → Nat → Lane → Lane} (form : Claim.fpForm i = some (maj, w, f)) :
    GivesLanes maj w (exec i) := by
  unfold Claim.fpForm at form
  split at form
  case h_9 => cases form; exact lanePred_gives
  case h_10 => cases form; exact laneWord32_gives
  case h_19 => cases form
  all_goals cases form; exact laneFp_gives

theorem vvote_gives : GivesLanes 0x62 w (execVvote w) := by
  refine laneMap_gives fun x i l same => ?_
  dsimp only
  split
  case h_4 => exact writeTy_keepsRest
  all_goals exact setP_keepsRest

theorem crossForm_gives {i : Instr} {f : LaneIn → Nat → Lane → Lane} (form : Claim.crossForm i = some (maj, w, f)) :
    GivesLanes maj w (exec i) := by
  unfold Claim.crossForm at form
  split at form
  case h_3 => cases form; exact vvote_gives
  case h_4 => cases form; exact laneMap_gives fun _ _ _ _ => setWide_keepsRest
  case h_7 => cases form
  all_goals cases form; exact laneMap_gives fun _ _ _ _ => writeTy_keepsRest

/-- Settles O18: each of these words maps its acting lanes and moves on; the map writes the register or pair at VD and predicates. -/
theorem laneResultFrame : Obligations.LaneResultFrame := by
  intro i maj w f s g form go
  have gives : GivesLanes maj w (exec i) := by
    rcases form with form | form | form
    · exact intForm_gives form
    · exact fpForm_gives form
    · exact crossForm_gives form
  obtain ⟨f, keeps, runs⟩ := gives
  set x := laneIn maj w s g
  set mapped := mapLanes g (acting x) (f x)
  have present : s.cur < s.groups.length := (List.getElem?_eq_some_iff.mp go.group).1
  obtain ⟨lanes, regs, spc, part, cvmode, cvseed, ifc, trap⟩ := advance_keeps (g := mapped) x (set := none)
  have path := pathOf_advance (g := mapped) x (set := none)
  refine ⟨s.setGroup s.cur (advance x none mapped), advance x none mapped, (runs s).trans (laneMap_go go),
    List.getElem?_set_self present, ⟨rfl, fun j ne => List.getElem?_set_ne (Ne.symm ne)⟩, fun _ => rfl,
    regs, spc, part, cvmode, cvseed, ifc, trap, ?length, fun k _ idle => ?idle, fun k inside => ?rest, ?lpc, ?mask⟩
  case length => rw [lanes]; exact lanes_length_mapLanes
  case idle => rw [laneAt_advance]; exact laneAt_mapLanes_of_notMem idle
  case rest =>
    rw [laneAt_advance]
    obtain ⟨launched, helper, exited, sr, vreg⟩ := mapLanes_keepsRest (ls := acting x) (fun i l => keeps x i l rfl) inside
    exact ⟨launched, helper, exited, sr, vreg⟩
  case lpc => exact (congrArg Path.lpc path :)
  case mask => exact (congrArg Path.exec path :)

end Sys2Proof.Proofs
end

section
/-! SUPPORT. Pair words: what one that nothing holds back does, and where its path stands afterwards at the end of LPC's range
(R30, R53, R54). -/

namespace Sys2Proof.Proofs

open Sys2Proof Sys2Proof.Machine

variable {s : State} {g : Group} {w : PairW}

/-- A pair word as the lane view of its first sub-operation, which opens no window. -/
def pairView (w : PairW) (s : State) (g : Group) : LaneIn :=
  { subIn s s.cur g s.path1 w w.a with w := { subWord w w.a with look := 0 } }

/-- The group after a pair word: both sub-operations on the registers before it, and its path moved on. -/
def pairDone (w : PairW) (s : State) (g : Group) : Group :=
  advance (pairView w s g) none
    (subEff (subIn s s.cur g s.path1 w w.b) w.b (subEff (subIn s s.cur g s.path1 w w.a) w.a g))

/-- A pair word that no trap stops and no register owed holds back is performed (R53). -/
theorem pairWord_performs (present : s.groups[s.cur]? = some g) (run : laneMayRun s g s.path1 = true)
    (gap : (g.frame.isNone && decide (4096 ≤ g.gap)) = false)
    (fields : (subFields (regsOf s g) w.a).or (subFields (regsOf s g) w.b) = none) (good : pairBad w = false)
    (shut : ((pathOf g s.path1).look.any fun k => 0 < k.left && k.dests.any (Claim.pairNames w).contains) = false)
    (free : ((owed s s.cur).any (Claim.pairNames w).contains || interlocked (pairView w s g)) = false) :
    exec (.pairWord w) s = .next (s.setGroup s.cur (pairDone w s g)) := by
  show execPairWord w s = _
  unfold execPairWord
  simp only [present, run, gap, fields, good]
  exact (if_neg (Bool.eq_false_iff.mp shut)).trans (if_neg (Bool.eq_false_iff.mp free))

/-- The path after a pair word stands at the next lane word, in the 24 bits of LPC (R30). -/
theorem lpc_pairDone : (pathOf (pairDone w s g) s.path1).lpc = nextLpc (pathOf g s.path1).lpc false + (pathOf g s.path1).skip := by
  have path := pathOf_advance (pairView w s g) (set := none)
    (g := subEff (subIn s s.cur g s.path1 w w.b) w.b (subEff (subIn s s.cur g s.path1 w w.a) w.a g))
  exact (congrArg Path.lpc path :)

/-! ## The last lane word of LPC's range -/

/-- A lane block about to run lane word 0xFFFFFF. -/
def lastWord : State := (State.reset.withFetchWord 96 0).modGroup 0 fun g => { g with p0 := { g.p0 with lpc := 0xFFFFFF } }

/-- VADD `vd`, v2, `vb` as a sub-operation. -/
def pairAdd (vd vb : LReg) : SubOp :=
  { op := 0x01, vd := vd, va := 2, vb := vb, g := 7, n := false, cls := 0, sgn := false, res0 := 0 }

/-- VADD v0, v2, v3 beside VADD v1, v2, v4. -/
def twoAdds : PairW := { sat := false, rnd := 0, a := pairAdd 0 3, b := pairAdd 1 4 }

theorem twoAdds_performs : exec (.pairWord twoAdds) lastWord = .next (lastWord.setGroup 0 (pairDone twoAdds lastWord (groupAt lastWord 0))) :=
  pairWord_performs rfl (by decide) (by decide) (by decide) (by decide) (by decide) (by decide)

/-- Refutes O19: LPC has 24 bits, and behind lane word 0xFFFFFF the model's path stands at 0 (notes/assumptions/81.md), where the statement
has it at 0x1000000. -/
theorem not_pairWordResults : ¬ Obligations.PairWordResults := by
  intro claim
  obtain ⟨-, -, -, -, performed⟩ := claim twoAdds lastWord (groupAt lastWord 0) rfl (by decide) (by decide)
  obtain ⟨h, runs, -, -, -, -, -, -, -, -, -, -, -, lpc⟩ := performed (by decide) (by decide) (by decide) (by decide)
  have same : h = pairDone twoAdds lastWord (groupAt lastWord 0) := by
    have states := Host.Outcome.next.inj (runs.symm.trans twoAdds_performs)
    have groups := congrArg (fun t : State => t.groups[0]?) states
    exact Option.some.inj groups
  have wraps : (pathOf h lastWord.path1).lpc = 0 := by rw [same]; exact lpc_pairDone
  rw [wraps] at lpc
  revert lpc
  decide

end Sys2Proof.Proofs
end

section
/-! SUPPORT. A turn that fetches: what fetching leaves of the pre-emption requests, that a fetched word of a stream is run on the bytes
at SPC or LPC, and what the carousel's slot makes of its answer (R49, R55, R63, R270). -/

namespace Sys2Proof.Proofs

open Sys2Proof Sys2Proof.Machine

variable {s t u : State} {g : Group} {gi : Nat}

/-! ## Fetching leaves the pre-emption requests -/

/-- Every team is asked to leave in `t` as in `s`. -/
def SameRequests (s t : State) : Prop := t.teams.map Team.request = s.teams.map Team.request

theorem SameRequests.of_teams (same : t.teams = s.teams) : SameRequests s t := congrArg (List.map Team.request) same

theorem SameRequests.trans (h : SameRequests s t) (h' : SameRequests t u) : SameRequests s u := Eq.trans h' h

theorem requested_of_sameRequests (h : SameRequests s t) : requested t g = requested s g := by
  have team : (teamOf t g).request = (teamOf s g).request := by
    unfold teamOf
    rw [← List.getD_map (f := Team.request), ← List.getD_map (f := Team.request), show t.teams.map Team.request = _ from h]
  unfold requested
  rw [team]

theorem sameRequests_foldl {α : Type} {f : State → α → State} (keeps : ∀ s x, SameRequests s (f s x)) (l : List α) (s : State) :
    SameRequests s (l.foldl f s) :=
  List.foldlRecOn (motive := SameRequests s) l f rfl fun _ h x _ => h.trans (keeps _ x)

theorem setTimesAt_sameRequests {sec : Nat} {x : Nat × Nat} : SameRequests s (setTimesAt s sec x) := by
  unfold setTimesAt setSector
  split
  · exact rfl
  · split <;> exact rfl

theorem walkTimes_sameRequests {d c va : Nat} : SameRequests s (walkTimes s d c va) := by
  unfold walkTimes
  extract_lets lt reads r
  have read : SameRequests s r.1 :=
    List.foldlRecOn (motive := fun acc : State × Nat => SameRequests s acc.1) reads _ rfl fun acc h pa _ =>
      h.trans (sameRequests_foldl (fun _ _ => setTimesAt_sameRequests) (sectorsOf pa 8) acc.1)
  exact read

theorem enterPage_sameRequests {core c va : Nat} {k : Xk} : SameRequests s (enterPage s core c k va) := by
  unfold enterPage
  split
  · exact rfl
  · have walked : SameRequests s (walkTimes (dropWalk s (core / 36) c va) (core / 36) c va) := walkTimes_sameRequests (s := dropWalk s _ _ _)
    dsimp only
    split <;> exact walked

theorem enterRange_sameRequests {core c va n : Nat} {k : Xk} : SameRequests s (enterRange s core c va n k) :=
  sameRequests_foldl (fun _ _ => enterPage_sameRequests) _ s

theorem modTeam_sameRequests {ti : Nat} {f : Team → Team} (keeps : ∀ x, (f x).request = x.request) : SameRequests s (s.modTeam ti f) := by
  unfold SameRequests
  rw [State.modTeam_teams]
  refine List.ext_getElem? fun j => ?_
  rw [List.getElem?_map, List.getElem?_map, List.getElem?_modify]
  cases s.teams[j]? with
  | none => rfl
  | some x => by_cases here : ti = j <;> simp [here, keeps]

theorem removeGroup_sameRequests : SameRequests s (removeGroup s gi) := by
  unfold removeGroup
  dsimp only
  split <;> exact rfl

theorem removeTeam_sameRequests {ti : Nat} : SameRequests s (removeTeam s ti) := by
  unfold removeTeam
  extract_lets t s1 s2
  have gone : SameRequests s s2 := sameRequests_foldl (fun _ _ => removeGroup_sameRequests) t.groups s
  exact gone.trans (modTeam_sameRequests fun _ => rfl)

theorem sendVector_sameRequests {c off : Nat} : SameRequests s (sendVector s c off) := by
  unfold sendVector
  dsimp only
  split <;> exact rfl

theorem fatal_sameRequests {c : Nat} {cause : Cause} {lid : W32} : SameRequests s (fatal s c cause lid) := by
  unfold fatal
  extract_lets s1 s2
  have removed : SameRequests s s2 := sameRequests_foldl (fun _ _ => removeTeam_sameRequests) (teamsOfCtx s1 c) s1
  exact removed.trans sendVector_sameRequests

theorem parkSet_sameRequests {a : ASet} {cause : Cause} {level : Nat} {entry : Word} {va : Nat} {lanes : Mask} :
    SameRequests s (parkSet s a cause level entry va lanes) := by
  unfold parkSet
  dsimp only
  split
  · exact rfl
  · split
    · exact fatal_sameRequests
    · exact rfl

theorem takeFetched_sameRequests {lane path1 : Bool} : SameRequests s (takeFetched s gi lane path1) := by
  unfold takeFetched
  split
  · exact rfl
  · dsimp only
    split
    · split
      · exact rfl
      · split
        · exact rfl
        · exact parkSet_sameRequests (s := { s with net := _ })
    · exact rfl

theorem laneState_sameRequests {p : Bool} : SameRequests s (Claim.laneState s gi p) := by
  have taken : SameRequests s (takeFetched { s with cur := gi, path1 := p } gi true p) :=
    takeFetched_sameRequests (s := { s with cur := gi, path1 := p })
  exact taken.trans (enterRange_sameRequests (s := fetchDone (takeFetched { s with cur := gi, path1 := p } gi true p) gi true p))

/-! ## A fetched word -/

/-- A fetch that waits for nothing, meets no poison and reads its bytes runs the word on them. -/
theorem fetchRun_runs {lane path1 : Bool} {va n from_ len : Nat} {run : State → List Byte → Out} {bs : List Byte} (group : groupAt s gi = g)
    (waits : fetchWaits (takeFetched s gi lane path1) gi lane path1 from_ len = none)
    (entered : enterRange (fetchDone (takeFetched s gi lane path1) gi lane path1) (g.quad / 4) (ctxIx s g) va n .fetch = u)
    (clean : rangePoison u (g.quad / 4) (ctxIx s g) va n .fetch = none) (bytes : coreRead u (g.quad / 4) (ctxIx s g) va n .fetch = .ok bs) :
    fetchRun s gi lane path1 va n from_ len run = dropFetched (run u bs) := by
  subst group entered
  unfold fetchRun
  simp only [waits, clean, bytes]

theorem groupAt_of_present (present : s.groups[gi]? = some g) : groupAt s gi = g := by
  simp [groupAt, List.getD_eq_getElem?_getD, present]

/-- A scalar word that has been fetched is run (R44). -/
theorem stepScalar_runs {bs : List Byte} (h : Claim.ScalarFetch s gi g bs) :
    stepScalar exec gi s = dropFetched (scalarWord exec gi g (Claim.scalarState s gi) bs) := by
  obtain ⟨group, run, calm, slot, free, here, waits, clean, bytes⟩ := h
  have present := groupAt_of_present group
  have ran : fetchRun { s with cur := gi, path1 := false } gi false false g.spc.toNat 4 g.spc.toNat 8 (scalarWord exec gi g) =
      dropFetched (scalarWord exec gi g (Claim.scalarState s gi) bs) :=
    fetchRun_runs present waits (by subst present; rfl) clean bytes
  have calm' : requested { s with cur := gi, path1 := false } g = false := calm
  have slot' : slotAllows { s with cur := gi, path1 := false } g.quad (ctxIx { s with cur := gi, path1 := false } g) = true := slot
  unfold stepScalar
  simp only [group, run, calm', slot', free, here, Bool.not_true, Bool.or_false, Bool.false_eq_true, if_false]
  exact ran

/-- A lane word that has been fetched, with no request to leave, is run where it decodes (R49). -/
theorem stepLane_runs {p : Bool} {bs : List Byte} {i : Instr} (h : Claim.LaneFetch s gi p g bs) (decoded : decodeLaneBytes bs = .ok i) :
    stepLane exec gi p s = dropFetched (exec i (Claim.laneState s gi p)) := by
  obtain ⟨group, run, slot, free, calm, count, lane, waits, clean, bytes⟩ := h
  have present := groupAt_of_present group
  have ran : fetchRun { s with cur := gi, path1 := p } gi true p (laneVa s g (pathOf g p).lpc) 12 (laneVa s g 0) (12 * (imageOf s g).lwords)
      (laneReached exec gi g p) = dropFetched (laneReached exec gi g p (Claim.laneState s gi p) bs) :=
    fetchRun_runs present waits (by subst present; rfl) clean bytes
  have calm' : requested (Claim.laneState s gi p) g = false := (requested_of_sameRequests laneState_sameRequests).trans calm
  have past : laneReached exec gi g p (Claim.laneState s gi p) bs = exec i (Claim.laneState s gi p) := by
    simp [laneReached, reachesAt, calm', laneWord, decoded]
  have slot' : slotAllows { s with cur := gi, path1 := p } g.quad (ctxIx { s with cur := gi, path1 := p } g) = true := slot
  have count' : (if reachesFirst { s with cur := gi, path1 := p } gi g p then none else counterTrap { s with cur := gi, path1 := p } g) = none :=
    ite_eq_left_iff.mpr fun _ => count
  have inside : ¬ (imageOf { s with cur := gi, path1 := p } g).lwords ≤ (pathOf g p).lpc := Nat.not_le.mpr lane
  rw [past] at ran
  unfold stepLane
  simp only [group, run, slot', free, count', inside, Bool.not_true, Bool.or_false, Bool.false_eq_true, if_false]
  exact ran

/-! ## The slot's answer -/

/-- What the slot of a dc makes of a word's answer (R270). -/
theorem slotStep_answers {lane p : Bool} {o : Out} (present : groupAt s gi = g)
    (answer : (if lane then stepLane exec gi p s else stepScalar exec gi s) = dropFetched o) :
    Claim.TurnAnswers s lane gi p g o (slotStep exec lane gi p s) := by
  unfold slotStep
  rw [answer, present]
  dsimp only
  refine ⟨fun t next issued given => ?issued, fun t next issued refused => ?kept, fun waits => ?waits, fun stops => ?stops⟩
  case issued => rw [next] at issued ⊢; simp [issued, given]
  case kept => rw [next] at issued ⊢; simp [issued, refused]
  case waits => simp [waits]
  case stops =>
    cases o with
    | next t => exact absurd rfl (stops t)
    | fault f => rfl
    | refused r => rfl

/-! ## A turn -/

/-- A turn of a powered machine lets its dc pass and acts (R270). -/
theorem step_turn {r : List Turn} {dc : Nat} {a : Act} (due : s.sched = { dc := dc, act := a } :: r) (power : powered s = true) :
    step s = runAct a (Claim.turned s dc r) := by
  have power' : powered { s with sched := r } = true := power
  unfold step turn
  simp only [due, power']
  rfl

theorem scalarStepRuns : Claim.ScalarStepRuns := by
  intro s r dc gi g bs due power fetch s'
  rw [step_turn due power]
  have present := groupAt_of_present fetch.group
  have ran := stepScalar_runs fetch
  unfold scalarWord at ran
  refine ⟨fun i decoded => ?runs, fun c decoded => ?traps⟩
  case runs => exact slotStep_answers present (by rw [decoded] at ran; exact ran)
  case traps => exact slotStep_answers present (by rw [decoded] at ran; exact ran)

theorem laneAndEventStepsRun : Claim.LaneAndEventStepsRun := by
  intro s r dc power
  refine ⟨fun gi p g bs i due fetch decoded => ?lane, fun i due => step_turn due power⟩
  case lane =>
    rw [step_turn due power]
    exact slotStep_answers (groupAt_of_present fetch.group) (stepLane_runs fetch decoded)

/-- Settles O58: a fetched word runs on the bytes at its SPC or LPC, since fetching leaves the requests to leave as they were, and the
carousel's slot then takes its answer. -/
theorem stepsRunDecodedWords : Obligations.StepsRunDecodedWords := ⟨scalarStepRuns, laneAndEventStepsRun⟩

end Sys2Proof.Proofs
end

section
/-! SUPPORT. Scalar arithmetic on registers and an immediate (R45, R92, R93): the result of each form, and what a written register leaves
as it was. -/

namespace Sys2Proof.Proofs

open Sys2Proof Sys2Proof.Machine

variable {s : State} {g : Group} {i : Instr} {d a b : SReg} {rs : List SReg} {f : Group → Word} {v x y : Word} {len : Nat}

/-! ## The operations of the table (R92) -/

theorem opSmulh_eq {u : BitVec 1} : opSmulh (uFlag u) x y =
    if u = 1 then w64 (x.toNat * y.toNat / 2 ^ 64) else BitVec.ofInt 64 (x.toInt * y.toInt / 2 ^ 64) := by
  simp [opSmulh, uFlag]

theorem opSdiv_eq_quot_flag {u : Bool} : opSdiv u x y = Claim.quot u x y := by
  cases u with
  | false => exact opSdiv_eq_quot
  | true =>
    by_cases hy : y = 0
    · subst hy; rfl
    · have hn : y.toNat ≠ 0 := fun h => hy (BitVec.eq_of_toNat_eq h)
      simp only [opSdiv, Claim.quot, intDiv, hy, hn, Bool.not_true, Bool.false_eq_true, if_true, if_false]
      exact BitVec.udiv_def.symm

theorem opSrem_eq_remn_flag {u : Bool} : opSrem u x y = Claim.remn u x y := by
  cases u with
  | false => exact opSrem_eq_remn
  | true =>
    by_cases hy : y = 0
    · subst hy; simp [opSrem, Claim.remn, intDiv, w64]
    · have hn : y.toNat ≠ 0 := fun h => hy (BitVec.eq_of_toNat_eq h)
      simp only [opSrem, Claim.remn, intDiv, hy, hn, Bool.not_true, Bool.false_eq_true, if_true, if_false]
      exact BitVec.umod_def.symm

theorem opSmin_eq {u : BitVec 1} : opSmin (uFlag u) x y = if (if u = 1 then x.ult y else x.slt y) then x else y := by
  simp [opSmin, uFlag]

theorem opSmax_eq {u : BitVec 1} : opSmax (uFlag u) x y = if (if u = 1 then x.ult y else x.slt y) then y else x := by
  simp [opSmax, uFlag]

/-! ## Register forms -/

/-- A register-register operation of an idle stream writes its result. -/
theorem alu2_writes {op : Word → Word → Word} (h : Claim.ScalarIdle s g) (hd : Claim.plain d) (hs : ∀ r ∈ [a, b], Claim.plain r) :
    alu2 d a b op s = .next (s.modGroup s.cur (Claim.wrote d (op (sreg g a.toNat) (sreg g b.toNat)) 4)) := by
  unfold alu2
  exact scalExec_wrote (scalGo_of_plain h rfl rfl rfl rfl hs (plain_some hd)) rfl hd rfl

theorem scmp_writes {c : BitVec 3} (h : Claim.ScalarIdle s g) (hc : c.toNat < 6) (hd : Claim.plain d) (hs : ∀ r ∈ [a, b], Claim.plain r) :
    exec (.scmp d a b c) s = .next (s.modGroup s.cur
      (Claim.wrote d (if Claim.holds c (sreg g a.toNat) (sreg g b.toNat) then 1 else 0) 4)) := by
  show execScmp d a b c s = _
  unfold execScmp
  rw [← condCode_eq_holds hc]
  exact scalExec_wrote (scalGo_of_plain h (if_neg (by simp [condOf_isSome hc])) rfl rfl rfl hs (plain_some hd)) rfl hd rfl

/-- SSEL chooses by the old value of sd (R93). -/
theorem ssel_writes (h : Claim.ScalarIdle s g) (hd : Claim.plain d) (hs : ∀ r ∈ [a, b], Claim.plain r) :
    exec (.ssel d a b) s = .next (s.modGroup s.cur
      (Claim.wrote d (if sreg g d.toNat ≠ 0 then sreg g a.toNat else sreg g b.toNat) 4)) := by
  show execSsel d a b s = _
  unfold execSsel
  refine scalExec_wrote (scalGo_of_plain h rfl (if_neg (by simp [isPort_of_plain hd])) rfl rfl hs (plain_some hd)) rfl hd ?_
  simp [groupAt_of_getElem? h.group, arg]

theorem smovReg_writes (h : Claim.ScalarIdle s g) (hd : Claim.plain d) (hs : ∀ r ∈ [a], Claim.plain r) :
    exec (.smovReg d a) s = .next (s.modGroup s.cur (Claim.wrote d (sreg g a.toNat) 4)) := by
  show execSmovReg d a s = _
  unfold execSmovReg
  exact scalExec_wrote (scalGo_of_plain h rfl rfl rfl rfl hs (plain_some hd)) rfl hd rfl

theorem regForm_writes (form : Claim.regForm i = some (d, rs, f)) (h : Claim.ScalarIdle s g) (hd : Claim.plain d)
    (hs : ∀ r ∈ rs, Claim.plain r) : exec i s = .next (s.modGroup s.cur (Claim.wrote d (f g) 4)) := by
  unfold Claim.regForm at form
  split at form
  -- SMULH, SDIV, SREM, SMIN and SMAX have a flag
  case h_4 => cases form; simp only [← opSmulh_eq]; exact alu2_writes h hd hs
  case h_5 => cases form; simp only [← opSdiv_eq_quot_flag]; exact alu2_writes h hd hs
  case h_6 => cases form; simp only [← opSrem_eq_remn_flag]; exact alu2_writes h hd hs
  case h_13 => cases form; simp only [← opSmin_eq]; exact alu2_writes h hd hs
  case h_14 => cases form; simp only [← opSmax_eq]; exact alu2_writes h hd hs
  case h_15 =>
    split at form
    · cases form
    · next hc => cases form; exact scmp_writes h (not_le.mp hc) hd hs
  case h_16 => cases form; exact ssel_writes h hd hs
  case h_17 => cases form; exact smovReg_writes h hd hs
  case h_18 => cases form
  all_goals cases form; exact alu2_writes h hd hs

/-! ## Immediate forms (R45) -/

theorem immForm_writes (form : Claim.immForm i = some (d, rs, f)) (h : Claim.ScalarIdle s g) (hd : Claim.plain d)
    (hs : ∀ r ∈ rs, Claim.plain r) : exec i s = .next (s.modGroup s.cur (Claim.wrote d (f g) 4)) := by
  obtain ⟨⟨d', rs', m, op⟩, value, same⟩ := Option.map_eq_some_iff.mp form
  cases same
  exact (immediateWords s g i h).1.alu d' rs' m op value hd hs

/-- Settles O1: a register form is `alu2` or one of the three forms beside it (`regForm_writes`), an immediate form an SI word (O10). -/
theorem scalarArithmeticResults : Obligations.ScalarArithmeticResults := by
  rintro i s g d rs f (form | form) idle hd hs
  · exact regForm_writes form idle hd hs
  · exact immForm_writes form idle hd hs

/-! ## The frame of a written register -/

theorem sreg_setSreg_ne {r q : Nat} (ne : q ≠ r) : sreg (setSreg g r v) q = sreg g q := by
  simp [sreg, setSreg, List.getD_eq_getElem?_getD, ne.symm]

theorem wrote_sameBut : Claim.SameBut (some d) g (Claim.wrote d v len g) :=
  ⟨fun _ other => sreg_setSreg_ne (other d rfl), rfl, rfl, rfl, rfl, rfl, rfl, rfl, rfl⟩

theorem modGroup_onlyGroup {change : Group → Group} : Claim.OnlyGroup s (s.modGroup s.cur change) :=
  ⟨rfl, fun _ ne => List.getElem?_modify_ne _ _ (Ne.symm ne)⟩

/-- Settles O2: by O1 the group is changed by `Claim.wrote` alone, and the rest of the machine stands. -/
theorem scalarArithmeticFrame : Obligations.ScalarArithmeticFrame := by
  intro i s g d rs f form idle hd hs
  refine ⟨_, Claim.wrote d (f g) 4 g, scalarArithmeticResults i s g d rs f form idle hd hs, ?_, wrote_sameBut, modGroup_onlyGroup,
    fun _ => rfl⟩
  rw [State.modGroup_groups, List.getElem?_modify_eq, idle.group]
  rfl

end Sys2Proof.Proofs
end

section
/-! SUPPORT. Lane words with a table: the model's operations as the manual's tables write them, and what a word that nothing holds back
gives its acting lanes (R88, R95 to R115). -/

namespace Sys2Proof.Proofs

open Sys2Proof Sys2Proof.Machine

variable {s : State} {g : Group} {maj : Nat} {w : LaneW} {i : Instr} {f F : LaneIn → Nat → Lane → Lane}

/-! ## Operations (R95 to R97) -/

theorem bit_eq_testBit (v k : Nat) : bit v k = v.testBit k := by
  rw [bit, Nat.testBit_eq_decide_div_mod_eq]
  rfl

theorem bit_imm (v : W32) (k : Nat) : bit v.toNat k = v.getLsbD k := bit_eq_testBit ..

theorem intMin_le_intMax (t : Ty) : intMin t ≤ intMax t := by
  have low : 0 < 2 ^ (tyWidth t - 1) := Nat.two_pow_pos _
  have full : 0 < 2 ^ tyWidth t := Nat.two_pow_pos _
  unfold intMin intMax
  split <;> omega

/-- Clamping by cases is clamping by `max` and `min`. -/
theorem wrapSat_eq_fit {n : Int} : wrapSat w.ty (flag0 w) n = Claim.fit (laneIn maj w s g) n := by
  have ordered := intMin_le_intMax w.ty
  dsimp only [wrapSat, Claim.fit, flag0, laneIn]
  congr 1
  split_ifs <;> omega

theorem popc_eq_testBit {n v : Nat} : popc n v = ((List.range n).filter fun k => v.testBit k).length := by
  simp only [popc, bit_eq_testBit]

/-- A table index of three predicates lies in the low byte of IMM. -/
theorem plogBit_eq {v : W32} {a b c : Bool} : plogBit (v.toNat % 256) a b c = v.getLsbD (4 * a.toNat + 2 * b.toNat + c.toNat) := by
  have inside : 4 * a.toNat + 2 * b.toNat + c.toNat < 8 := by
    have := a.toNat_le; have := b.toNat_le; have := c.toNat_le; omega
  rw [plogBit, bit_eq_testBit, show 256 = 2 ^ 8 from rfl, Nat.testBit_mod_two_pow, decide_eq_true inside]
  rfl

theorem ite_lt_eq_ite_le {α : Type} {m n : Int} {a b : α} : (if n < m then b else a) = if m ≤ n then a else b := by
  simp only [← not_le, ite_not]

/-! ## What a word gives its acting lanes -/

/-- A word that changes its group only, and whose own checks pass, leaves the change and moves on. -/
theorem laneGroup_done {own : LaneIn → Option LTrap} {change : LaneIn → Group} {h : Group} (go : LaneGo maj w s g)
    (may : own (laneIn maj w s g) = none) (changed : change (laneIn maj w s g) = h) :
    laneExec maj w s own noWait (groupEff change) = .next (s.setGroup s.cur (advance (laneIn maj w s g) none h)) := by
  rw [laneExec_go go, may, ← changed]
  rfl

/-- A word whose own check fails traps with what the check says. -/
theorem laneExec_own_trap {own : LaneIn → Option LTrap} {wait : LaneIn → Bool} {eff : LaneIn → State} {c : LTrap} (go : LaneGo maj w s g)
    (fails : own (laneIn maj w s g) = some c) :
    laneExec maj w s own wait eff = .next (laneTrap s s.cur g s.path1 c.cause c.lanes c.addr c.info) := by
  rw [laneExec_go go, fails]

/-- A word of acting lanes that nothing holds back, and whose own checks pass, gives each lane what its table does. -/
theorem laneCvt_done {own : LaneIn → Option LTrap} (go : LaneGo maj w s g) (may : own (laneIn maj w s g) = none)
    (same : ∀ n l, F (laneIn maj w s g) n l = f (laneIn maj w s g) n l) :
    laneCvt maj w s own F = .next (Claim.laneDone maj w s g f) :=
  laneGroup_done go may (congrArg (mapLanes g _) (funext₂ same))

theorem laneMap_done (go : LaneGo maj w s g) (same : ∀ n l, F (laneIn maj w s g) n l = f (laneIn maj w s g) n l) :
    laneMap maj w s F = .next (Claim.laneDone maj w s g f) :=
  laneCvt_done (own := noTrap) go rfl same

theorem laneValue_done {V v : LaneIn → Lane → Nat} (go : LaneGo maj w s g) (same : ∀ l, V (laneIn maj w s g) l = v (laneIn maj w s g) l) :
    laneValue maj w s V = .next (Claim.laneDone maj w s g (Claim.inType v)) :=
  laneMap_done go fun _ l => congrArg _ (same l)

theorem laneWord32_done {V v : LaneIn → Lane → Nat} (go : LaneGo maj w s g) (same : ∀ l, V (laneIn maj w s g) l = v (laneIn maj w s g) l) :
    laneWord32 maj w s V = .next (Claim.laneDone maj w s g (Claim.in32 v)) :=
  laneMap_done go fun _ l => congrArg (l.setV _ <| BitVec.ofNat 32 ·) (same l)

theorem lanePred_done {V v : LaneIn → Lane → Bool} (go : LaneGo maj w s g) (same : ∀ l, V (laneIn maj w s g) l = v (laneIn maj w s g) l) :
    lanePred maj w s V = .next (Claim.laneDone maj w s g (Claim.inPred v)) :=
  laneMap_done go fun _ l => congrArg (l.setP _) (same l)

/-! ## Integer, logic and floating words -/

theorem intForm_done (form : Claim.intForm i = some (maj, w, f)) (go : LaneGo maj w s g) :
    exec i s = .next (Claim.laneDone maj w s g f) := by
  unfold Claim.intForm at form
  split at form
  -- VADD, VSUB, VMAD, VABS and VNEG wrap or clamp
  case h_1 | h_2 | h_5 | h_18 | h_19 => cases form; exact laneValue_done go fun _ => wrapSat_eq_fit
  -- VSHL and VSHR
  case h_12 => cases form; exact laneValue_done go fun _ => (Nat.shiftLeft_eq ..).symm
  case h_13 => cases form; exact laneValue_done go fun _ => (Nat.shiftRight_eq_div_pow ..).symm
  -- VMIN and VMAX
  case h_16 | h_17 => cases form; exact laneValue_done go fun _ => ite_lt_eq_ite_le
  -- VPOPC and VPLOG
  case h_21 => cases form; exact laneWord32_done go fun _ => popc_eq_testBit
  case h_28 => cases form; exact lanePred_done go fun _ => plogBit_eq
  case h_30 => cases form
  -- the other words have their table's own term
  all_goals cases form; exact laneMap_done go fun _ _ => rfl

/-- Settles O15: each word maps its acting lanes by an operation that is the table's. -/
theorem laneIntegerResults : Obligations.LaneIntegerResults := fun _ _ _ _ _ _ form go => intForm_done form go

theorem fpForm_done (form : Claim.fpForm i = some (maj, w, f)) (go : LaneGo maj w s g) :
    exec i s = .next (Claim.laneDone maj w s g f) := by
  unfold Claim.fpForm at form
  split at form
  case h_9 => cases form; exact lanePred_done go fun _ => rfl
  case h_10 => cases form; exact laneWord32_done go fun _ => rfl
  case h_19 => cases form
  -- a value rounded once into the type
  all_goals cases form; exact laneValue_done go fun _ => rfl

/-- Settles O16: each word maps its acting lanes by the exact value of its operation, rounded once by `laneFp`. -/
theorem laneFloatResults : Obligations.LaneFloatResults := fun _ _ _ _ _ _ form go => fpForm_done form go

/-! ## Cross-lane words (R106 to R115) -/

theorem crossForm_done (form : Claim.crossForm i = some (maj, w, f)) (go : LaneGo maj w s g) :
    exec i s = .next (Claim.laneDone maj w s g f) := by
  unfold Claim.crossForm at form
  split at form
  case h_7 => cases form
  -- VSCAN reads a bit of IMM
  case h_6 =>
    cases form
    refine laneMap_done go fun n l => ?_
    simp only [bit_imm]
    rfl
  all_goals cases form; exact laneMap_done go fun _ _ => rfl

/-- The first of a list, as VBCAST finds it. -/
theorem head_getD_eq_match {x : LaneIn} {js : List Nat} :
    (match js with | [] => 0 | j :: _ => supply x j) = (js.head?.map fun j => supply x j).getD 0 := by
  cases js <;> rfl

theorem vbcast_done (go : LaneGo 0x66 w s g) (uniform : w.opx ≠ 0 ∨ w.i = true ∨ 192 ≤ w.vb.toNat) :
    exec (.vbcast w) s = .next (Claim.laneDone 0x66 w s g fun x n l => writeTy w.ty l w.vd.toNat
      (if w.opx = 0 then supply x (tileBase g n + Claim.srcB x l % tileWidth g)
       else ((tileVotes x n).head?.map fun j => supply x j).getD 0)) := by
  refine laneCvt_done go (if_neg ?checks) fun n l => ?value
  case checks =>
    rintro ⟨indexed, register, vector⟩
    rcases uniform with other | imm | snap
    · exact other indexed
    · simp [laneIn, imm] at register
    · exact absurd vector (not_lt.mpr snap)
  case value =>
    refine congrArg (writeTy w.ty l w.vd.toNat) ?_
    rw [← head_getD_eq_match]
    rfl

/-- VTOS writes the register from the lowest voting lane (R115). -/
theorem vtos_done {j : Nat} (go : LaneGo 0x67 w s g) (live : 192 ≤ w.vd.toNat) (listed : (imageOf s g).vtos.getLsbD (w.vd.toNat - 192) = true)
    (calm : g.region = none) (lowest : (voting (laneIn 0x67 w s g)).head? = some j) :
    exec (.vtos w) s = .next (s.setGroup s.cur (advance (laneIn 0x67 w s g) none (setSreg g (w.vd.toNat - 192)
      (if w.ty = .i32 then sext64 32 (Claim.srcA (laneIn 0x67 w s g) (laneAt g j)) else w64 (Claim.srcA (laneIn 0x67 w s g) (laneAt g j)))))) := by
  obtain ⟨r, voters⟩ := List.head?_eq_some_iff.mp lowest
  show execVtos w s = _
  unfold execVtos
  refine laneGroup_done go ?checks ?change
  case change => simp only [voters]; rfl
  case checks =>
    have target : ¬(w.vd.toNat < 192 ∨ (!(imageOf s g).vtos.getLsbD (w.vd.toNat - 192)) = true) := by simp [listed, live]
    have free : forbidden (laneIn 0x67 w s g) = none := if_neg (by simp [inRegion, laneIn, calm])
    refine (if_neg target).trans ?_
    rw [free, voters]
    rfl

theorem crossLaneResults : Claim.CrossLaneResults :=
  ⟨fun _ _ _ _ _ _ form go => crossForm_done form go, fun _ _ _ go uniform => vbcast_done go uniform,
    fun _ _ _ _ go live listed calm lowest => vtos_done go live listed calm lowest⟩

/-! ## Conversions (R101 to R105) -/

theorem pairTrap_listed {x : LaneIn} {ok : Bool} (h : ok = true) : pairTrap ok x = none := if_pos h

/-- A check after the pair's. -/
theorem pairThen_none {x : LaneIn} {ok : Bool} {rest : Option LTrap} (pair : ok = true) (more : rest = none) :
    (match pairTrap ok x with | some c => some c | none => rest) = none := by
  rw [pairTrap_listed pair]
  exact more

/-- BLOCK_WIDTH passes in a width that has blocks (R104). -/
theorem blockCheck_none {c : LTrap} (blocks : (!blockBad g) = true) : (if blockBad g then some c else none) = none :=
  if_neg (by simpa using blocks)

/-- ELEMENT_SLOT passes where the elements lie in the register (R103). -/
theorem slotCheck_none {c : LTrap} {n : Nat} (slot : decide (n ≤ 32) = true) : (if 32 < n then some c else none) = none :=
  if_neg (not_lt.mpr (of_decide_eq_true slot))

theorem cvtForm_done {ok : Group → Bool} (form : Claim.cvtForm i = some (maj, w, ok, f)) (go : LaneGo maj w s g) (listed : ok g = true) :
    exec i s = .next (Claim.laneDone maj w s g f) := by
  unfold Claim.cvtForm at form
  split at form
  -- CVTN and CVTW: the pair and the slot
  case h_4 =>
    cases form
    obtain ⟨pair, slot⟩ := Bool.and_eq_true_iff.mp listed
    show execCvtn w s = _
    exact laneCvt_done go (pairThen_none pair (slotCheck_none slot)) fun _ _ => rfl
  case h_5 =>
    cases form
    obtain ⟨pair, slot⟩ := Bool.and_eq_true_iff.mp listed
    show execCvtw w s = _
    exact laneCvt_done go (pairThen_none pair (slotCheck_none slot)) fun _ _ => rfl
  -- MXSCALE and BPNSPLIT: the pair and the blocks
  case h_6 =>
    cases form
    obtain ⟨pair, blocks⟩ := Bool.and_eq_true_iff.mp listed
    show execMxscale w s = _
    exact laneCvt_done go (pairThen_none pair (blockCheck_none blocks)) fun _ _ => rfl
  case h_9 =>
    cases form
    obtain ⟨pair, blocks⟩ := Bool.and_eq_true_iff.mp listed
    show execBpnsplit w s = _
    refine laneCvt_done go (pairThen_none pair (blockCheck_none blocks)) fun _ _ => ?_
    simp only [bit_eq_testBit]
    rfl
  case h_10 => cases form
  -- the others check the pair alone
  all_goals cases form; exact laneCvt_done go (pairTrap_listed listed) fun _ _ => rfl

theorem bpnjoin_done (go : LaneGo 0x51 w s g) (pair : stype w = .b32) :
    exec (.bpnjoin w) s = .next (Claim.laneDone 0x51 w s g fun x n l =>
      let p := tyWidth w.ty
      let k := elemIx w
      let t := (Claim.srcA x l).testBit (n % 32)
      if k < 8 - p then l
      else
        let one := putBits (l.vreg w.vd.toNat).toNat 1 (k - (8 - p)) t.toNat
        l.setV w.vd.toNat (BitVec.ofNat 32 (if k = 7 then putBits one (32 - p) p (if t then 2 ^ (32 - p) - 1 else 0) else one))) := by
  refine laneCvt_done go (pairTrap_listed (by rw [pair]; rfl)) fun n l => ?_
  simp only [bit_eq_testBit]
  rfl

/-- CVTFI of a source that is no floating type traps CVT_PAIR (R102). -/
theorem cvtfi_traps (go : LaneGo 0x4A w s g) (other : tyFloat (stype w) = false) :
    exec (.cvtfi w) s = .next (laneTrap s s.cur g s.path1 Tc.cvtPair) :=
  laneExec_own_trap (c := { cause := Tc.cvtPair }) go (if_neg (by simp [other]))

theorem conversionResults : Claim.ConversionResults :=
  ⟨fun _ _ _ _ _ _ _ form go listed => cvtForm_done form go listed, fun _ _ _ go pair => bpnjoin_done go pair,
    fun _ _ _ go other => cvtfi_traps go other⟩

/-- Settles O17: cross-lane words and conversions map their acting lanes by their tables' terms once their own checks pass; VTOS changes the
scalar registers instead. -/
theorem crossLaneAndConversions : Obligations.CrossLaneAndConversions := ⟨crossLaneResults, conversionResults⟩

end Sys2Proof.Proofs
end

section
/-! SUPPORT. Special, trap and mode registers in lanes (R116, R117, R309, R341). -/

namespace Sys2Proof.Proofs

open Sys2Proof Sys2Proof.Machine

variable {s : State} {g : Group} {maj : Nat} {w : LaneW}

/-! ## Reads -/

theorem vgets_done (go : LaneGo 0xC0 w s g) (allowed : privBad s g (w.imm.toNat % 256) = false) :
    exec (.vgets w) s = .next (Claim.laneDone 0xC0 w s g fun x n l => writeTy w.ty l w.vd.toNat
      (if w.imm.toNat % 256 = 0 then n else ((specialValue s g x.p.exec (w.imm.toNat % 256)).getD 0).toNat)) := by
  show execVgets w s = _
  exact laneCvt_done go (if_neg (Bool.eq_false_iff.mp allowed)) fun _ _ => rfl

theorem vgets_refused (go : LaneGo 0xC0 w s g) (refused : privBad s g (w.imm.toNat % 256) = true) :
    exec (.vgets w) s = .next (laneTrap s s.cur g s.path1 Tc.privSpecial) := by
  show execVgets w s = _
  unfold execVgets
  exact laneExec_own_trap (c := { cause := Tc.privSpecial }) go (if_pos refused)

theorem vgett_done (go : LaneGo 0xC5 w s g) :
    exec (.vgett w) s = .next (Claim.laneDone 0xC5 w s g fun _ _ l => writeTy w.ty l w.vd.toNat (trapReg g.trap (w.imm.toNat % 256)).toNat) :=
  laneMap_done go fun _ _ => rfl

/-! ## Special moves -/

/-- A special move with a uniform source and no guard comes to its value's check (R116). -/
theorem moveChecks_uniform {value : LaneIn → Option LTrap} (uniform : w.i = true ∨ 192 ≤ w.va.toNat) (always : w.g = 7) (sense : w.n = false) :
    moveChecks value (laneIn maj w s g) = value (laneIn maj w s g) := by
  have named : notUniform (laneIn maj w s g) = false := by
    rcases uniform with h | h
    · exact (congrArg (!· && decide (w.va.toNat < 192)) h).trans rfl
    · exact Bool.and_eq_false_imp.mpr fun _ => decide_eq_false (not_lt.mpr h)
  rw [moveChecks, if_neg (Bool.eq_false_iff.mp named)]
  exact if_neg fun guard => guard.elim (· always) (Bool.eq_false_iff.mp sense)

theorem modPath_keeps {path1 : Bool} {change : Path → Path} : (modPath g path1 change).lanes = g.lanes ∧ (modPath g path1 change).s = g.s := by
  cases path1 <;> exact ⟨rfl, rfl⟩

/-- SETEXEC writes the path's EXEC, within its LaneSet (R116). -/
theorem setexec_done (go : LaneGo 0xC1 w s g) (uniform : w.i = true ∨ 192 ≤ w.va.toNat) (always : w.g = 7) (sense : w.n = false) :
    ∃ h, exec (.setexec w) s = .next (s.setGroup s.cur h) ∧ h.lanes = g.lanes ∧ h.s = g.s ∧
      (pathOf h s.path1).exec = (match w.opx.toNat with
        | 0 => uniformValue (laneIn 0xC1 w s g) | 1 => (pathOf g s.path1).exec &&& uniformValue (laneIn 0xC1 w s g)
        | 2 => (pathOf g s.path1).exec ||| uniformValue (laneIn 0xC1 w s g)
        | _ => (pathOf g s.path1).exec &&& ~~~(uniformValue (laneIn 0xC1 w s g))) &&& (pathOf g s.path1).laneSet := by
  refine ⟨_, laneGroup_done go (moveChecks_uniform uniform always sense) rfl, ?_, ?_, ?_⟩
  · exact (advance_keeps _).1.trans modPath_keeps.1
  · exact (advance_keeps _).2.1.trans modPath_keeps.2
  · exact (congrArg Path.exec (pathOf_advance _) :).trans (congrArg Path.exec pathOf_modPath :)

theorem setexec_vector_traps (go : LaneGo 0xC1 w s g) (register : w.i = false) (vector : w.va.toNat < 192) :
    exec (.setexec w) s = .next (laneTrap s s.cur g s.path1 Tc.uniformSource) := by
  have named : notUniform (laneIn 0xC1 w s g) = true := by simp [notUniform, laneIn, register, vector]
  exact laneExec_own_trap (c := { cause := Tc.uniformSource }) go (if_pos named)

/-- SETPART writes PART (R117). -/
theorem setpart_done (go : LaneGo 0xC2 w s g) (uniform : w.i = true ∨ 192 ≤ w.va.toNat) (always : w.g = 7) (sense : w.n = false)
    (defined : (uniformValue (laneIn 0xC2 w s g)).toNat % 8 < 5) :
    exec (.setpart w) s = .next (s.setGroup s.cur (advance (laneIn 0xC2 w s g) none
      { g with part := (uniformValue (laneIn 0xC2 w s g)).setWidth 3 })) := by
  show execSetpart w s = _
  exact laneGroup_done go ((moveChecks_uniform uniform always sense).trans (if_neg (not_le.mpr defined))) rfl

/-- SETCVM writes CVMODE (R117). -/
theorem setcvm_mode_done (go : LaneGo 0xC3 w s g) (uniform : w.i = true ∨ 192 ≤ w.va.toNat) (always : w.g = 7) (sense : w.n = false)
    (mode : w.opx = 0) (defined : cvmodeOk ((uniformValue (laneIn 0xC3 w s g)).toNat % 2 ^ 32) = true) :
    exec (.setcvm w) s = .next (s.setGroup s.cur (advance (laneIn 0xC3 w s g) none
      { g with cvmode := (uniformValue (laneIn 0xC3 w s g)).setWidth 32 })) := by
  show execSetcvm w s = _
  exact laneGroup_done go ((moveChecks_uniform uniform always sense).trans (if_neg (by rw [defined]; simp))) (if_pos mode)

/-- SETCVM of the seed writes CVSEED and clears the SR counters (R86, R117). -/
theorem setcvm_seed_done (go : LaneGo 0xC3 w s g) (uniform : w.i = true ∨ 192 ≤ w.va.toNat) (always : w.g = 7) (sense : w.n = false)
    (seed : w.opx ≠ 0) :
    exec (.setcvm w) s = .next (s.setGroup s.cur (advance (laneIn 0xC3 w s g) none
      (writeSeed g ((uniformValue (laneIn 0xC3 w s g)).setWidth 32)))) := by
  show execSetcvm w s = _
  exact laneGroup_done go ((moveChecks_uniform uniform always sense).trans (if_neg fun bad => seed bad.1)) (if_neg seed)

theorem sr_writeSeed {v : W32} {n : Nat} (inside : n < g.lanes.length) : (laneAt (writeSeed g v) n).sr = 0 := by
  simp [laneAt, writeSeed, List.getD_eq_getElem?_getD, inside]

/-- Settles O24: reads map the acting lanes; a special move past its checks changes the one register it names, and `advance` keeps all but
the path's place. -/
theorem laneSpecialMoves : Obligations.LaneSpecialMoves := by
  intro w s g
  refine ⟨vgets_done, vgets_refused, vgett_done, fun uniform always sense => ⟨fun go => ?exec, fun go defined => ?part,
    fun go mode defined => ?mode, fun go seed => ?seed⟩, setexec_vector_traps⟩
  case exec => exact setexec_done go uniform always sense
  case part =>
    refine ⟨_, setpart_done go uniform always sense defined, ?_⟩
    obtain ⟨lanes, regs, -, part, cvmode, -⟩ := advance_keeps (laneIn 0xC2 w s g) (set := none)
      (g := { g with part := (uniformValue (laneIn 0xC2 w s g)).setWidth 3 })
    exact ⟨part, lanes, cvmode, regs⟩
  case mode =>
    refine ⟨_, setcvm_mode_done go uniform always sense mode defined, ?_⟩
    obtain ⟨lanes, -, -, -, cvmode, cvseed, -⟩ := advance_keeps (laneIn 0xC3 w s g) (set := none)
      (g := { g with cvmode := (uniformValue (laneIn 0xC3 w s g)).setWidth 32 })
    exact ⟨cvmode, cvseed, lanes⟩
  case seed =>
    refine ⟨_, setcvm_seed_done go uniform always sense seed, ?_⟩
    obtain ⟨-, -, -, -, cvmode, cvseed, -⟩ := advance_keeps (laneIn 0xC3 w s g) (set := none)
      (g := writeSeed g ((uniformValue (laneIn 0xC3 w s g)).setWidth 32))
    exact ⟨cvseed, cvmode, fun n inside => by rw [laneAt_advance]; exact sr_writeSeed inside⟩

end Sys2Proof.Proofs
end

section
/-! SUPPORT. Matrix arrays and units: what an array reads as after one array, a span or a list of words of it has changed, what a unit
holds after it has been set, and when the checks of a matrix word pass (R119 to R121, R134 to R136, R144). -/

namespace Sys2Proof.Proofs

open Sys2Proof Sys2Proof.Machine

variable {s t : State} {g : Group} {q first count j k m n : Nat} {f : Cim → Cim} {u : MatUnit}

/-! ## Units (R121) -/

theorem lookup_tput {β : Type} {v : β} (l : List (Nat × β)) : (tput q v l).lookup q = some v := by
  induction l with
  | nil => simp [tput]
  | cons e r ih =>
    obtain ⟨a, x⟩ := e
    rw [tput]
    split
    · simp
    · split
      · simp
      · have ne : (q == a) = false := beq_false_of_ne (by omega)
        rw [List.lookup_cons, ne]
        exact ih

theorem lookup_tdel {β : Type} (l : List (Nat × β)) : (tdel q l).lookup q = none := by
  induction l with
  | nil => rfl
  | cons e r ih =>
    obtain ⟨a, x⟩ := e
    rw [tdel]
    split
    · exact ih
    · have ne : (q == a) = false := beq_false_of_ne (by omega)
      rw [List.lookup_cons, ne]
      exact ih

theorem lookup_map_snd {β γ : Type} {f : β → γ} (l : List (Nat × β)) : (l.map fun e => (e.1, f e.2)).lookup q = (l.lookup q).map f := by
  induction l with
  | nil => rfl
  | cons e r ih =>
    rw [List.map_cons, List.lookup_cons, List.lookup_cons, ih]
    cases q == e.1 <;> rfl

/-- A unit holds what it has been set to; one that is set idle with no waiter leaves the table. -/
@[simp] theorem unitOf_setUnit : unitOf (setUnit s q u) q = u := by
  unfold unitOf setUnit
  dsimp only
  split
  · next idle =>
    obtain ⟨run, fifo⟩ := u
    simp only [Bool.and_eq_true, Option.isNone_iff_eq_none, List.isEmpty_iff] at idle
    rw [lookup_tdel, Option.getD_none, idle.1, idle.2]
  · rw [lookup_tput, Option.getD_some]

@[simp] theorem unitOf_modGroup {i : Nat} {h : Group → Group} : unitOf (s.modGroup i h) q = unitOf s q := rfl
@[simp] theorem unitOf_modCim : unitOf (modCim s g m f) q = unitOf s q := rfl

/-- Changing a span of arrays changes the teams and nothing else. -/
theorem modSpan_teams : modSpan s g first count f = { s with teams := (modSpan s g first count f).teams } :=
  List.foldlRecOn (motive := fun t : State => t = { s with teams := t.teams }) _ _ rfl fun t same k _ => by
    rw [same]
    rfl

@[simp] theorem unitOf_modSpan : unitOf (modSpan s g first count f) q = unitOf s q := by
  rw [modSpan_teams]
  rfl

@[simp] theorem groupAt_modSpan {i : Nat} : groupAt (modSpan s g first count f) i = groupAt s i := by
  rw [modSpan_teams]
  rfl

/-! ## Arrays (R119, R120) -/

/-- Changing an array changes the group's share at its place; a group without arrays has none before and after. -/
theorem sharesOf_modCim : sharesOf (modCim s g m f) g = (sharesOf s g).modify m f := by
  unfold sharesOf modCim teamOf State.modTeam
  dsimp only
  rw [List.getD_eq_getElem?_getD, List.getD_eq_getElem?_getD, List.getD_eq_getElem?_getD, List.getD_eq_getElem?_getD,
    List.getElem?_modify_eq]
  cases s.teams[g.team]? with
  | none => cases g.quad % 4 <;> cases m <;> rfl
  | some x =>
    dsimp only [Option.map_some, Option.getD_some, Functor.map]
    rw [List.getElem?_modify_eq]
    cases x.cims[g.quad % 4]? with
    | none => cases m <;> rfl
    | some l => rfl

theorem cimAt_modCim_same (inside : m < (sharesOf s g).length) : cimAt (modCim s g m f) g m = f (cimAt s g m) := by
  unfold cimAt
  rw [sharesOf_modCim, List.getD_eq_getElem _ _ (by simpa using inside), List.getD_eq_getElem _ _ inside, List.getElem_modify_eq]

theorem cimAt_modCim_ne (ne : m ≠ k) : cimAt (modCim s g m f) g k = cimAt s g k := by
  simp [cimAt, sharesOf_modCim, List.getD_eq_getElem?_getD, ne]

theorem modSpan_succ : modSpan s g first (n + 1) f = modCim (modSpan s g first n f) g (first + n) f := by
  unfold modSpan
  rw [List.range_succ, List.foldl_append]
  rfl

@[simp] theorem length_sharesOf_modSpan : (sharesOf (modSpan s g first count f) g).length = (sharesOf s g).length := by
  induction count with
  | zero => rfl
  | succ n ih => rw [modSpan_succ, sharesOf_modCim, List.length_modify, ih]

/-- An array outside a changed span stands. -/
theorem cimAt_modSpan_out (out : k < first ∨ first + count ≤ k) : cimAt (modSpan s g first count f) g k = cimAt s g k := by
  induction count with
  | zero => rfl
  | succ n ih => rw [modSpan_succ, cimAt_modCim_ne (by omega), ih (by omega)]

/-- Each array of a changed span is changed once. -/
theorem cimAt_modSpan (inside : first + count ≤ (sharesOf s g).length) (low : first ≤ k) (high : k < first + count) :
    cimAt (modSpan s g first count f) g k = f (cimAt s g k) := by
  induction count with
  | zero => omega
  | succ n ih =>
    rw [modSpan_succ]
    by_cases last : first + n = k
    · subst last
      rw [cimAt_modCim_same (by rw [length_sharesOf_modSpan]; omega), cimAt_modSpan_out (.inr le_rfl)]
    · rw [cimAt_modCim_ne last, ih (by omega) (by omega)]

/-! ## Lists of writes into an array -/

section Writes

variable {α β : Type} {put : α → Nat → α} {read : α → β} {i : Nat} {v : β} {ls : List Nat} {a : α}

/-- What no write of a list changes stands behind the list. -/
theorem read_foldl_of_keeps (keeps : ∀ a, ∀ j ∈ ls, read (put a j) = read a) : read (ls.foldl put a) = read a :=
  List.foldlRecOn (motive := fun b => read b = read a) ls put rfl fun b same j listed => (keeps b j listed).trans same

/-- What one write of a list gives, and no other changes, stands behind the list. -/
theorem read_foldl_of_mem (listed : i ∈ ls) (same : ∀ a, read (put a i) = v) (other : ∀ a j, j ≠ i → read (put a j) = read a) :
    read (ls.foldl put a) = v := by
  induction ls generalizing a with
  | nil => cases listed
  | cons j ls ih =>
    rw [List.foldl_cons]
    by_cases later : i ∈ ls
    · exact ih later
    · obtain rfl : i = j := (List.mem_cons.mp listed).resolve_right later
      rw [read_foldl_of_keeps fun b j listed => other b j fun here => later (here ▸ listed), same]

end Writes

/-! ## Checks of a matrix word (R136, R144) -/

@[simp] theorem trapIf_false {c : Cause} : trapIf false c = none := rfl
@[simp] theorem trapIf_true {c : Cause} : trapIf true c = some { cause := c } := rfl

theorem trapIf_none {b : Bool} {c : Cause} (no : b = false) : trapIf b c = none := by rw [no, trapIf_false]

/-- A count of at least 1 and at most `m` is in range. -/
theorem countBad_false (low : 0 < n) (high : n ≤ m) : (n == 0 || decide (m < n)) = false :=
  Bool.or_eq_false_iff.mpr ⟨beq_false_of_ne (Nat.ne_of_gt low), decide_eq_false (not_lt.mpr high)⟩

theorem firstTrap_none {l : List (Option LTrap)} (pass : ∀ o ∈ l, o = none) : firstTrap l = none :=
  List.findSome?_eq_none_iff.mpr pass

theorem sharesOf_ne_nil (free : Claim.SpanFree s g first count) : (sharesOf s g).isEmpty = false := by
  have inside := free.inside
  have some_ := free.some_
  cases shares : sharesOf s g with
  | nil => rw [shares] at inside; simp only [List.length_nil] at inside; omega
  | cons => rfl

theorem spanBad_false {maj : Nat} {w : LaneW} (free : Claim.SpanFree s g first count) : spanBad (laneIn maj w s g) first count = false :=
  Bool.or_eq_false_iff.mpr ⟨beq_false_of_ne free.some_, decide_eq_false (not_lt.mpr free.inside)⟩

/-- The checks before those of the word's own operands pass where the span stands ready (R144). -/
theorem matChecks_none {maj : Nat} {w : LaneW} {snaps : List Nat} {part : Option LTrap} {rest : List (Option LTrap)}
    (free : Claim.SpanFree s g first count) (uniform : ∀ p ∈ snaps, notSnap (laneIn maj w s g) p = false) (column : part = none)
    (own : ∀ o ∈ rest, o = none) : firstTrap (matFirst (laneIn maj w s g) snaps part ++ rest) = none := by
  have shares : trapIf (sharesOf s g).isEmpty Tc.cimNone = none := trapIf_none (sharesOf_ne_nil free)
  have operands : trapIf (snaps.any (notSnap (laneIn maj w s g))) Tc.matrixUniform = none :=
    trapIf_none (List.any_eq_false.mpr fun p listed => Bool.eq_false_iff.mp (uniform p listed))
  have region : inRegionTrap (laneIn maj w s g) = none := if_neg (by simp [inRegion, laneIn, free.region])
  refine firstTrap_none fun o listed => ?_
  rw [List.mem_append] at listed
  rcases listed with common | own'
  · simp only [matFirst, List.mem_cons, List.not_mem_nil, or_false] at common
    rcases common with rfl | rfl | rfl | rfl
    exacts [shares, operands, column, region]
  · exact own o own'

/-- A word whose own check is that of its span passes where the span stands ready. -/
theorem spanChecks_none {maj : Nat} {w : LaneW} (free : Claim.SpanFree s g first count) :
    firstTrap (matFirst (laneIn maj w s g) [] ++ [trapIf (spanBad (laneIn maj w s g) first count) Tc.cimRange]) = none :=
  matChecks_none free (List.forall_mem_nil _) rfl (List.forall_mem_singleton.mpr (trapIf_none (spanBad_false free)))

/-- A field that names a snapshot register is uniform (R136). -/
theorem notSnap_of_snapshot {x : LaneIn} {pos : Nat} (snapshot : 192 ≤ (fieldOf x.w pos).toNat) : notSnap x pos = false :=
  Bool.and_eq_false_imp.mpr fun _ => decide_eq_false (not_lt.mpr snapshot)

/-- VB of a word whose immediate stands for it is uniform as the immediate or as a snapshot register (R136). -/
theorem notSnap_vb {maj : Nat} {w : LaneW} (imm : (rowD maj w.opx).immFor = some 2) (uniform : w.i = true ∨ 192 ≤ w.vb.toNat) :
    notSnap (laneIn maj w s g) 2 = false := by
  rcases uniform with immediate | snapshot
  · simp [notSnap, replaced, laneIn, immediate, imm]
  · exact notSnap_of_snapshot snapshot

end Sys2Proof.Proofs
end

section
/-! SUPPORT. Matrix commands: what an accepted word leaves in the unit and in its arrays, and where a word waits or traps (R121, R133 to
R140, R143, R144). -/

namespace Sys2Proof.Proofs

open Sys2Proof Sys2Proof.Machine

variable {s s' : State} {g : Group} {maj : Nat} {w : LaneW} {c : MatCmd} {k : Nat}

/-! ## Acceptance (R121) -/

/-- The state behind a word whose command has been accepted: the unit runs it, none waits, and the path has moved on. -/
def running (x : LaneIn) (s : State) (c : MatCmd) : State :=
  (setUnit s x.g.quad { run := some c, fifo := [] }).modGroup x.gi (advance x none)

@[simp] theorem unitOf_running {x : LaneIn} : unitOf (running x s c) x.g.quad = { run := some c, fifo := [] } :=
  unitOf_modGroup.trans unitOf_setUnit

@[simp] theorem cimAt_running {x : LaneIn} {g : Group} : cimAt (running x s c) g k = cimAt s g k := rfl

/-- An idle unit for which at most the word itself waits accepts its command. -/
theorem matIssue_accepts {x : LaneIn} {acc : Accept} (idle : (unitOf x.s x.g.quad).run = none)
    (own : ∀ e ∈ (unitOf x.s x.g.quad).fifo, e = (x.gi, x.path1)) (ok : acc x.s x.g = .ok (s', c)) :
    matIssue x acc = running x s' c := by
  have first : ((unitOf x.s x.g.quad).fifo.isEmpty || (unitOf x.s x.g.quad).fifo.head? == some (x.gi, x.path1)) = true := by
    cases waiters : (unitOf x.s x.g.quad).fifo with
    | nil => rfl
    | cons e r => simp [own e (by simp [waiters])]
  have left : (unitOf x.s x.g.quad).fifo.filter (· != (x.gi, x.path1)) = [] :=
    List.filter_eq_nil_iff.mpr fun e listed => by simp [own e listed]
  unfold matIssue
  simp only [idle, first, ok, left]
  rfl

/-- A matrix word that nothing holds back and whose checks pass, its unit idle, has its command accepted. -/
theorem matWord_accepted {own : LaneIn → Option LTrap} {eff : LaneIn → State} {acc : Accept} (go : LaneGo maj w s g)
    (may : own (laneIn maj w s g) = none) (issue : eff (laneIn maj w s g) = matIssue (laneIn maj w s g) acc)
    (idle : (unitOf s g.quad).run = none) (mine : ∀ e ∈ (unitOf s g.quad).fifo, e = (s.cur, s.path1)) (ok : acc s g = .ok (s', c)) :
    laneExec maj w s own noWait eff = .next (running (laneIn maj w s g) s' c) := by
  rw [laneExec_go go, may]
  exact congrArg Host.Outcome.next (issue.trans (matIssue_accepts idle mine ok))

theorem waiters_own_of_idle (idle : Claim.unitIdle s g) : ∀ e ∈ (unitOf s g.quad).fifo, e = (s.cur, s.path1) := by
  rw [idle.2]
  exact fun e listed => absurd listed List.not_mem_nil

/-- A word with an acting lane issues its command. -/
theorem issue_of_acting {x : LaneIn} {idle issue : State} (some_ : acting x ≠ []) : (if (acting x).isEmpty then idle else issue) = issue :=
  if_neg (by simpa using some_)

/-! ## MLDB (R137) -/

theorem mldb_accepted (idle : Claim.unitIdle s g) (go : LaneGo 0x90 w s g) (free : Claim.SpanFree s g w.vd.toNat 1)
    (base : 192 ≤ w.va.toNat) (cols : w.i = true ∨ 192 ≤ w.vb.toNat) (some_ : acting (laneIn 0x90 w s g) ≠ [])
    (low : 0 < mldbCols (laneIn 0x90 w s g)) (high : mldbCols (laneIn 0x90 w s g) ≤ (if formatCode w.ty = 4 then 16 else 64))
    (aligned : mldbSrc (laneIn 0x90 w s g) % 256 = 0)
    (inside : mldbSrc (laneIn 0x90 w s g) + tileBytes (formatCode w.ty) (mldbCols (laneIn 0x90 w s g)) ≤ sramBytes (laneIn 0x90 w s g))
    (thaw : (cimAt s g w.vd.toNat).state ≠ .stopped) :
    exec (.mldb w) s = .next (running (laneIn 0x90 w s g) (modCim s g w.vd.toNat fun k => { k with state := .busy })
      { baseCmd s g s.cur .mldb w.vd.toNat 1 (cmdTag w) (cmdEvt w) with
        n := mldbCols (laneIn 0x90 w s g), fmt := formatCode w.ty, src := mldbSrc (laneIn 0x90 w s g) }) := by
  show execMldb w s = _
  unfold execMldb
  refine matWord_accepted go (matChecks_none free ?uniform rfl ?own) (issue_of_acting some_) idle.1 (waiters_own_of_idle idle) ?ok
  case uniform =>
    simp only [List.forall_mem_cons]
    exact ⟨notSnap_of_snapshot base, notSnap_vb rfl cols, List.forall_mem_nil _⟩
  case own =>
    simp only [List.forall_mem_cons]
    exact ⟨trapIf_none (spanBad_false free), trapIf_none (countBad_false low high),
      trapIf_none (by simp [aligned]), trapIf_none (decide_eq_false (not_lt.mpr inside)), List.forall_mem_nil _⟩
  case ok => exact (if_neg (by simp [free.thaw])).trans (if_neg thaw)

/-! ## MMA and MRESUME (R138, R139) -/

/-- An array whose status MMA sets and which then multiplies (R138). -/
def mmaSets (w : LaneW) (fw m a : Nat) (k : Cim) : Cim :=
  { k with m := BitVec.ofNat 7 m, next := 0, fmtw := BitVec.ofNat 15 fw, aaddr := BitVec.ofNat 19 a, tag := cmdTag w, evt := cmdEvt w,
           count := BitVec.ofNat 5 (spanCount w), first := BitVec.ofNat 5 w.vd.toNat }

theorem mma_accepted (idle : Claim.unitIdle s g) (go : LaneGo 0x91 w s g) (free : Claim.SpanFree s g w.vd.toNat (spanCount w))
    (addr : 192 ≤ w.vb.toNat) (rows : 192 ≤ w.vc.toNat) (converged : convergence (laneIn 0x91 w s g) = none)
    (format : formatFails (formatWord (laneIn 0x91 w s g) 0) = none) (low : 0 < mmaRows (laneIn 0x91 w s g))
    (high : mmaRows (laneIn 0x91 w s g) ≤ 64) (aligned : mmaAddr (laneIn 0x91 w s g) % 64 = 0)
    (inside : mmaAddr (laneIn 0x91 w s g) + rowsBytes (formatWord (laneIn 0x91 w s g) 0) (mmaRows (laneIn 0x91 w s g)) ≤
      sramBytes (laneIn 0x91 w s g))
    (ready : ∀ k ∈ spanCims s g w.vd.toNat (spanCount w),
      k.state ≠ .stopped ∧ k.state ≠ .empty ∧ k.bfmt.toNat = fwB (formatWord (laneIn 0x91 w s g) 0)) :
    let x := laneIn 0x91 w s g
    let r := mmaCmd (modSpan s g w.vd.toNat (spanCount w) (mmaSets w (formatWord x 0) (mmaRows x) (mmaAddr x))) g s.cur w.vd.toNat
      (spanCount w) (cmdTag w) (cmdEvt w) (formatWord x 0) (mmaRows x) (mmaAddr x) 0
    exec (.mma w) s = .next (running x r.1 r.2) := by
  intro x r
  show execMma w s = _
  refine matWord_accepted go (matChecks_none free ?uniform rfl ?own) rfl idle.1 (waiters_own_of_idle idle) ?ok
  case uniform =>
    simp only [List.forall_mem_cons]
    exact ⟨notSnap_of_snapshot addr, notSnap_of_snapshot rows, List.forall_mem_nil _⟩
  case own =>
    simp only [List.forall_mem_cons]
    exact ⟨converged, by rw [format]; rfl, trapIf_none (spanBad_false free),
      trapIf_none (countBad_false low high),
      trapIf_none (by simp [aligned]), trapIf_none (decide_eq_false (not_lt.mpr inside)), List.forall_mem_nil _⟩
  case ok =>
    have unstopped : ((spanCims s g w.vd.toNat (spanCount w)).any (·.state == .stopped)) = false :=
      List.any_eq_false.mpr fun k listed => by simpa using (ready k listed).1
    have matched : ((spanCims s g w.vd.toNat (spanCount w)).any
        fun k => k.state == .empty || k.bfmt.toNat != fwB (formatWord (laneIn 0x91 w s g) 0)) = false :=
      List.any_eq_false.mpr fun k listed => by simp [ready k listed]
    exact (if_neg (by simp [free.thaw])).trans ((if_neg (by simp [unstopped])).trans (if_neg (by simp [matched])))

/-- An array that MRESUME takes for one of the span of a stopped array (R139). -/
def stoppedLike (k o : Cim) : Bool :=
  o.state == .stopped && o.m == k.m && o.next == k.next && o.fmtw == k.fmtw && o.aaddr == k.aaddr && o.tag == k.tag && o.evt == k.evt &&
    o.count == k.count && o.first == k.first

theorem stoppedLike_of_sameStatus {k o : Cim} (stopped : k.state = .stopped) (same : Claim.sameStatus o k) : stoppedLike k o = true := by
  obtain ⟨state, m, next, fmtw, aaddr, tag, evt, count, first⟩ := same
  simp [stoppedLike, state.trans stopped, m, next, fmtw, aaddr, tag, evt, count, first]

theorem mresume_accepted (idle : Claim.unitIdle s g) (go : LaneGo 0x97 w s g) (free : Claim.SpanFree s g w.vd.toNat 1)
    (some_ : acting (laneIn 0x97 w s g) ≠ []) (stopped : (cimAt s g w.vd.toNat).state = .stopped)
    (first : (cimAt s g w.vd.toNat).first.toNat = w.vd.toNat) (count : 0 < (cimAt s g w.vd.toNat).count.toNat)
    (span : w.vd.toNat + (cimAt s g w.vd.toNat).count.toNat ≤ (sharesOf s g).length)
    (same : ∀ j, w.vd.toNat ≤ j → j < w.vd.toNat + (cimAt s g w.vd.toNat).count.toNat →
      Claim.sameStatus (cimAt s g j) (cimAt s g w.vd.toNat))
    (inside : (cimAt s g w.vd.toNat).aaddr.toNat + rowsBytes (cimAt s g w.vd.toNat).fmtw.toNat (cimAt s g w.vd.toNat).m.toNat ≤
      (launchOf s g).record.sram.toNat) :
    let k := cimAt s g w.vd.toNat
    let r := mmaCmd s g s.cur w.vd.toNat k.count.toNat k.tag k.evt k.fmtw.toNat k.m.toNat k.aaddr.toNat (min k.next.toNat k.m.toNat)
    exec (.mresume w) s = .next (running (laneIn 0x97 w s g) r.1 r.2) := by
  intro k r
  show execMresume w s = _
  refine matWord_accepted go (spanChecks_none free) (issue_of_acting some_) idle.1 (waiters_own_of_idle idle) ?ok
  case ok =>
    have alike : ((spanCims s g w.vd.toNat k.count.toNat).all (stoppedLike k)) = true := by
      simp only [spanCims, List.all_map, List.all_eq_true, List.mem_range, Function.comp_apply]
      exact fun j below => stoppedLike_of_sameStatus stopped (same (w.vd.toNat + j) (Nat.le_add_right ..) (Nat.add_lt_add_left below _))
    have held : ¬(k.state ≠ .stopped ∨ k.first.toNat ≠ w.vd.toNat ∨ k.count.toNat = 0 ∨
        (sharesOf s g).length < w.vd.toNat + k.count.toNat ∨ (!(spanCims s g w.vd.toNat k.count.toNat).all (stoppedLike k)) = true) := by
      rw [alike]
      simp only [stopped, first, k, ne_eq, not_true_eq_false, false_or, Bool.not_true, Bool.false_eq_true, or_false]
      omega
    exact (if_neg (by simp [free.thaw])).trans ((if_neg held).trans (if_neg (not_lt.mpr inside)))

/-! ## MCLR (R140) -/

/-- An array that MCLR has cleared (R140). -/
def cleared (w : LaneW) (k : Cim) : Cim :=
  if w.opx.getLsbD 0 then mclrAccept.freshCim k else { k with acc := [], state := if k.state = .stopped then .loaded else k.state }

theorem acc_cleared {k : Cim} : (cleared w k).acc = [] := by unfold cleared; split <;> rfl

theorem mclr_accepted (idle : (unitOf s g.quad).run = none) (mine : ∀ e ∈ (unitOf s g.quad).fifo, e = (s.cur, s.path1))
    (go : LaneGo 0x98 w s g) (free : Claim.SpanFree s g w.vd.toNat (spanCount w)) (some_ : acting (laneIn 0x98 w s g) ≠ []) :
    execMclr w s = .next (running (laneIn 0x98 w s g) (modSpan s g w.vd.toNat (spanCount w) (cleared w))
      (baseCmd (modSpan s g w.vd.toNat (spanCount w) (cleared w)) g s.cur .mclr w.vd.toNat (spanCount w) 0 false)) :=
  matWord_accepted go (spanChecks_none free) (issue_of_acting some_) idle mine (if_neg (by simp [free.thaw]))

/-! ## What the commands claim -/

theorem matrixCommandsAccepted : Claim.MatrixCommands := by
  intro w s g idle
  refine ⟨?mldb, ?mma, ?mclr, ?mresume⟩
  case mldb =>
    intro go free base cols x some_ low high aligned inside thaw
    have here : w.vd.toNat < (sharesOf s g).length := free.inside
    refine ⟨_, _, mldb_accepted idle go free base cols some_ low high aligned inside thaw, congrArg MatUnit.run unitOf_running, rfl, rfl, rfl,
      rfl, rfl, rfl, rfl, ?_, ?_⟩ <;> rw [cimAt_running, cimAt_modCim_same here]
  case mma =>
    intro go free addr rows x fw converged format low high aligned inside ready
    refine ⟨_, _, mma_accepted idle go free addr rows converged format low high aligned inside ready, congrArg MatUnit.run unitOf_running,
      rfl, rfl, rfl, rfl, rfl, rfl, rfl, fun k start below => ?_⟩
    rw [cimAt_running, mmaCmd, cimAt_modSpan (by rw [length_sharesOf_modSpan]; exact free.inside) start below,
      cimAt_modSpan free.inside start below]
    exact ⟨rfl, rfl, rfl, rfl, rfl, rfl⟩
  case mclr =>
    intro go free some_
    refine ⟨_, _, mclr_accepted idle.1 (waiters_own_of_idle idle) go free some_, congrArg MatUnit.run unitOf_running, rfl,
      fun k start below => ?_⟩
    rw [cimAt_running, cimAt_modSpan free.inside start below]
    exact ⟨acc_cleared, fun all => by rw [cleared, if_pos all]; exact ⟨rfl, rfl⟩,
      fun part => by rw [cleared, if_neg (Bool.eq_false_iff.mp part)]⟩
  case mresume =>
    intro go free some_ k stopped first count span same inside
    refine ⟨_, _, mresume_accepted idle go free some_ stopped first count span same inside, congrArg MatUnit.run unitOf_running,
      rfl, rfl, rfl, rfl, rfl, fun j start below => ?_⟩
    rw [cimAt_running, mmaCmd, cimAt_modSpan span start below]
    exact ⟨rfl, rfl⟩

/-! ## Waiting and trapping (R121, R143, R144) -/

/-- A unit that no group waits for gets its first waiter. -/
theorem unitOf_joinUnit {q : Nat} {me : Nat × Bool} (none_ : (unitOf s q).fifo = []) :
    unitOf (joinUnit s q me) q = { run := (unitOf s q).run, fifo := [me] } := by
  unfold joinUnit
  simp only [none_]
  exact unitOf_setUnit

/-- A group that begins a blocking wait of its lane stream, or already waits (R267, R292). -/
def laneWaits (g : Group) : Group := if g.lwait then g else { g with lwait := true, gap := 0 }

theorem lwait_laneWaits : (laneWaits g).lwait = true := by
  unfold laneWaits
  split
  · assumption
  · rfl

theorem pathOf_laneWaits {p : Bool} : pathOf (laneWaits g) p = pathOf g p := by
  unfold laneWaits
  split <;> rfl

/-- MCLR whose unit runs a command that none waits behind joins the waiters (R121). -/
theorem mclr_waits (go : LaneGo 0x98 w s g) (busy : (unitOf s g.quad).run = some c) (none_ : (unitOf s g.quad).fifo = [])
    (free : Claim.SpanFree s g w.vd.toNat (spanCount w)) (some_ : acting (laneIn 0x98 w s g) ≠ []) :
    exec (.mclr w) s = .next ((joinUnit s g.quad (s.cur, s.path1)).modGroup s.cur laneWaits) := by
  have issue : matIssue (laneIn 0x98 w s g) (mclrAccept w s.cur) = (joinUnit s g.quad (s.cur, s.path1)).modGroup s.cur laneWaits := by
    unfold matIssue
    simp only [laneIn, busy, none_]
    rfl
  show execMclr w s = _
  unfold execMclr
  rw [laneExec_go go, spanChecks_none free]
  exact congrArg Host.Outcome.next ((issue_of_acting some_).trans issue)

/-- MCLR with a failing check traps with its cause alone. -/
theorem mclr_traps {cause : Cause} (go : LaneGo 0x98 w s g) (fails : firstTrap (matFirst (laneIn 0x98 w s g) [] ++
    [trapIf (spanBad (laneIn 0x98 w s g) w.vd.toNat (spanCount w)) Tc.cimRange]) = some { cause := cause }) :
    exec (.mclr w) s = .next (laneTrap s s.cur g s.path1 cause) := by
  show execMclr w s = _
  unfold execMclr
  exact laneExec_own_trap (c := { cause := cause }) go fails

theorem matrixWordWaitsAndTraps : Claim.MatrixWordWaitsAndTraps := by
  intro w s g c go
  refine ⟨fun busy none_ free some_ => ?waits, fun bare => mclr_traps go ?none_, fun shares region => mclr_traps go ?region⟩
  case waits =>
    have unit := unitOf_joinUnit (me := (s.cur, s.path1)) none_
    have group : groupAt ((joinUnit s g.quad (s.cur, s.path1)).modGroup s.cur laneWaits) s.cur = laneWaits g := by
      have present : (joinUnit s g.quad (s.cur, s.path1)).groups[s.cur]? = some g := go.group
      exact groupAt_of_present (by rw [State.modGroup_groups, List.getElem?_modify_eq, present]; rfl)
    refine ⟨_, mclr_waits go busy none_ free some_, congrArg MatUnit.fifo unit, (congrArg MatUnit.run unit).trans busy, ?_, ?_⟩ <;> rw [group]
    · exact lwait_laneWaits
    · exact pathOf_laneWaits
  case none_ => simp [firstTrap, matFirst, laneIn, bare]
  case region => simp [firstTrap, matFirst, laneIn, inRegionTrap, forbidden, inRegion, List.isEmpty_eq_false_iff.mpr shares, region]

/-- Settles O26: an idle unit accepts each command with the word's own fields and marks its span; a busy unit takes the word among its
waiters; the first failing check gives the trap. -/
theorem matrixCommands : Obligations.MatrixCommands := ⟨matrixCommandsAccepted, matrixWordWaitsAndTraps⟩

end Sys2Proof.Proofs
end

section
/-! SUPPORT. The matrix unit by itself: completion, event push and stop of a command (R121, R130, R131, R133, R143), and the first waiter's
word, which issues on a state whose arrays and units the fetch has left as the command needs them. -/

namespace Sys2Proof.Proofs

open Sys2Proof Sys2Proof.Machine

variable {s t u : State} {g : Group} {gi q : Nat} {c : MatCmd} {kind : MatKind}

/-! ## Fetching leaves the arrays, and an idle unit idle -/

/-- The turn, the arrays and the freeze of every team stand, and an idle unit stays idle with no new waiter. -/
structure KeepsMatrix (s t : State) : Prop where
  cur    : t.cur = s.cur
  path1  : t.path1 = s.path1
  arrays : t.teams.map (fun x => (x.cims, x.frozen)) = s.teams.map (fun x => (x.cims, x.frozen))
  units  : ∀ q, (unitOf s q).run = none → (unitOf t q).run = none ∧ (unitOf t q).fifo ⊆ (unitOf s q).fifo

theorem KeepsMatrix.of_same (cur : t.cur = s.cur := by rfl) (path1 : t.path1 = s.path1 := by rfl) (teams : t.teams = s.teams := by rfl)
    (units : t.units = s.units := by rfl) : KeepsMatrix s t :=
  ⟨cur, path1, by rw [teams], fun q idle => by
    rw [show unitOf t q = unitOf s q by rw [unitOf, units, unitOf]]
    exact ⟨idle, List.Subset.refl _⟩⟩

theorem KeepsMatrix.refl : KeepsMatrix s s := .of_same

theorem KeepsMatrix.trans (h : KeepsMatrix s t) (h' : KeepsMatrix t u) : KeepsMatrix s u :=
  ⟨h'.cur.trans h.cur, h'.path1.trans h.path1, h'.arrays.trans h.arrays, fun q idle => by
    obtain ⟨still, fewer⟩ := h.units q idle
    obtain ⟨still', fewer'⟩ := h'.units q still
    exact ⟨still', List.Subset.trans fewer' fewer⟩⟩

theorem keepsMatrix_foldl {α : Type} {f : State → α → State} (keeps : ∀ s x, KeepsMatrix s (f s x)) (l : List α) (s : State) :
    KeepsMatrix s (l.foldl f s) :=
  List.foldlRecOn (motive := KeepsMatrix s) l f .refl fun _ h x _ => h.trans (keeps _ x)

/-- A change of each unit that starts no command and adds no waiter. -/
theorem keepsMatrix_units {f : MatUnit → MatUnit} (run : ∀ x : MatUnit, x.run = none → (f x).run = none)
    (fifo : ∀ x : MatUnit, (f x).fifo ⊆ x.fifo) (units : t.units = s.units.map fun e => (e.1, f e.2)) (cur : t.cur = s.cur) (path1 : t.path1 = s.path1)
    (teams : t.teams = s.teams) : KeepsMatrix s t := by
  refine ⟨cur, path1, by rw [teams], fun q idle => ?_⟩
  unfold unitOf at idle ⊢
  rw [units, lookup_map_snd]
  cases unit : s.units.lookup q with
  | none => exact ⟨rfl, List.Subset.refl _⟩
  | some x => rw [unit] at idle; exact ⟨run x idle, fifo x⟩

theorem keepsMatrix_modTeam {ti : Nat} {f : Team → Team} (cims : ∀ x, (f x).cims = x.cims) (frozen : ∀ x, (f x).frozen = x.frozen) :
    KeepsMatrix s (s.modTeam ti f) := by
  refine ⟨rfl, rfl, List.ext_getElem? fun j => ?_, fun q idle => ⟨idle, List.Subset.refl _⟩⟩
  rw [State.modTeam_teams, List.getElem?_map, List.getElem?_map, List.getElem?_modify]
  cases s.teams[j]? with
  | none => rfl
  | some x => by_cases here : ti = j <;> simp [here, cims, frozen]

theorem keepsMatrix_setTimesAt {sec : Nat} {x : Nat × Nat} : KeepsMatrix s (setTimesAt s sec x) := by
  unfold setTimesAt setSector
  split
  · exact .of_same
  · split <;> exact .of_same

theorem keepsMatrix_walkTimes {d c va : Nat} : KeepsMatrix s (walkTimes s d c va) := by
  unfold walkTimes
  extract_lets lt reads r
  have read : KeepsMatrix s r.1 :=
    List.foldlRecOn (motive := fun acc : State × Nat => KeepsMatrix s acc.1) reads _ .refl fun acc h pa _ =>
      h.trans (keepsMatrix_foldl (fun _ _ => keepsMatrix_setTimesAt) (sectorsOf pa 8) acc.1)
  exact read.trans (.of_same)

theorem keepsMatrix_enterPage {core c va : Nat} {k : Xk} : KeepsMatrix s (enterPage s core c k va) := by
  unfold enterPage
  split
  · exact .of_same
  · have dropped : KeepsMatrix s (dropWalk s (core / 36) c va) := .of_same
    have walked := dropped.trans (keepsMatrix_walkTimes (d := core / 36) (c := c) (va := va))
    dsimp only
    split
    · exact walked.trans (.of_same)
    · exact walked

theorem keepsMatrix_enterRange {core c va n : Nat} {k : Xk} : KeepsMatrix s (enterRange s core c va n k) :=
  keepsMatrix_foldl (fun _ _ => keepsMatrix_enterPage) _ s

theorem keepsMatrix_removeGroup : KeepsMatrix s (removeGroup s gi) := by
  have left (x : MatUnit) : ({ x with fifo := x.fifo.filter (·.1 != gi) } : MatUnit).fifo ⊆ x.fifo := List.filter_sublist.subset
  unfold removeGroup
  dsimp only
  split <;> exact keepsMatrix_units (f := fun x => { x with fifo := x.fifo.filter (·.1 != gi) }) (fun _ idle => idle) left rfl rfl rfl rfl

theorem keepsMatrix_removeTeam {ti : Nat} : KeepsMatrix s (removeTeam s ti) := by
  unfold removeTeam
  extract_lets t s1 s2
  have groups : KeepsMatrix s s1 := keepsMatrix_foldl (fun _ _ => keepsMatrix_removeGroup) t.groups s
  have units : KeepsMatrix s1 s2 := keepsMatrix_units
    (f := fun x => { run := x.run.filter fun c => !t.groups.contains c.g, fifo := x.fifo.filter fun e => !t.groups.contains e.1 })
    (fun x idle => by rw [idle]; rfl) (fun x => List.filter_sublist.subset) rfl rfl rfl rfl
  exact (groups.trans units).trans (keepsMatrix_modTeam (fun _ => rfl) fun _ => rfl)

theorem keepsMatrix_sendVector {c off : Nat} : KeepsMatrix s (sendVector s c off) := by
  unfold sendVector
  dsimp only
  split <;> exact .of_same

theorem keepsMatrix_fatal {c : Nat} {cause : Cause} {lid : W32} : KeepsMatrix s (fatal s c cause lid) := by
  unfold fatal
  extract_lets s1 s2
  have context : KeepsMatrix s s1 := .of_same
  exact (context.trans (keepsMatrix_foldl (fun _ _ => keepsMatrix_removeTeam) (teamsOfCtx s1 c) s1)).trans keepsMatrix_sendVector

theorem keepsMatrix_parkSet {a : ASet} {cause : Cause} {level : Nat} {entry : Word} {va : Nat} {lanes : Mask} :
    KeepsMatrix s (parkSet s a cause level entry va lanes) := by
  unfold parkSet
  dsimp only
  split
  · exact .refl
  · split
    · exact keepsMatrix_fatal
    · exact .of_same

theorem keepsMatrix_takeFetched {lane path1 : Bool} : KeepsMatrix s (takeFetched s gi lane path1) := by
  unfold takeFetched
  split
  · exact .refl
  · next e _ =>
    have taken : KeepsMatrix s { s with net := s.net.erase e } := .of_same
    dsimp only
    split
    · split
      · exact .of_same
      · split
        · exact .of_same
        · exact taken.trans keepsMatrix_parkSet
    · exact taken

/-- A lane word meets its turn, its arrays and an idle unit as they stood before its fetch. -/
theorem keepsMatrix_laneState {p : Bool} : KeepsMatrix { s with cur := gi, path1 := p } (Claim.laneState s gi p) := by
  have taken : KeepsMatrix { s with cur := gi, path1 := p } (takeFetched { s with cur := gi, path1 := p } gi true p) :=
    keepsMatrix_takeFetched
  exact (taken.trans .of_same).trans keepsMatrix_enterRange

theorem KeepsMatrix.team (h : KeepsMatrix s t) : (teamOf t g).cims = (teamOf s g).cims ∧ (teamOf t g).frozen = (teamOf s g).frozen := by
  have pair : ((teamOf t g).cims, (teamOf t g).frozen) = ((teamOf s g).cims, (teamOf s g).frozen) := by
    unfold teamOf
    rw [← List.getD_map (f := fun x : Team => (x.cims, x.frozen)), ← List.getD_map (f := fun x : Team => (x.cims, x.frozen)), h.arrays]
  exact Prod.mk.inj pair

theorem KeepsMatrix.spanFree {first count : Nat} (h : KeepsMatrix s t) (free : Claim.SpanFree s g first count) :
    Claim.SpanFree t g first count where
  region := free.region
  team := by
    have length := congrArg List.length h.arrays
    rw [List.length_map, List.length_map] at length
    exact length ▸ free.team
  some_ := free.some_
  inside := by rw [sharesOf, h.team.1]; exact free.inside
  thaw := h.team.2.trans free.thaw

/-! ## The first waiter (R121) -/

/-- On a fetched lane word, two meanings that agree on it make the same of the stream's turn. -/
theorem stepLane_congr {run : Instr → State → Out} {p : Bool} {bs : List Byte} {i : Instr} (h : Claim.LaneFetch s gi p g bs)
    (decoded : decodeLaneBytes bs = .ok i) (agree : run i (Claim.laneState s gi p) = exec i (Claim.laneState s gi p)) :
    stepLane run gi p s = stepLane exec gi p s := by
  have present := groupAt_of_present h.group
  have past : laneReached run gi g p (Claim.laneState s gi p) bs = laneReached exec gi g p (Claim.laneState s gi p) bs := by
    simp only [laneReached, laneWord, decoded, agree]
  have fetched (run : Instr → State → Out) : fetchRun { s with cur := gi, path1 := p } gi true p (laneVa s g (pathOf g p).lpc) 12
      (laneVa s g 0) (12 * (imageOf s g).lwords) (laneReached run gi g p) = dropFetched (laneReached run gi g p (Claim.laneState s gi p) bs) :=
    fetchRun_runs present h.here (by subst present; rfl) h.clean h.bytes
  have same := (fetched run).trans ((congrArg dropFetched past).trans (fetched exec).symm)
  unfold stepLane
  simp only [h.group]
  split
  · rfl
  · split
    · rfl
    · split
      · rfl
      · exact same

/-- Bytes fetched for a word stand in no unit. -/
theorem unitOf_dropBytes {l : List (Nat × Memory)} : unitOf { s with ibuf := l } q = unitOf s q := rfl

/-- The first waiter's word issues again on the fetched state, where its idle unit accepts it. -/
theorem matrixCmdAccept_accepts {p : Bool} {bs : List Byte} {w : LaneW} (idle : (unitOf s g.quad).run = none)
    (waiter : (unitOf s g.quad).fifo = [(gi, p)]) (fetch : Claim.LaneFetch s gi p g bs) (decoded : decodeLaneBytes bs = .ok (.mclr w))
    (go : LaneGo 0x98 w (Claim.laneState s gi p) g) (free : Claim.SpanFree s g w.vd.toNat (spanCount w))
    (some_ : acting (laneIn 0x98 w (Claim.laneState s gi p) g) ≠ []) :
    ∃ t c, exec (.matrixCmdAccept g.quad) s = .next t ∧ (unitOf t g.quad).run = some c ∧ c.kind = .mclr ∧ (unitOf t g.quad).fifo = [] := by
  set u := Claim.laneState s gi p
  have keeps : KeepsMatrix { s with cur := gi, path1 := p } u := keepsMatrix_laneState
  obtain ⟨still, fewer⟩ := keeps.units g.quad idle
  have issue : exec (.matrixCmdAccept g.quad) s = stepLane matrixWord gi p s := by
    show execMatrixCmdAccept g.quad s = _
    unfold execMatrixCmdAccept
    simp only [idle, waiter]
  have ran : stepLane matrixWord gi p s = dropFetched (execMclr w u) :=
    (stepLane_congr (run := matrixWord) fetch decoded rfl).trans (stepLane_runs fetch decoded)
  have mine : ∀ e ∈ (unitOf u g.quad).fifo, e = (u.cur, u.path1) := fun e listed => by
    have before : e ∈ (unitOf s g.quad).fifo := fewer listed
    rw [waiter, List.mem_singleton] at before
    rw [before, keeps.cur, keeps.path1]
  have accepted := mclr_accepted still mine go (keeps.spanFree ⟨free.region, free.team, free.some_, free.inside, free.thaw⟩) some_
  set c := baseCmd (modSpan u g w.vd.toNat (spanCount w) (cleared w)) g u.cur .mclr w.vd.toNat (spanCount w) 0 false
  set v := running (laneIn 0x98 w u g) (modSpan u g w.vd.toNat (spanCount w) (cleared w)) c
  have unit : unitOf { v with ibuf := [] } g.quad = { run := some c, fifo := [] } :=
    unitOf_dropBytes.trans (unitOf_running (x := laneIn 0x98 w u g))
  refine ⟨{ v with ibuf := [] }, c, ?_, congrArg MatUnit.run unit, rfl, congrArg MatUnit.fifo unit⟩
  rw [issue, ran, accepted]
  rfl

/-! ## Completion and event push (R130, R131, R133) -/

/-- The state with the arrays of a completed command (R130, R131). -/
def completed (c : MatCmd) (s : State) : State :=
  match c.kind with
  | .mldb => modSpan s (groupAt s c.g) c.first c.count (loadTile c.fmt c.n c.buf.flatten)
  | .mma => modSpan s (groupAt s c.g) c.first c.count fun k => { k with state := .loaded, next := k.m }
  | .mclr => s

/-- The state with the event word of a completed command in q5 (R133). -/
def notified (c : MatCmd) (s : State) : State :=
  (completed c s).modGroup c.g fun g => { g with q5 := g.q5 ++ [(eventWord s c, c.lt)] }

theorem completed_teams : completed c s = { s with teams := (completed c s).teams } := by
  unfold completed
  split
  · exact modSpan_teams
  · exact modSpan_teams
  · rfl

/-- A command without an event leaves its unit with its arrays completed. -/
theorem finishCmd_silent (silent : c.evt = false) :
    finishCmd s q c = setUnit (completed c s) q { unitOf (completed c s) q with run := none } := by
  unfold finishCmd completed
  simp only [silent]
  cases c.kind <;> rfl

/-- A command with an event and room for it leaves its unit with its arrays completed and its event word pushed. -/
theorem finishCmd_event (event : c.evt = true) (room : (groupAt s c.g).q5.length < 64) :
    finishCmd s q c = setUnit (notified c s) q { unitOf (notified c s) q with run := none } := by
  have word : eventWord (completed c s) c = eventWord s c := by
    rw [completed_teams]
    rfl
  unfold finishCmd notified
  rw [← word]
  unfold completed
  simp only [event, not_le.mpr room]
  cases c.kind <;> rfl

/-- A full q5 holds a command with an event in its unit. -/
theorem finishCmd_full (event : c.evt = true) (full : 64 ≤ (groupAt s c.g).q5.length) :
    finishCmd s q c = setUnit s q { unitOf s q with run := some { c with waiting := true } } :=
  if_pos ⟨event, full⟩

/-- A command whose completion dc has come finishes. -/
theorem completeKind_finishes (runs : (unitOf s q).run = some c) (same : c.kind = kind) (due : doneAt c ≤ s.now)
    (thaw : c.frozen.isNone ∨ kind ≠ .mma) (fresh : c.waiting = false) : completeKind q kind s = .next (finishCmd s q c) := by
  unfold completeKind
  simp only [runs]
  exact congrArg Host.Outcome.next (if_pos ⟨same, due, thaw, by rw [fresh]; rfl⟩)

/-! ## What the unit's steps claim -/

theorem mldbComplete_loads (runs : (unitOf s q).run = some c) (silent : c.evt = false) (mldb : c.kind = .mldb) (due : doneAt c ≤ s.now)
    (fresh : c.waiting = false) (one : c.count = 1) (inside : c.first < (sharesOf s (groupAt s c.g)).length) :
    ∃ t, exec (.mldbComplete q) s = .next t ∧ (unitOf t q).run = none ∧
      cimAt t (groupAt s c.g) c.first = loadTile c.fmt c.n c.buf.flatten (cimAt s (groupAt s c.g) c.first) := by
  refine ⟨_, completeKind_finishes runs mldb due (.inr (by simp)) fresh, ?_⟩
  rw [finishCmd_silent silent]
  refine ⟨congrArg MatUnit.run unitOf_setUnit, ?_⟩
  show cimAt (completed c s) _ _ = _
  simp only [completed, mldb]
  exact cimAt_modSpan (by omega) le_rfl (by omega)

theorem mmaComplete_loads (runs : (unitOf s q).run = some c) (silent : c.evt = false) (mma : c.kind = .mma) (due : doneAt c ≤ s.now)
    (fresh : c.waiting = false) (thaw : c.frozen = none) (inside : c.first + c.count ≤ (sharesOf s (groupAt s c.g)).length) :
    ∃ t, exec (.mmaComplete q) s = .next t ∧ (unitOf t q).run = none ∧ ∀ k, c.first ≤ k → k < c.first + c.count →
      (cimAt t (groupAt s c.g) k).state = .loaded ∧ (cimAt t (groupAt s c.g) k).next = (cimAt s (groupAt s c.g) k).m := by
  refine ⟨_, completeKind_finishes runs mma due (.inl (by rw [thaw]; rfl)) fresh, ?_⟩
  rw [finishCmd_silent silent]
  refine ⟨congrArg MatUnit.run unitOf_setUnit, fun k start below => ?_⟩
  show (cimAt (completed c s) _ _).state = _ ∧ (cimAt (completed c s) _ _).next = _
  simp only [completed, mma]
  rw [cimAt_modSpan inside start below]
  exact ⟨rfl, rfl⟩

theorem mclrComplete_leaves (runs : (unitOf s q).run = some c) (silent : c.evt = false) (mclr : c.kind = .mclr) (due : doneAt c ≤ s.now)
    (fresh : c.waiting = false) :
    ∃ t, exec (.mclrComplete q) s = .next t ∧ (unitOf t q).run = none ∧ t.teams = s.teams ∧ t.groups = s.groups := by
  refine ⟨_, completeKind_finishes runs mclr due (.inr (by simp)) fresh, ?_⟩
  rw [finishCmd_silent silent]
  refine ⟨congrArg MatUnit.run unitOf_setUnit, ?_⟩
  show (completed c s).teams = _ ∧ (completed c s).groups = _
  simp only [completed, mclr, and_self]

/-- A frozen multiplication's arrays stop with the rows begun as NEXT (R143). -/
theorem matrixStop_stops {frozenAt : Nat} (runs : (unitOf s q).run = some c) (mma : c.kind = .mma) (frozen : c.frozen = some frozenAt)
    (due : stopAt c frozenAt ≤ s.now) (inside : c.first + c.count ≤ (sharesOf s (groupAt s c.g)).length) :
    ∃ t, exec (.matrixStop q) s = .next t ∧ (unitOf t q).run = none ∧ ∀ k, c.first ≤ k → k < c.first + c.count →
      (cimAt t (groupAt s c.g) k).state = .stopped ∧ (cimAt t (groupAt s c.g) k).next = BitVec.ofNat 7 (c.row0 + c.begun) := by
  have stops : exec (.matrixStop q) s = .next (setUnit (modSpan s (groupAt s c.g) c.first c.count fun k =>
      { k with state := .stopped, next := BitVec.ofNat 7 (c.row0 + c.begun) }) q { unitOf s q with run := none }) := by
    show execMatrixStop q s = _
    unfold execMatrixStop
    simp only [runs, frozen]
    exact congrArg Host.Outcome.next (if_pos ⟨mma, due⟩)
  refine ⟨_, stops, congrArg MatUnit.run unitOf_setUnit, fun k start below => ?_⟩
  show (cimAt (modSpan ..) _ _).state = _ ∧ (cimAt (modSpan ..) _ _).next = _
  rw [cimAt_modSpan inside start below]
  exact ⟨rfl, rfl⟩

/-- A completion whose q5 is full waits in its unit (R133). -/
theorem completeKind_waits (runs : (unitOf s q).run = some c) (event : c.evt = true) (thaw : c.frozen = none) (same : c.kind = kind)
    (full : 64 ≤ (groupAt s c.g).q5.length) (due : doneAt c ≤ s.now) (fresh : c.waiting = false) :
    ∃ t d, completeKind q kind s = .next t ∧ (unitOf t q).run = some d ∧ d.waiting = true ∧ t.groups = s.groups := by
  refine ⟨_, { c with waiting := true }, completeKind_finishes runs same due (.inl (by rw [thaw]; rfl)) fresh, ?_⟩
  rw [finishCmd_full event full]
  exact ⟨congrArg MatUnit.run unitOf_setUnit, rfl, rfl⟩

/-- A waiting completion leaves its unit once q5 has room (R133). -/
theorem matrixEventPush_pushes (runs : (unitOf s q).run = some c) (present : c.g < s.groups.length) (event : c.evt = true)
    (thaw : c.frozen = none) (room : (groupAt s c.g).q5.length < 64) (waits : c.waiting = true) :
    ∃ t, exec (.matrixEventPush q) s = .next t ∧ (unitOf t q).run = none ∧
      (groupAt t c.g).q5 = (groupAt s c.g).q5 ++ [(eventWord s c, c.lt)] := by
  have pushes : exec (.matrixEventPush q) s = .next (finishCmd s q c) := by
    show execMatrixEventPush q s = _
    unfold execMatrixEventPush
    simp only [runs]
    exact congrArg Host.Outcome.next (if_pos ⟨waits, by rw [thaw]; rfl⟩)
  refine ⟨_, pushes, ?_⟩
  rw [finishCmd_event event room]
  refine ⟨congrArg MatUnit.run unitOf_setUnit, ?_⟩
  have stands : (completed c s).groups = s.groups := by rw [completed_teams]
  have group := groupAt_of_present (s := notified c s) (modGroup_groups_same (by rw [stands]; exact present))
  have before : groupAt (completed c s) c.g = groupAt s c.g := by rw [completed_teams]; rfl
  show (groupAt (notified c s) c.g).q5 = _
  rw [group, before]

/-- Settles O28: the fetch leaves the arrays and an idle unit, so the first waiter's word is accepted; a finished command leaves its unit
with its arrays as its kind has them, or waits in it while q5 is full. -/
theorem matrixUnitSteps : Obligations.MatrixUnitSteps := by
  intro s q
  refine ⟨fun gi p r g bs w idle waiter fetch decoded quad only go free some_ => ?accept,
    fun c runs present silent => ⟨?mldb, ?mma, ?mclr, ?stop⟩, fun c runs present event thaw => ⟨?mldbFull, ?mmaFull, ?push⟩⟩
  case accept =>
    subst quad only
    exact matrixCmdAccept_accepts idle waiter fetch decoded go free some_
  case mldb => exact fun mldb due fresh one inside _ => mldbComplete_loads runs silent mldb due fresh one inside
  case mma => exact fun mma due fresh thaw inside _ => mmaComplete_loads runs silent mma due fresh thaw inside
  case mclr => exact fun mclr due fresh => mclrComplete_leaves runs silent mclr due fresh
  case stop => exact fun u mma frozen due inside _ => matrixStop_stops runs mma frozen due inside
  case mldbFull => exact fun mldb full due fresh => completeKind_waits runs event thaw mldb full due fresh
  case mmaFull => exact fun mma full due fresh => completeKind_waits runs event thaw mma full due fresh
  case push => exact fun room waits => matrixEventPush_pushes runs present event thaw room waits

end Sys2Proof.Proofs
end

section
/-! SUPPORT. Matrix moves: an accumulator, raw or status word read back from an array that has been given it, and what a drain, a fill or
MSTAT that nothing holds back does (R134, R136, R140 to R142). -/

namespace Sys2Proof.Proofs

open Sys2Proof Sys2Proof.Machine

variable {s : State} {g : Group} {maj hi rows : Nat} {w : LaneW} {a : Cim} {r c c' v : Nat}

/-! ## Words of an array -/

theorem accRead_accWrite_same {f64 : Bool} : accRead (accWrite a f64 r c v) f64 r c = v % 2 ^ (if f64 then 64 else 32) := by
  unfold accRead accWrite
  cases f64 with
  | false => simp [tget_tset]
  | true =>
    have low : 64 * r + 2 * c ≠ 64 * r + 2 * c + 1 := by omega
    simp only [if_true, tget_tset, if_neg low, BitVec.toNat_ofNat]
    omega

theorem accRead_accWrite_ne {f64 : Bool} (ne : c' ≠ c) : accRead (accWrite a f64 r c v) f64 r c' = accRead a f64 r c' := by
  unfold accRead accWrite
  cases f64 with
  | false =>
    simp [tget_tset, ne]
  | true =>
    have low : 64 * r + 2 * c' ≠ 64 * r + 2 * c := by omega
    have lowHigh : 64 * r + 2 * c' ≠ 64 * r + 2 * c + 1 := by omega
    have highLow : 64 * r + 2 * c' + 1 ≠ 64 * r + 2 * c := by omega
    have high : 64 * r + 2 * c' + 1 ≠ 64 * r + 2 * c + 1 := by omega
    simp only [if_true, tget_tset, if_neg low, if_neg lowHigh, if_neg highLow, if_neg high]

theorem cells_accWrite {f64 : Bool} : (accWrite a f64 r c v).cells = a.cells := by
  unfold accWrite
  split <;> rfl

theorem rawRead_rawWrite_same {kind : Nat} : rawRead (rawWrite a kind r c v) kind r c = v % 2 ^ Claim.rawBits kind := by
  unfold rawRead rawWrite Claim.rawBits
  split <;> simp [tget_tset]

theorem rawRead_rawWrite_ne {kind : Nat} (ne : c' ≠ c) : rawRead (rawWrite a kind r c v) kind r c' = rawRead a kind r c' := by
  unfold rawRead rawWrite
  split <;> simp [tget_tset, ne]

theorem acc_rawWrite {kind : Nat} : (rawWrite a kind r c v).acc = a.acc := by
  unfold rawWrite
  split <;> rfl

/-! ## Status words (R134, R141) -/

/-- A state code that is neither reserved nor BUSY stands for its state. -/
theorem stateCode_stateOfCode {n : Nat} (below : n < 4) : stateCode (stateOfCode n) = n := by
  interval_cases n <;> rfl

/-- The status words that a status fill may set read back as they were given. -/
theorem statusWord_setStatus {v : Nat → Nat} {j : Nat} (good : statusBad v = false) (word : j < 4) :
    (statusWord (setStatus v a) j).toNat = v j := by
  simp only [statusBad, bit, Bool.or_eq_false_iff, bne_eq_false_iff_eq, decide_eq_false_iff_not, not_le, beq_eq_false_iff_ne] at good
  obtain ⟨⟨⟨⟨⟨⟨top0, res0⟩, code⟩, busy⟩, top1⟩, top2⟩, top3⟩ := good
  match j, word with
  | 0, _ =>
    simp only [statusWord, setStatus, stateCode_stateOfCode code, bits, BitVec.toNat_ofNat]
    omega
  | 1, _ =>
    simp only [statusWord, setStatus, bits, BitVec.toNat_ofNat]
    omega
  | 2, _ =>
    simp only [statusWord, setStatus, BitVec.toNat_setWidth, BitVec.toNat_ofNat]
    omega
  | 3, _ =>
    have evt : (bit (v 3) 10).toNat = v 3 / 2 ^ 10 % 2 := by
      rw [bit]
      rcases Nat.mod_two_eq_zero_or_one (v 3 / 2 ^ 10) with even | odd
      · rw [even]; rfl
      · rw [odd]; rfl
    simp only [statusWord, setStatus, evt, bits, BitVec.toNat_ofNat]
    omega

/-! ## Drains and fills (R140, R141) -/

/-- Lanes have different columns (R136). -/
theorem columnOf_ne {x : LaneIn} {i j : Nat} (ne : j ≠ i) : columnOf x i ≠ columnOf x j := fun same => ne (Nat.add_left_cancel same).symm

/-- A drain or fill that nothing holds back, and whose checks pass, has its effect on the row it names. -/
theorem moveExec_done {own : LaneIn → Option LTrap} {eff : LaneIn → Nat → State} (go : LaneGo maj w s g)
    (free : Claim.SpanFree s g (moveCim w) 1) (imm : (rowD maj w.opx).immFor = some 2) (uniform : w.i = true ∨ 192 ≤ w.vb.toNat)
    (part : partBad (laneIn maj w s g) = false) (unused : cimInUse (laneIn maj w s g) = false) (row : moveRow (laneIn maj w s g) hi < rows)
    (may : own (laneIn maj w s g) = none) :
    moveExec maj w s hi rows own eff = .next (eff (laneIn maj w s g) (moveRow (laneIn maj w s g) hi)) := by
  have checks : firstTrap (matFirst (laneIn maj w s g) [2] (trapIf (partBad (laneIn maj w s g)) Tc.columnPart) ++
      [trapIf (spanBad (laneIn maj w s g) (moveCim w) 1) Tc.cimRange, trapIf (rows ≤ moveRow (laneIn maj w s g) hi) Tc.countRange,
       own (laneIn maj w s g)]) = none := by
    refine matChecks_none free (List.forall_mem_singleton.mpr (notSnap_vb imm uniform)) (trapIf_none part) ?_
    simp only [List.forall_mem_cons]
    exact ⟨trapIf_none (spanBad_false free), trapIf_none (decide_eq_false (not_le.mpr row)), may, List.forall_mem_nil _⟩
  unfold moveExec
  rw [laneExec_go go, checks, unused]
  rfl

/-- The state behind a fill: its array changed, and its path moved on. -/
def filled (x : LaneIn) (f : Cim → Cim) : State := (modCim x.s x.g (moveCim x.w) f).modGroup x.gi (advance x none)

theorem cimAt_filled {f : Cim → Cim} (free : Claim.SpanFree s g (moveCim w) 1) :
    cimAt (filled (laneIn maj w s g) f) g (moveCim w) = f (cimAt s g (moveCim w)) := cimAt_modCim_same free.inside

theorem sameMemory_filled {f : Cim → Cim} : Claim.SameMemory s (filled (laneIn maj w s g) f) := fun _ => rfl

theorem lanes_filled {f : Cim → Cim} (present : s.groups[s.cur]? = some g) :
    (groupAt (filled (laneIn maj w s g) f) s.cur).lanes = g.lanes := by
  have group : groupAt (filled (laneIn maj w s g) f) s.cur = advance (laneIn maj w s g) none g :=
    groupAt_of_present (by
      unfold filled
      rw [State.modGroup_groups]
      exact (List.getElem?_modify_eq ..).trans (congrArg (Option.map _) present))
  rw [group]
  exact (advance_keeps _).1

/-- The accumulators an MFILL writes (R140): a lane whose FP64 column does not exist writes none. -/
def fillAcc (x : LaneIn) (r : Nat) (a : Cim) (i : Nat) : Cim :=
  if x.w.ty = .f64 ∧ 16 ≤ columnOf x i then a else accWrite a (x.w.ty = .f64) r (columnOf x i) (source x (laneAt x.g i) 1)

theorem accRead_fillAcc {x : LaneIn} {i : Nat} {ls : List Nat} (listed : i ∈ ls) (column : x.w.ty = .f64 → columnOf x i < 16) :
    accRead (ls.foldl (fillAcc x r) a) (x.w.ty = .f64) r (columnOf x i) =
      source x (laneAt x.g i) 1 % 2 ^ (if x.w.ty = .f64 then 64 else 32) := by
  refine read_foldl_of_mem (read := fun a => accRead a (x.w.ty = .f64) r (columnOf x i)) listed (fun b => ?same) fun b j ne => ?other
  case same =>
    have exists_ : ¬(x.w.ty = .f64 ∧ 16 ≤ columnOf x i) := fun out => absurd (column out.1) (not_lt.mpr out.2)
    simp only [fillAcc, if_neg exists_, accRead_accWrite_same, decide_eq_true_eq]
  case other =>
    dsimp only [fillAcc]
    split
    · rfl
    · exact accRead_accWrite_ne (columnOf_ne ne)

theorem cells_fillAcc {x : LaneIn} {ls : List Nat} : (ls.foldl (fillAcc x r) a).cells = a.cells := by
  refine read_foldl_of_keeps (read := Cim.cells) fun b j _ => ?_
  unfold fillAcc
  split
  · rfl
  · exact cells_accWrite

/-- The raw words an MFILLB writes (R141). -/
def fillRaw (x : LaneIn) (r : Nat) (a : Cim) (i : Nat) : Cim := rawWrite a (rawKind x.w) r (columnOf x i) (source x (laneAt x.g i) 1)

theorem rawRead_fillRaw {x : LaneIn} {i : Nat} {ls : List Nat} (listed : i ∈ ls) :
    rawRead (ls.foldl (fillRaw x r) a) (rawKind x.w) r (columnOf x i) =
      source x (laneAt x.g i) 1 % 2 ^ Claim.rawBits (rawKind x.w) :=
  read_foldl_of_mem (read := fun a => rawRead a (rawKind x.w) r (columnOf x i)) listed (fun _ => rawRead_rawWrite_same)
    fun _ _ ne => rawRead_rawWrite_ne (columnOf_ne ne)

theorem acc_fillRaw {x : LaneIn} {ls : List Nat} : (ls.foldl (fillRaw x r) a).acc = a.acc :=
  read_foldl_of_keeps (read := Cim.acc) fun _ _ _ => acc_rawWrite

/-- A status fill that its check lets pass gives sound status words (R141). -/
theorem statusBad_of_passes {x : LaneIn} (kind : rawKind x.w = 5) (pass : statusFails x = none) :
    statusBad (fun k => source x (laneAt x.g k) 1) = false := by
  unfold statusFails at pass
  rw [if_neg (by simp [kind])] at pass
  unfold trapIf at pass
  simp only [ite_eq_right_iff, reduceCtorEq, imp_false, Bool.not_eq_true, Bool.or_eq_false_iff] at pass
  exact pass.2

/-! ## What the moves claim -/

section Moves

variable (free : Claim.SpanFree s g (moveCim w) 1) (uniform : w.i = true ∨ 192 ≤ w.vb.toNat)
include free uniform

theorem mdrain_done (go : LaneGo 0x92 w s g) (part : partBad (laneIn 0x92 w s g) = false) (unused : cimInUse (laneIn 0x92 w s g) = false)
    (row : moveRow (laneIn 0x92 w s g) 13 < 64) :
    exec (.mdrain w) s = .next (Claim.laneDone 0x92 w s g fun x i l =>
      if w.ty = .f64 then
        (if columnOf x i < 16 then writeTy .f64 l w.vd.toNat (accRead (cimAt s g (moveCim w)) true (moveRow x 13) (columnOf x i)) else l)
      else writeTy .b32 l w.vd.toNat (accRead (cimAt s g (moveCim w)) false (moveRow x 13) (columnOf x i))) := by
  show execMdrain w s = _
  exact moveExec_done go free rfl uniform part unused row rfl

theorem mfill_done (go : LaneGo 0x93 w s g) (part : partBad (laneIn 0x93 w s g) = false) (unused : cimInUse (laneIn 0x93 w s g) = false)
    (row : moveRow (laneIn 0x93 w s g) 13 < 64) :
    exec (.mfill w) s = .next (filled (laneIn 0x93 w s g) fun a =>
      (fillers (laneIn 0x93 w s g)).foldl (fillAcc (laneIn 0x93 w s g) (moveRow (laneIn 0x93 w s g) 13)) a) := by
  show execMfill w s = _
  exact moveExec_done go free rfl uniform part unused row rfl

theorem mdrainb_done (go : LaneGo 0x94 w s g) (part : partBad (laneIn 0x94 w s g) = false) (unused : cimInUse (laneIn 0x94 w s g) = false)
    (row : moveRow (laneIn 0x94 w s g) 15 < kindRows (rawKind w)) :
    exec (.mdrainb w) s = .next (Claim.laneDone 0x94 w s g fun x i l =>
      l.setV w.vd.toNat (BitVec.ofNat 32 (rawRead (cimAt s g (moveCim w)) (rawKind w) (moveRow x 15) (columnOf x i)))) := by
  show execMdrainb w s = _
  exact moveExec_done go free rfl uniform part unused row rfl

/-- MFILLB changes its array: the status words of kind 5, or the raw words of another kind. -/
theorem mfillb_done (go : LaneGo 0x95 w s g) (part : partBad (laneIn 0x95 w s g) = false) (unused : cimInUse (laneIn 0x95 w s g) = false)
    (row : moveRow (laneIn 0x95 w s g) 15 < kindRows (rawKind w)) (status : statusFails (laneIn 0x95 w s g) = none) :
    exec (.mfillb w) s = .next (filled (laneIn 0x95 w s g) fun a =>
      if rawKind w = 5 then setStatus (fun k => source (laneIn 0x95 w s g) (laneAt g k) 1) a
      else (fillers (laneIn 0x95 w s g)).foldl (fillRaw (laneIn 0x95 w s g) (moveRow (laneIn 0x95 w s g) 15)) a) := by
  show execMfillb w s = _
  exact moveExec_done go free rfl uniform part unused row status

end Moves

theorem mstat_done (go : LaneGo 0x96 w s g) (free : Claim.SpanFree s g (moveCim w) 1) :
    exec (.mstat w) s = .next (Claim.laneDone 0x96 w s g fun _ i l =>
      l.setV w.vd.toNat (if i < 4 then statusWord (cimAt s g (moveCim w)) i else 0)) := by
  show execMstat w s = _
  exact laneGroup_done go (spanChecks_none free) rfl

/-- Settles O27: a drain maps its acting lanes by the words of its row; a fill writes its lanes' columns, which differ, so that each word
reads back; status words that the check lets pass read back too. -/
theorem matrixMoves : Obligations.MatrixMoves := by
  intro w s g maj hi rows uniform free x r k go part unused row
  refine ⟨?drain, ?drainWide, ?fill, ?drainRaw, ?fillRaw, ?fillStatus, ?status⟩
  case drain =>
    rintro rfl rfl rfl narrow
    rw [mdrain_done free (uniform (by decide)) go part unused row]
    simp only [if_neg narrow]
    rfl
  case drainWide =>
    rintro rfl rfl rfl wide
    rw [mdrain_done free (uniform (by decide)) go part unused row]
    simp only [if_pos wide]
    rfl
  case fill =>
    rintro rfl rfl rfl
    refine ⟨_, mfill_done free (uniform (by decide)) go part unused row, fun i listed column => ?_, ?_, lanes_filled go.group,
      sameMemory_filled⟩ <;> rw [cimAt_filled free]
    · exact accRead_fillAcc listed column
    · exact cells_fillAcc
  case drainRaw =>
    rintro rfl rfl rfl
    exact mdrainb_done free (uniform (by decide)) go part unused row
  case fillRaw =>
    rintro rfl rfl rfl kind
    refine ⟨_, mfillb_done free (uniform (by decide)) go part unused row (if_pos kind), fun i listed => ?_, ?_, sameMemory_filled⟩ <;>
      rw [cimAt_filled free, if_neg kind]
    · exact rawRead_fillRaw listed
    · exact acc_fillRaw
  case fillStatus =>
    rintro rfl rfl rfl kind pass
    have row' : moveRow x 15 < kindRows (rawKind w) := by rw [kind]; exact row
    refine ⟨_, mfillb_done free (uniform (by decide)) go part unused row' pass, fun j word => ?_, ?_, ?_, sameMemory_filled⟩ <;>
      rw [cimAt_filled free, if_pos kind]
    · exact statusWord_setStatus (statusBad_of_passes kind pass) word
    · rfl
    · rfl
  case status =>
    rintro rfl
    exact mstat_done go free

end Sys2Proof.Proofs
end

section
/-! SUPPORT. Access sets in the state's list: finding one after it is added or changed; what issuing and becoming ready leave (R156, R301). -/

namespace Sys2Proof.Proofs

open Sys2Proof Sys2Proof.Machine

variable {s t : State} {a b : ASet} {i gi core c : Nat} {g : Group}

/-! ## Finding a set -/

theorem find?_modFirst {α : Type} {p : α → Bool} {f : α → α} (keeps : ∀ x, p x = true → p (f x) = true) (l : List α) :
    (modFirst p f l).find? p = (l.find? p).map f := by
  induction l with
  | nil => rfl
  | cons x r ih =>
    cases hx : p x with
    | true => simp [modFirst, hx, keeps x hx]
    | false => simp [modFirst, hx, ih]

theorem modFirst_append_of_none {α : Type} {p : α → Bool} {f : α → α} {l r : List α} (none_ : ∀ x ∈ l, p x = false) :
    modFirst p f (l ++ r) = l ++ modFirst p f r := by
  induction l with
  | nil => rfl
  | cons x l ih =>
    obtain ⟨hx, hl⟩ := List.forall_mem_cons.mp none_
    simp [modFirst, hx, ih hl]

theorem id_of_setAt (h : setAt s i = some a) : a.id = i := by
  simpa using List.find?_some h

theorem setAt_modSet_same {f : ASet → ASet} (h : setAt s i = some a) (keeps : ∀ x, (f x).id = i) : setAt (modSet s i f) i = some (f a) := by
  have found : setAt (modSet s i f) i = (setAt s i).map f := find?_modFirst (by simp [keeps]) s.sets
  rw [found, h]
  rfl

theorem setAt_dropSet_same : setAt (dropSet s i) i = none := by
  simp [setAt, dropSet]

/-- A set added under a new number is found under it. -/
theorem setAt_addSet (fresh : ∀ x ∈ s.sets, x.id < s.nextSet) : setAt (addSet s a) s.nextSet = some { a with id := s.nextSet } := by
  have none_ : s.sets.find? (fun x => x.id == s.nextSet) = none := by
    simp only [List.find?_eq_none, beq_iff_eq]
    exact fun x hx => Nat.ne_of_lt (fresh x hx)
  simp [setAt, addSet, none_]

/-! ## What issuing leaves -/

/-- Between `s` and `t` no set, no group and no byte of memory has changed. -/
structure KeepsSets (s t : State) : Prop where
  sets    : t.sets = s.sets
  nextSet : t.nextSet = s.nextSet
  groups  : t.groups = s.groups
  mem     : t.mem = s.mem

theorem KeepsSets.refl : KeepsSets s s := ⟨rfl, rfl, rfl, rfl⟩

theorem KeepsSets.trans {u : State} (h : KeepsSets s t) (h' : KeepsSets t u) : KeepsSets s u :=
  ⟨h'.sets.trans h.sets, h'.nextSet.trans h.nextSet, h'.groups.trans h.groups, h'.mem.trans h.mem⟩

theorem keepsSets_foldl {α : Type} {f : State → α → State} (keeps : ∀ s x, KeepsSets s (f s x)) (l : List α) (s : State) :
    KeepsSets s (l.foldl f s) := by
  induction l generalizing s with
  | nil => exact .refl
  | cons x r ih => exact (keeps s x).trans (ih _)

theorem tlbFill_keepsSets {va : Nat} {pte : Word} : KeepsSets s (tlbFill s core c va pte) := ⟨rfl, rfl, rfl, rfl⟩

theorem pinFor_keepsSets {line va : Nat} {pte : Word} : KeepsSets s (pinFor s core line c va pte) := by
  have counted (held : Bool) : KeepsSets s (if held then s else countFallback s) := by
    cases held
    · exact ⟨rfl, rfl, rfl, rfl⟩
    · exact .refl
  unfold pinFor
  dsimp only
  split
  · split
    · exact .refl
    · exact ⟨(counted _).sets, (counted _).nextSet, (counted _).groups, (counted _).mem⟩
  · split
    · split
      · exact .refl
      · exact ⟨(counted _).sets, (counted _).nextSet, (counted _).groups, (counted _).mem⟩
    · exact .refl

/-! ## Becoming ready -/

/-- A set with the same number, party, kind, destination and word as `a`. -/
structure SameWord (a b : ASet) : Prop where
  id    : b.id = a.id
  party : b.party = a.party
  kind  : b.kind = a.kind
  dest  : b.dest = a.dest
  pc    : b.pc = a.pc
  phase : b.phase = a.phase

theorem SameWord.refl : SameWord a a := ⟨rfl, rfl, rfl, rfl, rfl, rfl⟩

theorem SameWord.trans {e : ASet} (h : SameWord a b) (h' : SameWord b e) : SameWord a e :=
  ⟨h'.id.trans h.id, h'.party.trans h.party, h'.kind.trans h.kind, h'.dest.trans h.dest, h'.pc.trans h.pc, h'.phase.trans h.phase⟩

theorem sameWord_foldl {α : Type} {f : ASet → α → ASet} (same : ∀ a x, SameWord a (f a x)) (l : List α) (a : ASet) :
    SameWord a (l.foldl f a) := by
  induction l generalizing a with
  | nil => exact .refl
  | cons x r ih => exact (same a x).trans (ih _)

theorem takeHits_sameWord : SameWord a (takeHits s a) := by
  refine sameWord_foldl (fun a k => ?_) _ a
  dsimp only
  split
  · exact ⟨rfl, rfl, rfl, rfl, rfl, rfl⟩
  · split
    · exact .refl
    · split
      · exact .refl
      · split
        · exact .refl
        · exact ⟨rfl, rfl, rfl, rfl, rfl, rfl⟩

theorem numberSpans_sameWord : SameWord a (numberSpans s a) := ⟨rfl, rfl, rfl, rfl, rfl, rfl⟩

/-- A set whose pages are known is ready. -/
theorem makeReady_sameWord : SameWord { a with phase := .ready } (makeReady s a) := by
  unfold makeReady
  dsimp only
  split
  · exact ⟨rfl, rfl, rfl, rfl, rfl, rfl⟩
  · have hits := takeHits_sameWord (s := s) (a := { a with phase := .ready, spans := spansOf a.accs, fwd := forwarded s { a with
      phase := .ready, spans := spansOf a.accs } })
    exact SameWord.trans ⟨hits.id, hits.party, hits.kind, hits.dest, hits.pc, hits.phase⟩ numberSpans_sameWord

/-- The pages of the accesses are used: the TLBs take them, and pinned ones are pinned. -/
def usePages (s : State) (core c : Nat) (accs : List Acc) : State :=
  let s := accs.foldl (fun s x => if x.n = 0 then s else tlbFill s core c x.va x.pte) s
  accs.foldl (fun s x => if x.n = 0 then s else pinFor s core (x.pa / 128) c x.va x.pte) s

theorem usePages_keepsSets {accs : List Acc} : KeepsSets s (usePages s core c accs) := by
  refine (keepsSets_foldl (fun s x => ?_) accs s).trans (keepsSets_foldl (fun s x => ?_) accs _)
  · split
    · exact .refl
    · exact tlbFill_keepsSets
  · split
    · exact .refl
    · exact pinFor_keepsSets

/-- A set that waits for translation, with every page in a TLB and its checks passed, becomes ready. -/
theorem settle_ready (at_ : setAt s i = some a) (party : partyGroup a.party = some gi) (phase : a.phase = .xlate)
    (issues : Claim.Issues s (groupAt s gi) a) :
    let core := (groupAt s gi).quad / 4
    let c := ctxIx s (groupAt s gi)
    let r := withPages s core c a
    let u := usePages s core c r.accs
    Machine.settle s i = { modSet u i fun _ => makeReady u r with nextSend := u.nextSend + 1 } := by
  obtain ⟨pages, checks⟩ := issues
  intro core c r u
  unfold Machine.settle
  simp only [at_, party, phase, pages, checks, Bool.not_true, Bool.false_eq_true, ne_eq, not_true_eq_false, or_self, if_false]
  rfl

/-! ## Issue (R156, R301) -/

/-- A global set that has just been given its number. -/
def numbered (s : State) (a : ASet) : ASet := { a with id := s.nextSet, phase := .xlate, accs := a.accs.flatMap splitPage }

theorem issueSet_global (global : a.sram = false) : issueSet s a = Machine.settle (addSet s (numbered s a)) s.nextSet :=
  if_neg (by simp [global])

/-- Neither the number nor the place of a set matters to its translation and its checks. -/
theorem issues_numbered (split_ : a.accs.flatMap splitPage = a.accs) (issues : Claim.Issues s g a) :
    Claim.Issues (addSet s (numbered s a)) g (numbered s a) := by
  unfold numbered
  rw [split_]
  exact ⟨issues.pages, issues.checks⟩

theorem setAt_numbered (fresh : ∀ x ∈ s.sets, x.id < s.nextSet) : setAt (addSet s (numbered s a)) s.nextSet = some (numbered s a) :=
  setAt_addSet fresh

/-- Changing the set last added changes no earlier one. -/
theorem modSet_sets_last {f : ASet → ASet} {l : List ASet} (sets : t.sets = l ++ [a]) (earlier : ∀ x ∈ l, x.id < a.id) :
    (modSet t a.id f).sets = l ++ [f a] := by
  have others : ∀ x ∈ l, (x.id == a.id) = false := fun x hx => beq_eq_false_iff_ne.mpr (Nat.ne_of_lt (earlier x hx))
  simp [modSet, sets, modFirst_append_of_none others, modFirst]

/-- Settles O12: the set is added under a number that no other has, and translation by the TLBs, its checks and becoming ready touch no other
set, no group and no byte. -/
theorem issueAddsOneSet : Obligations.IssueAddsOneSet := by
  intro s g a gi party hg global split_ fresh issues
  have group : groupAt (addSet s (numbered s a)) gi = g := groupAt_of_getElem? hg
  have ready := settle_ready (setAt_numbered fresh) party rfl (group.symm ▸ issues_numbered split_ issues)
  rw [← issueSet_global global] at ready
  extract_lets core c r u at ready
  obtain ⟨sets, next, groups, mem⟩ : KeepsSets (addSet s (numbered s a)) u := usePages_keepsSets
  obtain ⟨id, same, kind, dest, pc, phase⟩ : SameWord { r with phase := .ready } (makeReady u r) := makeReady_sameWord
  have last : (issueSet s a).sets = s.sets ++ [makeReady u r] := by
    rw [ready]
    exact modSet_sets_last sets fresh
  refine ⟨⟨makeReady u r, last, id, same, kind, dest, phase, pc⟩, ?_, ?_, fun b => ?_⟩ <;> rw [ready]
  · exact next
  · exact groups
  · exact congrArg (byteAt · b) mem

end Sys2Proof.Proofs
end

section
/-! SUPPORT. A line held narrow on one die whose L2 copy goes back to its frame when the other die is gated: what publishing it then leaves
(R152, R162, R354). -/

namespace Sys2Proof.Proofs

open Sys2Proof Sys2Proof.Machine

/-- A line of the placed page, with its home slice on die 1. -/
def farLine : Nat := 512 * placedGpn

/-- The line in the L1 of a core of die 0, held narrow for its group: an atomic was performed in its first sector. -/
def narrowHere : L1Line :=
  { core := 0, line := farLine, valid := 0, bytes := [], wts := [4, 0, 0, 0], rts := [9, 0, 0, 0], narrow := some (.grp, 0) }

/-- Its home slice holds the line too, and die 1 has had no team for 2^20 dc. -/
def farHeld : State := { fillL2 (State.reset.withFetchWord 96 0) farLine with l1 := [narrowHere], cycle := 2 ^ 20 }

/-- Die 1 has been gated: its slices have given their lines back to their frames, and the narrow line stands. -/
def farGated : State :=
  (drainDie farHeld 1).modHub fun h => { h with pmGate := h.pmGate ||| (1#64 <<< 1), gateAt := h.gateAt.set 1 none }

/-- The step reaches the gated state, and L2 loses the line on the way. -/
theorem farHeld_gates : exec (.dieGate 1) farHeld = .next farGated ∧ dieGated farGated 1 = true ∧
    inL2 farHeld farLine = true ∧ inL2 farGated farLine = false :=
  ⟨congrArg _ (if_neg (by decide +kernel)), by decide +kernel⟩

theorem farGated_narrow : (farGated.l1.find? fun x => x.line == farLine && x.narrow.isSome) = some narrowHere := by decide +kernel

theorem farGated_times : sectorTimes farGated (4 * farLine + 1) = (0, 0) := by decide +kernel

/-- The times of its first sector are now those of its frame, and so of every sector. -/
theorem farPublished_times : sectorTimes (publishLine farGated farLine) (4 * farLine + 1) = (4, 9) := by decide +kernel

/-- Refutes O31: publishing a narrow line whose copy L2 no longer holds gives the holder's times to its frame, which keeps one pair of times for
all sectors (R152), so that a sector takes those of another. The times still cover the holder's. -/
theorem not_homeSlices : ¬ Obligations.HomeSlices := by
  rintro ⟨-, -, publish⟩
  obtain ⟨t, runs, -, -, times⟩ := publish farGated farLine narrowHere farGated_narrow
  have published : publishLine farGated farLine = t := Host.Outcome.next.inj runs
  have second := times 1 (by decide)
  rw [← published, farPublished_times, farGated_times] at second
  exact absurd second (by decide)

end Sys2Proof.Proofs
end

section
/-! SUPPORT. How access sets leave their quadrant and commit (R156, R158, R205): one equation per kind of leaving and of commit. -/

namespace Sys2Proof.Proofs

open Sys2Proof Sys2Proof.Machine

variable {s t : State} {a b : ASet} {i gi : Nat} {g : Group} {x : Acc}

/-! ## Bytes of one access in one line -/

theorem partIn_whole {line : Nat} (pos : 0 < x.n) (line_ : x.pa / 128 = line) (fits : x.pa + x.n ≤ 128 * line + 128) :
    partIn x line = some (x.pa, x.n, 0) := by
  have low : max x.pa (128 * line) = x.pa := by omega
  have high : min (x.pa + x.n) (128 * line + 128) = x.pa + x.n := by omega
  simp only [partIn, low, high]
  rw [if_pos (by omega), Nat.add_sub_cancel_left, Nat.sub_self]

theorem partsIn_whole {line : Nat} (accs : a.accs = [x]) (pos : 0 < x.n) (line_ : x.pa / 128 = line) (fits : x.pa + x.n ≤ 128 * line + 128) :
    partsIn a line = [(0, x, x.pa, x.n, 0)] := by
  simp [partsIn, accs, Nat.ne_of_gt pos, partIn_whole pos line_ fits]

/-- The bytes of a value, as writes from an address upwards. -/
def byteWrites (pa n v : Nat) : List (Nat × Byte) := (List.range n).map fun k => (pa + k, BitVec.ofNat 8 (v / 2 ^ (8 * k)))

theorem storeBytes_whole {line : Nat} (accs : a.accs = [x]) (pos : 0 < x.n) (line_ : x.pa / 128 = line)
    (fits : x.pa + x.n ≤ 128 * line + 128) : storeBytes a line = byteWrites x.pa x.n x.data := by
  simp [storeBytes, partsIn_whole accs pos line_ fits, byteWrites]

theorem byteWrites_succ {pa n v : Nat} : byteWrites pa (n + 1) v = (pa, BitVec.ofNat 8 v) :: byteWrites (pa + 1) n (v / 256) := by
  simp only [byteWrites, List.range_succ_eq_map, List.map_cons, List.map_map]
  congr 1
  · simp
  · refine List.map_congr_left fun k _ => ?_
    simp only [Function.comp, Nat.succ_eq_add_one]
    rw [Nat.div_div_eq_div_mul, show (256 : Nat) = 2 ^ 8 from rfl, ← pow_add]
    congr 1
    · omega
    · congr 3
      omega

/-- Writing the bytes of a value stores it little-endian (R4). -/
theorem foldl_byteWrites {m : Memory} {pa n v : Nat} :
    (byteWrites pa n v).foldl (fun m w => setByte m w.1 w.2) m = storeLe m pa n v := by
  induction n generalizing m pa v with
  | zero => rfl
  | succ n ih =>
    rw [byteWrites_succ]
    exact ih

theorem length_leBytes {n v : Nat} : (leBytes n v).length = n := by
  induction n generalizing v with
  | zero => rfl
  | succ n ih => simp [leBytes, ih]

theorem bytesAt_setBytes {m : Memory} {pa : Nat} {bs : List Byte} : bytesAt (setBytes m pa bs) pa bs.length = bs := by
  induction bs generalizing m pa with
  | nil => rfl
  | cons y r ih =>
    have first : byteAt (setBytes (setByte m pa y) (pa + 1) r) pa = y := by
      rw [byteAt_setBytes_out (.inl (Nat.lt_succ_self pa)), byteAt_setByte, if_pos rfl]
    simp only [List.length_cons, setBytes, bytesAt, first, ih]

theorem leNat_leBytes {n v : Nat} : leNat (leBytes n v) = v % 2 ^ (8 * n) := by
  induction n generalizing v with
  | zero => simp [leBytes, leNat, Nat.mod_one]
  | succ n ih =>
    rw [leBytes, leNat, ih, BitVec.toNat_ofNat, show 8 * (n + 1) = 8 + 8 * n by ring, pow_add, Nat.mod_mul,
      show (2 : Nat) ^ 8 = 256 from rfl]

theorem loadLe_storeLe {m : Memory} {pa n v : Nat} : loadLe (storeLe m pa n v) pa n = v % 2 ^ (8 * n) := by
  have read := bytesAt_setBytes (m := m) (pa := pa) (bs := leBytes n v)
  rw [length_leBytes] at read
  rw [loadLe, storeLe, read, leNat_leBytes]

/-! ## Leaving (R156, R158) -/

section
variable (at_ : setAt s i = some a) (may : mayLeave s a = true) (free : matrixHolds s a = false)
include at_ may free

theorem storeSetLeave_leaves : exec (.storeSetLeave i) s = .next (leaveSet s a) := by
  show execStoreSetLeave i s = _
  simp only [execStoreSetLeave, at_, may, free]
  rfl

end

/-- A set that has left its quadrant, with its party's time as floor. -/
def departed (s : State) (a : ASet) : ASet := { a with floor := partyLt s a.party, phase := .gone }

theorem leaveSet_global (quiet : isMessage a = false) (global : a.sram = false) (word : ∀ q x, a.kind ≠ .push q x) :
    leaveSet s a = { modSet s a.id fun _ => numberSpans s (departed s a) with nextSend := s.nextSend + 1 } := by
  unfold leaveSet
  extract_lets +onlyGivenNames b1 b
  have gone : b = departed s a := if_neg (Bool.eq_false_iff.mp quiet)
  rw [gone, global]
  split
  next pushed _ => exact absurd pushed (word _ _)
  next off _ _ => cases off
  next => rfl

theorem leaveSet_sram (store : a.kind = .store) (sram : a.sram = true) (party : partyGroup a.party = some gi) :
    leaveSet s a = sramStore s (departed s a) (groupAt s gi).team := by
  have quiet : isMessage a = false := by rw [isMessage, store]
  unfold leaveSet
  extract_lets +onlyGivenNames b1 b
  have gone : b = departed s a := if_neg (Bool.eq_false_iff.mp quiet)
  rw [gone, store, sram, party]

theorem leaveSet_push {q : Nat} {v : Word} (push : a.kind = .push q v) (party : a.party = .scalar gi) (own : q < 8) :
    leaveSet s a = modSet (pushPort s gi q v) a.id fun _ => departed s a := by
  have quiet : isMessage a = false := by rw [isMessage, push]
  have group : partyGroup a.party = some gi := by rw [party]; rfl
  unfold leaveSet
  extract_lets +onlyGivenNames b1 b
  have gone : b = departed s a := if_neg (Bool.eq_false_iff.mp quiet)
  rw [gone, push, group]
  exact if_neg fun held => absurd held.1 (Nat.not_le.mpr own)

/-! ## A store in team SRAM (R158) -/

theorem spansOf_whole (pos : 0 < x.n) (fits : x.pa % 128 + x.n ≤ 128) : ∃ p, spansOf [x] = [p] ∧ p.line = x.pa / 128 := by
  have last : (x.pa + x.n - 1) / 128 = x.pa / 128 := by omega
  have live : x.n ≠ 0 := Nat.ne_of_gt pos
  simp [spansOf, live, last]

theorem rowsIn_whole (spans : a.spans = spansOf [x]) (pos : 0 < x.n) (fits : x.pa % 128 + x.n ≤ 128) : rowsIn a = [x.pa / 128] := by
  obtain ⟨p, one, line⟩ := spansOf_whole pos fits
  simp [rowsIn, spans, one, line]

/-- A store of one access in one row writes its bytes in the team's SRAM, and no byte of memory. -/
theorem sramStore_writes {ti : Nat} (store : a.kind = .store) (accs : a.accs = [x]) (spans : a.spans = spansOf [x]) (pos : 0 < x.n)
    (fits : x.pa % 128 + x.n ≤ 128) (present : ti < s.teams.length) :
    ((sramStore s a ti).teams.getD ti default).sram = storeLe (s.teams.getD ti default).sram x.pa x.n x.data ∧ (sramStore s a ti).mem = s.mem := by
  have bytes : storeBytes a (x.pa / 128) = byteWrites x.pa x.n x.data := storeBytes_whole accs pos rfl (by omega)
  refine ⟨?_, rfl⟩
  rw [← foldl_byteWrites, ← bytes]
  unfold sramStore
  extract_lets t rows ts r stamped r2 done_ s1
  have writes : r.1 = storeBytes a (x.pa / 128) := by
    simp only [r, rows, rowsIn_whole spans pos fits, List.foldl, store, List.nil_append]
  have team : s1.teams[ti]? = some _ := modTeam_teams_same (getElem?_getD_of_lt (d := default) present)
  rw [← writes]
  show (s1.teams.getD ti default).sram = _
  rw [getD_of_getElem? team]

/-! ## Commits (R156, R205) -/

/-- The group after a set of its has committed: no window waits for it, and its in-flight counter falls. -/
def retired (a : ASet) (g : Group) : Group :=
  let h := { g with p0 := clearLook a.id g.p0, p1 := g.p1.map (clearLook a.id) }
  if 4 ≤ a.ifc then h else { h with ifc := h.ifc.modify a.ifc (· - 1) }

theorem retireSet_plain (party : partyGroup a.party = some gi) (plain : a.region = none) :
    retireSet s a = (dropSet s a.id).modGroup gi (retired a) := by
  simp only [retireSet, party, plain, Option.isSome_none, Bool.false_and, Bool.false_eq_true, if_false, false_or]
  rfl

theorem mayCommit_of_ripe (ripe : Claim.Ripe s i a) : mayCommit s a = true := by
  obtain ⟨-, role, head, spans, -⟩ := ripe
  simp [mayCommit, role, head, List.all_eq_true.mpr spans]

section
variable (ripe : Claim.Ripe s i a) (load : a.kind = .load) (ready : a.phase = .ready)
include ripe load ready

/-- A ready load at the head of its party, every span answered: its leases decide between the commit and a renewal. -/
theorem loadSetCommit_decides : exec (.loadSetCommit i) s = .next
    (if leasesRun a (partyLt s a.party) then commitLoad s a (max (partyLt s a.party) (setTime a))
    else { modSet s a.id fun _ => renew s a (partyLt s a.party) with nextSend := s.nextSend + 1 }) := by
  have may := mayCommit_of_ripe ripe
  have global := ripe.plain.2
  show execLoadSetCommit i s = _
  simp only [execLoadSetCommit, ripe.set, tryCommitLoad, load, ready, may, global, storeClass]
  rfl

theorem loadSetCommit_commits (leases : ∀ p ∈ a.spans, partyLt s a.party ≤ p.rts) :
    exec (.loadSetCommit i) s = .next (commitLoad s a (max (partyLt s a.party) (setTime a))) := by
  rw [loadSetCommit_decides ripe load ready, if_pos (by simpa [leasesRun] using leases)]

theorem loadSetCommit_renews (late : ∃ p ∈ a.spans, p.rts < partyLt s a.party) :
    exec (.loadSetCommit i) s = .next { modSet s a.id fun _ => renew s a (partyLt s a.party) with nextSend := s.nextSend + 1 } := by
  rw [loadSetCommit_decides ripe load ready, if_neg (by simpa [leasesRun] using late)]

end

/-- Updates of one group before its set is forgotten can be done after it. -/
theorem dropSet_modGroup_modGroup {f f' h : Group → Group} :
    (dropSet ((s.modGroup gi f).modGroup gi f') i).modGroup gi h = (dropSet s i).modGroup gi (h ∘ f' ∘ f) := by
  simp only [← modGroup_comp]
  rfl

theorem commitLoad_sreg {d : SReg} {n v : Nat} {signed : Bool} (party : a.party = .scalar gi) (dest : a.dest = .sreg d n signed)
    (hd : Claim.plain d) (plain : a.region = none) : commitLoad s a v = (dropSet s a.id).modGroup gi fun g =>
      retired a (setSreg { g with slt := max g.slt v } d.toNat (scalarGot n signed (laneGot a 0))) := by
  have group : partyGroup a.party = some gi := by rw [party]; rfl
  have delivered (s : State) : deliver s a = s.modGroup gi fun g => setSreg g d.toNat (scalarGot n signed (laneGot a 0)) := by
    simp only [deliver, group, dest]
  have retires : commitLoad s a v = retireSet (deliver (raiseLt s a.party v) a) a := by
    simp only [commitLoad, dest, group, isPort_of_plain hd]
    rfl
  rw [retires, retireSet_plain group plain, delivered, party]
  exact dropSet_modGroup_modGroup

theorem commitLoad_lane {ty : Ty} {vd : LReg} {v : Nat} (party : a.party = .lane gi) (dest : a.dest = .lane ty vd)
    (plain : a.region = none) : commitLoad s a v = (dropSet s a.id).modGroup gi fun g =>
      retired a (writeDest a { g with llt := max g.llt v }) := by
  have group : partyGroup a.party = some gi := by rw [party]; rfl
  have delivered (s : State) : deliver s a = s.modGroup gi (writeDest a) := by
    simp only [deliver, group, dest]
  have retires : commitLoad s a v = retireSet (deliver (raiseLt s a.party v) a) a := by
    simp only [commitLoad, dest]
  rw [retires, retireSet_plain group plain, delivered, party]
  exact dropSet_modGroup_modGroup

/-! ## What a committed set leaves in its group -/

theorem retired_counted (counter : a.ifc < 4) : retired a g =
    { g with p0 := clearLook a.id g.p0, p1 := g.p1.map (clearLook a.id), ifc := g.ifc.modify a.ifc (· - 1) } :=
  if_neg (Nat.not_le.mpr counter)

theorem sreg_retired {r : Nat} : sreg (retired a g) r = sreg g r := by
  unfold retired
  dsimp only
  split <;> rfl

theorem slt_retired : (retired a g).slt = g.slt := by
  unfold retired
  dsimp only
  split <;> rfl

theorem sreg_setSreg_same {r : Nat} {v : Word} (inside : r < g.s.length) : sreg (setSreg g r v) r = v := by
  simp [sreg, setSreg, inside]

/-- The one lane's value of a set with one access. -/
theorem laneGot_one (accs : a.accs = [x]) : laneGot a x.lane = x.got % 2 ^ (8 * x.n) := by
  simp [laneGot, accs]

theorem scalarGot_one {n : Nat} {signed : Bool} (accs : a.accs = [x]) (lane : x.lane = 0) (bytes : x.n = n) :
    scalarGot n signed (laneGot a 0) =
      if signed then sext64 (8 * n) (x.got % 2 ^ (8 * n)) else w64 (x.got % 2 ^ (8 * n)) := by
  rw [← lane, laneGot_one accs, bytes, scalarGot, Nat.mod_mod]

theorem setAt_dropSet_modGroup {f : Group → Group} (id : a.id = i) : setAt ((dropSet s a.id).modGroup gi f) i = none := by
  rw [id]
  exact setAt_dropSet_same

/-- The commit of a lane party's store-class set (R156): its answers are in its registers, and the loads that took its bytes know its time. -/
theorem storeSetCommit_lane (ripe : Claim.Ripe s i a) (store : storeClass a.kind = true) (gone : a.phase = .gone) (party : a.party = .lane gi) :
    exec (.storeSetCommit i) s = .next ((dropSet (giveForward s a) a.id).modGroup gi fun g =>
      retired a (writeDest a { g with llt := max g.llt (setTime a) })) := by
  have group : partyGroup a.party = some gi := by rw [party]; rfl
  have done : (a.spans.all fun p => p.done) = true := List.all_eq_true.mpr ripe.spans
  have commits : tryCommitStore s a =
      retireSet ((giveForward (raiseLt s a.party (setTime a)) a).modGroup gi (writeDest a)) a := by
    simp only [tryCommitStore, store, gone, ripe.role, ripe.head, done, group]
    rfl
  show execStoreSetCommit i s = _
  simp only [execStoreSetCommit, ripe.set]
  rw [commits, retireSet_plain group ripe.plain.1, party]
  exact congrArg _ (dropSet_modGroup_modGroup (s := giveForward s a))

/-! ## The clauses of the obligation -/

section
variable (at_ : setAt s i = some a) (may : mayLeave s a = true) (free : matrixHolds s a = false)
include at_ may free

theorem leaves_global (quiet : isMessage a = false) (global : a.sram = false) (word : ∀ q x, a.kind ≠ .push q x) :
    ∃ t, exec (.storeSetLeave i) s = .next t ∧ setAt t i = some (numberSpans s (departed s a)) ∧ Claim.SameMemory s t := by
  have id := id_of_setAt at_
  refine ⟨_, (storeSetLeave_leaves at_ may free).trans (congrArg _ (leaveSet_global quiet global word)), ?_, fun _ => rfl⟩
  rw [id]
  exact setAt_modSet_same at_ fun _ => id

theorem leaves_sram (store : a.kind = .store) (sram : a.sram = true) (party : partyGroup a.party = some gi) (accs : a.accs = [x])
    (pos : 0 < x.n) (spans : a.spans = spansOf [x]) (fits : x.pa % 128 + x.n ≤ 128) (present : (groupAt s gi).team < s.teams.length) :
    ∃ t, exec (.storeSetLeave i) s = .next t ∧
      loadLe (teamOf t (groupAt s gi)).sram x.pa x.n = x.data % 2 ^ (8 * x.n) ∧ t.mem = s.mem := by
  obtain ⟨bytes, mem⟩ := sramStore_writes (a := departed s a) store accs spans pos fits present
  refine ⟨_, (storeSetLeave_leaves at_ may free).trans (congrArg _ (leaveSet_sram store sram party)), ?_, mem⟩
  exact (congrArg (loadLe · x.pa x.n) bytes).trans loadLe_storeLe

theorem leaves_push {q : Nat} {v : Word} (push : a.kind = .push q v) (party : a.party = .scalar gi) (own : q < 8) :
    exec (.storeSetLeave i) s =
      .next (modSet (pushPort s gi q v) i fun _ => { a with floor := (groupAt s gi).slt, phase := .gone }) := by
  have time : partyLt s a.party = (groupAt s gi).slt := by rw [party]; rfl
  have id := id_of_setAt at_
  subst id
  rw [storeSetLeave_leaves at_ may free, leaveSet_push push party own, departed, time]

end

section
variable (present : gi < s.groups.length) (ripe : Claim.Ripe s i a)
include present ripe

section
variable (load : a.kind = .load) (ready : a.phase = .ready)
include load ready

theorem commits_sreg {d : SReg} {n : Nat} {sg : Bool} (party : a.party = .scalar gi) (leases : ∀ p ∈ a.spans, (groupAt s gi).slt ≤ p.rts)
    (dest : a.dest = .sreg d n sg) (hd : Claim.plain d) (regs : (groupAt s gi).s.length = 48) (accs : a.accs = [x]) (lane : x.lane = 0)
    (bytes : x.n = n) : ∃ t h, exec (.loadSetCommit i) s = .next t ∧ t.groups[gi]? = some h ∧ setAt t i = none ∧ Claim.SameMemory s t ∧
      sreg h d.toNat = (if sg then sext64 (8 * n) (x.got % 2 ^ (8 * n)) else w64 (x.got % 2 ^ (8 * n))) ∧
      h.slt = max (groupAt s gi).slt (setTime a) ∧ ∀ r, r ≠ d.toNat → sreg h r = sreg (groupAt s gi) r := by
  have time : partyLt s a.party = (groupAt s gi).slt := by rw [party]; rfl
  have commits := loadSetCommit_commits ripe load ready (time ▸ leases)
  rw [commitLoad_sreg party dest hd ripe.plain.1, time, scalarGot_one accs lane bytes] at commits
  refine ⟨_, _, commits, modGroup_groups_same present, setAt_dropSet_modGroup (id_of_setAt ripe.set), fun _ => rfl, ?_, ?_, fun r other => ?_⟩
  · rw [sreg_retired]
    exact sreg_setSreg_same (hd.trans_eq regs.symm)
  · rw [slt_retired]
    exact max_eq_right (le_max_left _ _)
  · rw [sreg_retired]
    exact sreg_setSreg_ne other

theorem commits_lane {ty : Ty} {vd : LReg} (party : a.party = .lane gi) (leases : ∀ p ∈ a.spans, (groupAt s gi).llt ≤ p.rts)
    (dest : a.dest = .lane ty vd) (counter : a.ifc < 4) :
    ∃ t h, exec (.loadSetCommit i) s = .next t ∧ t.groups[gi]? = some h ∧ setAt t i = none ∧ Claim.SameMemory s t ∧
      h.lanes = (mapLanes (groupAt s gi) (lanesAnswered a) fun k l => writeTy ty l vd.toNat (laneGot a k)).lanes ∧
      h.ifc = (groupAt s gi).ifc.modify a.ifc (· - 1) ∧ h.s = (groupAt s gi).s := by
  have time : partyLt s a.party = (groupAt s gi).llt := by rw [party]; rfl
  have commits := loadSetCommit_commits ripe load ready (time ▸ leases)
  simp only [commitLoad_lane party dest ripe.plain.1, retired_counted counter, writeDest, dest] at commits
  exact ⟨_, _, commits, modGroup_groups_same present, setAt_dropSet_modGroup (id_of_setAt ripe.set), fun _ => rfl, rfl, rfl, rfl⟩

omit present in
theorem renews_late (late : ∃ p ∈ a.spans, p.rts < partyLt s a.party) :
    ∃ t, exec (.loadSetCommit i) s = .next t ∧ setAt t i = some (renew s a (partyLt s a.party)) ∧ t.groups = s.groups := by
  have id := id_of_setAt ripe.set
  refine ⟨_, loadSetCommit_renews ripe load ready late, ?_, rfl⟩
  rw [id]
  exact setAt_modSet_same ripe.set fun _ => id

end

theorem commits_store (store : storeClass a.kind = true) (gone : a.phase = .gone) (party : a.party = .lane gi) (dest : a.dest = .none)
    (counter : a.ifc < 4) : ∃ t h, exec (.storeSetCommit i) s = .next t ∧ t.groups[gi]? = some h ∧ setAt t i = none ∧
      h.llt = max (groupAt s gi).llt (setTime a) ∧ h.ifc = (groupAt s gi).ifc.modify a.ifc (· - 1) ∧
      h.lanes = (groupAt s gi).lanes ∧ Claim.SameMemory s t := by
  have commits := storeSetCommit_lane ripe store gone party
  simp only [retired_counted counter, writeDest, dest] at commits
  exact ⟨_, _, commits, modGroup_groups_same present, setAt_dropSet_modGroup (id_of_setAt ripe.set), rfl, rfl, rfl, fun _ => rfl⟩

end

/-- Settles O32: each way of leaving and each commit is one equation of the step, a commit being an update of its party's group once the set is
forgotten. -/
theorem setsLeaveAndCommit : Obligations.SetsLeaveAndCommit := by
  intro s i a gi present
  refine ⟨leaves_global, ?_, ?_, fun ripe load ready => ⟨?_, ?_, renews_late ripe load ready⟩, commits_store present⟩
  · intro x at_ may free store sram party accs pos spans fits team
    exact leaves_sram at_ may free store sram party accs pos spans fits team
  · intro q x at_ may free push party own
    exact leaves_push at_ may free push party own
  · intro d n sg x party leases dest hd regs accs lane bytes counter
    exact commits_sreg present ripe load ready party leases dest hd regs accs lane bytes
  · intro ty vd party leases dest counter
    exact commits_lane present ripe load ready party leases dest counter

end Sys2Proof.Proofs
end

section
/-! SUPPORT. Waits of the scalar stream for counters, timelines and memory words, and SFENCE (R165, R215, R216, R224, R228). -/

namespace Sys2Proof.Proofs

open Sys2Proof Sys2Proof.Machine

variable {s u : State} {g : Group} {o : ScalOp} {a b d : SReg} {vs : List Word} {t va n : Nat}

/-! ## Words that take a time, or wait -/

/-- A word of 4 bytes whose effect only takes a time ends at the next word, with the scalar lt at that time or above. -/
theorem scalExec_acquires (h : ScalGo o s g s vs) (dst : o.dst = none) (len : o.len = 4)
    (eff : o.eff { s := s, gi := s.cur, g := groupAt s s.cur, s0 := s } vs = .done (acquire s.cur t u) none none) :
    scalExec o s = .next (u.modGroup s.cur (Claim.nextWord fun k => { k with slt := max k.slt t })) := by
  rw [scalExec_next_word h dst eff, len]
  exact congrArg _ (modGroup_then_next_word _ _)

/-! ## WAITIF and WAITTL (R215, R224) -/

theorem waitif_goes {k : BitVec 2} (h : Claim.ScalarIdle s g) (ha : Claim.plain a) (low : g.ifc.getD k.toNat 0 ≤ (sreg g a.toNat).toNat) :
    exec (.waitif a k) s = .next (s.modGroup s.cur (Claim.nextWord fun h => { h with slt := max h.slt g.llt })) := by
  refine scalExec_acquires (scalGo_of_plain h rfl rfl rfl rfl (plain_one ha) plain_none) rfl rfl ?_
  simp only [arg, List.map, List.getD_cons_zero, groupAt_of_getElem? h.group, if_pos low]

theorem waitif_waits {k : BitVec 2} (h : Claim.ScalarIdle s g) (ha : Claim.plain a) (high : (sreg g a.toNat).toNat < g.ifc.getD k.toNat 0) :
    exec (.waitif a k) s = .next (enterWait s s.cur) := by
  refine scalExec_eff_hold (scalGo_of_plain h rfl rfl rfl rfl (plain_one ha) plain_none) ?_
  simp only [arg, List.map, List.getD_cons_zero, groupAt_of_getElem? h.group, if_neg (Nat.not_le.mpr high)]
  rfl

section
variable {f : BitVec 1}

/-- The last command pushed to the engine of WAITTL, those on their way counted. -/
def pushedTo (s : State) (f : BitVec 1) : Nat := lastPushed (engOf (landedGroup s s.cur) (f == 1))

theorem waittl_ahead (h : Claim.ScalarIdle s g) (ha : Claim.plain a) (ahead : pushedTo s f < (sreg g a.toNat).toNat) :
    exec (.waittl a f) s = .next (scalarTrap s s.cur g Tc.timelineAhead) := by
  refine scalExec_eff_trap (t := { cause := Tc.timelineAhead }) (scalGo_of_plain h rfl rfl rfl rfl (plain_one ha) plain_none) ?_
  exact if_pos ahead

theorem waittl_goes (h : Claim.ScalarIdle s g) (ha : Claim.plain a) (pushed : (sreg g a.toNat).toNat ≤ pushedTo s f)
    (done : (sreg g a.toNat).toNat ≤ (engOf g (f == 1)).time) :
    exec (.waittl a f) s = .next (s.modGroup s.cur (Claim.nextWord fun h =>
      { h with slt := max h.slt (timelineTime (engOf g (f == 1)) (sreg g a.toNat).toNat) })) := by
  refine scalExec_acquires (scalGo_of_plain h rfl rfl rfl rfl (plain_one ha) plain_none) rfl rfl ?_
  simp only [arg, List.map, List.getD_cons_zero, groupAt_of_getElem? h.group]
  exact (if_neg (Nat.not_lt.mpr pushed)).trans (if_pos done)

theorem waittl_waits (h : Claim.ScalarIdle s g) (ha : Claim.plain a) (pushed : (sreg g a.toNat).toNat ≤ pushedTo s f)
    (behind : (engOf g (f == 1)).time < (sreg g a.toNat).toNat) :
    exec (.waittl a f) s = .next (enterWait s s.cur) := by
  refine scalExec_eff_hold (scalGo_of_plain h rfl rfl rfl rfl (plain_one ha) plain_none) ?_
  simp only [arg, List.map, List.getD_cons_zero, groupAt_of_getElem? h.group]
  exact (if_neg (Nat.not_lt.mpr pushed)).trans (if_neg (Nat.not_le.mpr behind))

theorem engOf_eq {k : Group} : engOf k (f == 1) = if f = 1 then k.fabric else k.copy := by
  simp only [engOf, beq_iff_eq]

end

theorem counterWaits : Claim.CounterWaits := by
  intro s g a k f idle ha
  simp only [← engOf_eq]
  exact ⟨waitif_goes idle ha, waitif_waits idle ha, waittl_goes idle ha, waittl_waits idle ha, waittl_ahead idle ha⟩

/-! ## WAITCMP (R228) -/

section
variable {sc c : BitVec 3} {w : BitVec 1}

/-- No check of WAITCMP's fields fails with a condition and a scope of the table. -/
theorem waitcmp_pre (hc : c.toNat < 6) (table : 2 ≤ sc.toNat ∧ sc.toNat ≤ 4) :
    (if (condOf c).isNone then some Tc.condReserved else if sc.toNat < 2 ∨ 4 < sc.toNat then some Tc.scopeReserved else none) = none := by
  rw [condOf_isSome hc, if_neg Bool.false_ne_true, if_neg (by omega)]

theorem waitcmp_cond_traps (h : Claim.ScalarIdle s g) (hc : 6 ≤ c.toNat) :
    exec (.waitcmp d a b sc w c) s = .next (scalarTrap s s.cur g Tc.condReserved) :=
  scalExec_pre_trap h (if_pos (condOf_isNone hc))

theorem waitcmp_scope_traps (h : Claim.ScalarIdle s g) (hc : c.toNat < 6) (other : ¬(2 ≤ sc.toNat ∧ sc.toNat ≤ 4)) :
    exec (.waitcmp d a b sc w c) s = .next (scalarTrap s s.cur g Tc.scopeReserved) :=
  scalExec_pre_trap h ((if_neg (by simp [condOf_isSome hc])).trans (if_pos (by omega)))

/-- A stream that waits for no word yet does not hold WAITCMP back. -/
theorem waitcmp_free (h : Claim.ScalarIdle s g) (free : ∀ x, g.wait ≠ .word x) :
    (regionLive s g || (match g.wait with | .word _ => true | _ => false)) = false := by
  rw [regionLive_of_idle h, Bool.false_or]
  split
  · next x waiting => exact absurd waiting (free x)
  · rfl

section
variable (h : Claim.ScalarIdle s g) (hd : Claim.plain d) (ha : Claim.plain a) (hb : Claim.plain b) (free : ∀ x, g.wait ≠ .word x)
  (hc : c.toNat < 6) (table : 2 ≤ sc.toNat ∧ sc.toNat ≤ 4)
include h hd ha hb free hc table

theorem waitcmp_align_traps (odd : (sreg g a.toNat).toNat % (if w = 1 then 4 else 8) ≠ 0) :
    exec (.waitcmp d a b sc w c) s = .next (scalarTrap s s.cur g Tc.waitAlign) :=
  scalExec_eff_trap (t := { cause := Tc.waitAlign })
    (scalGo_of_plain h (waitcmp_pre hc table) rfl (waitcmp_free h free) rfl (by simp [hd, ha, hb]) plain_none) (if_pos odd)

theorem waitcmp_noncanon_traps (aligned : (sreg g a.toNat).toNat % (if w = 1 then 4 else 8) = 0) (high : 2 ^ 48 ≤ (sreg g a.toNat).toNat) :
    exec (.waitcmp d a b sc w c) s = .next (scalarTrap s s.cur g Tc.addrNoncanon (sreg g a.toNat)) := by
  refine scalExec_eff_trap (t := { cause := Tc.addrNoncanon, addr := sreg g a.toNat })
    (scalGo_of_plain h (waitcmp_pre hc table) rfl (waitcmp_free h free) rfl (by simp [hd, ha, hb]) plain_none)
    ((if_neg (not_not.mpr aligned)).trans ?_)
  simp only [arg, List.map, List.getD_cons_zero, noncanon_of_ge high]

theorem waitcmp_begins (aligned : (sreg g a.toNat).toNat % (if w = 1 then 4 else 8) = 0) (low : (sreg g a.toNat).toNat < 2 ^ 48)
    (issues : Claim.Issues s g (Claim.scalarAccess s g .load (sreg g a.toNat).toNat (if w = 1 then 4 else 8) 0 .waitcmp)) :
    exec (.waitcmp d a b sc w c) s =
      .next ((issueSet s (Claim.scalarAccess s g .load (sreg g a.toNat).toNat (if w = 1 then 4 else 8) 0 .waitcmp)).modGroup s.cur fun k =>
        { k with gap := 0, wait := .word { va := (sreg g a.toNat).toNat, n := if w = 1 then 4 else 8, want := sreg g b.toNat,
                                           mask := sreg g d.toNat, c := c, sc := sc, pa := 0, t := 0, placed := false, woken := false,
                                           at_ := s.now } }) := by
  refine scalExec_eff_hold
    (scalGo_of_plain h (waitcmp_pre hc table) rfl (waitcmp_free h free) rfl (by simp [hd, ha, hb]) plain_none)
    ((if_neg (not_not.mpr aligned)).trans ?_)
  have read : waitRead s s.cur (sreg g a.toNat).toNat (if w = 1 then 4 else 8) =
      Claim.scalarAccess s g .load (sreg g a.toNat).toNat (if w = 1 then 4 else 8) 0 .waitcmp := by
    rw [waitRead, groupAt_of_getElem? h.group]
    rfl
  simp only [arg, List.map, List.getD_cons_zero, List.getD_cons_succ, noncanon_of_lt low, groupAt_of_getElem? h.group, read]
  exact issueScalar_of_issues (partyFull_of_idle h) issues

end

theorem waitcmpBegins : Claim.WaitcmpBegins := fun _ _ _ _ _ _ _ _ idle hd ha hb free =>
  ⟨waitcmp_cond_traps idle, waitcmp_scope_traps idle, waitcmp_align_traps idle hd ha hb free, waitcmp_noncanon_traps idle hd ha hb free,
    waitcmp_begins idle hd ha hb free⟩

end

/-! ## SFENCE (R165, R216) -/

section
variable {f : BitVec 1} {sc : BitVec 3}

theorem sfence_scope_traps (h : Claim.ScalarIdle s g) (reserved : 6 ≤ sc.toNat) :
    exec (.sfence f sc) s = .next (scalarTrap s s.cur g Tc.scopeReserved) :=
  scalExec_pre_trap h (if_pos reserved)

/-- Without sets, and with no fabric command to wait for, SFENCE does what its scope says and, with F, takes the fabric's time. -/
theorem sfence_publishes (h : Claim.ScalarIdle s g) (known : sc.toNat < 6) (sent : f = 1 → g.fabric.cmds = []) :
    exec (.sfence f sc) s = .next ((if f = 1 then acquire s.cur (fabricTime g) (fenceScope s s.cur sc) else fenceScope s s.cur sc).modGroup
      s.cur (Claim.nextWord id)) := by
  have free : (regionLive s g || !(setsOf s (.scalar s.cur)).isEmpty || (f == 1 && !g.fabric.cmds.isEmpty)) = false := by
    rw [regionLive_of_idle h, setsOf_of_idle h]
    rcases BitVec.eq_zero_or_eq_one f with rfl | rfl
    · rfl
    · rw [sent rfl]
      rfl
  refine scalExec_next_word (scalGo_of_plain h (if_neg (Nat.not_le.mpr known)) rfl free rfl (by simp) plain_none) rfl ?_
  simp only [groupAt_of_getElem? h.group]

/-- A line that the group holds narrow is held for its team instead. -/
def widened (s : State) (gi : Nat) (l : L1Line) : L1Line :=
  if l.narrow = some (Scope.grp, gi) then { l with narrow := some (Scope.team, (groupAt s gi).team) } else l

theorem fenceScope_team {gi : Nat} : fenceScope s gi 1 = { s with l1 := s.l1.map (widened s gi) } := rfl

theorem fenceScope_wide {gi : Nat} (wide : 2 ≤ sc.toNat) : fenceScope s gi sc = (narrowLines s gi).foldl publishLine s := by
  unfold fenceScope
  split
  next none_ => omega
  next team => omega
  next => rfl

theorem sfencePublishes : Claim.SfencePublishes := by
  intro s g f sc idle
  have quiet {sc : BitVec 3} (known : sc.toNat < 6) :
      exec (.sfence 0 sc) s = .next ((fenceScope s s.cur sc).modGroup s.cur (Claim.nextWord id)) :=
    sfence_publishes idle known fun on => absurd on (by decide)
  refine ⟨sfence_scope_traps idle, ?_, ?_, ?_, ?_⟩
  · rintro rfl rfl
    exact quiet (by decide)
  · rintro rfl rfl
    rw [quiet (by decide), fenceScope_team]
    unfold widened
    rw [groupAt_of_getElem? idle.group]
  · rintro rfl wide known
    rw [quiet known, fenceScope_wide wide]
  · rintro rfl sent rfl
    rw [sfence_publishes idle (by decide) fun _ => sent]
    exact congrArg _ (modGroup_comp _ _)

end

/-- Settles O13: each word is one of the frame's ends (go on with a time, wait, trap, leave the word standing), chosen by its own values. SFENCE at
.sys publishes and goes on, as the model reads R216 (notes/assumptions/69.md). -/
theorem scalarWaits : Obligations.ScalarWaits := ⟨counterWaits, waitcmpBegins, sfencePublishes⟩

end Sys2Proof.Proofs
end

section
/-! SUPPORT. Attraction memory: what its bookkeeping leaves of frames, entries, messages and bytes. A step that gives times back, samples HEAT,
brings a line to L2 or aborts regions moves no page (R152, R162, R190 to R192); a page that is dropped or filled changes its own bytes only. -/

namespace Sys2Proof.Proofs

open Sys2Proof Sys2Proof.Machine

variable {s t u : State} {gpn g m n : Nat} {x y : Tag}

/-! ## Frames that keep their page -/

/-- The same page in the same frame and state; its times have only grown. -/
structure SameFrame (x y : Tag) : Prop where
  place   : (y.set, y.way, y.gpn) = (x.set, x.way, x.gpn)
  state   : y.state = x.state
  flags   : (y.pin, y.comp, y.transit, y.shared) = (x.pin, x.comp, x.transit, x.shared)
  fwt     : x.fwt ≤ y.fwt
  fle     : x.fle ≤ y.fle

theorem SameFrame.refl : SameFrame x x := ⟨rfl, rfl, rfl, le_rfl, le_rfl⟩

theorem SameFrame.trans {z : Tag} (h : SameFrame x y) (h' : SameFrame y z) : SameFrame x z :=
  ⟨h'.place.trans h.place, h'.state.trans h.state, h'.flags.trans h.flags, h.fwt.trans h'.fwt, h.fle.trans h'.fle⟩

theorem SameFrame.page (h : SameFrame x y) : y.gpn = x.gpn := (Prod.mk.inj (Prod.mk.inj h.place).2).2
theorem SameFrame.transit (h : SameFrame x y) : y.transit = x.transit := (Prod.mk.inj (Prod.mk.inj (Prod.mk.inj h.flags).2).2).1

theorem SameFrame.holdsPage (h : SameFrame x y) : holdsPage g y = holdsPage g x := by
  simp only [Machine.holdsPage, h.page, h.state]

theorem SameFrame.crowned (h : SameFrame x y) : crowned y = crowned x := by
  simp only [Machine.crowned, h.state]

theorem decay_sameFrame {e : Nat} : SameFrame x (decay e x) := ⟨rfl, rfl, rfl, le_rfl, le_rfl⟩

/-- The frames of two states stand side by side, page for page. -/
abbrev SameFrames (l l' : List Tag) : Prop := List.Forall₂ SameFrame l l'

theorem sameFrames_refl (l : List Tag) : SameFrames l l := List.forall₂_same.mpr fun _ _ => .refl

theorem sameFrames_trans {l l' l'' : List Tag} (h : SameFrames l l') (h' : SameFrames l' l'') : SameFrames l l'' := by
  induction h generalizing l'' with
  | nil => exact h'
  | cons hx _ ih =>
    cases h' with
    | cons hy hr => exact .cons (hx.trans hy) (ih hr)

theorem sameFrames_map {f : Tag → Tag} (same : ∀ x, SameFrame x (f x)) (l : List Tag) : SameFrames l (l.map f) := by
  induction l with
  | nil => exact .nil
  | cons x r ih => exact .cons (same x) ih

/-! ## Lists that stand side by side -/

theorem forall₂_modFirst {α : Type} {R : α → α → Prop} {p : α → Bool} {f : α → α} (refl : ∀ x, R x x) (same : ∀ x, R x (f x)) (l : List α) :
    List.Forall₂ R l (modFirst p f l) := by
  induction l with
  | nil => exact .nil
  | cons x r ih =>
    unfold modFirst
    split
    · exact .cons (same x) (List.forall₂_same.mpr fun x _ => refl x)
    · exact .cons (refl x) ih

theorem forall₂_find? {α : Type} {R : α → α → Prop} {p : α → Bool} {l l' : List α} (h : List.Forall₂ R l l')
    (sees : ∀ x y, R x y → p y = p x) : Option.Rel R (l.find? p) (l'.find? p) := by
  induction h with
  | nil => exact .none
  | cons hx _ ih =>
    rw [List.find?_cons, List.find?_cons, sees _ _ hx]
    split
    · exact .some hx
    · exact ih

theorem some_of_rel {α : Type} {R : α → α → Prop} {a : α} {o o' : Option α} (h : Option.Rel R o o') (here : o = some a) :
    ∃ b, o' = some b ∧ R a b := by
  subst here
  cases h with
  | some same => exact ⟨_, rfl, same⟩

theorem none_of_rel {α : Type} {R : α → α → Prop} {o o' : Option α} (h : Option.Rel R o o') (away : o = none) : o' = none := by
  subst away
  cases h
  rfl

theorem sameFrames_modFirst {p : Tag → Bool} {f : Tag → Tag} (same : ∀ x, SameFrame x (f x)) (l : List Tag) :
    SameFrames l (modFirst p f l) := forall₂_modFirst (fun _ => .refl) same l

/-! ## Steps that move no page -/

/-- Between `s` and `t` no page has come, gone or changed its state or bytes, and nothing was sent: of attraction memory only the frames' times
and HEAT, samples, blocks, counters and poison may differ, of the hub only what tells when channels were used. -/
structure MovesNoPage (s t : State) : Prop where
  mem   : t.mem = s.mem
  net   : t.net = s.net
  cycle : t.cycle = s.cycle
  pins  : t.pins = s.pins ∧ t.l2pins = s.l2pins
  hub   : t.hub = { s.hub with draws := t.hub.draws, selfRef := t.hub.selfRef, chanUse := t.hub.chanUse }
  am    : t.am = { s.am with
    tags := t.am.tags, samples := t.am.samples, blocks := t.am.blocks, stats := t.am.stats, whole := t.am.whole, poison := t.am.poison }
  tags  : SameFrames s.am.tags t.am.tags

theorem MovesNoPage.of_same (mem : t.mem = s.mem := by rfl) (net : t.net = s.net := by rfl) (cycle : t.cycle = s.cycle := by rfl)
    (pins : t.pins = s.pins ∧ t.l2pins = s.l2pins := by exact ⟨rfl, rfl⟩) (hub : t.hub = s.hub := by rfl)
    (am : t.am = s.am := by rfl) : MovesNoPage s t :=
  ⟨mem, net, cycle, pins, by rw [hub], by rw [am], by rw [am]; exact sameFrames_refl _⟩

theorem MovesNoPage.refl : MovesNoPage s s := .of_same

theorem MovesNoPage.trans (h : MovesNoPage s t) (h' : MovesNoPage t u) : MovesNoPage s u where
  mem   := h'.mem.trans h.mem
  net   := h'.net.trans h.net
  cycle := h'.cycle.trans h.cycle
  pins  := ⟨h'.pins.1.trans h.pins.1, h'.pins.2.trans h.pins.2⟩
  hub   := h'.hub.trans (by rw [h.hub])
  am    := h'.am.trans (by rw [h.am])
  tags  := sameFrames_trans h.tags h'.tags

theorem movesNoPage_foldl {α : Type} {f : State → α → State} (keeps : ∀ s x, MovesNoPage s (f s x)) (l : List α) (s : State) :
    MovesNoPage s (l.foldl f s) :=
  List.foldlRecOn (motive := MovesNoPage s) l f .refl fun _ h x _ => h.trans (keeps _ x)

theorem modTag_movesNoPage {f : Tag → Tag} (same : ∀ x, SameFrame x (f x)) : MovesNoPage s (modTag s gpn f) :=
  ⟨rfl, rfl, rfl, ⟨rfl, rfl⟩, rfl, rfl, sameFrames_modFirst same _⟩

theorem raiseTimes_sameFrame {a b : Nat} : SameFrame x { x with fwt := max x.fwt a, fle := max x.fle b } :=
  ⟨rfl, rfl, rfl, le_max_left _ _, le_max_left _ _⟩

theorem setSector_movesNoPage {sec : Nat} {v : Nat × Nat} : MovesNoPage s (setSector s sec v) := by
  unfold setSector
  split
  · exact .of_same
  · exact modTag_movesNoPage fun _ => raiseTimes_sameFrame

theorem publishLine_movesNoPage {line : Nat} : MovesNoPage s (publishLine s line) := by
  unfold publishLine
  split
  · exact .refl
  · exact (movesNoPage_foldl (fun _ _ => setSector_movesNoPage) (List.range 4) s).trans .of_same

theorem publishPage_movesNoPage : MovesNoPage s (publishPage s gpn) :=
  movesNoPage_foldl (fun _ _ => publishLine_movesNoPage) _ s

theorem decaySet_movesNoPage {set : Nat} : MovesNoPage s (decaySet s set) := by
  refine ⟨rfl, rfl, rfl, ⟨rfl, rfl⟩, rfl, rfl, sameFrames_map (fun x => ?_) _⟩
  split
  · exact decay_sameFrame
  · exact .refl

theorem bumpStat_movesNoPage {k : Nat} : MovesNoPage s (bumpStat s k) :=
  ⟨rfl, rfl, rfl, ⟨rfl, rfl⟩, rfl, rfl, sameFrames_refl _⟩

theorem sampleLine_movesNoPage {line : Nat} {hs : Bool} : MovesNoPage s (sampleLine s gpn line hs) := by
  unfold sampleLine
  extract_lets key k s1
  have sampled : MovesNoPage s s1 := ⟨rfl, rfl, rfl, ⟨rfl, rfl⟩, rfl, rfl, sameFrames_refl _⟩
  split
  · exact sampled.trans (modTag_movesNoPage fun _ => ⟨rfl, rfl, rfl, le_rfl, le_rfl⟩)
  · exact sampled

theorem writeBlock_movesNoPage {b : Nat} : MovesNoPage s (writeBlock s b) :=
  ⟨rfl, rfl, rfl, ⟨rfl, rfl⟩, rfl, rfl, sameFrames_refl _⟩

theorem writeBack_movesNoPage {line : Nat} : MovesNoPage s (writeBack s line) := by
  unfold writeBack
  dsimp only
  split
  · exact sampleLine_movesNoPage.trans writeBlock_movesNoPage
  · exact sampleLine_movesNoPage

theorem abortOne_movesNoPage {c : BitVec 4} {b : Nat} : MovesNoPage s (abortOne s n c b) := by
  unfold abortOne
  split
  · exact .refl
  · dsimp only
    split
    · exact .refl
    · exact .of_same

theorem abortRegion_movesNoPage {c : BitVec 4} {b : Nat} : MovesNoPage s (abortRegion s n c b) :=
  (movesNoPage_foldl (fun _ _ => abortOne_movesNoPage) _ s).trans
    (movesNoPage_foldl (fun s _ => movesNoPage_foldl (fun _ _ => abortOne_movesNoPage) _ s) _ _)

/-! ## Lines that go to L2 -/

theorem evictLine_movesNoPage {line : Nat} : MovesNoPage s (evictLine s line) := by
  have aborted : MovesNoPage s ((lineMarkers s line).foldl (fun s x => abortRegion s x 3 x) s) :=
    movesNoPage_foldl (fun _ _ => abortRegion_movesNoPage) _ s
  unfold evictLine
  extract_lets s1 times block clean s2 s3 s4 s5
  have folded : MovesNoPage s1 s3 := .trans .of_same (modTag_movesNoPage fun _ => raiseTimes_sameFrame)
  have marked : MovesNoPage s3 s4 := ⟨rfl, rfl, rfl, ⟨rfl, rfl⟩, rfl, rfl, sameFrames_refl _⟩
  have written : MovesNoPage s4 s5 := by
    unfold s5
    split
    · exact writeBack_movesNoPage
    · exact .refl
  exact (((aborted.trans folded).trans marked).trans written).trans .of_same

theorem l2Room_movesNoPage {line : Nat} : MovesNoPage s (l2Room s line) := by
  unfold l2Room
  split
  · exact .refl
  · dsimp only
    split
    · exact .refl
    · split
      · have drawn : MovesNoPage s (s.modHub fun h => { h with draws := h.draws + 1 }) :=
          ⟨rfl, rfl, rfl, ⟨rfl, rfl⟩, rfl, rfl, sameFrames_refl _⟩
        exact drawn.trans evictLine_movesNoPage
      · exact .refl

theorem fillL2_movesNoPage {line : Nat} : MovesNoPage s (fillL2 s line) :=
  l2Room_movesNoPage.trans .of_same

theorem bringLine_movesNoPage {line : Nat} {hs : Bool} : MovesNoPage s (bringLine s line hs) := by
  unfold bringLine
  split
  · exact .refl
  · exact sampleLine_movesNoPage.trans fillL2_movesNoPage

theorem inL2_fillL2 {line : Nat} : inL2 (fillL2 s line) line = true := by
  have last : ∀ v, ((fillL2 s line).sectors.lookup (4 * line + 3)) = some v → inL2 (fillL2 s line) line = true := fun v h =>
    List.any_eq_true.mpr ⟨3, by decide, by rw [h]; rfl⟩
  exact last _ (lookup_tput _)

theorem inL2_bringLine {line : Nat} {hs : Bool} : inL2 (bringLine s line hs) line = true := by
  unfold bringLine
  split
  · assumption
  · exact inL2_fillL2

/-! ## What such a step leaves -/

/-- The home of a page depends on the packages alone. -/
theorem homeAid_of_same (lost : t.am.lost = s.am.lost) (aid : aid t = aid s) (size : podSize t = podSize s) : homeAid t gpn = homeAid s gpn := by
  have search : ∀ fuel a, notLostFrom t fuel a = notLostFrom s fuel a := by
    intro fuel
    induction fuel with
    | zero => exact fun _ => rfl
    | succ fuel ih => intro a; simp only [notLostFrom, lost, size, ih]
  simp only [homeAid, size, aid, search]

namespace MovesNoPage

variable (h : MovesNoPage s t)
include h

theorem aid : Machine.aid t = Machine.aid s := by rw [Machine.aid, h.hub, Machine.aid]
theorem podSize : Machine.podSize t = Machine.podSize s := by rw [Machine.podSize, h.hub, Machine.podSize]
theorem now : t.now = s.now := by rw [State.now, h.hub, h.cycle, State.now]
theorem sameMemory : Claim.SameMemory s t := fun a => congrArg (byteAt · a) h.mem
theorem pageCells : Machine.pageCells t gpn = Machine.pageCells s gpn := by rw [Machine.pageCells, h.mem, Machine.pageCells]

theorem lost : t.am.lost = s.am.lost := by rw [h.am]
theorem climbs : t.am.climbs = s.am.climbs := by rw [h.am]
theorem crowns : t.am.crowns = s.am.crowns := by rw [h.am]
theorem injects : t.am.injects = s.am.injects := by rw [h.am]
theorem seconds : t.am.seconds = s.am.seconds := by rw [h.am]
theorem released : t.am.released = s.am.released := by rw [h.am]

theorem tagOf : Option.Rel SameFrame (Machine.tagOf s gpn) (Machine.tagOf t gpn) :=
  forall₂_find? h.tags fun _ _ same => same.holdsPage

theorem tagOf_none (away : Machine.tagOf s gpn = none) : Machine.tagOf t gpn = none := none_of_rel h.tagOf away

theorem tagOf_some (here : Machine.tagOf s gpn = some x) : ∃ y, Machine.tagOf t gpn = some y ∧ SameFrame x y := some_of_rel h.tagOf here

theorem tagOf_any {p : Tag → Bool} (sees : ∀ x y, SameFrame x y → p y = p x) :
    (Machine.tagOf t gpn).any p = (Machine.tagOf s gpn).any p := by
  cases tag : Machine.tagOf s gpn with
  | none => rw [h.tagOf_none tag]
  | some x =>
    obtain ⟨y, here, same⟩ := h.tagOf_some tag
    rw [here]
    exact sees x y same

theorem crownHere : Machine.crownHere t gpn = Machine.crownHere s gpn := by
  rw [Machine.crownHere, h.seconds, h.tagOf_any fun _ _ same => same.crowned, Machine.crownHere]

theorem readableHere : Machine.readableHere t gpn = Machine.readableHere s gpn := by
  have same : (Machine.tagOf t gpn).any (fun x => !x.transit || (crowned x && injecting s gpn)) =
      (Machine.tagOf s gpn).any (fun x => !x.transit || (crowned x && injecting s gpn)) :=
    h.tagOf_any fun _ _ same => by rw [same.transit, same.crowned]
  have inject : injecting t gpn = injecting s gpn := by rw [injecting, h.injects, injecting]
  rw [Machine.readableHere, h.released, inject, same, Machine.readableHere]

end MovesNoPage

theorem pageTimes_fle_le (here : tagOf s gpn = some x) : x.fle ≤ (pageTimes s gpn).2 := by
  have sectors (l : List (Nat × (Nat × Nat))) (a : Nat × Nat) :
      a.2 ≤ (l.foldl (fun m e => (max m.1 e.2.1, max m.2 e.2.2)) a).2 :=
    List.foldlRecOn (motive := fun b : Nat × Nat => a.2 ≤ b.2) l _ le_rfl fun _ h _ _ => h.trans (le_max_left _ _)
  have grows (l : List Nat) (a : Nat) : a ≤ l.foldl max a :=
    List.foldlRecOn (motive := (a ≤ ·)) l max le_rfl fun _ h _ _ => h.trans (le_max_left _ _)
  have lines (l : List L1Line) (a : Nat × Nat) : a.2 ≤ (l.foldl (fun m l => (l.wts.foldl max m.1, l.rts.foldl max m.2)) a).2 :=
    List.foldlRecOn (motive := fun b : Nat × Nat => a.2 ≤ b.2) l _ le_rfl fun _ h _ _ => h.trans (grows _ _)
  unfold pageTimes
  rw [here]
  exact (sectors _ (x.fwt, x.fle)).trans (lines _ _)

/-! ## Bytes of a page -/

theorem byteAt_clearRange_in {mem : Memory} {a n b : Nat} (low : a ≤ b) (high : b < a + n) : byteAt (clearRange mem a n) b = 0 := by
  induction mem with
  | nil => rfl
  | cons c r ih =>
    unfold clearRange at ih ⊢
    rw [List.filter_cons]
    split
    · next kept =>
      have other : c.1 ≠ b := by rintro rfl; simp [low, high] at kept
      exact (if_neg other).trans ih
    · exact ih

theorem tget_of_keysAbove {β : Type} {d : β} {k j : Nat} {c : List (Nat × β)} (above : keysAbove k c = true) (low : j ≤ k) : tget d c j = d := by
  induction c with
  | nil => rfl
  | cons x r ih =>
    simp only [keysAbove, Bool.and_eq_true, decide_eq_true_eq] at above
    rw [tget, if_neg (by omega)]
    exact ih above.2

/-- A page image put at `a` is read where it lists a byte; other bytes are as before. -/
theorem byteAt_putCells {mem c : Memory} {a o : Nat} (wf : c.wf = true) :
    byteAt (putCells mem a c) (a + o) = if byteAt c o = 0 then byteAt mem (a + o) else byteAt c o := by
  induction c generalizing mem with
  | nil => rfl
  | cons x r ih =>
    simp only [Memory.wf, tabWf, Bool.and_eq_true, bne_iff_ne] at wf
    obtain ⟨⟨live, above⟩, rest⟩ := wf
    have put := ih (mem := setByte mem (a + x.1) x.2) rest
    rw [byteAt_setByte] at put
    refine put.trans ?_
    by_cases here : x.1 = o
    · subst here
      have last : byteAt r x.1 = 0 := tget_of_keysAbove above le_rfl
      have read : byteAt ((x.1, x.2) :: r) x.1 = x.2 := if_pos rfl
      rw [last, if_pos rfl, if_pos rfl, read, if_neg live]
    · have read : byteAt ((x.1, x.2) :: r) o = byteAt r o := if_neg here
      rw [read, if_neg (by omega : ¬ a + o = a + x.1)]

/-- A page image that takes the place of a range is read there. -/
theorem byteAt_putCells_cleared {mem c : Memory} {a n o : Nat} (wf : c.wf = true) (inside : o < n) :
    byteAt (putCells (clearRange mem a n) a c) (a + o) = byteAt c o := by
  rw [byteAt_putCells wf, byteAt_clearRange_in (by omega) (by omega)]
  split
  · exact Eq.symm ‹_›
  · rfl

theorem keysAbove_cells {mem : Memory} {a n k : Nat} (above : keysAbove k mem = true) (low : a ≤ k) :
    keysAbove (k - a) (cellsIn mem a n) = true := by
  induction mem with
  | nil => rfl
  | cons x r ih =>
    simp only [keysAbove, Bool.and_eq_true, decide_eq_true_eq] at above
    unfold cellsIn at ih ⊢
    rw [List.filter_cons]
    split
    · simp only [List.map_cons, keysAbove, Bool.and_eq_true, decide_eq_true_eq]
      exact ⟨by omega, ih above.2⟩
    · exact ih above.2

theorem cellsIn_wf {mem : Memory} {a n : Nat} (wf : mem.wf = true) : (cellsIn mem a n).wf = true := by
  induction mem with
  | nil => rfl
  | cons x r ih =>
    simp only [Memory.wf, tabWf, Bool.and_eq_true, bne_iff_ne] at wf
    obtain ⟨⟨live, above⟩, rest⟩ := wf
    have tail := ih rest
    have keys (low : a ≤ x.1) := keysAbove_cells (n := n) above low
    unfold cellsIn at tail keys ⊢
    rw [List.filter_cons]
    split
    · next inside =>
      simp only [Bool.and_eq_true, decide_eq_true_eq] at inside
      simp only [List.map_cons, Memory.wf, tabWf, Bool.and_eq_true, bne_iff_ne]
      exact ⟨⟨live, keys inside.1⟩, tail⟩
    · exact tail

theorem byteAt_cellsIn {mem : Memory} {a n o : Nat} (inside : o < n) : byteAt (cellsIn mem a n) o = byteAt mem (a + o) := by
  induction mem with
  | nil => rfl
  | cons x r ih =>
    unfold cellsIn at ih ⊢
    rw [List.filter_cons]
    have next : byteAt (x :: r) (a + o) = if x.1 = a + o then x.2 else byteAt r (a + o) := rfl
    rw [next, ← ih]
    split
    · next listed =>
      simp only [Bool.and_eq_true, decide_eq_true_eq] at listed
      rw [List.map_cons]
      have here : x.1 - a = o ↔ x.1 = a + o := by omega
      show (if x.1 - a = o then x.2 else _) = _
      simp only [here]
      rfl
    · next out =>
      simp only [Bool.and_eq_true, decide_eq_true_eq] at out
      rw [if_neg (by omega)]

end Sys2Proof.Proofs
end


section
/-! SUPPORT. The hub's tables: entries of the directory after a lookup (R177, R179), messages that are sent, pages that leave and pages that are
put in a frame (R174, R187, R192). -/

namespace Sys2Proof.Proofs

open Sys2Proof Sys2Proof.Machine

variable {s t u : State} {gpn m n : Nat} {x y : Tag} {e e' : DirEntry}

/-! ## Messages -/

/-- Messages of one content go out in order, where the content rests on nothing that is under way. -/
theorem foldl_send_of {msg : State → Msg} (still : ∀ s l, msg { s with net := l } = msg s) (l : List Nat) (s : State) :
    l.foldl (fun s a => send s a (msg s)) s =
      { s with net := s.net ++ l.map fun a => { src := aid s, dst := a, msg := msg s, at_ := s.now } } := by
  induction l generalizing s with
  | nil => simp
  | cons a r ih =>
    have kept : msg (send s a (msg s)) = msg s := still s _
    rw [List.foldl_cons, ih, kept, send, List.append_assoc]
    rfl

theorem foldl_send {msg : Msg} (l : List Nat) (s : State) : l.foldl (fun s a => send s a msg) s =
    { s with net := s.net ++ l.map fun a => { src := aid s, dst := a, msg := msg, at_ := s.now } } :=
  foldl_send_of (msg := fun _ => msg) (fun _ _ => rfl) l s

/-! ## Entries of the directory -/

/-- An entry with the same fields but for where it is kept. -/
def SameEntry (e e' : DirEntry) : Prop := e' = { e with spill := e'.spill }

theorem SameEntry.refl : SameEntry e e := rfl

theorem SameEntry.trans {e'' : DirEntry} (h : SameEntry e e') (h' : SameEntry e' e'') : SameEntry e e'' := by
  unfold SameEntry at *
  rw [h', h]

/-- The state with other entries and counters. -/
def withDir (s : State) (d : List DirEntry) (k : List Nat) : State := { s with am := { s.am with dir := d, stats := k } }

/-- The entries are those of `s`, some kept elsewhere, and only the counters differ besides. -/
def Respilled (s t : State) : Prop := ∃ d k, t = withDir s d k ∧ List.Forall₂ SameEntry s.am.dir d

theorem Respilled.refl : Respilled s s := ⟨s.am.dir, s.am.stats, rfl, List.forall₂_same.mpr fun _ _ => .refl⟩

theorem Respilled.trans (h : Respilled s t) (h' : Respilled t u) : Respilled s u := by
  obtain ⟨d, k, rfl, same⟩ := h
  obtain ⟨d', k', rfl, same'⟩ := h'
  refine ⟨d', k', rfl, ?_⟩
  have join : ∀ {l l' l'' : List DirEntry}, List.Forall₂ SameEntry l l' → List.Forall₂ SameEntry l' l'' → List.Forall₂ SameEntry l l'' := by
    intro l l' l'' h
    induction h generalizing l'' with
    | nil => exact id
    | cons hx _ ih =>
      intro h'
      cases h' with
      | cons hy hr => exact .cons (hx.trans hy) (ih hr)
  exact join same same'

theorem respilled_spill {b : Bool} : Respilled s (dirMod s gpn fun x => { x with spill := b }) :=
  ⟨_, _, rfl, forall₂_modFirst (R := SameEntry) (f := fun x => { x with spill := b }) (fun _ => .refl) (fun _ => rfl) _⟩

theorem respilled_bumpStat {k : Nat} : Respilled s (bumpStat s k) :=
  ⟨_, _, rfl, List.forall₂_same.mpr fun _ _ => .refl⟩

theorem respilled_makeRoom {skip : Option Nat} (room : makeRoom s gpn skip = some t) : Respilled s t := by
  simp only [makeRoom] at room
  split at room
  · cases room
    exact .refl
  · split at room
    · cases room
      exact respilled_spill
    · cases room

theorem Respilled.dirFind (h : Respilled s t) (here : dirFind s gpn = some e) : ∃ e', Machine.dirFind t gpn = some e' ∧ SameEntry e e' := by
  obtain ⟨d, k, rfl, same⟩ := h
  exact some_of_rel (forall₂_find? same fun x y (h : y = _) => by rw [h]) here

theorem gpn_of_dirFind (here : dirFind s gpn = some e) : e.gpn = gpn := by
  simpa using List.find?_some here

theorem dirFind_dirMod {f : DirEntry → DirEntry} (keeps : ∀ e, (f e).gpn = e.gpn) : dirFind (dirMod s gpn f) gpn = (dirFind s gpn).map f :=
  find?_modFirst (by simp [keeps]) s.am.dir

theorem dirFind_dirMod_some {f : DirEntry → DirEntry} (keeps : ∀ e, (f e).gpn = e.gpn) (here : dirFind s gpn = some e) :
    dirFind (dirMod s gpn f) gpn = some (f e) := by
  rw [dirFind_dirMod keeps, here]
  rfl

/-- A looked-up entry stands in the directory as it was, but for where it is kept. -/
theorem dirTouch_some (here : dirFind s gpn = some e) :
    ∃ d k e', dirTouch s gpn = withDir s d k ∧ dirFind (withDir s d k) gpn = some e' ∧ SameEntry e e' := by
  unfold dirTouch
  rw [here]
  dsimp only
  generalize spilled : (if e.spill = true then _ else s : State) = s1
  have moved : Respilled s s1 := by
    rw [← spilled]
    split
    · cases room : makeRoom (bumpStat s 1) gpn (some gpn) with
      | none => exact respilled_bumpStat
      | some t => exact (respilled_bumpStat.trans (respilled_makeRoom room)).trans respilled_spill
    · exact .refl
  obtain ⟨e', found, same⟩ := moved.dirFind here
  obtain ⟨d, k, rfl, -⟩ := moved
  refine ⟨_, _, e', rfl, ?_, same⟩
  have first : ((withDir s d k).am.dir.filter fun x => x.gpn == gpn).find? (fun x => x.gpn == gpn) = some e' := by
    simp only [List.find?_filter, and_self, Bool.decide_eq_true]
    exact found
  exact (List.find?_append ..).trans (by rw [first]; rfl)

/-- A new entry goes into a store set with room. -/
theorem dirAdd_room (room : (storeOf s (storeSet e.gpn)).length < 16) :
    dirAdd s e = some (s.modAm fun a => { a with dir := e :: a.dir }) := by
  have made : makeRoom s e.gpn none = some s := if_pos room
  simp only [dirAdd, made, Option.map_some, if_neg (Nat.not_le.mpr room)]

/-! ## A page leaves -/

theorem wakeWhere_leaves {p : WaitEntry → Bool} : (wakeWhere s p).am = s.am ∧ (wakeWhere s p).mem = s.mem ∧ (wakeWhere s p).hub = s.hub ∧
    (wakeWhere s p).cycle = s.cycle := by
  unfold wakeWhere
  dsimp only
  refine List.foldlRecOn (motive := fun t : State => t.am = s.am ∧ t.mem = s.mem ∧ t.hub = s.hub ∧ t.cycle = s.cycle) _ _
    ⟨rfl, rfl, rfl, rfl⟩ fun t h w _ => ?_
  split <;> exact h

/-- Without its page: its bytes, tags and marks. -/
structure PageGone (s t : State) (gpn : Nat) : Prop where
  tag      : tagOf t gpn = none
  bytes    : Claim.PageIs t.mem gpn fun _ => 0
  released : gpn ∉ t.am.released
  injects  : t.am.injects = s.am.injects
  aid      : aid t = aid s
  now      : t.now = s.now
  hub      : t.hub.faq = s.hub.faq ∧ t.hub.faqHold = s.hub.faqHold

theorem dropPage_gone : PageGone s (dropPage s gpn) gpn := by
  have published : MovesNoPage s (publishPage s gpn) := publishPage_movesNoPage
  unfold dropPage
  extract_lets s1 s2 gone
  obtain ⟨am, mem, hub, cycle⟩ : (wakePage (s2.modAm gone) gpn).am = gone s2.am ∧ (wakePage (s2.modAm gone) gpn).mem = s2.mem ∧
      (wakePage (s2.modAm gone) gpn).hub = s1.hub ∧ (wakePage (s2.modAm gone) gpn).cycle = s1.cycle := wakeWhere_leaves
  have am' : (endTransit (wakePage (s2.modAm gone) gpn) gpn).am = (endTransit (s2.modAm gone) gpn).am := by
    simp only [endTransit, State.modAm_am, am]
  have now : (endTransit (wakePage (s2.modAm gone) gpn) gpn).now = s1.now := by
    show (wakePage (s2.modAm gone) gpn).cycle - (wakePage (s2.modAm gone) gpn).hub.pmOffdc = _
    rw [cycle, hub, State.now]
  refine ⟨?_, fun o inside => ?_, ?_, ?_, ?_, now.trans published.now, ?_⟩
  · rw [tagOf, am']
    simp [endTransit, gone]
  · show byteAt (wakePage (s2.modAm gone) gpn).mem _ = 0
    rw [mem]
    exact byteAt_clearRange_in (by omega) (by omega)
  · rw [am']
    simp [endTransit, gone]
  · rw [am']
    exact published.injects
  · rw [aid, show (endTransit (wakePage (s2.modAm gone) gpn) gpn).hub = s1.hub from hub]
    exact published.aid
  · rw [show (endTransit (wakePage (s2.modAm gone) gpn) gpn).hub = s1.hub from hub]
    rw [published.hub]
    exact ⟨rfl, rfl⟩

/-! ## A page is put in a frame -/

theorem tagOf_putTag (page : x.gpn = gpn) (held : x.state = .replica ∨ x.state = .master ∨ x.state = .mirrored) :
    tagOf (putTag s x) gpn = some x :=
  List.find?_cons_of_pos (by simpa [holdsPage, page, or_assoc] using held)

/-- The state with a page in its frame, before the blocks of a compressed frame are written. -/
def framed (s : State) (x : Tag) (data : Memory) : State :=
  putTag { s with mem := putCells (clearRange s.mem (65536 * x.gpn) 65536) (65536 * x.gpn) data } x

theorem fillFrame_framed {data : Memory} : MovesNoPage (framed s x data) (fillFrame s x data) := by
  unfold fillFrame
  extract_lets s1
  split
  · exact movesNoPage_foldl (fun _ _ => writeBlock_movesNoPage) _ _
  · exact .refl

theorem pageIs_framed {data : Memory} (page : x.gpn = gpn) (wf : data.wf = true) : Claim.PageIs (framed s x data).mem gpn (byteAt data) := by
  subst page
  exact fun o inside => byteAt_putCells_cleared wf inside

theorem poisonPage_movesNoPage {c : Cause} : MovesNoPage s (poisonPage s gpn c) := by
  unfold poisonPage
  generalize List.range 512 = lines
  exact ⟨rfl, rfl, rfl, ⟨rfl, rfl⟩, rfl, rfl, sameFrames_refl _⟩

theorem MovesNoPage.ite {p : Prop} [Decidable p] (h : p → MovesNoPage s t) : MovesNoPage s (if p then t else s) := by
  split
  · exact h ‹_›
  · exact .refl

/-- The page's own frame is its place. -/
theorem placeFor_held (here : tagOf s gpn = some x) : placeFor s gpn = .free s x.way := by
  unfold placeFor
  rw [here]

theorem tagOf_modTag {f : Tag → Tag} (keeps : ∀ x, holdsPage gpn x = true → holdsPage gpn (f x) = true) :
    tagOf (modTag s gpn f) gpn = (tagOf s gpn).map f :=
  find?_modFirst keeps s.am.tags

theorem tagOf_modTag_some {f : Tag → Tag} (keeps : ∀ x, holdsPage gpn x = true → holdsPage gpn (f x) = true)
    (here : tagOf s gpn = some x) : tagOf (modTag s gpn f) gpn = some (f x) := by
  rw [tagOf_modTag keeps, here]
  rfl

theorem holdsPage_of_tagOf (here : tagOf s gpn = some x) : holdsPage gpn x = true := List.find?_some here

end Sys2Proof.Proofs
end

section
/-! SUPPORT. Crown moves (R184, R185): what the home, the replicas, the old master and the new one do of a move. -/

namespace Sys2Proof.Proofs

open Sys2Proof Sys2Proof.Machine

variable {s t : State} {m gpn req fle : Nat} {v : Env} {e : DirEntry} {x y : Tag} {has mirr : Bool}

/-! ## Requests at an entry -/

section
variable (entry : Claim.Entry s m gpn e)
include entry

/-- A request whose turn it is meets its entry as it stands, once the lookup has touched it. -/
theorem atEntry_meets {keep : Bool} {lost back : State → State} {go : State → DirEntry → State} :
    ∃ d k e', let t := withDir (if keep then s else dropMsg s m) d k
      dirFind t gpn = some e' ∧ SameEntry e e' ∧
      atEntry s m gpn req mirr keep lost back go = match e.pool with | some p => grantBack (back t) e' req p | none => go t e' := by
  obtain ⟨first, here, tx, mode⟩ := entry
  have found : dirFind (if keep then s else dropMsg s m) gpn = some e := by cases keep <;> exact here
  obtain ⟨d, k, e', touch, still, same⟩ := dirTouch_some found
  refine ⟨d, k, e', still, same, ?_⟩
  have calm : entryBusy e' = false := by
    rw [same]
    rcases mode with mode | mode <;> simp [entryBusy, tx, mode]
  have live : e'.mode ≠ .lost := by
    rw [same]
    rcases mode with mode | mode <;> simp [mode]
  have pool : e'.pool = e.pool := by rw [same]
  simp only [atEntry, first, here, touch, still, calm, live, pool]
  cases e.pool <;> rfl

theorem atEntry_crowned {lost back : State → State} {go : State → DirEntry → State} (pool : e.pool = none) :
    ∃ d k e', dirFind (withDir (dropMsg s m) d k) gpn = some e' ∧ SameEntry e e' ∧
      atEntry s m gpn req mirr false lost back go = go (withDir (dropMsg s m) d k) e' := by
  obtain ⟨d, k, e', here, same, meets⟩ := atEntry_meets (req := req) (mirr := mirr) (keep := false) (lost := lost) (back := back) (go := go) entry
  rw [pool] at meets
  exact ⟨d, k, e', here, same, meets⟩

end

/-! ## The home's transaction (R184) -/

/-- The entry while its crown moves. -/
def moveTx (s : State) (e : DirEntry) (req : Nat) : DirTx :=
  { req := req, acks := (replicaHolders s e req).length + 1, floor := 0, since := s.now, old := e.crown }

theorem openCrown_moves (other : e.crown ≠ req) (plain : e.mirror = none) : openCrown s e req has fle =
    { dirMod s e.gpn fun x => { x with tx := some (moveTx s e req) } with
      net := s.net ++ ((replicaHolders s e req).map (fun h => (h, Msg.inval e.gpn)) ++
        [(e.crown, Msg.release e.gpn req (has && recorded e req))]).map fun x => { src := aid s, dst := x.1, msg := x.2, at_ := s.now } } := by
  have moves : (e.crown != req) = true := bne_iff_ne.mpr other
  have keeps : (e.mirror == some req || (has && recorded e req)) = (has && recorded e req) := by rw [plain]; rfl
  unfold openCrown
  simp only [moves, if_true, foldl_send, keeps]
  simp only [send, List.map_append, List.map_map, List.append_assoc]
  rfl

theorem crownTransaction_asks (at_ : msgAt s m = some v) (msg : v.msg = .crownReq gpn req has mirr fle) (entry : Claim.Entry s m gpn e)
    (sent : mirrorSent s gpn = false) (pool : e.pool = none) (other : e.crown ≠ req) (plain : e.mirror = none) :
    ∃ t e2 tx, exec (.crownTransaction m) s = .next t ∧ dirFind t gpn = some e2 ∧ e2.tx = some tx ∧ tx.req = req ∧
      tx.acks = (replicaHolders s e req).length + 1 ∧ tx.old = e.crown ∧ e2.crown = e.crown ∧
      t.net = Claim.replied s m ((replicaHolders s e req).map (fun h => (h, .inval gpn)) ++
        [(e.crown, .release gpn req (has && recorded e req))]) := by
  obtain ⟨d, k, e', here, same, meets⟩ := atEntry_crowned (req := req) (mirr := mirr) (lost := lostAt gpn req) (back := id)
    (go := fun s e => openCrown s e req has fle) entry pool
  have page : e'.gpn = gpn := gpn_of_dirFind here
  have runs : exec (.crownTransaction m) s = .next (openCrown (withDir (dropMsg s m) d k) e' req has fle) := by
    rw [← meets]
    show execCrownTransaction m s = _
    simp only [execCrownTransaction, at_, msg, crownTransaction, sent]
    rfl
  rw [same] at runs page
  rw [openCrown_moves (e := { e with spill := e'.spill }) other plain, page] at runs
  refine ⟨_, _, _, runs, dirFind_dirMod_some (fun _ => rfl) here, rfl, rfl, rfl, rfl, ?_, rfl⟩
  rw [same]

/-- The end of a move: the entry names its crown and no replica, and the requester and the old master are told. -/
theorem finishCrown_ends {e' : DirEntry} {tx : DirTx} (here : dirFind s e.gpn = some e') (plain : e.mirror = none) :
    ∃ e2, dirFind (finishCrown s e tx) e.gpn = some e2 ∧ e2.crown = tx.req ∧ e2.tx = none ∧ e2.reps = [] ∧ e2.floor = tx.floor ∧
      (finishCrown s e tx).net = s.net ++ ((tx.req, Msg.complete e.gpn tx.floor tx.req none) ::
        if tx.old = tx.req then [] else [(tx.old, Msg.complete e.gpn tx.floor tx.req none)]).map
          fun x => { src := aid s, dst := x.1, msg := x.2, at_ := s.now } := by
  have mirror : (if e.mirror = some tx.req then some tx.old else e.mirror) = none := by rw [plain]; rfl
  unfold finishCrown
  rw [mirror]
  dsimp only
  split
  · exact ⟨_, dirFind_dirMod_some (fun _ => rfl) here, rfl, rfl, rfl, rfl, rfl⟩
  · refine ⟨_, dirFind_dirMod_some (fun _ => rfl) here, rfl, rfl, rfl, rfl, ?_⟩
    simp only [send, List.append_assoc]
    rfl

/-- A master that asks, with no other copy, has the move ended at once. -/
theorem crownTransaction_ends (at_ : msgAt s m = some v) (msg : v.msg = .crownReq gpn e.crown has mirr fle) (entry : Claim.Entry s m gpn e)
    (sent : mirrorSent s gpn = false) (pool : e.pool = none) (plain : e.mirror = none) (alone : replicaHolders s e e.crown = []) :
    ∃ t e2, exec (.crownTransaction m) s = .next t ∧ dirFind t gpn = some e2 ∧ e2.crown = e.crown ∧ e2.tx = none ∧ e2.reps = [] ∧
      e2.floor = fle ∧ t.net = Claim.replied s m [(e.crown, .complete gpn fle e.crown none)] := by
  obtain ⟨d, k, e', here, same, meets⟩ := atEntry_crowned (req := e.crown) (mirr := mirr) (lost := lostAt gpn e.crown) (back := id)
    (go := fun s x => openCrown s x e.crown has fle) entry pool
  obtain rfl : e.gpn = gpn := gpn_of_dirFind entry.here
  let tx : DirTx := { req := e.crown, acks := 0, floor := fle, since := s.now, old := e.crown }
  let s' := dirMod (withDir (dropMsg s m) d k) e.gpn fun x => { x with tx := some tx }
  have found : dirFind s' e.gpn = some { e' with tx := some tx } := dirFind_dirMod_some (fun _ => rfl) here
  have none_ : replicaHolders (withDir (dropMsg s m) d k) { e with spill := e'.spill } e.crown = [] := alone
  have opened : openCrown (withDir (dropMsg s m) d k) { e with spill := e'.spill } e.crown has fle =
      finishCrown s' { e with spill := e'.spill } tx := by
    unfold openCrown
    simp only [none_, bne_self_eq_false]
    rfl
  have runs : exec (.crownTransaction m) s = .next (finishCrown s' { e with spill := e'.spill } tx) := by
    rw [← opened, ← same, ← meets]
    show execCrownTransaction m s = _
    simp only [execCrownTransaction, at_, msg, crownTransaction, sent]
    rfl
  obtain ⟨e2, ended, crown, done, reps, floor, net⟩ := finishCrown_ends (e := { e with spill := e'.spill }) (tx := tx) found plain
  rw [if_pos rfl] at net
  exact ⟨_, e2, runs, ended, crown, done, reps, floor, net⟩

/-- The last answer ends the move. -/
theorem invalidationAck_ends {holder : Nat} {tx : DirTx} (at_ : msgAt s m = some v) (msg : v.msg = .invalAck gpn holder (some fle))
    (here : dirFind s gpn = some e) (moving : e.tx = some tx) (last : tx.acks = 1) (other : tx.old ≠ tx.req) (plain : e.mirror = none) :
    ∃ t e2, exec (.invalidationAck m) s = .next t ∧ dirFind t gpn = some e2 ∧ e2.crown = tx.req ∧ e2.tx = none ∧ e2.reps = [] ∧
      e2.floor = max tx.floor fle ∧ t.net = Claim.replied s m
        [(tx.req, .complete gpn (max tx.floor fle) tx.req none), (tx.old, .complete gpn (max tx.floor fle) tx.req none)] := by
  have page := gpn_of_dirFind here
  subst page
  let tx' : DirTx := { tx with acks := 0, floor := max tx.floor fle }
  let e' : DirEntry := { e with tx := some tx', reps := e.reps.filter (· != holder) }
  let s' := dirMod (dropMsg s m) e.gpn fun _ => e'
  have found : dirFind s' e.gpn = some e' := 
    (find?_modFirst (by simp [e']) _).trans (congrArg (Option.map fun _ => e') here)
  have runs : exec (.invalidationAck m) s = .next (finishCrown s' e' tx') := by
    have known : dirFind (dropMsg s m) e.gpn = some e := here
    show execInvalidationAck m s = _
    simp only [execInvalidationAck, at_, msg, invalAck, known, moving, last, Option.isNone_some, Bool.and_false]
    rfl
  obtain ⟨e2, ended, crown, done, reps, floor, net⟩ := finishCrown_ends (e := e') (tx := tx') found plain
  rw [if_neg other] at net
  exact ⟨_, e2, runs, ended, crown, done, reps, floor, net⟩

/-! ## Replicas and the old master -/

theorem invalidation_drops (at_ : msgAt s m = some v) (msg : v.msg = .inval gpn) (free : pageMarkers s gpn = [])
    (here : tagOf s gpn = some y) (replica : y.state = .replica) (settled : y.transit = false) :
    ∃ t fle, exec (.invalidation m) s = .next t ∧ tagOf t gpn = none ∧ Claim.PageIs t.mem gpn (fun _ => 0) ∧ y.fle ≤ fle ∧
      ({ src := aid s, dst := v.src, msg := .invalAck gpn (aid s) (some fle), at_ := s.now } : Env) ∈ t.net := by
  have published : MovesNoPage (dropMsg (unholdMsg s gpn v) m) (publishPage (dropMsg (unholdMsg s gpn v) m) gpn) := publishPage_movesNoPage
  have gone := dropPage_gone (s := publishPage (dropMsg (unholdMsg s gpn v) m) gpn) (gpn := gpn)
  generalize hp : publishPage (dropMsg (unholdMsg s gpn v) m) gpn = p at published gone
  obtain ⟨z, there, same⟩ := published.tagOf_some (show tagOf (dropMsg (unholdMsg s gpn v) m) gpn = some y from here)
  have runs : exec (.invalidation m) s = .next (send (dropPage p gpn) v.src (.invalAck gpn (aid p) (some (pageTimes p gpn).2))) := by
    show execInvalidation m s = _
    simp only [execInvalidation, at_, msg, invalidate, free, here, replica, settled, hp]
    rfl
  have aid_ : aid p = aid s := published.aid
  have now_ : (dropPage p gpn).now = s.now := gone.now.trans published.now
  refine ⟨_, _, runs, gone.tag, gone.bytes, same.fle.trans (pageTimes_fle_le there), List.mem_append_right _ (List.mem_singleton.mpr ?_)⟩
  rw [gone.aid, aid_, now_]

/-- The master lets the crown go: the requester has the grant, with the page unless it holds a replica, the home the lease end. -/
theorem letGo_grants {home : Nat} {replica : Bool} (here : tagOf s gpn = some y) :
    ∃ fle fwt bad, gpn ∈ (letGo s gpn req home replica).am.released ∧ Claim.SameMemory s (letGo s gpn req home replica) ∧ y.fle ≤ fle ∧
      (letGo s gpn req home replica).net = s.net ++ [Claim.mail s req (.grant gpn fle (if replica then none else some (pageCells s gpn)) fwt bad),
        Claim.mail s home (.invalAck gpn (aid s) (some fle))] := by
  have published : MovesNoPage s (publishPage s gpn) := publishPage_movesNoPage
  unfold letGo
  generalize publishPage s gpn = p at published
  obtain ⟨z, there, same⟩ := published.tagOf_some here
  refine ⟨(pageTimes p gpn).2, (pageTimes p gpn).1, pagePoisoned p gpn, List.mem_cons_self, published.sameMemory,
    same.fle.trans (pageTimes_fle_le there), ?_⟩
  show (p.net ++ [Claim.mail p req (.grant gpn _ (if replica then none else some (pageCells p gpn)) _ _)]) ++
    [Claim.mail p home (.invalAck gpn (aid p) _)] = _
  simp only [Claim.mail, published.net, published.aid, published.now, published.pageCells, List.append_assoc]
  rfl

theorem crownRelease_grants {replica : Bool} (at_ : msgAt s m = some v) (msg : v.msg = .release gpn req replica)
    (crown : crownHere s gpn = true) (open_ : spaceOpen s gpn req = true) (here : tagOf s gpn = some y) (settled : y.transit = false)
    (unpinned : pinHeld s gpn = false) (kept : crownHeld s gpn = false) (unqueued : queuedPage s gpn = false)
    (unmirrored : mirrorBusy s gpn = false) (unmarked : pageMarkers s gpn = []) :
    ∃ t fle fwt bad, exec (.crownRelease m) s = .next t ∧ gpn ∈ t.am.released ∧ Claim.SameMemory s t ∧ y.fle ≤ fle ∧
      t.net = Claim.replied s m [(req, .grant gpn fle (if replica then none else some (pageCells s gpn)) fwt bad),
        (homeAid s gpn, .invalAck gpn (aid s) (some fle))] := by
  have still : ((tagOf s gpn).any fun t => t.transit) = false := by
    rw [here]
    exact settled
  have runs : exec (.crownRelease m) s = .next (letGo (dropMsg (unholdMsg s gpn v) m) gpn req (homeAid s gpn) replica) := by
    show execCrownRelease m s = _
    simp only [execCrownRelease, at_, msg, crownRelease, crown, open_, still, unpinned, kept, unqueued, unmirrored, unmarked]
    simp
  obtain ⟨fle, fwt, bad, facts⟩ := letGo_grants (req := req) (home := homeAid s gpn) (replica := replica)
    (show tagOf (dropMsg (unholdMsg s gpn v) m) gpn = some y from here)
  exact ⟨_, fle, fwt, bad, runs, facts⟩

/-! ## The new master (R184, R185) -/

/-- The tag of a granted page in the frame `y` that it has here: a master in TRANSIT, with the times of both copies. -/
def grantTag (s : State) (gpn fle fwt : Nat) (data : Option Memory) (comp : Bool) (y : Tag) : Tag :=
  { newTag s (setIndex gpn) y.way gpn .master comp true false fwt fle with
    heat := (decay (epochOf s) y).heat, comp := if data.isNone then y.comp else comp, fwt := max fwt y.fwt, fle := max fle y.fle }

/-- The page stands in its frame, as it was or as the grant brought it. -/
def grantFrame (s : State) (x : Tag) (data : Option Memory) (bad : Bool) : State :=
  let t := match data with | some d => fillFrame s x d | none => putTag s x
  if bad ∧ data.isSome then poisonPage t x.gpn Tc.amRemotePoison else t

/-- The frame's tag stands; a page that came has its bytes there, and without one no byte has changed. -/
theorem grantFrame_stands {data : Option Memory} {bad : Bool} (page : x.gpn = gpn) (master : x.state = .master) :
    ∃ z, tagOf (grantFrame s x data bad) gpn = some z ∧ SameFrame x z ∧ (grantFrame s x data bad).net = s.net ∧
      (grantFrame s x data bad).am.crowns = s.am.crowns ∧ (data = none → (grantFrame s x data bad).mem = s.mem) ∧
      ∀ d : Memory, data = some d → d.wf = true → Claim.PageIs (grantFrame s x data bad).mem gpn (byteAt d) := by
  cases data with
  | none =>
    have moves : MovesNoPage (putTag s x) (grantFrame s x none bad) := .ite fun _ => poisonPage_movesNoPage
    obtain ⟨z, there, same⟩ := moves.tagOf_some (tagOf_putTag page (.inr (.inl master)))
    exact ⟨z, there, same, moves.net, moves.crowns, fun _ => moves.mem, fun _ h => by cases h⟩
  | some d =>
    have moves : MovesNoPage (framed s x d) (grantFrame s x (some d) bad) := fillFrame_framed.trans (.ite fun _ => poisonPage_movesNoPage)
    obtain ⟨z, there, same⟩ := moves.tagOf_some (tagOf_putTag page (.inr (.inl master)))
    refine ⟨z, there, same, moves.net, moves.crowns, nofun, ?_⟩
    rintro _ ⟨⟩ wf
    rw [moves.mem]
    exact pageIs_framed page wf

/-- The grant that a waiting request takes: the page's frame becomes a master in TRANSIT. -/
theorem crownGrant_takes {fwt : Nat} {data : Option Memory} {bad : Bool} {r : CrownReq} (at_ : msgAt s m = some v)
    (msg : v.msg = .grant gpn fle data fwt bad) (open_ : spaceOpen s gpn v.src = true) (asked : s.am.crowns = [r]) (page : r.gpn = gpn)
    (waits : r.granted = false) (here : tagOf s gpn = some y) :
    ∃ t z, exec (.crownGrant m) s = .next t ∧ tagOf t gpn = some z ∧ z.state = .master ∧ z.transit = true ∧
      t.am.crowns = [{ r with granted := true, floor := max r.floor fle, pick := none }] ∧ t.net = s.net.eraseIdx m ∧
      (data = none → Claim.SameMemory s t) ∧ (∀ d : Memory, data = some d → d.wf = true → Claim.PageIs t.mem gpn (byteAt d)) := by
  have waiting : (r.gpn == gpn && !r.effective) = true := by simp [page, CrownReq.effective, waits]
  have with_ : withCrown s gpn = s := if_pos (by rw [asked]; simpa using waiting)
  have found : (s.am.crowns.find? fun r => r.gpn == gpn && !r.effective) = some r := by rw [asked]; simp [waiting]
  have runs : exec (.crownGrant m) s = .next (modCrown (dropMsg (grantFrame s (grantTag s gpn fle fwt data r.comp y) data bad) m) gpn fun r =>
      { r with granted := true, floor := max r.floor fle, pick := none }) := by
    show execCrownGrant m s = _
    simp only [execCrownGrant, at_, msg, open_, crownGrant, with_, found, placeFor_held here, here, if_true]
    cases data <;> rfl
  obtain ⟨z, there, same, net, crowns, noData, someData⟩ := grantFrame_stands (s := s) (x := grantTag s gpn fle fwt data r.comp y) (gpn := gpn)
    (data := data) (bad := bad) rfl rfl
  refine ⟨_, z, runs, there, same.state, same.transit, ?_, congrArg (·.eraseIdx m) net, fun h a => congrArg (byteAt · a) (noData h), someData⟩
  show modFirst _ _ (grantFrame s _ data bad).am.crowns = _
  rw [crowns, asked]
  simp [modFirst, waiting]

/-- A crown whose grant and completion are both here is effective: its frame is out of TRANSIT, with no replica known. -/
theorem settleCrown_settles {floor : Nat} {mirror : Option Nat} (here : tagOf s gpn = some y) :
    ∃ z, tagOf (settleCrown s gpn floor mirror) gpn = some z ∧ z.state = (if mirror.isSome then .mirrored else .master) ∧
      z.transit = false ∧ z.shared = false ∧ floor ≤ z.fle := by
  have page := holdsPage_of_tagOf here
  simp only [holdsPage, Bool.and_eq_true] at page
  have settled : ∀ x, holdsPage gpn x = true → holdsPage gpn { decay (epochOf s) x with
      state := if mirror.isSome then .mirrored else .master, transit := false, shared := false, pin := pinnedHere s gpn } = true := by
    intro x hx
    simp only [holdsPage, Bool.and_eq_true] at hx
    cases mirror <;> simpa [holdsPage, decay] using hx.1
  have raised : ∀ x, holdsPage gpn x = true → holdsPage gpn { x with fle := max x.fle floor } = true := fun _ h => h
  exact ⟨_, tagOf_modTag_some raised (tagOf_modTag_some settled here), rfl, rfl, rfl, le_max_right _ _⟩

theorem crownCompletion_settles {floor : Nat} {mirror : Option Nat} {r : CrownReq} (at_ : msgAt s m = some v)
    (msg : v.msg = .complete gpn floor (aid s) mirror) (asked : s.am.crowns = [r]) (page : r.gpn = gpn) (granted : r.granted = true)
    (waits : r.done = false) (idle : s.am.climbs = []) (here : tagOf s gpn = some y) (crown : crowned y = true) :
    ∃ t z, exec (.crownCompletion m) s = .next t ∧ tagOf t gpn = some z ∧ z.state = (if mirror.isSome then .mirrored else .master) ∧
      z.transit = false ∧ z.shared = false ∧ max r.floor floor ≤ z.fle ∧ (t.am.crowns.all fun x => x.granted && x.done) = true := by
  have waiting : (r.gpn == gpn && !r.effective) = true := by simp [page, CrownReq.effective, waits]
  have with_ : withCrown s gpn = s := if_pos (by rw [asked]; simpa using waiting)
  have found : (s.am.crowns.find? fun r => r.gpn == gpn && !r.effective) = some r := by rw [asked]; simp [waiting]
  have serves : serveClimbs (settleCrown (dropMsg s m) gpn (max r.floor floor) mirror) gpn =
      settleCrown (dropMsg s m) gpn (max r.floor floor) mirror := by
    show (s.am.climbs.filter _).foldl _ _ = _
    rw [idle]
    rfl
  have runs : exec (.crownCompletion m) s = .next (settleCrown (dropMsg s m) gpn (max r.floor floor) mirror) := by
    rw [← serves]
    show execCrownCompletion m s = _
    simp [execCrownCompletion, at_, msg, with_, found, granted, here, crown]
  obtain ⟨z, facts⟩ := settleCrown_settles (s := dropMsg s m) (floor := max r.floor floor) (mirror := mirror) here
  obtain ⟨there, state, transit, shared, times⟩ := facts
  refine ⟨_, z, runs, there, state, transit, shared, times, ?_⟩
  show (s.am.crowns.map _).all _ = true
  rw [asked]
  simp [page]

theorem crownCompletion_frees {floor crown : Nat} {mirror : Option Nat} (at_ : msgAt s m = some v)
    (msg : v.msg = .complete gpn floor crown mirror) (away : crown ≠ aid s) (other : mirror ≠ some (aid s)) :
    ∃ t, exec (.crownCompletion m) s = .next t ∧ tagOf t gpn = none ∧ gpn ∉ t.am.released ∧ Claim.PageIs t.mem gpn (fun _ => 0) := by
  have other' : mirror ≠ some (aid (dropMsg s m)) := other
  have runs : exec (.crownCompletion m) s = .next (dropPage (dropMsg s m) gpn) := by
    show execCrownCompletion m s = _
    simp only [execCrownCompletion, at_, msg, ne_eq, away, not_false_eq_true, if_true, crownGone, other', if_false]
  have gone := dropPage_gone (s := dropMsg s m) (gpn := gpn)
  exact ⟨_, runs, gone.tag, gone.released, gone.bytes⟩

/-- A crown that has been kept for 4096 dc may go (R185). -/
theorem crownHoldExpire_ends {r : CrownReq} (asked : s.am.crowns = [r]) (page : r.gpn = gpn) (granted : r.granted = true)
    (done : r.done = true) (old : r.since + 4096 ≤ s.now) : ∃ t, exec (.crownHoldExpire gpn) s = .next t ∧ t.am.crowns = [] := by
  have free : crownHeld s gpn = false := by
    rw [crownHeld, asked]
    simp [Nat.not_lt.mpr old]
  have runs : exec (.crownHoldExpire gpn) s = .next (s.modAm fun a => { a with crowns := a.crowns.filter fun r => r.gpn != gpn || !r.effective }) := by
    show execCrownHoldExpire gpn s = _
    simp [execCrownHoldExpire, free]
  refine ⟨_, runs, ?_⟩
  show s.am.crowns.filter _ = []
  rw [asked]
  simp [page, CrownReq.effective, granted, done]

/-- Settles O36: the home opens and ends the move on its entry, whatever the lookup did to it (`atEntry_crowned`); a page that leaves is
`dropPage`, and a page's times only grow on its way (`MovesNoPage`), so that the floor covers them. -/
theorem crownMoves : Obligations.CrownMoves := by
  intro s m v gpn at_
  refine ⟨?_, ?_, ?_, ?_, ?_, ?_, ?_, ?_, ?_⟩
  · intro req has mirr fle e msg entry sent pool other plain
    exact crownTransaction_asks at_ msg entry sent pool other plain
  · intro has mirr fle e msg entry sent pool plain alone
    exact crownTransaction_ends at_ msg entry sent pool plain alone
  · intro y msg free here replica settled
    exact invalidation_drops at_ msg free here replica settled
  · intro holder fle e tx msg here moving last other plain
    exact invalidationAck_ends at_ msg here moving last other plain
  · intro req replica y msg crown open_ here settled unpinned kept unqueued unmirrored unmarked
    exact crownRelease_grants at_ msg crown open_ here settled unpinned kept unqueued unmirrored unmarked
  · intro fle fwt data bad y r msg open_ asked page waits _ here
    exact crownGrant_takes at_ msg open_ asked page waits here
  · intro floor mirror y r msg asked page granted waits idle here crown
    exact crownCompletion_settles at_ msg asked page granted waits idle here crown
  · intro floor crown mirror msg away other
    exact crownCompletion_frees at_ msg away other
  · intro r asked page granted done old
    exact crownHoldExpire_ends asked page granted done old

end Sys2Proof.Proofs
end

section
/-! SUPPORT. The AM ring (R198): a ring whose last record lies past the end of host memory. -/

namespace Sys2Proof.Proofs

open Sys2Proof Sys2Proof.Machine

/-- A package of a pod of three, with an AM ring of 4096 records in the last page of host memory and its last record due: `Claim.AmReady` takes
the record's address to be 0xFFFFFFFFFFFFF000 + 32 · 4095, which is past 2^64, in a page whose home is another package. -/
def ringPastTop : State := State.reset.modHub fun h =>
  { h with amqBase := 0xFFFFFFFFFFFFF000#64, amqSize := 4096, amqHead := 4095, amqTail := 0, podId := w64 (3 * 1024) }

theorem ringPastTop_ready : Claim.AmReady ringPastTop 4096 4095 (0xFFFFFFFFFFFFF000 + 32 * 4095) 0 0 0 where
  due   := by decide +kernel
  base  := by decide +kernel
  holds := by decide +kernel
  quiet := by decide +kernel

/-- The read of the record waits for its page, and HEAD stays. -/
theorem ringPastTop_waits : ∀ t, exec .amQuery ringPastTop = .next t → t.hub.amqHead.toNat = 4095 := by
  have head : (match exec .amQuery ringPastTop with | .next t => t.hub.amqHead.toNat | _ => 4095) = 4095 := by decide +kernel
  intro t runs
  rw [runs] at head
  exact head

/-- Refutes O38: `AmReady` asks only that the ring's base is in host memory. With the base in its last page a record of a longer ring is not;
the command then waits for a page, where the statement has it completed (an unknown opcode with status 2). -/
theorem not_amCommands : ¬ Obligations.AmCommands := by
  intro commands
  obtain ⟨_, _, unknown, _⟩ := commands.2 ringPastTop 4096 4095 _ 0 0 0 ringPastTop_ready
  obtain ⟨t, runs, ended⟩ := unknown (.inl rfl)
  have wrapped : t.hub.amqHead.toNat = 0 := ended.head_
  have stayed := ringPastTop_waits t runs
  omega

end Sys2Proof.Proofs
end

section
/-! SUPPORT. A climb in its own package (R181 to R183, R191) and the home of a page (R177 to R180, R182). -/

namespace Sys2Proof.Proofs

open Sys2Proof Sys2Proof.Machine

variable {s s1 t : State} {c m w gpn req : Nat} {k : Climb} {v : Env} {e : DirEntry}

/-! ## The local step of a climb -/

theorem climbAt_modClimb {f : Climb → Climb} (keeps : ∀ k, (f k).id = k.id) (climbs : s1.am.climbs = s.am.climbs) (here : climbAt s c = some k) :
    climbAt (modClimb s1 c f) c = some (f k) := by
  have found : s1.am.climbs.find? (fun k => k.id == c) = some k := by
    rw [climbs]
    exact here
  refine (find?_modFirst (fun k hk => ?_) s1.am.climbs).trans (by rw [found]; rfl)
  rw [keeps]
  exact hk

theorem id_of_climbAt (here : climbAt s c = some k) : k.id = c := by
  simpa using List.find?_some here

theorem servePrefs_none {ws : List Issuer} (none_ : ∀ w ∈ ws, ∀ core cx va sc, w ≠ .pref core cx va sc) : servePrefs s ws = s := by
  refine List.foldlRecOn (motive := (· = s)) ws _ rfl fun t same w hw => ?_
  cases w with
  | pref core cx va sc => exact absurd rfl (none_ _ hw core cx va sc)
  | _ => exact same

theorem tagLookup_serves (here : climbAt s c = some k) (stage : k.stage = .amc) (held : readableHere s k.gpn = true)
    (calm : ∀ w ∈ k.who, ∀ core cx va sc, w ≠ .pref core cx va sc) :
    ∃ t, exec (.amcTagLookup c) s = .next t ∧ climbAt t c = none ∧ inL2 t k.line = true ∧ Claim.SameMemory s t := by
  have decayed : MovesNoPage s (decaySet s (setIndex k.gpn)) := decaySet_movesNoPage
  have brought : MovesNoPage (dropClimb (decaySet s (setIndex k.gpn)) k.id) _ := bringLine_movesNoPage (line := k.line) (hs := k.hs)
  have runs : exec (.amcTagLookup c) s = .next (bringLine (dropClimb (decaySet s (setIndex k.gpn)) k.id) k.line k.hs) := by
    show execAmcTagLookup c s = _
    simp only [execAmcTagLookup, here, stage, if_true, tagLookup, decayed.readableHere, held, servePrefs_none calm]
  refine ⟨_, runs, ?_, inL2_bringLine, brought.sameMemory⟩
  rw [climbAt, brought.climbs, id_of_climbAt here]
  simp [dropClimb]

/-- A page that is not held, nor coming, is climbed for. -/
theorem tagLookup_climbs (here : climbAt s c = some k) (stage : k.stage = .amc) (away : readableHere s k.gpn = false)
    (none_ : tagOf s k.gpn = none) (first : firstComing s k.gpn = false) (alone : climbFor s k.gpn = none) :
    exec (.amcTagLookup c) s = .next (climbWay (decaySet s (setIndex k.gpn)) k) := by
  have decayed : MovesNoPage s (decaySet s (setIndex k.gpn)) := decaySet_movesNoPage
  have alone' : climbFor (decaySet s (setIndex k.gpn)) k.gpn = none := alone
  have first' : firstComing (decaySet s (setIndex k.gpn)) k.gpn = false := first
  have away' : readableHere (decaySet s (setIndex k.gpn)) k.gpn = false := decayed.readableHere.trans away
  show execAmcTagLookup c s = _
  simp only [execAmcTagLookup, here, stage, if_true, tagLookup, away', alone', decayed.tagOf_none none_, first', Option.isSome_none,
    Bool.or_false, Bool.false_eq_true, if_false]

theorem climbWay_takes (here : climbAt s c = some k) (way : wayFor s k.gpn = .free s1 w) (climbs : s1.am.climbs = s.am.climbs) :
    ∃ d y, climbAt (climbWay s k) c = some d ∧ d.stage = .hint ∧ d.way = w ∧ tagOf (climbWay s k) k.gpn = some y ∧ y.transit = true ∧
      y.state = .replica ∧ y.way = w := by
  have taken : climbWay s k = modClimb (putTag s1 (newTag s1 (setIndex k.gpn) w k.gpn .replica k.comp true false 0 0)) c
      fun d => { d with stage := .hint, set := setIndex d.gpn, way := w, since := s1.now, pick := none } := by
    simp only [climbWay, way, id_of_climbAt here]
    rfl
  rw [taken]
  exact ⟨_, _, climbAt_modClimb (s1 := putTag s1 _) (fun _ => rfl) climbs here, rfl, rfl, tagOf_putTag rfl (.inl rfl), rfl, rfl, rfl⟩

theorem climbWay_picks (here : climbAt s c = some k) (way : wayFor s k.gpn = .pick s1 w) (climbs : s1.am.climbs = s.am.climbs) :
    ∃ d, climbAt (climbWay s k) c = some d ∧ d.stage = .hint ∧ d.way = w ∧ d.pick = some w := by
  have picked : climbWay s k = modClimb s1 c
      fun d => { d with stage := .hint, set := setIndex d.gpn, way := w, since := s1.now, pick := some w } := by
    simp only [climbWay, way, id_of_climbAt here]
  rw [picked]
  exact ⟨_, climbAt_modClimb (fun _ => rfl) climbs here, rfl, rfl, rfl⟩

/-! ## The hub's step (R182) -/

theorem hintLookup_reads {h : Nat} (here : climbAt s c = some k) (stage : k.stage = .hint) (hint : hintOf s k.gpn = some h)
    (other : h ≠ aid s) (live : h ∉ s.am.lost) :
    ∃ t d, exec (.hintLookup c) s = .next t ∧ climbAt t c = some d ∧ d.stage = .hinted ∧ t.net = s.net ++
      [{ src := aid s, dst := h, msg := .read k.gpn (aid s) true k.pin, at_ := s.now },
       { src := aid s, dst := homeAid s k.gpn, msg := .register k.gpn (aid s) h k.mirr k.pin, at_ := s.now }] := by
  let asked := send (hintPut s k.gpn h) h (.read k.gpn (aid s) true k.pin)
  have home : homeAid asked k.gpn = homeAid s k.gpn := homeAid_of_same rfl rfl rfl
  have usable : (hintOf s k.gpn).filter (fun h => h != aid s && !s.am.lost.contains h) = some h := by
    rw [hint, Option.filter_some]
    simp [other, live]
  have runs : exec (.hintLookup c) s = .next (modClimb (send asked (homeAid s k.gpn) (.register k.gpn (aid s) h k.mirr k.pin)) c
      fun d => { d with stage := .hinted, since := s.now }) := by
    show execHintLookup c s = _
    simp only [execHintLookup, here, stage, if_true, hintLookup, usable, id_of_climbAt here, ← home]
    rfl
  exact ⟨_, _, runs, climbAt_modClimb (s := s) (fun _ => rfl) rfl here, rfl, List.append_assoc ..⟩

theorem hintLookup_asks (here : climbAt s c = some k) (stage : k.stage = .hint)
    (none_ : ∀ h, hintOf s k.gpn = some h → h = aid s ∨ h ∈ s.am.lost) :
    ∃ t d, exec (.hintLookup c) s = .next t ∧ climbAt t c = some d ∧ d.stage = .sent ∧ t.net = s.net ++
      [{ src := aid s, dst := homeAid s k.gpn, msg := .homeRead k.gpn (aid s) none k.mirr k.pin, at_ := s.now }] := by
  have useless : (hintOf s k.gpn).filter (fun h => h != aid s && !s.am.lost.contains h) = none := by
    rw [Option.filter_eq_none_iff]
    intro h hint
    rcases none_ h hint with rfl | lost
    · simp
    · simp [lost]
  have runs : exec (.hintLookup c) s = .next (askHome s k none) := by
    show execHintLookup c s = _
    simp only [execHintLookup, here, stage, if_true, hintLookup, useless]
  rw [askHome, id_of_climbAt here] at runs
  exact ⟨_, _, runs, climbAt_modClimb (s := s) (fun _ => rfl) rfl here, rfl, rfl⟩

/-- R191. -/
theorem tagScrub_halves (s : State) (set : Nat) :
    exec (.tagScrub set) s = .next (if s.cycle % 2 ^ 25 = 64 * (set % 2 + 2 * (set / 8 % 16) + 32 * (set / 256)) then
      { s with am := { s.am with tags := s.am.tags.map fun t =>
        if t.set = set then { t with heat := t.heat >>> ((epochOf s + 16 - t.epoch.toNat) % 16), epoch := BitVec.ofNat 4 (epochOf s) }
        else t } } else s) := by
  show Host.Outcome.next (if (s.cycle % 2 ^ 25 == 64 * scrubIndex set) = true then decaySet s set else s) = _
  simp only [beq_iff_eq]
  rfl

theorem climbLocalSteps : Claim.ClimbLocalSteps := by
  intro s c k here
  refine ⟨?_, ?_, ?_, ?_, ?_, tagScrub_halves s⟩
  · intro stage held calm
    exact tagLookup_serves here stage held calm
  · intro s1 w stage away none_ first alone way climbs
    obtain ⟨d, y, facts⟩ := climbWay_takes (s := decaySet s (setIndex k.gpn)) here way climbs
    exact ⟨_, d, y, tagLookup_climbs here stage away none_ first alone, facts⟩
  · intro s1 w stage away none_ first alone way climbs
    obtain ⟨d, facts⟩ := climbWay_picks (s := decaySet s (setIndex k.gpn)) here way climbs
    exact ⟨_, d, tagLookup_climbs here stage away none_ first alone, facts⟩
  · intro h stage hint other live
    exact hintLookup_reads here stage hint other live
  · intro stage none_
    exact hintLookup_asks here stage none_

/-! ## The home: a first touch (R178, R179) -/

/-- A first touch makes the entry of its page. -/
theorem homeFirst_makes (room : (storeOf s (storeSet gpn)).length < 16) :
    ∃ t, homeFirst s gpn req false = some t ∧ dirFind t gpn = some (newEntry gpn req) ∧ aid t = aid s ∧ t.now = s.now ∧
      t.net = s.net ++ [Claim.mail s req (.page gpn [] 0 0 1024 false true false)] := by
  have added := dirAdd_room (s := bumpStat s 1) (e := newEntry gpn req) room
  refine ⟨send ((bumpStat s 1).modAm fun a => { a with dir := newEntry gpn req :: a.dir }) req (firstPage gpn noAid), ?_,
    List.find?_cons_of_pos (by simp [newEntry]), rfl, rfl, rfl⟩
  simp only [homeFirst, Bool.false_eq_true, if_false, added, Option.map_some]

section
variable (fresh : Claim.Fresh s m gpn)
include fresh

theorem directoryLookup_first {nh : Option Nat} {pin : Bool} (at_ : msgAt s m = some v) (msg : v.msg = .homeRead gpn req nh false pin) :
    ∃ t, exec (.directoryLookup m) s = .next t ∧ dirFind t gpn = some (newEntry gpn req) ∧
      t.net = Claim.replied s m [(req, .page gpn [] 0 0 1024 false true false)] := by
  obtain ⟨first, ⟨calm, reported⟩, away, room⟩ := fresh
  obtain ⟨t, made, found, -, -, net⟩ := homeFirst_makes (s := dropMsg s m) (req := req) room
  refine ⟨t, ?_, found, net⟩
  show execDirectoryLookup m s = _
  simp [execDirectoryLookup, at_, msg, homeRead, atEntry, first, away, calm, reported, made]

theorem registration_first {holder : Nat} {pin : Bool} (at_ : msgAt s m = some v) (msg : v.msg = .register gpn req holder false pin) :
    ∃ t, exec (.registration m) s = .next t ∧ dirFind t gpn = some (newEntry gpn req) ∧
      t.net = Claim.replied s m [(req, .page gpn [] 0 0 1024 false true false), (req, .stale gpn)] := by
  obtain ⟨first, ⟨calm, reported⟩, away, room⟩ := fresh
  obtain ⟨t, made, found, source, time, net⟩ := homeFirst_makes (s := dropMsg s m) (req := req) room
  refine ⟨send t req (.stale gpn), ?_, found, ?_⟩
  · show execRegistration m s = _
    simp [execRegistration, at_, msg, homeRegister, first, away, calm, reported, made]
  · rw [send, net, source, time]
    exact List.append_assoc ..

end

/-! ## The home: a page with an entry (R177, R180, R182) -/

theorem addReplica_gpn : (addReplica e w).gpn = e.gpn := by
  unfold addReplica
  split_ifs <;> rfl

theorem addReplica_crown : (addReplica e w).crown = e.crown := by
  unfold addReplica
  split_ifs <;> rfl

/-- A group's mark, once set, stays. -/
theorem getLsbD_foldl_groups {g : BitVec 32} {i : Nat} (marked : g.getLsbD i = true) (l : List Nat) :
    (l.foldl (fun g a => g ||| (1#32 <<< (a / 32))) g).getLsbD i = true :=
  List.foldlRecOn (motive := fun g : BitVec 32 => g.getLsbD i = true) l _ marked fun _ h _ _ => by simp [h]

theorem getLsbD_groupMark (low : w < 1024) (g : BitVec 32) : (g ||| (1#32 <<< (w / 32))).getLsbD (w / 32) = true := by
  have group : w / 32 < 32 := by omega
  simp [group]

/-- A package that is recorded as a replica holder is named by the entry (R177). -/
theorem recorded_addReplica (low : w < 1024) : recorded (addReplica e w) w = true := by
  unfold addReplica
  split_ifs with named coarse few
  · exact named
  · simp [recorded, coarse, getLsbD_groupMark low]
  · simp [recorded]
  · have marked := getLsbD_foldl_groups (getLsbD_groupMark low e.groups) e.reps
    simp only [recorded, List.foldl_cons, marked]
    simp

/-- The home's own replica is the nearest holder; without one it is the crown, wherever that is. -/
theorem nearest_eq : nearest s e = if aid s ∈ e.reps then aid s else e.crown := by
  unfold nearest
  by_cases replica : aid s ∈ e.reps
  · simp [replica]
  · by_cases crown : e.crown = aid s <;> simp [replica, crown]

/-- A read goes on from the home, which records its requester (R182). -/
theorem homeForward_sends {nh : Option Nat} {pin only : Bool} (here : dirFind s e.gpn = some e) (low : req < 1024) :
    ∃ e2, dirFind (homeForward s e req nh pin only) e.gpn = some e2 ∧ recorded e2 req = true ∧ e2.crown = e.crown ∧
      (homeForward s e req nh pin only).net = s.net ++
        [Claim.mail s (if only ∨ pin ∨ req = aid s then e.crown else nearest s e) (.read e.gpn req false pin)] := by
  unfold homeForward
  exact ⟨_, dirFind_dirMod_some (fun _ => addReplica_gpn) here, recorded_addReplica low, addReplica_crown, rfl⟩

section
variable (entry : Claim.Entry s m gpn e)
include entry

theorem directoryLookup_forwards {mirr pin : Bool} (at_ : msgAt s m = some v) (msg : v.msg = .homeRead gpn req none mirr pin)
    (pool : e.pool = none) (low : req < 1024) :
    ∃ t e2, exec (.directoryLookup m) s = .next t ∧ dirFind t gpn = some e2 ∧ recorded e2 req = true ∧ e2.crown = e.crown ∧
      t.net = Claim.replied s m [(if pin = false ∧ req ≠ aid s ∧ aid s ∈ e.reps then aid s else e.crown, .read gpn req false pin)] := by
  obtain ⟨d, k, e', here, same, meets⟩ := atEntry_crowned (req := req) (mirr := mirr) (lost := lostAt gpn req) (back := id)
    (go := fun s e => homeForward s e req none pin false) entry pool
  have page : e'.gpn = gpn := gpn_of_dirFind here
  have crown : e'.crown = e.crown := by rw [same]
  have reps : e'.reps = e.reps := by rw [same]
  have runs : exec (.directoryLookup m) s = .next (homeForward (withDir (dropMsg s m) d k) e' req none pin false) := by
    rw [← meets]
    show execDirectoryLookup m s = _
    simp only [execDirectoryLookup, at_, msg, homeRead]
    rfl
  subst page
  obtain ⟨e2, found, named, keeps, net⟩ := homeForward_sends (nh := none) (pin := pin) (only := false) here low
  refine ⟨_, e2, runs, found, named, keeps.trans crown, net.trans ?_⟩
  have dst : (if false = true ∨ pin = true ∨ req = aid s then e'.crown else nearest (withDir (dropMsg s m) d k) e') =
      if pin = false ∧ req ≠ aid s ∧ aid s ∈ e.reps then aid s else e.crown := by
    have near : nearest (withDir (dropMsg s m) d k) e' = if aid s ∈ e'.reps then aid s else e'.crown := nearest_eq
    rw [near, crown, reps]
    cases pin with
    | true => simp
    | false => by_cases own : req = aid s <;> simp [own]
  rw [show aid (withDir (dropMsg s m) d k) = aid s from rfl, dst]
  rfl

theorem directoryLookup_takesBack {pool : Nat} {nh : Option Nat} {mirr pin : Bool} (at_ : msgAt s m = some v)
    (msg : v.msg = .homeRead gpn req nh mirr pin) (inPool : e.pool = some pool) :
    ∃ t e2 tx, exec (.directoryLookup m) s = .next t ∧ dirFind t gpn = some e2 ∧ e2.tx = some tx ∧ tx.req = req ∧
      t.net = Claim.replied s m [(req, .takeBack gpn pool e.floor e.crown)] := by
  obtain ⟨d, k, e', here, same, meets⟩ := atEntry_meets (req := req) (mirr := mirr) (keep := false) (lost := lostAt gpn req) (back := id)
    (go := fun s e => homeForward s e req nh pin nh.isSome) entry
  have page : e'.gpn = gpn := gpn_of_dirFind here
  have runs : exec (.directoryLookup m) s = .next (grantBack (withDir (dropMsg s m) d k) e' req pool) := by
    rw [inPool] at meets
    show execDirectoryLookup m s = _
    simp only [execDirectoryLookup, at_, msg, homeRead]
    exact congrArg Host.Outcome.next meets
  subst page
  refine ⟨_, _, _, runs, dirFind_dirMod_some (fun _ => rfl) here, rfl, rfl, ?_⟩
  rw [same]
  rfl

theorem registration_checks {holder : Nat} {mirr pin : Bool} (at_ : msgAt s m = some v) (msg : v.msg = .register gpn req holder mirr pin)
    (pool : e.pool = none) (low : req < 1024) :
    ∃ t e2, exec (.registration m) s = .next t ∧ dirFind t gpn = some e2 ∧ recorded e2 req = true ∧
      t.net = Claim.replied s m (if recorded e holder then [(req, .regAck gpn)] else [(req, .stale gpn), (e.crown, .read gpn req false pin)]) := by
  obtain ⟨d, k, e', here, same, meets⟩ := atEntry_crowned (req := req) (mirr := mirr) (lost := lostAt gpn req)
    (back := fun s => send s req (.stale gpn))
    (go := fun s e => if recorded e holder then send (dirMod s gpn fun x => addReplica x req) req (.regAck gpn)
      else homeForward (send s req (.stale gpn)) e req none pin true) entry pool
  have page : e'.gpn = gpn := gpn_of_dirFind here
  have crown : e'.crown = e.crown := by rw [same]
  have held : recorded e' holder = recorded e holder := by rw [same]; rfl
  have runs : exec (.registration m) s = .next (if recorded e holder then
      send (dirMod (withDir (dropMsg s m) d k) gpn fun x => addReplica x req) req (.regAck gpn)
      else homeForward (send (withDir (dropMsg s m) d k) req (.stale gpn)) e' req none pin true) := by
    rw [← held, ← meets]
    show execRegistration m s = _
    simp only [execRegistration, at_, msg, homeRegister, entry.first, entry.here, Option.isNone_some]
    rfl
  subst page
  cases named : recorded e holder with
  | true =>
    rw [if_pos named] at runs
    exact ⟨_, _, runs, dirFind_dirMod_some (fun _ => addReplica_gpn) here, recorded_addReplica low, rfl⟩
  | false =>
    rw [named, if_neg Bool.false_ne_true] at runs
    obtain ⟨e2, found, rec_, -, net⟩ := homeForward_sends (s := send (withDir (dropMsg s m) d k) req (.stale e'.gpn)) (nh := none)
      (pin := pin) (only := true) here low
    refine ⟨_, e2, runs, found, rec_, net.trans ?_⟩
    simp only [crown, true_or, if_true]
    exact List.append_assoc ..

end

theorem directoryLookup_taken {tx : DirTx} (at_ : msgAt s m = some v) (msg : v.msg = .taken gpn req) (here : dirFind s gpn = some e)
    (open_ : e.tx = some tx) (low : req < 1024) :
    ∃ t e2, exec (.directoryLookup m) s = .next t ∧ dirFind t gpn = some e2 ∧ e2.crown = req ∧ e2.pool = none ∧ e2.tx = none ∧
      t.net = Claim.replied s m [(tx.old, .poolFree (e.pool.getD 0)), (req, .complete gpn e.floor req e.mirror)] := by
  let made (x : DirEntry) : DirEntry := { x with crown := req, pool := none, reps := x.reps.filter (· != req), tx := none }
  have known : ((dirFind (dropMsg s m) gpn).bind fun e => e.tx.map fun t => (e, t)) = some (e, tx) := by
    rw [show dirFind (dropMsg s m) gpn = some e from here]
    simp only [Option.bind_some, open_, Option.map_some]
  have runs : exec (.directoryLookup m) s = .next (send (send (dirMod (dropMsg s m) gpn made) tx.old (.poolFree (e.pool.getD 0))) req
      (.complete gpn e.floor req e.mirror)) := by
    show execDirectoryLookup m s = _
    simp only [execDirectoryLookup, at_, msg, homeTaken, known, if_neg (show ¬ noAid ≤ req from Nat.not_le.mpr low)]
    rfl
  exact ⟨_, _, runs, dirFind_dirMod_some (s := dropMsg s m) (f := made) (fun _ => rfl) here, rfl, rfl, rfl, List.append_assoc ..⟩

theorem dirFullTimeout_faults {nh : Option Nat} {mirr pin : Bool} (at_ : msgAt s m = some v) (msg : v.msg = .homeRead gpn req nh mirr pin)
    (late : v.at_ + 2 ^ 20 ≤ s.now) (away : dirFind s gpn = none) (calm : placing s gpn = false)
    (full : dirAdd s (newEntry gpn req) = none) :
    ∃ t, exec (.dirFullTimeout m) s = .next t ∧ t.net = Claim.replied s m [(req, .amFault gpn Tc.amDirFull)] := by
  have runs : exec (.dirFullTimeout m) s = .next (send (dropMsg s m) req (.amFault gpn Tc.amDirFull)) := by
    have named : newEntryFor v = some (gpn, req) := by rw [newEntryFor, msg]
    show execDirFullTimeout m s = _
    simp only [execDirFullTimeout, at_, named]
    rw [if_pos ⟨late, by simp [away], by simp [calm], by simp [full]⟩, msg]
  exact ⟨_, runs, rfl⟩

theorem homeAnswers : Claim.HomeAnswers := by
  intro s m v gpn req at_
  refine ⟨?_, ?_, ?_, ?_, ?_, ?_, ?_⟩
  · intro nh pin msg fresh
    exact directoryLookup_first fresh at_ msg
  · intro holder pin msg fresh
    exact registration_first fresh at_ msg
  · intro e mirr pin msg entry pool low
    exact directoryLookup_forwards entry at_ msg pool low
  · intro e pool nh mirr pin msg entry inPool
    exact directoryLookup_takesBack entry at_ msg inPool
  · intro e holder mirr pin msg entry pool low
    exact registration_checks entry at_ msg pool low
  · intro e tx msg here open_ low
    exact directoryLookup_taken at_ msg here open_ low
  · intro nh mirr pin msg late away calm full
    exact dirFullTimeout_faults at_ msg late away calm full

/-- Settles O34, as the model reads R182: a read that the home's own package asks for goes to the crown (notes/assumptions/31.md). -/
theorem climbsAndHome : Obligations.ClimbsAndHome := ⟨climbLocalSteps, homeAnswers⟩

end Sys2Proof.Proofs
end

section
/-! SUPPORT. Accesses that fail while they wait for a page (R182, R201): what their parks leave. -/

namespace Sys2Proof.Proofs

open Sys2Proof Sys2Proof.Machine

variable {s t u : State} {gpn n : Nat} {c : Cause}

/-- No byte has changed, and attraction memory at most forgets who waits: its climbs are for the same pages, its injections as before. -/
structure OnlyForgets (s t : State) : Prop where
  mem     : t.mem = s.mem
  climbs  : t.am.climbs.map (·.gpn) = s.am.climbs.map (·.gpn)
  injects : t.am.injects = s.am.injects

theorem OnlyForgets.of_same (mem : t.mem = s.mem := by rfl) (am : t.am = s.am := by rfl) : OnlyForgets s t := ⟨mem, by rw [am], by rw [am]⟩

theorem OnlyForgets.refl : OnlyForgets s s := .of_same

theorem OnlyForgets.trans (h : OnlyForgets s t) (h' : OnlyForgets t u) : OnlyForgets s u :=
  ⟨h'.mem.trans h.mem, h'.climbs.trans h.climbs, h'.injects.trans h.injects⟩

theorem onlyForgets_foldl {α : Type} {f : State → α → State} (keeps : ∀ s x, OnlyForgets s (f s x)) (l : List α) (s : State) :
    OnlyForgets s (l.foldl f s) :=
  List.foldlRecOn (motive := OnlyForgets s) l f .refl fun _ h x _ => h.trans (keeps _ x)

theorem removeGroup_onlyForgets {gi : Nat} : OnlyForgets s (removeGroup s gi) := by
  unfold removeGroup
  dsimp only
  split <;> exact .of_same

theorem removeTeam_onlyForgets {ti : Nat} : OnlyForgets s (removeTeam s ti) := by
  unfold removeTeam
  extract_lets t s1 s2
  have groups : OnlyForgets s s1 := onlyForgets_foldl (fun _ _ => removeGroup_onlyForgets) _ s
  exact groups.trans .of_same

theorem sendVector_onlyForgets {k off : Nat} : OnlyForgets s (sendVector s k off) := by
  unfold sendVector
  dsimp only
  split <;> exact .of_same

theorem fatal_onlyForgets {k : Nat} {lid : W32} : OnlyForgets s (fatal s k c lid) := by
  unfold fatal
  extract_lets s1 s2
  have teams : OnlyForgets s1 s2 := onlyForgets_foldl (fun _ _ => removeTeam_onlyForgets) _ s1
  exact (OnlyForgets.trans .of_same teams).trans sendVector_onlyForgets

theorem parkSet_onlyForgets {a : ASet} {level va : Nat} {entry : Word} {lanes : Mask} : OnlyForgets s (parkSet s a c level entry va lanes) := by
  unfold parkSet
  dsimp only
  split
  · exact .refl
  · split
    · exact fatal_onlyForgets
    · exact .of_same

theorem faultAccs_onlyForgets {a : ASet} {level : Nat} {entry : Word} {p : Acc → Bool} : OnlyForgets s (faultAccs s a c level entry p) := by
  unfold faultAccs
  split
  · exact parkSet_onlyForgets
  · exact .of_same

theorem forgetWaiter_onlyForgets {i : Nat} : OnlyForgets s (forgetWaiter s i) :=
  ⟨rfl, List.map_map, rfl⟩

theorem holdRing_onlyForgets {k : Nat} : OnlyForgets s (holdRing s k) := by
  unfold holdRing
  dsimp only
  split_ifs <;> exact .of_same

theorem issuerFault_onlyForgets {who : Issuer} {level : Nat} {entry : Word} {write : Bool} : OnlyForgets s (issuerFault s who c level entry write) := by
  cases who with
  | ring k => exact holdRing_onlyForgets
  | stage st va =>
    simp only [issuerFault]
    split <;> exact .of_same
  | _ => exact .of_same

theorem parkWaiter_onlyForgets {who : Issuer} : OnlyForgets s (parkWaiter s gpn c who) := by
  have other : OnlyForgets s (if issuerParked s (· == who) then s else issuerFault s who c 0 0 false) := by
    split
    · exact .refl
    · exact issuerFault_onlyForgets
  cases who with
  | set i =>
    unfold parkWaiter
    dsimp only
    split
    · exact forgetWaiter_onlyForgets.trans faultAccs_onlyForgets
    · exact .refl
  | _ => exact other

theorem parkWaiters_onlyForgets {ws : List Issuer} : OnlyForgets s (parkWaiters s gpn c ws) :=
  onlyForgets_foldl (fun _ _ => parkWaiter_onlyForgets) ws s

theorem OnlyForgets.noClimb (h : OnlyForgets s t) (away : ∀ d ∈ s.am.climbs, d.gpn ≠ gpn) : ∀ d ∈ t.am.climbs, d.gpn ≠ gpn := by
  intro d hd same
  have listed : gpn ∈ s.am.climbs.map (·.gpn) := by
    rw [← h.climbs, ← same]
    exact List.mem_map_of_mem hd
  obtain ⟨d', hd', same'⟩ := List.mem_map.mp listed
  exact away d' hd' same'

/-- Once the accesses that wait for a page have failed, no climb is for it; injections and bytes are as before. -/
theorem failPage_ends (other : c ≠ Tc.amPinConflict) : (∀ d ∈ (failPage s gpn c).am.climbs, d.gpn ≠ gpn) ∧
    (failPage s gpn c).am.injects = s.am.injects ∧ (failPage s gpn c).mem = s.mem := by
  unfold failPage
  dsimp only
  rw [if_neg other]
  generalize dropped : (endTransit (freePlace s gpn) gpn).modAm _ = t
  have kept : t.am.injects = s.am.injects ∧ t.mem = s.mem := by
    rw [← dropped]
    exact ⟨rfl, rfl⟩
  have gone : ∀ d ∈ t.am.climbs, d.gpn ≠ gpn := by
    intro d hd
    rw [← dropped] at hd
    simpa using (List.mem_filter.mp hd).2
  have parked : OnlyForgets t (parkWaiters t gpn c (pageWaiters s gpn)) := parkWaiters_onlyForgets
  exact ⟨parked.noClimb gone, parked.injects.trans kept.1, parked.mem.trans kept.2⟩

end Sys2Proof.Proofs
end

section
/-! SUPPORT. Holders of a page and their answers (R181 to R183, R193). -/

namespace Sys2Proof.Proofs

open Sys2Proof Sys2Proof.Machine

variable {s t : State} {m gpn req holder pool fwt fle server : Nat} {hinted pin : Bool} {v : Env} {c : Climb} {x y : Tag} {data : Memory}

/-! ## The holder -/

/-- A page that goes out goes with its bytes; where it is crowned here, the crown notes that its data has left (R184). -/
theorem sendPage_sends : ∃ fwt fle bad, Claim.SameMemory s (sendPage s gpn req hinted) ∧
    (sendPage s gpn req hinted).net = s.net ++ [Claim.mail s req (.page gpn (pageCells s gpn) fwt fle (aid s) bad false hinted)] ∧
    (crownHere s gpn = true → req ≠ aid s → (tagOf (sendPage s gpn req hinted) gpn).any (·.shared) = true) := by
  have published : MovesNoPage s (publishPage s gpn) := publishPage_movesNoPage
  unfold sendPage
  generalize publishPage s gpn = p at published
  dsimp only
  generalize marked : (if crownHere p gpn ∧ req ≠ aid p then modTag p gpn fun t => { t with shared := true } else p) = q
  obtain ⟨mem, net, source, time⟩ : q.mem = p.mem ∧ q.net = p.net ∧ aid q = aid p ∧ q.now = p.now := by
    rw [← marked]
    split <;> exact ⟨rfl, rfl, rfl, rfl⟩
  have cells : pageCells q gpn = pageCells s gpn := by rw [pageCells, mem]; exact published.pageCells
  refine ⟨(pageTimes p gpn).1, (pageTimes p gpn).2, pagePoisoned q gpn, fun a => ?_, ?_, fun crown other => ?_⟩
  · show byteAt q.mem a = _
    rw [mem]
    exact published.sameMemory a
  · rw [send, cells, net, source, time, published.net, published.aid, published.now]
    rfl
  · rw [if_pos ⟨published.crownHere.trans crown, by rwa [published.aid]⟩] at marked
    have crowned_ : (tagOf p gpn).any crowned = true := by
      have crown' := published.crownHere.trans crown
      simp only [crownHere, Bool.and_eq_true] at crown'
      exact crown'.2
    cases here : tagOf p gpn with
    | none => rw [here] at crowned_; cases crowned_
    | some y =>
      have shared := tagOf_modTag_some (f := fun t => { t with shared := true }) (fun _ h => h) here
      rw [marked] at shared
      show (tagOf q gpn).any _ = true
      rw [shared]
      rfl

theorem holderRead_sends (at_ : msgAt s m = some v) (msg : v.msg = .read gpn req hinted pin) (open_ : spaceOpen s gpn req = true)
    (held : readableHere s gpn = true) (unqueued : queuedPage s gpn = false) (settled : committingPage s gpn = false)
    (unpinned : pin = true → req ≠ aid s → pinHeld s gpn = false) :
    ∃ t fwt fle bad, exec (.holderRead m) s = .next t ∧ Claim.SameMemory s t ∧
      t.net = Claim.replied s m [(req, .page gpn (pageCells s gpn) fwt fle (aid s) bad false hinted)] ∧
      (crownHere s gpn = true → req ≠ aid s → (tagOf t gpn).any (·.shared) = true) := by
  have decayed : MovesNoPage s (decaySet s (setIndex gpn)) := decaySet_movesNoPage
  obtain ⟨fwt, fle, bad, memory, net, shared⟩ :=
    sendPage_sends (s := dropMsg (decaySet s (setIndex gpn)) m) (gpn := gpn) (req := req) (hinted := hinted)
  have runs : exec (.holderRead m) s = .next (sendPage (dropMsg (decaySet s (setIndex gpn)) m) gpn req hinted) := by
    have free : ¬ (pin = true ∧ req ≠ aid s ∧ pinHeld s gpn = true) := fun ⟨p, other, kept⟩ => by rw [unpinned p other] at kept; cases kept
    show execHolderRead m s = _
    simp only [execHolderRead, at_, msg, holderRead, open_, held, if_neg free, unqueued, settled]
    rfl
  exact ⟨_, fwt, fle, bad, runs, memory, net, fun crown => shared (decayed.crownHere.trans crown)⟩

theorem holderRead_pinned (at_ : msgAt s m = some v) (msg : v.msg = .read gpn req hinted true) (open_ : spaceOpen s gpn req = true)
    (held : readableHere s gpn = true) (other : req ≠ aid s) (pinned : pinHeld s gpn = true) : exec (.holderRead m) s =
    .next { decaySet s (setIndex gpn) with net := Claim.replied s m [(req, .amFault gpn Tc.amPinConflict)] } := by
  show execHolderRead m s = _
  simp only [execHolderRead, at_, msg, holderRead, open_, held, ne_eq, other, not_false_eq_true, pinned, and_self]
  rfl

theorem holderRead_notHeld (at_ : msgAt s m = some v) (msg : v.msg = .read gpn req hinted pin) (open_ : spaceOpen s gpn req = true)
    (away : readableHere s gpn = false) (free : tagOf s gpn = none ∨ req = aid s) : exec (.holderRead m) s =
    .next { decaySet s (setIndex gpn) with net := Claim.replied s m [(req, .notHeld gpn (aid s) hinted)] } := by
  have answers : ¬ ((tagOf s gpn).isSome = true ∧ req ≠ aid s) := by
    rintro ⟨filling, other⟩
    rcases free with none_ | own
    · rw [none_] at filling
      cases filling
    · exact other own
  show execHolderRead m s = _
  simp only [execHolderRead, at_, msg, holderRead, open_, away, if_neg answers]
  rfl

/-! ## Answers at the requester -/

theorem climbFor_only (only : s.am.climbs = [c]) (page : c.gpn = gpn) (stage : c.stage ≠ .amc) : climbFor s gpn = some c := by
  rw [climbFor, only]
  exact List.find?_cons_of_pos (by simp [page, stage])

theorem modClimb_only {f : Climb → Climb} (only : s.am.climbs = [c]) : (modClimb s c.id f).am.climbs = [f c] := by
  show modFirst _ _ s.am.climbs = _
  rw [only]
  exact if_pos (beq_self_eq_true _)

theorem notHeldAnswer_asks (at_ : msgAt s m = some v) (msg : v.msg = .notHeld gpn holder false) (climb : climbFor s gpn = some c)
    (stage : c.stage = .sent) : ∃ t, exec (.notHeldAnswer m) s = .next t ∧
      t.net = Claim.replied s m [(homeAid s gpn, .homeRead gpn (aid s) (some holder) c.mirr c.pin)] := by
  have page : c.gpn = gpn := by
    have found := List.find?_some climb
    simp only [Bool.and_eq_true, beq_iff_eq] at found
    exact found.1
  have home : homeAid (dropMsg s m) gpn = homeAid s gpn := homeAid_of_same rfl rfl rfl
  have runs : exec (.notHeldAnswer m) s = .next (askHome (dropMsg s m) c (some holder)) := by
    show execNotHeldAnswer m s = _
    simp only [execNotHeldAnswer, at_, msg, notHeldAnswer, climb, stage]
    rfl
  rw [askHome, page, home] at runs
  exact ⟨_, runs, rfl⟩

section
variable (only : s.am.climbs = [c]) (page : c.gpn = gpn) (stage : c.stage = .hinted)
include only page stage

theorem hintedClimb : (climbFor s gpn).filter (fun c => c.stage == .hinted) = some c := by
  rw [climbFor_only only page (by simp [stage]), Option.filter_some, stage]
  rfl

theorem staleAnswer_leaves (at_ : msgAt s m = some v) (msg : v.msg = .stale gpn) : ∃ t, exec (.staleAnswer m) s = .next t ∧
    t.net = s.net.eraseIdx m ∧ t.am.climbs = [{ c with stage := .sent, held := none, since := s.now }] := by
  have found : (climbFor (dropMsg s m) gpn).filter (fun c => c.stage == .hinted) = some c := hintedClimb only page stage
  have runs : exec (.staleAnswer m) s = .next (modClimb (dropMsg s m) c.id fun c => { c with stage := .sent, held := none, since := s.now }) := by
    show execStaleAnswer m s = _
    simp only [execStaleAnswer, at_, msg, found]
    rfl
  exact ⟨_, runs, rfl, modClimb_only (s := dropMsg s m) only⟩

theorem registrationAck_notes (none_ : c.held = none) (at_ : msgAt s m = some v) (msg : v.msg = .regAck gpn) :
    ∃ t, exec (.registrationAck m) s = .next t ∧ t.net = s.net.eraseIdx m ∧ t.am.climbs = [{ c with acked := true }] := by
  have found := hintedClimb only page stage
  have runs : exec (.registrationAck m) s = .next (modClimb (dropMsg s m) c.id fun c => { c with acked := true }) := by
    show execRegistrationAck m s = _
    simp only [execRegistrationAck, at_, msg, found, none_]
  exact ⟨_, runs, rfl, modClimb_only (s := dropMsg s m) only⟩

end

/-! ## Pages that come -/

/-- A page that is not a first touch fills the frame that it has here as a replica, before its climbs are served. -/
theorem installPage_fills (here : tagOf s gpn = some y) (replica : y.state = .replica) (wf : data.wf = true) :
    ∃ q z, installPage s gpn data fwt fle server false false = .free (serveClimbs q gpn) y.way ∧ tagOf q gpn = some z ∧
      z.state = .replica ∧ z.transit = false ∧ Claim.PageIs q.mem gpn (byteAt data) ∧ q.am.climbs = s.am.climbs := by
  let x := newTag s (setIndex gpn) y.way gpn .replica (bringComp s gpn) false false fwt fle
  have filled : MovesNoPage (framed s x data) (fillFrame s x data) := fillFrame_framed
  obtain ⟨z, there, same⟩ := filled.tagOf_some (tagOf_putTag (x := x) rfl (.inl rfl))
  have bytes : Claim.PageIs (fillFrame s x data).mem gpn (byteAt data) := by
    rw [filled.mem]
    exact pageIs_framed rfl wf
  have plain : crownHere s gpn = false := by
    rw [crownHere, here]
    simp [crowned, replica]
  have held : replicaHere s gpn data fwt fle (bringComp s gpn) = .free (fillFrame s x data) y.way := by
    rw [replicaHere, placeFor_held here]
  by_cases own : server = aid (fillFrame s x data)
  · refine ⟨endTransit (fillFrame s x data) gpn, z, ?_, there, same.state, same.transit, bytes, filled.climbs⟩
    simp only [installPage, plain, held, Bool.false_eq_true, if_false, if_pos (Or.inr own)]
  · refine ⟨endTransit (hintPut (fillFrame s x data) gpn server) gpn, z, ?_, there, same.state, same.transit, bytes, filled.climbs⟩
    simp only [installPage, plain, held, Bool.false_eq_true, if_false, false_or, if_neg own]

/-- The one climb for a page that nothing has joined is over once its line is in L2. -/
theorem serveClimbs_only (only : s.am.climbs = [c]) (page : c.gpn = gpn) (stage : c.stage ≠ .amc) (alone : c.who = []) :
    serveClimbs s gpn = bringLine (dropClimb s c.id) c.line c.hs := by
  have mine : ([c].filter fun c => c.gpn == gpn && c.stage != .amc) = [c] := List.filter_cons_of_pos (by simp [page, stage])
  rw [serveClimbs, only, mine, List.foldl_cons, List.foldl_nil, serveClimb, alone]
  rfl

theorem pageInstall_installs (at_ : msgAt s m = some v) (msg : v.msg = .page gpn data fwt fle server false false false)
    (open_ : spaceOpen s gpn v.src = true) (only : s.am.climbs = [c]) (page : c.gpn = gpn) (stage : c.stage = .sent) (alone : c.who = [])
    (here : tagOf s gpn = some y) (replica : y.state = .replica) (wf : data.wf = true) :
    ∃ t z, exec (.pageInstall m) s = .next t ∧ tagOf t gpn = some z ∧ z.state = .replica ∧ z.transit = false ∧
      Claim.PageIs t.mem gpn (byteAt data) ∧ t.am.climbs = [] ∧ inL2 t c.line = true := by
  have asked : c.stage ≠ .amc := by simp [stage]
  have climb : climbFor s gpn = some c := climbFor_only only page asked
  obtain ⟨q, z, fills, there, state, transit, bytes, climbs⟩ :=
    installPage_fills (s := dropMsg s m) (fwt := fwt) (fle := fle) (server := server) here replica wf
  rw [serveClimbs_only (climbs.trans only) page asked alone] at fills
  have brought : MovesNoPage (dropClimb q c.id) (bringLine (dropClimb q c.id) c.line c.hs) := bringLine_movesNoPage
  obtain ⟨z', there', same⟩ := brought.tagOf_some (show tagOf (dropClimb q c.id) gpn = some z from there)
  have runs : exec (.pageInstall m) s = .next (bringLine (dropClimb q c.id) c.line c.hs) := by
    show execPageInstall m s = _
    simp only [execPageInstall, at_, msg, open_, pageArrives, climb, pageComes, fills]
    rfl
  refine ⟨_, z', runs, there', same.state.trans state, same.transit.trans transit, ?_, ?_, inL2_bringLine⟩
  · rw [brought.mem]
    exact bytes
  · rw [brought.climbs]
    show q.am.climbs.filter _ = []
    rw [climbs.trans only]
    simp

/-! ## Pages taken back from the pool -/

theorem modFirst_changes {α : Type} {p : α → Bool} {f : α → α} {l : List α} (some_ : l.any p = true) : ∃ a, p a = true ∧ f a ∈ modFirst p f l := by
  induction l with
  | nil => cases some_
  | cons a r ih =>
    unfold modFirst
    split
    · exact ⟨a, ‹_›, List.mem_cons_self⟩
    · next other =>
      obtain ⟨b, hb, listed⟩ := ih (by simpa [other] using some_)
      exact ⟨b, hb, List.mem_cons_of_mem _ listed⟩

/-- A page that comes has a request for its crown. -/
theorem withCrown_asks (s : State) (gpn : Nat) : ∃ l, withCrown s gpn = { s with am := { s.am with crowns := l } } ∧
    (l.any fun r => r.gpn == gpn && !r.effective) = true := by
  unfold withCrown
  split
  · next asked => exact ⟨s.am.crowns, rfl, asked⟩
  · exact ⟨_, rfl, by simp [CrownReq.effective]⟩

theorem takeBack_reads {floor owner : Nat} (at_ : msgAt s m = some v) (msg : v.msg = .takeBack gpn pool floor owner) (up : s.hub.poolUp = true)
    (here : tagOf s gpn = some y) (wf : s.mem.wf = true) :
    ∃ t z, exec (.takeBack m) s = .next t ∧ tagOf t gpn = some z ∧ z.state = .master ∧ z.transit = true ∧
      Claim.PageIs t.mem gpn (fun o => byteAt s.mem (poolAddr s pool + o)) ∧ (∃ r ∈ t.am.crowns, r.gpn = gpn ∧ r.granted = true) ∧
      t.net = Claim.replied s m [(homeAid s gpn, .taken gpn (aid s))] := by
  let x := newTag s (setIndex gpn) y.way gpn .master (bringComp s gpn) true false 0 floor
  let bad := s.am.poison.any fun p => poolAddr s pool / 128 ≤ p.1 && p.1 < poolAddr s pool / 128 + 512
  let d := cellsIn s.mem (poolAddr s pool) 65536
  let grant (r : CrownReq) : CrownReq := { r with granted := true, floor := max r.floor floor, pick := none }
  let q := if bad then poisonPage (fillFrame (dropMsg s m) x d) gpn Tc.amPoolPoison else fillFrame (dropMsg s m) x d
  have runs : exec (.takeBack m) s = .next (send (modCrown (withCrown q gpn) gpn grant)
      (homeAid (modCrown (withCrown q gpn) gpn grant) gpn) (.taken gpn (aid (modCrown (withCrown q gpn) gpn grant)))) := by
    show execTakeBack m s = _
    simp only [execTakeBack, at_, msg, takeBack, up, placeFor_held here]
    rfl
  have moves : MovesNoPage (framed (dropMsg s m) x d) q := fillFrame_framed.trans (.ite fun _ => poisonPage_movesNoPage)
  obtain ⟨z, there, same⟩ := moves.tagOf_some (tagOf_putTag (x := x) rfl (.inr (.inl rfl)))
  obtain ⟨l, with_, asked⟩ := withCrown_asks q gpn
  obtain ⟨r, mine, granted⟩ := modFirst_changes (f := grant) asked
  rw [with_] at runs
  have home : homeAid (modCrown { q with am := { q.am with crowns := l } } gpn grant) gpn = homeAid s gpn :=
    homeAid_of_same moves.lost moves.aid moves.podSize
  refine ⟨_, z, runs, there, same.state, same.transit, fun o inside => ?_, ⟨_, granted, ?_, rfl⟩, ?_⟩
  · show byteAt q.mem _ = _
    rw [moves.mem]
    exact (pageIs_framed rfl (cellsIn_wf wf) o inside).trans (byteAt_cellsIn inside)
  · simp only [Bool.and_eq_true, beq_iff_eq] at mine
    exact mine.1
  · rw [home]
    show q.net ++ [Claim.mail q _ (.taken gpn (aid q))] = _
    rw [Claim.mail, moves.net, moves.aid, moves.now]
    rfl

/-- R182. -/
theorem climbTimeout_ends {i : Nat} {k : Climb} (here : climbAt s i = some k) (low : i < 2 ^ 32) (stage : k.stage = .sent ∨ k.stage = .hinted)
    (late : k.since + 2 ^ 20 ≤ s.now) (unanswered : climbAnswered s k.gpn = false) :
    ∃ t, exec (.climbTimeout i) s = .next t ∧ ∀ d ∈ t.am.climbs, d.gpn ≠ k.gpn := by
  have runs : exec (.climbTimeout i) s = .next (failPage s k.gpn Tc.amClimbTimeout) := by
    show execClimbTimeout i s = _
    rw [execClimbTimeout, if_neg (by omega), if_neg (by omega)]
    simp only [here]
    rw [if_pos ⟨stage, late, by simp [unanswered]⟩]
  exact ⟨_, runs, (failPage_ends (by decide)).1⟩

/-- Settles O35: a page that goes out or comes is as `sendPage` and `fillFrame` leave it, and giving its times back moves none
(`MovesNoPage`). -/
theorem holderAnswers : Obligations.HolderAnswers := by
  intro s m v gpn at_
  refine ⟨?_, ?_, ?_, ?_, ?_, ?_, ?_, ?_, ?_⟩
  · intro req hinted pin msg open_ held unqueued settled unpinned
    exact holderRead_sends at_ msg open_ held unqueued settled unpinned
  · intro req hinted msg open_ held other pinned
    exact holderRead_pinned at_ msg open_ held other pinned
  · intro req hinted pin msg open_ away free
    exact holderRead_notHeld at_ msg open_ away free
  · intro c holder msg climb stage
    exact notHeldAnswer_asks at_ msg climb stage
  · intro c msg only page stage
    exact staleAnswer_leaves only page stage at_ msg
  · intro c msg only page stage none_
    exact registrationAck_notes only page stage none_ at_ msg
  · intro c y data fwt fle server msg open_ only page stage alone here replica wf
    exact pageInstall_installs at_ msg open_ only page stage alone here replica wf
  · intro y pool floor owner msg up here wf
    exact takeBack_reads at_ msg up here wf
  · intro c k here low stage late unanswered
    exact climbTimeout_ends here low stage late unanswered

end Sys2Proof.Proofs
end

section
/-! SUPPORT. Injections and the pool (R188, R189). -/

namespace Sys2Proof.Proofs

open Sys2Proof Sys2Proof.Machine

variable {s t : State} {m gpn who w : Nat} {v : Env} {x : Inject} {y : Tag} {replica : Bool}

/-! ## Offers -/

/-- R188. -/
theorem freeFrameSummary_tells (due : s.cycle % 2 ^ 16 = 0) : ∃ t, exec .freeFrameSummary s = .next t ∧ Claim.SameMemory s t ∧
    ∀ a, a < podSize s → a ≠ aid s → a ∉ s.am.lost →
      ({ src := aid s, dst := a, msg := .summary (aid s) (freeMask s) (freeCount s), at_ := s.now } : Env) ∈ t.net := by
  have runs := foldl_send_of (msg := fun s => .summary (aid s) (freeMask s) (freeCount s)) (fun _ _ => rfl)
    ((List.range (podSize s)).filter fun a => a != aid s && !s.am.lost.contains a) (takeSummaries s)
  refine ⟨_, congrArg Host.Outcome.next ((if_pos due).trans runs), fun _ => rfl, fun a inside other live => ?_⟩
  exact List.mem_append_right _ (List.mem_map.mpr ⟨a, by simp [inside, other, live], rfl⟩)

theorem injectionOffer_takes (at_ : msgAt s m = some v) (msg : v.msg = .offer gpn true) (open_ : spaceOpen s gpn v.src = true)
    (away : tagOf s gpn = none) (way : offerWay (decaySet (dropMsg s m) (setIndex gpn)) gpn = some w)
    (empty : tagAt (decaySet (dropMsg s m) (setIndex gpn)) (setIndex gpn) w = none) :
    ∃ t y, exec (.injectionOffer m) s = .next t ∧ tagOf t gpn = some y ∧ y.state = .master ∧ y.transit = true ∧ y.way = w ∧
      t.net = Claim.replied s m [(v.src, .offerAns gpn (aid s) true false)] := by
  let d := decaySet (dropMsg s m) (setIndex gpn)
  let d := decaySet (dropMsg s m) (setIndex gpn)
  let y := newTag d (setIndex gpn) w gpn .master false true false 0 0
  have decayed : MovesNoPage (dropMsg s m) (decaySet (dropMsg s m) (setIndex gpn)) := decaySet_movesNoPage
  have away' : tagOf (decaySet (dropMsg s m) (setIndex gpn)) gpn = none := decayed.tagOf_none away
  have open' : spaceOpen (decaySet (dropMsg s m) (setIndex gpn)) gpn v.src = true := open_
  have runs : exec (.injectionOffer m) s = .next (send (putTag d y) v.src (.offerAns gpn (aid s) true false)) := by
    show execInjectionOffer m s = _
    simp only [execInjectionOffer, at_, msg, answerOffer, open', away', way, empty]
    rfl
  exact ⟨_, y, runs, tagOf_putTag (x := y) rfl (.inr (.inl rfl)), rfl, rfl, rfl, rfl⟩

theorem injectionOffer_replica (at_ : msgAt s m = some v) (msg : v.msg = .offer gpn true) (open_ : spaceOpen s gpn v.src = true)
    (here : tagOf s gpn = some y) (state : y.state = .replica) (settled : y.transit = false)
    (unasked : (s.am.crowns.any fun r => r.gpn == gpn) = false) : exec (.injectionOffer m) s =
    .next { decaySet s (setIndex gpn) with net := Claim.replied s m [(v.src, .offerAns gpn (aid s) true true)] } := by
  have decayed : MovesNoPage (dropMsg s m) (decaySet (dropMsg s m) (setIndex gpn)) := decaySet_movesNoPage
  obtain ⟨z, there, same⟩ := decayed.tagOf_some here
  have open' : spaceOpen (decaySet (dropMsg s m) (setIndex gpn)) gpn v.src = true := open_
  have unasked' : ((decaySet (dropMsg s m) (setIndex gpn)).am.crowns.any fun r => r.gpn == gpn) = false := unasked
  show execInjectionOffer m s = _
  simp only [execInjectionOffer, at_, msg, answerOffer, open', there, same.state, same.transit, state, settled, unasked']
  rfl

/-! ## Answers -/

theorem injectOf_modInject {f : Inject → Inject} (keeps : ∀ x, (f x).gpn = x.gpn) (here : injectOf s gpn = some x) :
    injectOf (modInject s gpn f) gpn = some (f x) :=
  (find?_modFirst (by simp [keeps]) s.am.injects).trans (congrArg (Option.map f) here)

theorem injectOf_dropInject : injectOf (dropInject s gpn) gpn = none := by
  simp [injectOf, dropInject]

theorem gpn_of_injectOf (here : injectOf s gpn = some x) : x.gpn = gpn := by
  simpa using List.find?_some here

theorem injectOf_of_same (injects : t.am.injects = s.am.injects) : injectOf t gpn = injectOf s gpn := by
  rw [injectOf, injects, injectOf]

theorem sendInject_sends {mirror : Bool} : ∃ fwt fle sh bad, (sendInject s gpn who replica mirror).am.injects = s.am.injects ∧
    (sendInject s gpn who replica mirror).net = s.net ++
      [Claim.mail s who (.inject gpn (if replica then none else some (pageCells s gpn)) fwt fle sh mirror bad)] := by
  have published : MovesNoPage s (publishPage s gpn) := publishPage_movesNoPage
  unfold sendInject
  generalize publishPage s gpn = p at published
  refine ⟨(pageTimes p gpn).1, (pageTimes p gpn).2, (tagOf p gpn).any (·.shared), pagePoisoned p gpn, published.injects, ?_⟩
  show p.net ++ [Claim.mail p who (.inject gpn (if replica then none else some (pageCells p gpn)) _ _ _ _ _)] = _
  rw [Claim.mail, published.pageCells, published.net, published.aid, published.now]
  rfl

theorem injectionAnswer_sends (at_ : msgAt s m = some v) (msg : v.msg = .offerAns gpn who true replica) (here : injectOf s gpn = some x)
    (plain : x.mirror = none) (quiet : injectQuiet s gpn = true) :
    ∃ t fwt fle sh bad y, exec (.injectionAnswer m) s = .next t ∧ injectOf t gpn = some y ∧ y.sentTo = some who ∧
      ({ src := aid s, dst := who, msg := .inject gpn (if replica then none else some (pageCells s gpn)) fwt fle sh
          (s.am.seconds.contains gpn) bad, at_ := s.now } : Env) ∈ t.net := by
  let mark (x : Inject) : Inject := { x with sentTo := some who, since := s.now }
  let taken := bumpStat (modInject (dropMsg s m) gpn mark) 3
  let sent := sendInject taken gpn who replica (s.am.seconds.contains gpn)
  obtain ⟨fwt, fle, sh, bad, injects, net⟩ :=
    sendInject_sends (s := taken) (gpn := gpn) (who := who) (replica := replica) (mirror := s.am.seconds.contains gpn)
  have runs : exec (.injectionAnswer m) s = .next (execInjectionAnswer.unholdIfGone sent gpn v) := by
    show execInjectionAnswer m s = _
    simp only [execInjectionAnswer, at_, msg, acceptedOffer, here, plain, quiet]
    rfl
  have kept : (execInjectionAnswer.unholdIfGone sent gpn v).am = sent.am ∧ (execInjectionAnswer.unholdIfGone sent gpn v).net = sent.net := by
    unfold execInjectionAnswer.unholdIfGone
    split <;> exact ⟨rfl, rfl⟩
  refine ⟨_, fwt, fle, sh, bad, mark x, runs, ?_, rfl, ?_⟩
  · rw [injectOf_of_same (congrArg Am.injects kept.1), injectOf_of_same injects]
    exact injectOf_modInject (s := dropMsg s m) (fun _ => rfl) here
  · rw [kept.2, net]
    exact List.mem_append_right _ (List.mem_singleton.mpr rfl)

theorem injectionAnswer_offersNext {c : Nat} {r : List Nat} (at_ : msgAt s m = some v) (msg : v.msg = .offerAns gpn who false replica)
    (here : injectOf s gpn = some x) (next_ : x.offers = c :: r) :
    ∃ t y, exec (.injectionAnswer m) s = .next t ∧ injectOf t gpn = some y ∧ y.offers = r ∧
      t.net = Claim.replied s m [(c, .offer gpn true)] := by
  let mark (x : Inject) : Inject := { x with offers := r, since := s.now, sentTo := none }
  have here' : injectOf (dropMsg s m) gpn = some x := here
  have runs : exec (.injectionAnswer m) s = .next (send (bumpStat (modInject (dropMsg s m) gpn mark) 2) c (.offer gpn true)) := by
    show execInjectionAnswer m s = _
    simp only [execInjectionAnswer, at_, msg, nextOffer, here', next_]
    rfl
  exact ⟨_, mark x, runs, injectOf_modInject (s := dropMsg s m) (fun _ => rfl) here, rfl, rfl⟩

theorem injectionConfirm_frees (at_ : msgAt s m = some v) (msg : v.msg = .injOk gpn who) (known : who ≠ noAid) (here : injectOf s gpn = some x)
    (plain : x.mirror = none) (sent : x.sentTo = some who) :
    ∃ t, exec (.injectionConfirm m) s = .next t ∧ tagOf t gpn = none ∧ injectOf t gpn = none ∧ Claim.PageIs t.mem gpn (fun _ => 0) := by
  have gone := dropPage_gone (s := dropInject (dropMsg s m) gpn) (gpn := gpn)
  have left : injectOf (dropPage (dropInject (dropMsg s m) gpn) gpn) gpn = none :=
    (injectOf_of_same gone.injects).trans injectOf_dropInject
  have mine : (injectOf (dropMsg s m) gpn).filter (fun x => x.mirror.isNone && x.sentTo.isSome) = some x := by
    rw [show injectOf (dropMsg s m) gpn = some x from here, Option.filter_some, plain, sent]
    rfl
  have runs : exec (.injectionConfirm m) s = .next (confirmInject (dropMsg s m) gpn who) := by
    show execInjectionConfirm m s = _
    simp only [execInjectionConfirm, at_, msg]
  simp only [confirmInject, mine, if_neg known, sent, ne_eq, not_true_eq_false, if_false] at runs
  split at runs <;> exact ⟨_, runs, gone.tag, left, gone.bytes⟩

/-! ## The pool -/

theorem poolInjection_writes {pg : Nat} {rest : List Nat} (here : injectOf s gpn = some x) (free : s.am.poolFree = pg :: rest)
    (refused : x.refused = true) (unsent : x.sentTo = none) (plain : x.mirror = none) (up : s.hub.poolUp = true)
    (quiet : injectQuiet s gpn = true) :
    ∃ t z fl, exec (.poolInjection gpn) s = .next t ∧ injectOf t gpn = some z ∧ z.sentTo = some (aid s) ∧ pg ∉ t.am.poolFree ∧
      t.net = s.net ++ [{ src := aid s, dst := homeAid s gpn, msg := .poolSet gpn (aid s) pg fl, at_ := s.now }] ∧
      (s.mem.wf = true → ∀ o, o < 65536 → byteAt t.mem (poolAddr s pg + o) = byteAt s.mem (65536 * gpn + o)) := by
  have published : MovesNoPage s (publishPage s gpn) := publishPage_movesNoPage
  have runs : exec (.poolInjection gpn) s = .next (poolInject s gpn) := rfl
  simp only [poolInject, here, free, refused, unsent, up, plain, quiet] at runs
  generalize publishPage s gpn = p at published runs
  let mark (x : Inject) : Inject := { x with sentTo := some (aid p), refused := false }
  let q := bumpStat (modInject (poolWrite p gpn pg (pageCells p gpn)) gpn mark) 4
  have runs' : exec (.poolInjection gpn) s =
      .next (send q (homeAid q gpn) (.poolSet gpn (aid p) pg (max (pageTimes p gpn).1 (pageTimes p gpn).2))) := runs
  have home : homeAid q gpn = homeAid s gpn := homeAid_of_same published.lost published.aid published.podSize
  have there : injectOf (poolWrite p gpn pg (pageCells p gpn)) gpn = some x := (injectOf_of_same published.injects).trans here
  have address : poolAddr p pg = poolAddr s pg := by rw [poolAddr, published.hub, poolAddr]
  refine ⟨_, mark x, max (pageTimes p gpn).1 (pageTimes p gpn).2, runs', injectOf_modInject (fun _ => rfl) there, congrArg some published.aid,
    ?_, ?_, fun wf o inside => ?_⟩
  · show pg ∉ p.am.poolFree.filter _
    simp
  · rw [home]
    show p.net ++ [Claim.mail p _ (.poolSet gpn (aid p) pg _)] = _
    rw [Claim.mail, published.net, published.aid, published.now]
  · show byteAt (putCells (clearRange p.mem (poolAddr p pg) 65536) (poolAddr p pg) (pageCells p gpn)) _ = _
    rw [address, published.pageCells, published.mem]
    exact (byteAt_putCells_cleared (cellsIn_wf wf) inside).trans (byteAt_cellsIn inside)

/-! ## Rounds that are refused -/

theorem offerRound_keeps (here : injectOf s gpn = some x) : ∃ y, injectOf (offerRound s gpn) gpn = some y ∧ y.rounds = x.rounds := by
  unfold offerRound
  extract_lets go l s1
  have there : injectOf s1 gpn = some (go x) := injectOf_modInject (s := s) (fun _ => rfl) here
  refine ⟨go x, ?_, rfl⟩
  cases l with
  | nil => exact there
  | cons c r => exact there

theorem refuseRemotes_onlyForgets {c : Cause} : OnlyForgets s (refuseRemotes s gpn c) := by
  unfold refuseRemotes
  refine onlyForgets_foldl (fun s e => ?_) _ s
  split
  · exact .of_same
  · exact issuerFault_onlyForgets
  · exact .refl

/-- A page that is given no way faults its waiters; injections stay. -/
theorem noWay_injects : (noWay s gpn).am.injects = s.am.injects := by
  have picked : (setPick s gpn none).am.injects = s.am.injects := by
    unfold setPick
    split <;> rfl
  have failed := (failPage_ends (s := setPick s gpn none) (gpn := gpn) (show Tc.amSetFull ≠ Tc.amPinConflict by decide)).2.1
  have refused : OnlyForgets _ (refuseRemotes (failPage (setPick s gpn none) gpn Tc.amSetFull) gpn Tc.amSetFull) := refuseRemotes_onlyForgets
  rw [noWay, bumpStat_movesNoPage.injects, refused.injects, failed, picked]

theorem giveUp_ends : injectOf (giveUp s x) x.gpn = none := by
  have keeps : (giveUp s x).am.injects = (dropInject s x.gpn).am.injects := by
    unfold giveUp
    extract_lets s1 way s2 s3
    split
    · split
      · rfl
      · exact refuseRemotes_onlyForgets.injects
    · exact List.foldlRecOn (motive := fun t : State => t.am.injects = s1.am.injects) _ noWay rfl fun _ h _ _ => noWay_injects.trans h
  exact (injectOf_of_same keeps).trans injectOf_dropInject

/-- R189. -/
theorem injectionRetry_goesOn (here : injectOf s gpn = some x) (refused : x.refused = true) (unsent : x.sentTo = none)
    (late : x.since + 4096 ≤ s.now) :
    (x.rounds + 1 < 16 → ∃ t y, exec (.injectionRetry gpn) s = .next t ∧ injectOf t gpn = some y ∧ y.rounds = x.rounds + 1) ∧
    (16 ≤ x.rounds + 1 → ∃ t, exec (.injectionRetry gpn) s = .next t ∧ injectOf t gpn = none) := by
  have runs : exec (.injectionRetry gpn) s = .next (if 16 ≤ x.rounds + 1 then giveUp s x
      else offerRound (modInject s gpn fun x => { x with rounds := x.rounds + 1 }) gpn) := by
    have due : x.refused = true ∧ x.sentTo.isNone = true ∧ x.since + 4096 ≤ s.now := ⟨refused, by simp [unsent], late⟩
    show execInjectionRetry gpn s = _
    simp only [execInjectionRetry, here, if_pos due]
  refine ⟨fun more => ?_, fun last => ?_⟩
  · rw [if_neg (by omega)] at runs
    obtain ⟨y, there, rounds⟩ := offerRound_keeps (injectOf_modInject (f := fun x => { x with rounds := x.rounds + 1 }) (fun _ => rfl) here)
    exact ⟨_, y, runs, there, rounds⟩
  · rw [if_pos last] at runs
    have page := gpn_of_injectOf here
    subst page
    exact ⟨_, runs, giveUp_ends⟩

theorem injections : Claim.Injections := by
  intro s m gpn v
  refine ⟨freeFrameSummary_tells, ?_, ?_, ?_, ?_, ?_, ?_, ?_⟩
  · intro w at_ msg open_ away way empty
    exact injectionOffer_takes at_ msg open_ away way empty
  · intro y at_ msg open_ here state settled unasked
    exact injectionOffer_replica at_ msg open_ here state settled unasked
  · intro x who replica at_ msg here plain quiet
    exact injectionAnswer_sends at_ msg here plain quiet
  · intro x who replica c r at_ msg here next_
    exact injectionAnswer_offersNext at_ msg here next_
  · intro x who at_ msg known here plain sent
    exact injectionConfirm_frees at_ msg known here plain sent
  · intro x pg rest here free refused unsent plain up quiet
    exact poolInjection_writes here free refused unsent plain up quiet
  · intro x here refused unsent late
    exact injectionRetry_goesOn here refused unsent late

end Sys2Proof.Proofs
end

section
/-! SUPPORT. Accesses that wait too long for a page, and rebuilds of directory entries (R189, R196, R197). -/

namespace Sys2Proof.Proofs

open Sys2Proof Sys2Proof.Machine

variable {s : State} {m gpn i j gi t0 who : Nat} {v : Env} {e : DirEntry} {a : ASet} {x : Acc} {c : Cause}

/-! ## Time limits -/

theorem setAt_modSet {f : ASet → ASet} (keeps : ∀ b, (f b).id = b.id) (here : setAt s j = some a) : setAt (modSet s j f) j = some (f a) :=
  (find?_modFirst (by simp [keeps]) s.sets).trans (congrArg (Option.map f) here)

/-- An access set that waits for a page parks when that fails. -/
theorem parkWaiter_parks (waits : Claim.WaitsOn s j gi gpn a x) :
    ∃ b va ls tm, setAt (parkWaiter s gpn c (.set j)) j = some b ∧ b.phase = .parked va ls tm := by
  obtain ⟨⟨here, group, -, plain⟩, ⟨live, walked⟩, listed, inUse, own, page⟩ := waits
  have mine : (setAt s j).filter (fun a => !isParked a) = some a := by
    rw [here, Option.filter_some, live]
    rfl
  have needs : needsPage s a gpn x = true := by
    unfold needsPage
    split
    · exact absurd ‹_› walked
    · exact beq_iff_eq.mpr page
  obtain ⟨y, found⟩ : ∃ y, a.accs.find? (fun x => x.n != 0 && !x.help && needsPage s a gpn x) = some y :=
    Option.isSome_iff_exists.mp (List.find?_isSome.mpr ⟨x, listed, by simp [inUse, own, needs]⟩)
  have id_ : a.id = j := id_of_setAt here
  have there : setAt (forgetWaiter s j) j = some a := here
  simp only [parkWaiter, mine, faultAccs, found, parkSet, group, plain, id_]
  exact ⟨_, _, _, _, setAt_modSet (fun _ => rfl) there, rfl⟩

theorem transitTimeout_parks (behind : s.am.behind[i]? = some (.set j, gpn, t0)) (low : i < 2 ^ 32) (transit : inTransit s gpn = true)
    (late : t0 + 2 ^ 20 ≤ s.now) (waits : Claim.WaitsOn s j gi gpn a x) :
    ∃ t b va ls tm, exec (.transitTimeout i) s = .next t ∧ setAt t j = some b ∧ b.phase = .parked va ls tm ∧ Claim.SameMemory s t := by
  let s' := s.modAm fun a => { a with behind := a.behind.eraseIdx i }
  have runs : exec (.transitTimeout i) s = .next (parkWaiter s' gpn Tc.amTransitTimeout (.set j)) := by
    show execTransitTimeout i s = _
    simp only [execTransitTimeout, if_neg (Nat.not_le.mpr low), behind, if_pos (And.intro transit late)]
    rfl
  have waits' : Claim.WaitsOn s' j gi gpn a x := ⟨waits.here, waits.waits, waits.on⟩
  obtain ⟨b, va, ls, tm, parked, phase⟩ := parkWaiter_parks (c := Tc.amTransitTimeout) waits'
  have kept : OnlyForgets s' _ := parkWaiter_onlyForgets (gpn := gpn) (c := Tc.amTransitTimeout) (who := .set j)
  exact ⟨_, b, va, ls, tm, runs, parked, phase, fun k => congrArg (byteAt · k) kept.mem⟩

theorem failPage_parks (other : c ≠ Tc.amPinConflict) (only : pageWaiters s gpn = [.set j]) (waits : Claim.WaitsOn s j gi gpn a x) :
    ∃ b va ls tm, setAt (failPage s gpn c) j = some b ∧ b.phase = .parked va ls tm := by
  unfold failPage
  dsimp only
  rw [if_neg other, only]
  exact parkWaiter_parks ⟨waits.here, waits.waits, waits.on⟩

theorem rebuildTimeout_parks {d : Climb} (recalled : s.am.recalls.lookup gpn = some t0) (climb : d ∈ s.am.climbs) (page : d.gpn = gpn)
    (late : max t0 d.since + 2 ^ 22 ≤ s.now) (calm : s.net = []) (only : pageWaiters s gpn = [.set j])
    (waits : Claim.WaitsOn s j gi gpn a x) :
    ∃ t b va ls tm, exec (.rebuildTimeout gpn) s = .next t ∧ (∀ d ∈ t.am.climbs, d.gpn ≠ gpn) ∧ setAt t j = some b ∧
      b.phase = .parked va ls tm ∧ Claim.SameMemory s t := by
  have remotes (late : Env → Bool) : failRemotes s gpn Tc.amRebuildTimeout late = s := by
    rw [failRemotes, calm]
    rfl
  have waiting : (s.am.climbs.any fun d => d.gpn == gpn && decide (max t0 d.since + 2 ^ 22 ≤ s.now)) = true :=
    List.any_eq_true.mpr ⟨d, climb, by simp only [page, late]; simp⟩
  have runs : exec (.rebuildTimeout gpn) s = .next (failPage s gpn Tc.amRebuildTimeout) := by
    show execRebuildTimeout gpn s = _
    simp only [execRebuildTimeout, recalled, remotes, waiting]
    rfl
  have other : Tc.amRebuildTimeout ≠ Tc.amPinConflict := by decide
  obtain ⟨climbs, -, mem⟩ := failPage_ends (s := s) (gpn := gpn) other
  obtain ⟨b, va, ls, tm, parked, phase⟩ := failPage_parks other only waits
  exact ⟨_, b, va, ls, tm, runs, climbs, parked, phase, fun k => congrArg (byteAt · k) mem⟩

/-! ## Rebuilds -/

theorem directoryRebuild_recalls (here : dirFind s gpn = some e) (still : e.tx = none) (live : e.mode ≠ .lost) :
    ∃ t e2, exec (.directoryRebuild gpn) s = .next t ∧ dirFind t gpn = some e2 ∧ e2.mode = .rebuilding ∧ e2.reps = [] ∧
      ∀ b, b < podSize s → b ∉ s.am.lost → ({ src := aid s, dst := b, msg := .recall gpn (aid s), at_ := s.now } : Env) ∈ t.net := by
  let tx : DirTx := { req := noAid, acks := (livePackages s).length, floor := e.floor, since := s.now, old := noAid }
  let begin_ (x : DirEntry) : DirEntry :=
    { x with mode := .rebuilding, crown := noAid, mirror := none, pool := none, reps := [], groups := BitVec.allOnes 32, tx := some tx }
  have calm : ¬ (e.tx.isSome = true ∨ e.mode = .lost) := by simp [still, live]
  have runs : exec (.directoryRebuild gpn) s =
      .next ((livePackages s).foldl (fun s a => send s a (.recall gpn (aid s))) (bumpStat (dirMod s gpn begin_) 11)) := by
    show execDirectoryRebuild gpn s = _
    simp only [execDirectoryRebuild, here, if_neg calm]
    rfl
  rw [foldl_send_of (msg := fun s => .recall gpn (aid s)) fun _ _ => rfl] at runs
  refine ⟨_, begin_ e, runs, dirFind_dirMod_some (fun _ => rfl) here, rfl, rfl, fun b inside kept => ?_⟩
  exact List.mem_append_right _ (List.mem_map.mpr ⟨b, by simp [livePackages, inside, kept], rfl⟩)

theorem recallQuery_answers {home : Nat} (at_ : msgAt s m = some v) (msg : v.msg = .recall gpn home) : exec (.recallQuery m) s =
    .next { s with
      am := { s.am with recalls := tput gpn s.now s.am.recalls }
      net := Claim.replied s m [(home, .recallAns gpn (aid s) (heldState s gpn).1 (heldState s gpn).2)] } := by
  show execRecallQuery m s = _
  simp only [execRecallQuery, at_, msg]
  rfl

/-- The answer of the crown, the last of all, ends the rebuild. -/
theorem recallQuery_ends {tx : DirTx} (at_ : msgAt s m = some v) (msg : v.msg = .recallAns gpn who .master none) (low : who < 1024)
    (here : dirFind s gpn = some e) (mode : e.mode = .rebuilding) (open_ : e.tx = some tx) (last : tx.acks = 1) (few : e.reps.length ≤ 4) :
    ∃ t e2, exec (.recallQuery m) s = .next t ∧ dirFind t gpn = some e2 ∧ e2.mode = .precise ∧ e2.crown = who ∧ e2.reps = e.reps ∧
      e2.tx = none := by
  have page := gpn_of_dirFind here
  subst page
  let e' : DirEntry := { e with mode := .rebuilding, crown := who, pool := none, tx := some { tx with acks := tx.acks - 1 } }
  let s' := dirMod (dropMsg s m) e.gpn fun _ => e'
  have found : dirFind s' e.gpn = some e' :=
    (find?_modFirst (by simp [e']) _).trans (congrArg (Option.map fun _ => e') here)
  have known : e'.crown ≠ noAid := Nat.ne_of_lt low
  have here' : dirFind (dropMsg s m) e.gpn = some e := here
  have runs : exec (.recallQuery m) s = .next (endRebuild s' e') := by
    show execRecallQuery m s = _
    simp only [execRecallQuery, at_, msg, recallAnswer, here', Option.isNone_some, Bool.false_eq_true, false_and, if_false, takeAnswer, mode,
      ne_eq, not_true_eq_false, open_, if_pos (Nat.le_of_eq last)]
    rfl
  have few' : e'.reps.length ≤ 4 := few
  unfold endRebuild at runs
  simp only [if_neg known, if_pos few'] at runs
  exact ⟨_, _, runs, dirFind_dirMod_some (fun _ => rfl) found, rfl, rfl, rfl, rfl⟩

theorem rebuildsAndTimeouts : Claim.RebuildsAndTimeouts := by
  intro s m gpn e v
  refine ⟨?_, ?_, ?_, ?_, ?_⟩
  · intro i j gi t0 a x behind low transit late waits
    exact transitTimeout_parks behind low transit late waits
  · intro j gi t0 a x c recalled climb page late calm only waits
    exact rebuildTimeout_parks recalled climb page late calm only waits
  · intro here still live
    exact directoryRebuild_recalls here still live
  · intro home at_ msg
    exact recallQuery_answers at_ msg
  · intro who tx at_ msg low here mode open_ last few
    exact recallQuery_ends at_ msg low here mode open_ last few

/-- Settles O37. -/
theorem injectionsAndRebuilds : Obligations.InjectionsAndRebuilds := ⟨injections, rebuildsAndTimeouts⟩

end Sys2Proof.Proofs
end

section
/-! SUPPORT. Fields of BT_CTL (R352), and faults of attraction memory that are queued for the host (R193, R197, R351, R358). -/

namespace Sys2Proof.Proofs

open Sys2Proof Sys2Proof.Machine

variable {s t u : State} {kind a gpn k n off c : Nat} {v x y : Word}

/-! ## Register fields -/

theorem and_masks_apart {m m' : Word} (apart : m &&& m' = 0) : (v &&& m) &&& (x &&& m') = 0 := by
  rw [BitVec.and_assoc, ← BitVec.and_assoc m, BitVec.and_comm m x, BitVec.and_assoc x, apart]
  simp

/-- Fields of a register that share no bit add up to their union. -/
theorem w64_add_apart {i j : Nat} (left : w64 i = x) (right : w64 j = y) (apart : x &&& y = 0) : w64 (i + j) = x ||| y := by
  subst left right
  exact (BitVec.ofNat_add _ _).trans (BitVec.add_eq_or_of_and_eq_zero _ _ apart)

theorem w64_low_bits {m : Nat} : w64 (v.toNat % 2 ^ m) = v &&& w64 (2 ^ m - 1) := by
  simpa using w64_field_in_place (v := v) (lo := 0) (m := m)

/-- STACK and BANK of BT_CTL, in their places. -/
theorem w64_bankFields : w64 (v.toNat % 8 + 2 ^ 8 * bits v.toNat 13 8) = v &&& 0x3F07 := by
  have stack : w64 (v.toNat % 8) = v &&& 7 := w64_low_bits (m := 3)
  have bank : w64 (2 ^ 8 * bits v.toNat 13 8) = v &&& 0x3F00 := by
    rw [Nat.mul_comm]
    exact w64_field_in_place (lo := 8) (m := 6)
  rw [w64_add_apart stack bank (and_masks_apart (by decide)), ← BitVec.and_or_distrib_left]
  rfl

theorem w64_bankFields_add {j : Nat} (flags : w64 j = x &&& 0x70000) :
    w64 (v.toNat % 8 + 2 ^ 8 * bits v.toNat 13 8 + j) = v &&& 0x3F07 ||| x &&& 0x70000 :=
  w64_add_apart w64_bankFields flags (and_masks_apart (by decide))

/-! ## Bank tests, the bad-frame list and self-refresh (R352, R353, R355) -/

theorem bankTestGo_starts (idle : s.hub.btCtl.getLsbD 17 = true) (go : v.getLsbD 16 = true)
    (parked : (v.toNat % 8, bits v.toNat 13 8) ∈ s.am.parked) (empty : bankHolds s (v.toNat % 8, bits v.toNat 13 8) = false) :
    ∃ t, exec (.bankTestGo v) s = .next t ∧ t.hub.btCtl = v &&& 0x3F07 ||| 0x10000 ∧ t.hub.btAt = s.now ∧ t.am = s.am := by
  refine ⟨s.modHub fun h => { h with btCtl := v &&& 0x3F07 ||| 0x10000, btAt := s.now }, ?_, rfl, rfl, rfl⟩
  have fields := w64_bankFields_add (v := v) (x := 0x10000) (j := 2 ^ 16) rfl
  show Host.Outcome.next (writeBtCtl s v) = _
  simp only [writeBtCtl, bit_toNat, idle, go, empty, List.contains_iff_mem.mpr parked, fields]
  rfl

theorem bankTestGo_refuses (idle : s.hub.btCtl.getLsbD 17 = true) (go : v.getLsbD 16 = true)
    (bad : (v.toNat % 8, bits v.toNat 13 8) ∉ s.am.parked ∨ bankHolds s (v.toNat % 8, bits v.toNat 13 8) = true) :
    ∃ t, exec (.bankTestGo v) s = .next t ∧ t.hub.btCtl = v &&& 0x3F07 ||| 0x60000 ∧ t.am = s.am := by
  refine ⟨s.modHub fun h => { h with btCtl := v &&& 0x3F07 ||| 0x60000 }, ?_, rfl, rfl⟩
  have fields := w64_bankFields_add (v := v) (x := 0x60000) (j := 2 ^ 17 + 2 ^ 18) rfl
  have unfit : ¬ (s.am.parked.contains (v.toNat % 8, bits v.toNat 13 8) = true ∧
      (!bankHolds s (v.toNat % 8, bits v.toNat 13 8)) = true) := by
    rintro ⟨parked, empty⟩
    rcases bad with away | holds
    · exact away (List.contains_iff_mem.mp parked)
    · simp [holds] at empty
  rw [← Nat.add_assoc] at fields
  show Host.Outcome.next (writeBtCtl s v) = _
  simp only [writeBtCtl, bit_toNat, idle, go, if_neg unfit, fields]
  rfl

theorem bankTestGo_ignored (quiet : s.hub.btCtl.getLsbD 17 = false ∨ v.getLsbD 16 = false) :
    exec (.bankTestGo v) s = .next (s.modHub fun h => { h with btCtl := v &&& 0x3F07 ||| h.btCtl &&& 0x70000 }) := by
  have flags : w64 (s.hub.btCtl.toNat / 2 ^ 16 % 8 * 2 ^ 16) = s.hub.btCtl &&& 0x70000 := w64_field_in_place (lo := 16) (m := 3)
  have fields := w64_bankFields_add (v := v) flags
  have still : (!v.getLsbD 16) = true ∨ (!s.hub.btCtl.getLsbD 17) = true := by
    rcases quiet with busy | noGo
    · exact .inr (by rw [busy]; rfl)
    · exact .inl (by rw [noGo]; rfl)
  show Host.Outcome.next (writeBtCtl s v) = _
  simp only [writeBtCtl, bit_toNat, if_pos still, State.modHub, fields]

theorem bankTestDone_ends (running : s.hub.btCtl.getLsbD 17 = false) (late : s.hub.btAt + 5242880 ≤ s.now) : exec (.bankTestDone v) s =
    .next (s.modHub fun h => { h with btCtl := h.btCtl &&& 0x4FFFF ||| 0x20000, btRes := v &&& 0x7FFFFFFFFFFFFF }) := by
  have result : w64 (v.toNat % 2 ^ 55) = v &&& 0x7FFFFFFFFFFFFF := w64_low_bits.trans (congrArg (v &&& ·) (by decide))
  have due : ¬ (bit s.hub.btCtl.toNat 17 = true ∨ s.now < s.hub.btAt + 5242880) := by
    rw [bit_toNat, running]
    simpa using late
  show execBankTestDone v s = _
  rw [execBankTestDone, if_neg due, result]

theorem badframeAppend_adds (room : s.hub.badFrames.length < 4096) : exec (.tmcBadframeAppend v) s =
    .next (s.modHub fun h => { h with badFrames := h.badFrames ++ [v &&& 0x3FFFFFF] }) := by
  have frame : w64 (v.toNat % 2 ^ 26) = v &&& 0x3FFFFFF := w64_low_bits
  show execTmcBadframeAppend v s = _
  rw [execTmcBadframeAppend, if_neg (Nat.not_le.mpr room), frame]

theorem selfRefreshEntry_enters {p : Nat} (stack : k < 8) (channel : p < 32) (awake : 32 * k + p ∉ s.hub.selfRef)
    (idle : tget 0 s.hub.chanUse (32 * k + p) + 2 ^ 16 ≤ s.cycle) :
    exec (.selfRefreshEntry k p) s = .next (s.modHub fun h => { h with selfRef := (32 * k + p) :: h.selfRef }) := by
  have due : ¬ (8 ≤ k ∨ 32 ≤ p ∨ s.hub.selfRef.contains (32 * k + p) = true ∨ s.cycle < tget 0 s.hub.chanUse (32 * k + p) + 2 ^ 16) := by
    rw [List.contains_iff_mem]
    simp only [not_or]
    exact ⟨by omega, by omega, awake, by omega⟩
  exact congrArg Host.Outcome.next (if_neg due)

theorem banksTested : Claim.BanksTested := by
  intro s v
  refine ⟨?_, ?_, bankTestGo_ignored, bankTestDone_ends, badframeAppend_adds, ?_⟩
  · intro idle go parked empty
    exact bankTestGo_starts idle go parked empty
  · intro idle go bad
    exact bankTestGo_refuses idle go bad
  · intro k p stack channel awake idle
    exact selfRefreshEntry_enters stack channel awake idle

/-! ## The fault-address queue (R193, R197, R351) -/

/-- A held queue keeps its records. -/
theorem flushFaq_held (held : s.hub.faqHold = true) : flushFaq n s = s := by
  cases n with
  | zero => rfl
  | succ fuel =>
    unfold flushFaq
    simp only [held, true_or, if_true]
    split <;> rfl

theorem faqEffect_hub : (faqEffect s kind a gpn).hub.faq = s.hub.faq ∧ (faqEffect s kind a gpn).hub.faqHold = s.hub.faqHold := by
  unfold faqEffect
  dsimp only
  split
  · exact ⟨rfl, rfl⟩
  · exact ⟨rfl, rfl⟩
  · generalize (tagAt s (faqSet a) (faqWay a)).filter _ = lost
    cases lost with
    | none => exact ⟨rfl, rfl⟩
    | some x => exact (dropPage_gone (s := s) (gpn := x.gpn)).hub
  · exact ⟨rfl, rfl⟩

theorem faqEffect_minor (minor : kind ≤ 2) : faqEffect s kind a gpn = s := by
  unfold faqEffect
  dsimp only
  split
  · exact absurd minor (by decide)
  · exact absurd minor (by decide)
  · exact absurd minor (by decide)
  · rfl

theorem lookup_map_const {α : Type} {b : Nat} {i : α} {l : List Nat} {r : List (Nat × α)} (listed : k ∈ l) :
    (l.map (fun k => (b + k, i)) ++ r).lookup (b + k) = some i := by
  induction l with
  | nil => cases listed
  | cons j l ih =>
    rw [List.map_cons, List.cons_append, List.lookup_cons]
    split
    · rfl
    · next other =>
      exact ih ((List.mem_cons.mp listed).resolve_left fun same => by simp [same] at other)

/-- Kind 3 poisons a block; a line that L2 holds wholly overwritten keeps its own bytes. -/
theorem faqEffect_poisons (inside : k < 4) (partly : s.am.whole.contains (512 * gpn + bits a 64 56 / 4 * 4 + k) = false) :
    poisonAt (faqEffect s 3 a gpn) (512 * gpn + bits a 64 56 / 4 * 4 + k) = some Tc.amMetaUe := by
  have plain : (faqEffect s 3 a gpn).am.whole.contains (512 * gpn + bits a 64 56 / 4 * 4 + k) = false := partly
  rw [poisonAt, plain, Bool.false_and, if_neg Bool.false_ne_true]
  exact lookup_map_const (List.mem_range.mpr inside)

theorem tagAt_retireFrame {set way : Nat} : (tagAt (retireFrame s set way) set way).map (·.state) = some .retired := by
  have here : tagAt (retireFrame s set way) set way = some { newTag s set way 0 .retired false false false 0 0 with pin := false } :=
    List.find?_cons_of_pos (by simp [newTag])
  rw [here]
  rfl

/-- The first two bytes of a record are its kind. -/
theorem faqWords_kind (low : kind ≤ 5) : ((faqWords s kind a gpn).getD 0 0).toNat % 2 ^ 16 = kind := by
  have word : (faqWords s kind a gpn).getD 0 0 = w64 (field (leBytes 2 kind ++ leBytes 8 a ++ List.replicate 6 0) 0 8) := rfl
  have bytes : field (leBytes 2 kind ++ leBytes 8 a ++ List.replicate 6 0) 0 8 =
      kind % 256 + 256 * (kind / 256 % 256 + 256 * leNat ((leBytes 8 a ++ List.replicate 6 0).take 6)) := by
    simp [field, leBytes, leNat]
  rw [word, bytes, w64, BitVec.toNat_ofNat]
  omega

theorem keepFaq_room {r : List Word} (room : s.hub.faq.length < 256) :
    keepFaq s r = s.modHub fun h => { h with faq := h.faq ++ [r] } := by
  rw [keepFaq]
  simp only [State.modHub, if_neg (Nat.not_le.mpr room)]

theorem faqRecord_keeps (held : s.hub.faqHold = true) (room : s.hub.faq.length < 256) (least : 1 ≤ kind) (most : kind ≤ 5) :
    ∃ t r, exec (.faqRecord kind a gpn) s = .next t ∧ t.hub.faq = s.hub.faq ++ [r] ∧
      (r.getD 0 0).toNat % 2 ^ 16 = kind ∧ r.getD 2 0 = w64 gpn ∧ r.getD 3 0 = w64 s.cycle ∧
      (kind ≤ 2 → t.am = s.am ∧ t.mem = s.mem) ∧
      (kind = 3 → ∀ k, k < 4 → s.am.whole.contains (512 * gpn + bits a 64 56 / 4 * 4 + k) = false →
        poisonAt t (512 * gpn + bits a 64 56 / 4 * 4 + k) = some Tc.amMetaUe) ∧
      (kind = 5 → (tagAt t (bits a 47 16) (bits a 55 48)).map (·.state) = some .retired) := by
  obtain ⟨faq, hold⟩ := faqEffect_hub (s := s) (kind := kind) (a := a) (gpn := gpn)
  have minor (small : kind ≤ 2) : faqEffect s kind a gpn = s := faqEffect_minor small
  have poisons : kind = 3 → ∀ k, k < 4 → s.am.whole.contains (512 * gpn + bits a 64 56 / 4 * 4 + k) = false →
      poisonAt (faqEffect s kind a gpn) (512 * gpn + bits a 64 56 / 4 * 4 + k) = some Tc.amMetaUe := by
    rintro rfl k inside partly
    exact faqEffect_poisons inside partly
  have retires : kind = 5 → (tagAt (faqEffect s kind a gpn) (bits a 47 16) (bits a 55 48)).map (·.state) = some .retired := by
    rintro rfl
    exact tagAt_retireFrame
  have runs : exec (.faqRecord kind a gpn) s = .next (writeFaq (keepFaq (faqEffect s kind a gpn) (faqWords s kind a gpn))) :=
    congrArg Host.Outcome.next (if_pos ⟨least, most⟩)
  generalize faqEffect s kind a gpn = q at faq hold minor poisons retires runs
  rw [keepFaq_room (by rwa [faq]), writeFaq, flushFaq_held (by rw [State.modHub_hub]; exact hold.trans held)] at runs
  refine ⟨_, faqWords s kind a gpn, runs, congrArg (· ++ [faqWords s kind a gpn]) faq, faqWords_kind most, rfl, rfl, fun small => ?_,
    poisons, retires⟩
  rw [minor small]
  exact ⟨rfl, rfl⟩

theorem fqBaseWrite_restarts (low : c < 64) (here : c < s.ctxs.length) : ∃ t, exec (.ringBaseWrite (0x40018 + 0x200 * c) v) s = .next t ∧
    (ctxAt t c).fqBase = Claim.page4k v ∧ (ctxAt t c).fqHold = false ∧ (ctxAt t c).fqTail = 0 := by
  have runs : exec (.ringBaseWrite (0x40018 + 0x200 * c) v) s = .next (writeFqBase s c v) := by
    have index : (0x40018 + 0x200 * c - 0x40000) / 0x200 = c := by omega
    show execRingBaseWrite _ v s = _
    rw [execRingBaseWrite, if_neg (by omega), if_neg (by omega), if_pos (by omega), index]
  refine ⟨_, runs, ?_⟩
  rw [writeFqBase, ctxAt_modCtx_same _ here]
  exact ⟨w64_page, rfl, rfl⟩

theorem faultAddressesQueued : Claim.FaultAddressesQueued := by
  intro s kind a gpn held room _
  refine ⟨fun least most => faqRecord_keeps held room least most, fun v => ?_, fun c v low here => fqBaseWrite_restarts low here⟩
  exact congrArg (fun b => Host.Outcome.next (s.modHub fun h => { h with amqBase := b, amqHold := false })) w64_page

end Sys2Proof.Proofs
end

section
/-! SUPPORT. Stations and lost packages (R361 to R365): what the loss of a package leaves of groups, links and the list of the lost. -/

namespace Sys2Proof.Proofs

open Sys2Proof Sys2Proof.Machine

variable {s t u : State} {gpn k j : Nat} {e : DirEntry}

/-- The groups, the hub and the packages known as lost are the same. -/
structure SameLinks (s t : State) : Prop where
  groups : t.groups = s.groups
  hub    : t.hub = s.hub
  lost   : t.am.lost = s.am.lost

theorem SameLinks.refl : SameLinks s s := ⟨rfl, rfl, rfl⟩

theorem SameLinks.trans (h : SameLinks s t) (h' : SameLinks t u) : SameLinks s u :=
  ⟨h'.groups.trans h.groups, h'.hub.trans h.hub, h'.lost.trans h.lost⟩

theorem sameLinks_foldl {α : Type} {f : State → α → State} (keeps : ∀ s x, SameLinks s (f s x)) (l : List α) (s : State) :
    SameLinks s (l.foldl f s) :=
  List.foldlRecOn (motive := SameLinks s) l f .refl fun _ h x _ => h.trans (keeps _ x)

theorem send_sameLinks {dst : Nat} {msg : Msg} : SameLinks s (send s dst msg) := ⟨rfl, rfl, rfl⟩

theorem offerRound_sameLinks : SameLinks s (offerRound s gpn) := by
  unfold offerRound
  extract_lets go l s1
  cases l <;> exact ⟨rfl, rfl, rfl⟩

theorem startInject_sameLinks {mirror : Option Nat} : SameLinks s (startInject s gpn mirror) := by
  unfold startInject
  split
  · exact .refl
  · extract_lets s1 s2
    have begun : SameLinks s s2 := by
      unfold s2
      split <;> exact ⟨rfl, rfl, rfl⟩
    exact begun.trans offerRound_sameLinks

theorem finishCrown_sameLinks {tx : DirTx} : SameLinks s (finishCrown s e tx) := by
  unfold finishCrown
  dsimp only
  split <;> exact ⟨rfl, rfl, rfl⟩

theorem endRebuild_sameLinks : SameLinks s (endRebuild s e) := by
  unfold endRebuild
  split
  · exact SameLinks.trans (t := bumpStat (dirMod s e.gpn _) 12) ⟨rfl, rfl, rfl⟩ (sameLinks_foldl (fun _ _ => send_sameLinks) _ _)
  · exact ⟨rfl, rfl, rfl⟩

theorem loseTx_sameLinks {gone : Nat → Bool} : SameLinks s (loseTx s e gone) := by
  unfold loseTx
  split
  · exact .refl
  · dsimp only
    split_ifs
    · exact SameLinks.trans (t := dirMod s e.gpn _) ⟨rfl, rfl, rfl⟩ endRebuild_sameLinks
    · exact ⟨rfl, rfl, rfl⟩
    · exact ⟨rfl, rfl, rfl⟩
    · exact .refl
    · exact SameLinks.trans (t := dirMod s _ _) ⟨rfl, rfl, rfl⟩ finishCrown_sameLinks
    · exact ⟨rfl, rfl, rfl⟩

theorem loseEntry_sameLinks {l : List Nat} : SameLinks s (loseEntry l s e) := by
  unfold loseEntry
  extract_lets gone s1 e1 s2 told
  have entered : SameLinks s s2 := SameLinks.trans (t := s1) loseTx_sameLinks ⟨rfl, rfl, rfl⟩
  refine entered.trans ?_
  split
  · exact .refl
  · split
    · split
      · refine SameLinks.trans ?_ startInject_sameLinks
        exact ⟨rfl, rfl, rfl⟩
      · have same : SameLinks s2 told := sameLinks_foldl (fun _ _ => send_sameLinks) _ s2
        clear_value told
        exact same.trans ⟨rfl, rfl, rfl⟩
    · split
      · refine SameLinks.trans ?_ startInject_sameLinks
        exact ⟨rfl, rfl, rfl⟩
      · exact .refl

theorem nextOffer_sameLinks : SameLinks s (nextOffer s gpn) := by
  unfold nextOffer
  split
  · exact .refl
  · split <;> exact ⟨rfl, rfl, rfl⟩

theorem reportsIn_sameLinks : SameLinks s (reportsIn s) := by
  refine sameLinks_foldl (fun s e => ?_) _ s
  split
  · exact .refl
  · exact endRebuild_sameLinks

/-- The loss of packages is noted, and touches neither the groups nor the hub. -/
theorem losePackages_notes (s : State) (l : List Nat) :
    (losePackages s l).groups = s.groups ∧ (losePackages s l).hub = s.hub ∧ (losePackages s l).am.lost = s.am.lost ++ l := by
  unfold losePackages
  extract_lets moves moved asked s1 s2 s3 s4 away
  have entries : SameLinks s1 s2 := sameLinks_foldl (fun _ _ => loseEntry_sameLinks) _ s1
  have reported : SameLinks s2 s3 := sameLinks_foldl (fun _ _ => send_sameLinks) moved s2
  have told : SameLinks s3 s4 := sameLinks_foldl (fun _ _ => send_sameLinks) _ s3
  have offered : SameLinks s4 (away.foldl (fun s x => nextOffer s x.gpn) s4) := sameLinks_foldl (fun _ _ => nextOffer_sameLinks) away s4
  obtain ⟨groups, hub, lost⟩ := (((entries.trans reported).trans told).trans offered).trans reportsIn_sameLinks
  exact ⟨groups, hub, lost⟩

/-! ## Stations -/

theorem stationStateChange_down (station : k < 16) : ∃ t, exec (.stationStateChange k false) s = .next t ∧
    t.hub.stnUp = s.hub.stnUp &&& ~~~(1#16 <<< k) ∧ t.mem = s.mem := by
  refine ⟨s.modHub fun h => { h with stnUp := h.stnUp &&& ~~~(1#16 <<< k) }, ?_, rfl, rfl⟩
  show execStationStateChange k false s = _
  rw [execStationStateChange, if_neg (by omega), if_neg (by simp [station])]
  rfl

theorem stationStateChange_up (station : k < 16) (found : s.am.lost = []) (alone : s.hub.aidClash = false) :
    ∃ t, exec (.stationStateChange k true) s = .next t ∧ t.hub.stnUp = s.hub.stnUp ||| (1#16 <<< k) ∧ t.mem = s.mem := by
  refine ⟨s.modHub fun h => { h with stnUp := h.stnUp ||| (1#16 <<< k) }, ?_, rfl, rfl⟩
  show execStationStateChange k true s = _
  rw [execStationStateChange, if_neg (by omega), if_neg (by simp [station, selfLost, found, alone])]
  rfl

theorem stationStateChange_clash (station : k < 16) (clash : s.hub.aidClash = true) : exec (.stationStateChange k true) s = .next s := by
  show execStationStateChange k true s = _
  rw [execStationStateChange, if_neg (by omega), if_pos (.inr ⟨rfl, .inr clash⟩)]

/-! ## Lost packages -/

/-- The package whose bit of POD_LOST is set anew is the one that is lost. -/
theorem newlyLost (old : Word) (bit_ : j < 64) (clear : old.getLsbD j = false) :
    ((List.range 64).filter fun i => (1#64 <<< j).getLsbD i && !old.getLsbD i).map (64 * k + ·) = [64 * k + j] := by
  have single : ∀ j : Fin 64, (List.range 64).filter (· == j.val) = [j.val] := by decide
  have same : ((List.range 64).filter fun i => (1#64 <<< j).getLsbD i && !old.getLsbD i) = (List.range 64).filter (· == j) := by
    refine List.filter_congr fun i hi => ?_
    have low : i < 64 := List.mem_range.mp hi
    by_cases this : i = j
    · subst this
      rw [clear]
      simp [low]
    · have apart : (1#64 <<< j).getLsbD i = false := by
        rw [BitVec.getLsbD_shiftLeft, BitVec.getLsbD_one]
        simp
        omega
      simp [apart, this]
  rw [same, single ⟨j, bit_⟩]
  rfl

/-- A fabric command that is not over and names a lost package is over with status 0x04. -/
theorem loseCommands_ends {l : List Nat} {x : Engine} {c : EngCmd} (cmds : x.cmds = [c]) (opc : cmdOpc c = 0x14)
    (names : cmdWord c 1 % 1024 ∈ l) (running : c.fin = false) :
    ∃ f, (loseCommands l x).cmds = [f] ∧ f.stat = 4 ∧ f.fin = true := by
  have named : namesAid l c = true := by
    have signal : (c.words.getD 0 0).toNat % 256 = 0x14 := opc
    have away : (c.words.getD 1 0).toNat % 1024 ∈ l := names
    simp only [namesAid, signal, List.contains_iff_mem.mpr away]
    rfl
  refine ⟨{ c with stat := 4, fin := true, began := true, acks := 0, buf := none }, ?_, rfl, rfl⟩
  show x.cmds.map _ = _
  rw [cmds, List.map_singleton, named, running]
  rfl

theorem groupAt_map {f : Group → Group} {gi : Nat} (present : gi < s.groups.length) (same : t.groups = s.groups) :
    groupAt { t with groups := t.groups.map f } gi = f (groupAt s gi) := by
  simp [groupAt, same, List.getD_eq_getElem?_getD, present]

theorem podLost_loses (register : k < 16) (bit_ : j < 64) (registers : s.hub.podLost.length = 16)
    (clear : (s.hub.podLost.getD k 0).getLsbD j = false) (other : 64 * k + j ≠ aid s) :
    ∃ t, exec (.podLost k (1#64 <<< j)) s = .next t ∧ (t.hub.podLost.getD k 0).getLsbD j = true ∧ 64 * k + j ∈ t.am.lost ∧
      t.hub.stnUp = s.hub.stnUp ∧
      ∀ gi e, gi < s.groups.length → (groupAt s gi).fabric.cmds = [e] → cmdOpc e = 0x14 → cmdWord e 1 % 1024 = 64 * k + j → e.fin = false →
        ∃ f, (groupAt t gi).fabric.cmds = [f] ∧ f.stat = 4 ∧ f.fin = true := by
  let s1 := s.modHub fun h => { h with podLost := h.podLost.set k (s.hub.podLost.getD k 0 ||| 1#64 <<< j) }
  let fail (g : Group) : Group := { g with fabric := loseCommands [64 * k + j] g.fabric }
  obtain ⟨groups, hub, lost⟩ := losePackages_notes s1 [64 * k + j]
  have runs : exec (.podLost k (1#64 <<< j)) s = .next (writePodLost s k (1#64 <<< j)) := rfl
  simp only [writePodLost, newlyLost _ bit_ clear] at runs
  rw [if_neg (by simp [register])] at runs
  generalize losePackages _ [64 * k + j] = s2 at groups hub lost runs
  have self : [64 * k + j].contains (aid s2) = false := by
    have same : aid s2 = aid s := by rw [aid, hub]; rfl
    rw [same]
    simpa using Ne.symm other
  have stays : ¬ [64 * k + j].contains (aid { s2 with groups := s2.groups.map fail }) = true := ne_true_of_eq_false self
  rw [if_neg stays] at runs
  have stations : s2.hub.stnUp = s1.hub.stnUp := congrArg Hub.stnUp hub
  refine ⟨_, runs, ?_, ?_, stations, ?_⟩
  · have there : (s2.hub.podLost.getD k 0).getLsbD j = true := by
      rw [hub]
      show ((s.hub.podLost.set k _).getD k 0).getLsbD j = true
      simp [List.getD_eq_getElem?_getD, registers, register, bit_]
    exact there
  · show 64 * k + j ∈ s2.am.lost
    rw [lost]
    exact List.mem_append_right _ (List.mem_singleton.mpr rfl)
  · intro gi e present cmds opc names running
    have failed : groupAt (sendMvec { s2 with groups := s2.groups.map fail }) gi = fail (groupAt s gi) := groupAt_map present groups
    rw [failed]
    exact loseCommands_ends cmds opc (List.mem_singleton.mpr names) running

theorem linksAndLostPackages : Claim.LinksAndLostPackages := by
  intro s k
  refine ⟨stationStateChange_down, stationStateChange_up, stationStateChange_clash, ?_, fun _ => rfl⟩
  intro j register bit_ registers clear other
  exact podLost_loses register bit_ registers clear other

/-- Settles O52, with GO of BT_CTL reading 1 until DONE (notes/assumptions/86.md). -/
theorem memoryFaultsAndLinks : Obligations.MemoryFaultsAndLinks := ⟨faultAddressesQueued, banksTested, linksAndLostPackages⟩

end Sys2Proof.Proofs
end

section
/-! SUPPORT. Lane memory words: the address of a lane, the checks before issue, and the set that is issued (R202 to R213, R215, R230). -/

namespace Sys2Proof.Proofs

open Sys2Proof Sys2Proof.Machine

set_option Elab.async false

variable {s : State} {g : Group} {maj n : Nat} {w : LaneW} {l : Lane}

/-! ## Addresses (R202) -/

/-- The majors of R207 to R213, and PREF. -/
abbrev memMajors : List Nat := [0x70, 0x71, 0x72, 0x73, 0x74, 0x75, 0x76, 0x77, 0x78, 0x79]

/-- Every memory word names its base in VA. -/
theorem rowD_va_of_mem (mem : maj ∈ memMajors) (opx : BitVec 3) : (rowD maj opx).va = .base := by
  have base : ∀ m ∈ memMajors, (laneRows.lookup m).map (·.va) = some .base ∧ m ≠ 0x62 ∧ m ≠ 0x66 := by decide
  obtain ⟨va, other, other'⟩ := base maj mem
  obtain ⟨r, row, va⟩ := Option.map_eq_some_iff.mp va
  simp only [rowD, rowFor, row, other, other', if_false, false_and, Option.getD_some, va]

/-- Two's complement of the low bits of a word (R4). -/
theorem signedOf_setWidth {k : Nat} (v : W32) : signedOf (k + 1) v.toNat = (v.setWidth (k + 1)).toInt := by
  rw [signedOf, BitVec.toInt_eq_toNat_cond, BitVec.toNat_setWidth, Nat.add_sub_cancel, Nat.pow_succ]
  split <;> split <;> omega

theorem dispOf_eq (mem : maj ∈ memMajors) : dispOf maj w = if 0x76 ≤ maj then (w.imm.setWidth 24).toInt else w.imm.toInt := by
  have coded : ∀ m ∈ memMajors, (m = 0x76 ∨ m = 0x77 ∨ m = 0x78 ∨ m = 0x79) ↔ 0x76 ≤ m := by decide
  have whole : w.imm.toInt = (w.imm.setWidth 32).toInt := by rw [BitVec.setWidth_eq]
  simp only [dispOf, coded maj mem, whole, signedOf_setWidth]

theorem vwide_single {r : Nat} : l.vwide 32 r = (l.vreg r).toNat := Nat.mod_eq_of_lt (l.vreg r).isLt

/-- An address is taken modulo 2^64. -/
theorem wrapInt_cast (z : Int) : ((wrapInt 64 z : Nat) : Int) = z % 2 ^ 64 :=
  Int.toNat_of_nonneg (Int.emod_nonneg _ (by decide))

theorem effectiveAddress : Claim.EffectiveAddress := by
  intro maj w s g l mem
  have global : ∀ m ∈ memMajors, (m != 0x72 && (m != 0x73 && m != 0x77)) = decide (m ∉ [0x72, 0x73, 0x77]) := by decide
  have based : ((rowD maj w.opx).va == .base) = true := beq_iff_eq.mpr (rowD_va_of_mem mem w.opx)
  unfold effAddr
  simp only [laneIn, based, Bool.and_true, Bool.and_assoc, global maj mem, Bool.and_eq_true, decide_eq_true_eq, vwide_single, wrapInt_cast,
    dispOf_eq mem]
  rfl

/-! ## Traps of an address (R204, R230) -/

/-- A lane word whose own check fails traps with what the check says. -/
theorem memExec_traps {kind : SetKind} {dest : Dest} {k : Nat} {t : LTrap} (go : LaneGo maj w s g)
    (fails : memChecks (laneIn maj w s g) = some t) :
    memExec maj w s kind dest k = .next (laneTrap s s.cur g s.path1 t.cause t.lanes t.addr t.info) := by
  rw [memExec, laneExec_go go, fails]

/-- The address of the one acting lane. -/
theorem laneAddrs_one (one : acting (laneIn maj w s g) = [n]) (voter : (laneAt g n).helper = false) :
    laneAddrs (laneIn maj w s g) = [(n, effAddr (laneIn maj w s g) (laneAt g n), false)] := by
  simp only [laneAddrs, one, List.map_cons, List.map_nil]
  exact congrArg (fun h => [(n, _, h)]) voter

section
variable {x : LaneIn} {va : Nat} {c : Cause} (word : memWordFails x = none) (one : laneAddrs x = [(n, va, false)])
include word one

/-- The one acting lane's address is out of range. -/
theorem memChecks_range (range : rangeFails x va = some c) :
    memChecks x = some { cause := c, lanes := maskOf [n], addr := w64 va } := by
  simp [memChecks, word, one, range]

/-- The one acting lane's address is in range, and no multiple of an atomic's width. -/
theorem memChecks_align (atomic : x.maj = 0x76) (range : rangeFails x va = none) (odd : va % accessBytes x ≠ 0) :
    memChecks x = some { cause := Tc.atomicAlign, lanes := maskOf [n], addr := w64 va } := by
  simp [memChecks, word, one, range, atomic, odd]

end

theorem laneAddressTraps : Claim.LaneAddressTraps := by
  intro w s g n one voter
  constructor
  · intro go high
    exact memExec_traps go (memChecks_range rfl (laneAddrs_one one voter) (if_pos high))
  · intro go code low odd
    have word : memWordFails (laneIn 0x76 w s g) = none := by
      show (match opFails 0x76 w with | some c => some c | none => none) = none
      rw [code]
    exact memExec_traps go (memChecks_align word (laneAddrs_one one voter) rfl (if_neg (Nat.not_le.mpr low)) odd)

/-- Settles O21: the model's displacement is the sign-extended field of R202, and with one acting lane the failing lanes are that lane. -/
theorem effectiveAddresses : Obligations.EffectiveAddresses := ⟨effectiveAddress, laneAddressTraps⟩

/-! ## Issue (R207 to R213, R215) -/

theorem exec_of_memForm {i : Instr} {kind : SetKind} {dest : Dest} {k : Nat} (form : Claim.memForm i = some (maj, w, kind, dest, k)) :
    exec i s = memExec maj w s kind dest k := by
  unfold Claim.memForm at form
  split at form <;> cases form <;> rfl

/-- The group of a memory word that issues: the window names the new set, the counter rises, a store-class set restarts the progress count. -/
def memIssued (x : LaneIn) (kind : SetKind) (k : Nat) : Group :=
  let h := advance x (some x.s.nextSet) x.g
  { h with ifc := h.ifc.modify k (· + 1), prog := if storeClass kind then 0 else h.prog }

section
variable {kind : SetKind} {dest : Dest} {k : Nat} (go : LaneGo maj w s g) (checks : memChecks (laneIn maj w s g) = none)
  (room : (setsOf s (.lane s.cur)).length < 16)
include go checks room

theorem memExec_performs : memExec maj w s kind dest k = .next (memEff kind dest k (laneIn maj w s g)) := by
  have free : partyFull s (.lane s.cur) = false := by simpa [partyFull] using room
  rw [memExec, laneExec_go go, checks]
  exact if_neg (ne_true_of_eq_false free)

theorem memExec_idle (none_ : acting (laneIn maj w s g) = []) :
    memExec maj w s kind dest k = .next (s.setGroup s.cur (advance (laneIn maj w s g) none g)) := by
  have empty : memAccs (laneIn maj w s g) kind = [] := by simp only [memAccs, laneAddrs, none_]; rfl
  rw [memExec_performs go checks room, memEff]
  exact congrArg _ (if_pos (by simp [laneSet, empty]))

theorem memExec_issues (some_ : memAccs (laneIn maj w s g) kind ≠ []) :
    memExec maj w s kind dest k = .next (issueSet (s.setGroup s.cur (memIssued (laneIn maj w s g) kind k)) (laneSet (laneIn maj w s g) kind dest k)) := by
  rw [memExec_performs go checks room, memEff]
  exact congrArg _ (if_neg (by simpa [laneSet] using some_))

end

theorem pathOf_memIssued (x : LaneIn) {kind : SetKind} {k : Nat} :
    pathOf (memIssued x kind k) x.path1 = pathOf (advance x (some x.s.nextSet) x.g) x.path1 := by
  cases h : x.path1 <;> rfl

theorem prog_advance (x : LaneIn) {set : Option Nat} : (advance x set g).prog = g.prog := by
  unfold advance modPath setPath
  cases x.path1 <;> rfl

/-- An acting lane that is no helper has an access of the word's width at its address. -/
theorem mem_memAccs {x : LaneIn} {kind : SetKind} (act : n ∈ acting x) (voter : (laneAt x.g n).helper = false) :
    ∃ c ∈ memAccs x kind, c.lane = n ∧ c.va = effAddr x (laneAt x.g n) ∧ c.n = accessBytes x := by
  have listed : (n, effAddr x (laneAt x.g n), false) ∈ laneAddrs x := List.mem_map.mpr ⟨n, act, by rw [voter]⟩
  exact ⟨_, List.mem_filterMap.mpr ⟨_, listed, rfl⟩, rfl, rfl, rfl⟩

theorem laneMemoryIssuesOneSet : Claim.LaneMemoryIssues := by
  intro i maj w kind dest k s g form go checks room x a
  rw [exec_of_memForm form]
  refine ⟨memExec_idle go checks room, fun some_ => ⟨memIssued x kind k, memExec_issues go checks room some_, ?_⟩, fun n => mem_memAccs⟩
  obtain ⟨lanes, regs, -, -, -, -, ifc, -⟩ := advance_keeps (g := g) x (set := some s.nextSet)
  have path := pathOf_advance (g := g) x (set := some s.nextSet)
  exact ⟨congrArg (List.modify · k (· + 1)) ifc, lanes, regs, congrArg (if storeClass kind then 0 else ·) (prog_advance x),
    (congrArg Path.lpc ((pathOf_memIssued x).trans path) :)⟩

/-! ## Prefetches (R209) -/

/-- Between `s` and `t` no byte of memory has changed, no group has come or gone, and with no region open no set has changed either. -/
structure KeepsWork (s t : State) : Prop where
  mem    : t.mem = s.mem
  groups : t.groups.length = s.groups.length
  sets   : s.dom.slots = [] → t.dom.slots = [] ∧ t.sets = s.sets

variable {t u : State} {line gpn core lo c va : Nat}

theorem KeepsWork.of_same (mem : t.mem = s.mem := by rfl) (groups : t.groups = s.groups := by rfl) (slots : t.dom.slots = s.dom.slots := by rfl)
    (sets : t.sets = s.sets := by rfl) : KeepsWork s t :=
  ⟨mem, congrArg List.length groups, fun none_ => ⟨slots.trans none_, sets⟩⟩

theorem KeepsWork.refl : KeepsWork s s := .of_same

theorem KeepsWork.trans (h : KeepsWork s t) (h' : KeepsWork t u) : KeepsWork s u where
  mem := h'.mem.trans h.mem
  groups := h'.groups.trans h.groups
  sets none_ := by
    obtain ⟨slots, sets⟩ := h.sets none_
    obtain ⟨slots', sets'⟩ := h'.sets slots
    exact ⟨slots', sets'.trans sets⟩

theorem keepsWork_foldl {α : Type} {f : State → α → State} (keeps : ∀ s x, KeepsWork s (f s x)) (l : List α) (s : State) :
    KeepsWork s (l.foldl f s) :=
  List.foldlRecOn (motive := KeepsWork s) l f .refl fun _ h x _ => h.trans (keeps _ x)

/-- With no region open there is nothing to abort. -/
theorem abortOne_keepsWork {k : BitVec 4} {b : Nat} : KeepsWork s (abortOne s n k b) := by
  unfold abortOne
  split
  · exact .refl
  next y open_ =>
    dsimp only
    split
    · exact .refl
    · refine ⟨rfl, List.length_modify .., fun none_ => ?_⟩
      simp [slotAt, none_] at open_

theorem abortRegion_keepsWork {k : BitVec 4} {b : Nat} : KeepsWork s (abortRegion s n k b) :=
  (keepsWork_foldl (fun _ _ => abortOne_keepsWork) _ s).trans
    (keepsWork_foldl (fun s _ => keepsWork_foldl (fun _ _ => abortOne_keepsWork) _ s) _ _)

theorem modAm_keepsWork {f : Am → Am} : KeepsWork s (s.modAm f) := .of_same
theorem modHub_keepsWork {f : Hub → Hub} : KeepsWork s (s.modHub f) := .of_same
theorem l1Put_keepsWork {l : L1Line} : KeepsWork s (l1Put s l) := .of_same

theorem setSector_keepsWork {v : Nat × Nat} : KeepsWork s (setSector s n v) := by
  unfold setSector
  split <;> exact .of_same

theorem publishLine_keepsWork : KeepsWork s (publishLine s line) := by
  unfold publishLine
  split
  · exact .refl
  · exact (keepsWork_foldl (fun _ _ => setSector_keepsWork) (List.range 4) s).trans l1Put_keepsWork

theorem sampleLine_keepsWork {hs : Bool} : KeepsWork s (sampleLine s gpn line hs) := by
  unfold sampleLine
  extract_lets key k s1
  have sampled : KeepsWork s s1 := modHub_keepsWork.trans modAm_keepsWork
  split
  · exact sampled.trans modAm_keepsWork
  · exact sampled

theorem writeBlock_keepsWork : KeepsWork s (writeBlock s n) := by
  unfold writeBlock
  exact modHub_keepsWork.trans modAm_keepsWork

theorem writeBack_keepsWork : KeepsWork s (writeBack s line) := by
  unfold writeBack
  dsimp only
  split
  · exact sampleLine_keepsWork.trans writeBlock_keepsWork
  · exact sampleLine_keepsWork

theorem evictLine_keepsWork : KeepsWork s (evictLine s line) := by
  have aborted : KeepsWork s ((lineMarkers s line).foldl (fun s x => abortRegion s x 3 x) s) :=
    keepsWork_foldl (fun _ _ => abortRegion_keepsWork) _ s
  unfold evictLine
  extract_lets s1 times block clean s2 s3 s4 s5
  have marked : KeepsWork s1 s4 := .of_same
  have written : KeepsWork s4 s5 := by
    unfold s5
    split
    · exact writeBack_keepsWork
    · exact .refl
  exact ((aborted.trans marked).trans written).trans .of_same

theorem l2Room_keepsWork : KeepsWork s (l2Room s line) := by
  unfold l2Room
  split
  · exact .refl
  · dsimp only
    split
    · exact .refl
    · split
      · exact .trans .of_same evictLine_keepsWork
      · exact .refl

theorem fillL2_keepsWork : KeepsWork s (fillL2 s line) := l2Room_keepsWork.trans .of_same

theorem l1Install_keepsWork {narrow : Option (Scope × Nat)} : KeepsWork s (l1Install s core lo n narrow) := by
  have evicted : KeepsWork s (l1Evict s core (lo / 128)) := by
    unfold l1Evict
    dsimp only
    split
    · exact .refl
    · split
      · exact .refl
      next v _ =>
        have drawn : KeepsWork s (s.modHub fun h => { h with draws := h.draws + 1 }) := .of_same
        have published := drawn.trans (publishLine_keepsWork (line := v.line))
        exact published.trans .of_same
  exact evicted.trans .of_same

theorem noteHost_keepsWork {pte : Word} {wr : Bool} : KeepsWork s (noteHost s lo n pte wr) := by
  unfold noteHost
  split
  · exact .of_same
  · exact .refl

theorem startClimb_keepsWork {pte : Word} {who : Issuer} : KeepsWork s (startClimb s gpn line pte who) := by
  unfold startClimb
  dsimp only
  split <;> exact .of_same

theorem prefetchLine_keepsWork {hs : Bool} {sc : Scope} : KeepsWork s (prefetchLine s core line hs sc) := by
  have filled : KeepsWork s (if (!devicePage (line / 512) || inL2 s line) = true then s else fillL2 (sampleLine s (line / 512) line hs) line) := by
    split
    · exact .refl
    · exact sampleLine_keepsWork.trans fillL2_keepsWork
  unfold prefetchLine
  dsimp only
  split
  · split
    · exact .refl
    · exact filled.trans l1Install_keepsWork
  · split
    · exact .refl
    · exact filled
  · exact .refl

theorem prefetch_keepsWork {sc : Scope} : KeepsWork s (prefetch s core c va sc) := by
  unfold prefetch
  dsimp only
  split
  · exact .refl
  · split
    · split
      · exact .trans .of_same startClimb_keepsWork
      · exact .refl
    · split
      · exact .refl
      · split
        · exact .refl
        · split
          · exact startClimb_keepsWork
          · exact noteHost_keepsWork.trans prefetchLine_keepsWork

theorem prefKeepsState : Claim.PrefKeepsState := by
  intro w s g go
  set x := laneIn 0x75 w s g
  set fetched := ((laneAddrs x).filter fun a => !a.2.2).foldl (fun s a => prefetch s (x.g.quad / 4) (ctxIx s x.g) a.2.1 w.scope) s with hf
  have keeps : KeepsWork s fetched := keepsWork_foldl (fun _ _ => prefetch_keepsWork) _ s
  have present : s.cur < fetched.groups.length := keeps.groups ▸ (List.getElem?_eq_some_iff.mp go.group).1
  obtain ⟨lanes, regs, -, -, -, -, ifc, -⟩ := advance_keeps (g := g) x (set := none)
  refine ⟨fetched.setGroup s.cur (advance x none g), advance x none g, ?_, List.getElem?_set_self present, lanes, regs,
    (congrArg Path.lpc (pathOf_advance (g := g) x (set := none)) :), fun closed => ⟨(keeps.sets closed).2, ifc⟩,
    fun a => congrArg (byteAt · a) keeps.mem⟩
  show execPref w s = _
  rw [execPref, laneExec_go go]
  rfl

/-- Settles O20: a memory word past its checks is `memEff`; a prefetch brings lines and asks for pages, which writes no byte and ends no set but
those of regions that a line leaving L2 aborts. -/
theorem laneMemoryIssues : Obligations.LaneMemoryIssues := ⟨laneMemoryIssuesOneSet, prefKeepsState⟩

end Sys2Proof.Proofs
end

section
/-! SUPPORT. Arrival counters in team SRAM: ARMA and WAITA (R225 to R227). -/

namespace Sys2Proof.Proofs

open Sys2Proof Sys2Proof.Machine

set_option Elab.async false

variable {s : State} {g : Group} {a b d : SReg} {c : BitVec 1} {t : Team} {off id target : Nat}

/-! ## Fields of a counter (R225) -/

theorem bytesAt_congr {m m' : Memory} {pa n : Nat} (same : ∀ x, pa ≤ x → x < pa + n → byteAt m' x = byteAt m x) :
    bytesAt m' pa n = bytesAt m pa n := by
  induction n generalizing pa with
  | zero => rfl
  | succ n ih =>
    rw [bytesAt, bytesAt, same pa le_rfl (by omega), ih fun x low high => same x (by omega) (by omega)]

theorem loadLe_storeLe_apart {m : Memory} {pa n pb k v : Nat} (apart : pa + n ≤ pb ∨ pb + k ≤ pa) :
    loadLe (storeLe m pb k v) pa n = loadLe m pa n := by
  refine congrArg leNat (bytesAt_congr fun x low high => byteAt_setBytes_out ?_)
  rw [length_leBytes]
  omega

/-- What a counter's 32 bytes hold of it: each field modulo its width. -/
theorem counterAt_putCounter {k : Counter} {ts : Nat} (small : k.id < 4096) :
    counterAt (putCounter t off k ts) off =
      { count := k.count % 2 ^ 64, target := k.target % 2 ^ 64, time := k.time % 2 ^ 64, id := k.id, armed := k.armed } := by
  have flags : (k.id + 4096 * k.armed.toNat) % 2 ^ (8 * 8) = k.id + 4096 * k.armed.toNat := Nat.mod_eq_of_lt (by have := k.armed.toNat_le; omega)
  have armed : bit (k.id + 4096 * k.armed.toNat) 12 = k.armed := by
    rw [bit, show (k.id + 4096 * k.armed.toNat) / 2 ^ 12 = k.armed.toNat by omega]
    cases k.armed <;> rfl
  have id_ : (k.id + 4096 * k.armed.toNat) % 4096 = k.id := by omega
  simp (disch := omega) only [counterAt, putCounter, setRow, loadLe_storeLe_apart, loadLe_storeLe, flags, armed, id_, Nat.reduceMul]

theorem counterBad_iff : counterBad s g off = true ↔ ¬(off % 32 = 0 ∧ off + 32 ≤ (launchOf s g).record.sram.toNat) := by
  simp only [counterBad, Bool.or_eq_true, bne_iff_ne, decide_eq_true_eq]
  omega

/-! ## ARMA (R226) -/

/-- What came for an id before a counter was bound to it. -/
def earlyArrivals (s : State) (g : Group) (id : Nat) : Nat × Nat :=
  match (ctxOf s g).arrivals.find? fun e => e.1 == id with
  | some (_, none, n, time) => (n, time)
  | _ => (0, 0)

/-- The counter that ARMA leaves at its offset. -/
def armedCounter (s : State) (g : Group) (id off target : Nat) (clear : Bool) : Counter where
  count  := if clear then 0 else ((counterAt (teamOf s g) off).count + (earlyArrivals s g id).1) % 2 ^ 64
  target := target
  time   := if clear then 0 else max (counterAt (teamOf s g) off).time (earlyArrivals s g id).2
  id     := id
  armed  := target != 0

/-- The stamp of a counter's row as a store of the scalar party writes it. -/
def armStamp (s : State) (g : Group) (off : Nat) : Nat := max g.slt ((rowTimes (teamOf s g) (off / 128)).2 + 1)

/-- The entries of a context's table behind ARMA. -/
def rebound (g : Group) (id off target : Nat) (x : Ctx) : Ctx :=
  { x with arrivals := if target = 0 then x.arrivals.filter (fun e => e.1 != id)
                       else x.arrivals.filter (fun e => e.1 != id) ++ [(id, some (g.team, off), 0, 0)] }

/-- The counter and its table entry written, before the scalar lt passes the stamp. -/
def counterBound (s : State) (g : Group) (id off target : Nat) (clear : Bool) : State :=
  (s.modCtx (ctxIx s g) (rebound g id off target)).modTeam g.team fun t =>
    putCounter t off (armedCounter s g id off target clear) (armStamp s g off)

theorem armCounter_eq {clear : Bool} (hg : s.groups[s.cur]? = some g) (present : ctxIx s g < s.ctxs.length) :
    armCounter s s.cur id off target clear = acquire s.cur (armStamp s g off) (counterBound s g id off target clear) := by
  have entries : (s.modCtx (ctxIx s g) fun x =>
      { x with arrivals := if target = 0 then (ctxAt s (ctxIx s g)).arrivals.filter (fun e => e.1 != id)
                           else (ctxAt s (ctxIx s g)).arrivals.filter (fun e => e.1 != id) ++ [(id, some (g.team, off), 0, 0)] }) =
      s.modCtx (ctxIx s g) (rebound g id off target) := by
    have here : s.ctxs[ctxIx s g]? = some (ctxAt s (ctxIx s g)) := getElem?_getD_of_lt present
    simp only [State.modCtx]
    refine congrArg (fun l => { s with ctxs := l }) (List.ext_getElem? fun j => ?_)
    rw [List.getElem?_modify, List.getElem?_modify]
    split
    · subst_vars
      rw [here]
      rfl
    · rfl
  unfold armCounter
  rw [groupAt_of_getElem? hg]
  dsimp only
  rw [entries]
  rfl

/-- The counter bound is read back with each field modulo its width. -/
theorem counterAt_counterBound {clear : Bool} (team : g.team < s.teams.length) (small : id < 4096) :
    counterAt (teamOf (counterBound s g id off target clear) g) off =
      { count := (armedCounter s g id off target clear).count % 2 ^ 64, target := target % 2 ^ 64,
        time := (armedCounter s g id off target clear).time % 2 ^ 64, id := id, armed := target != 0 } := by
  have here : s.teams[g.team]? = some (teamOf s g) := getElem?_getD_of_lt team
  have there : teamOf (counterBound s g id off target clear) g =
      putCounter (teamOf s g) off (armedCounter s g id off target clear) (armStamp s g off) := getD_of_getElem? (modTeam_teams_same here)
  rw [there, counterAt_putCounter (k := armedCounter s g id off target clear) small]
  rfl

theorem find?_rebound {x : Ctx} :
    (rebound g id off target x).arrivals.find? (fun e => e.1 == id) = if target = 0 then none else some (id, some (g.team, off), 0, 0) := by
  have gone : (x.arrivals.filter fun e => e.1 != id).find? (fun e => e.1 == id) = none := by simp
  unfold rebound
  dsimp only
  split
  · exact gone
  · rw [List.find?_append, gone]
    simp

section
variable (h : Claim.ScalarIdle s g) (hd : Claim.plain d) (ha : Claim.plain a) (hb : Claim.plain b)
include h hd ha hb

theorem arma_range_traps (big : 4096 ≤ (sreg g d.toNat).toNat) :
    exec (.arma d a b c) s = .next (scalarTrap s s.cur g Tc.counterIdRange) := by
  refine scalExec_eff_trap (t := { cause := Tc.counterIdRange })
    (scalGo_of_plain h rfl rfl (regionLive_of_idle h) rfl (by simp [hd, ha, hb]) plain_none) (if_pos big)

variable (small : (sreg g d.toNat).toNat < 4096)
include small

theorem arma_align_traps (bad : counterBad s g (sreg g a.toNat).toNat = true) :
    exec (.arma d a b c) s = .next (scalarTrap s s.cur g Tc.counterAlign) := by
  refine scalExec_eff_trap (t := { cause := Tc.counterAlign })
    (scalGo_of_plain h rfl rfl (regionLive_of_idle h) rfl (by simp [hd, ha, hb]) plain_none) ?_
  rw [groupAt_of_getElem? h.group]
  exact (if_neg (Nat.not_le.mpr small)).trans (if_pos bad)

variable (good : counterBad s g (sreg g a.toNat).toNat = false)
include good

theorem arma_full_traps (new : ((ctxOf s g).arrivals.find? fun e => e.1 == (sreg g d.toNat).toNat).isNone) (full : 4096 ≤ arrivalUsed s) :
    exec (.arma d a b c) s = .next (scalarTrap s s.cur g Tc.counterTableFull) := by
  refine scalExec_eff_trap (t := { cause := Tc.counterTableFull })
    (scalGo_of_plain h rfl rfl (regionLive_of_idle h) rfl (by simp [hd, ha, hb]) plain_none) ?_
  rw [groupAt_of_getElem? h.group]
  exact (if_neg (Nat.not_le.mpr small)).trans ((if_neg (ne_true_of_eq_false good)).trans (if_pos ⟨new, full⟩))

variable (room : ¬(((ctxOf s g).arrivals.find? fun e => e.1 == (sreg g d.toNat).toNat).isNone ∧ 4096 ≤ arrivalUsed s))
include room

theorem arma_busy_traps (held : ((ctxOf s g).arrivals.find? fun e => e.1 == (sreg g d.toNat).toNat).any
      (fun e => e.2.1.any fun x => x != (g.team, (sreg g a.toNat).toNat)) = true) :
    exec (.arma d a b c) s = .next (scalarTrap s s.cur g Tc.counterBusy) := by
  refine scalExec_eff_trap (t := { cause := Tc.counterBusy })
    (scalGo_of_plain h rfl rfl (regionLive_of_idle h) rfl (by simp [hd, ha, hb]) plain_none) ?_
  rw [groupAt_of_getElem? h.group]
  exact (if_neg (Nat.not_le.mpr small)).trans ((if_neg (ne_true_of_eq_false good)).trans ((if_neg room).trans (if_pos held)))

theorem arma_goes (free : ((ctxOf s g).arrivals.find? fun e => e.1 == (sreg g d.toNat).toNat).any
      (fun e => e.2.1.any fun x => x != (g.team, (sreg g a.toNat).toNat)) = false) (present : ctxIx s g < s.ctxs.length) :
    exec (.arma d a b c) s = .next ((counterBound s g (sreg g d.toNat).toNat (sreg g a.toNat).toNat (sreg g b.toNat).toNat (c == 1)).modGroup
      s.cur (Claim.nextWord fun k => { k with slt := max k.slt (armStamp s g (sreg g a.toNat).toNat) })) := by
  refine scalExec_acquires (scalGo_of_plain h rfl rfl (regionLive_of_idle h) rfl (by simp [hd, ha, hb]) plain_none) rfl rfl ?_
  rw [← armCounter_eq h.group present, groupAt_of_getElem? h.group]
  exact (if_neg (Nat.not_le.mpr small)).trans ((if_neg (ne_true_of_eq_false good)).trans ((if_neg room).trans
    (if_neg (ne_true_of_eq_false free))))

end

/-- An id is bound elsewhere just when its entry names another counter. -/
theorem bound_elsewhere_iff {entry : Option (Nat × Option (Nat × Nat) × Nat × Nat)} {place : Nat × Nat} (named : ∀ e ∈ entry, e.1 = id) :
    (∃ h n time, entry = some (id, some h, n, time) ∧ h ≠ place) ↔ (entry.any fun e => e.2.1.any fun x => x != place) = true := by
  match entry with
  | none => simp
  | some (i, none, n, time) => simp
  | some (i, some h, n, time) =>
    obtain rfl : i = id := named _ rfl
    simp

theorem armaBinds : Claim.ArmaBinds := by
  intro s g d a b c h hd ha hb off tgt id entry early old fits room elsewhere
  have bad : counterBad s g off = true ↔ ¬fits := counterBad_iff
  have good (f : fits) : counterBad s g off = false := by simpa using mt bad.mp (not_not.mpr f)
  have named : ∀ e ∈ entry, e.1 = id := fun e some_ => by simpa using List.find?_some some_
  have full : (entry.isNone ∧ 4096 ≤ arrivalUsed s) ↔ ¬room := by
    simp only [room, not_or, Bool.not_eq_true, Option.isSome_eq_false_iff, Nat.not_lt]
  have bound : elsewhere ↔ (entry.any fun e => e.2.1.any fun x => x != (g.team, off)) = true := bound_elsewhere_iff named
  refine ⟨arma_range_traps h hd ha hb, fun small unfit => arma_align_traps h hd ha hb small (bad.mpr unfit), fun small fit none_ => ?_,
    fun small fit held => ?_, fun small fit some_ free team ctx => ?_⟩
  · obtain ⟨new, used⟩ := full.mpr none_
    exact arma_full_traps h hd ha hb small (good fit) new used
  · have known : room := by
      obtain ⟨x, n, time, found, -⟩ := held
      exact .inl (by rw [found]; rfl)
    exact arma_busy_traps h hd ha hb small (good fit) (mt full.mp (not_not.mpr known)) (bound.mp held)
  · let t := (counterBound s g id off tgt (c == 1)).modGroup s.cur (Claim.nextWord fun k => { k with slt := max k.slt (armStamp s g off) })
    have group : t.groups[s.cur]? = some (Claim.nextWord (fun k => { k with slt := max k.slt (armStamp s g off) }) g) := by
      refine (modGroup_groups_same (List.getElem?_eq_some_iff.mp h.group).1).trans (congrArg (fun x => some (Claim.nextWord _ x)) ?_)
      exact groupAt_of_getElem? h.group
    have written : counterAt (teamOf t g) off = _ := counterAt_counterBound team small
    have cleared : (c == 1) = true ↔ c = 1 := beq_iff_eq
    refine ⟨t, _, arma_goes h hd ha hb small (good fit) (mt full.mp (not_not.mpr some_)) (by simpa using mt bound.mpr free) ctx, written,
      Nat.mod_eq_of_lt (sreg g b.toNat).isLt, rfl, ?_, ?_, ?_, ?_, ?_, fun i other => ?_, fun _ => rfl⟩
    · simp
    · simp only [armedCounter, cleared]
      split
      · rfl
      · exact Nat.mod_mod _ _
    · simp only [armedCounter, cleared]
      split <;> rfl
    · exact (congrArg (fun x : Ctx => x.arrivals.find? fun e => e.1 == id) (ctxAt_modCtx_same _ ctx)).trans find?_rebound
    · have stamp : max g.slt (armStamp s g off) = armStamp s g off := max_eq_right (le_max_left _ _)
      exact group.trans (congrArg (fun v => some { g with spc := g.spc + 4, wait := .none, slt := v }) stamp)
    · exact List.getElem?_modify_ne _ _ (Ne.symm other)

/-! ## WAITA (R227) -/

section
variable (h : Claim.ScalarIdle s g) (ha : Claim.plain a)
include h ha

theorem waita_align_traps (bad : counterBad s g (sreg g a.toNat).toNat = true) :
    exec (.waita a) s = .next (scalarTrap s s.cur g Tc.counterAlign) := by
  refine scalExec_eff_trap (t := { cause := Tc.counterAlign }) (scalGo_of_plain h rfl rfl rfl rfl (plain_one ha) plain_none) ?_
  rw [groupAt_of_getElem? h.group]
  exact if_pos bad

variable (good : counterBad s g (sreg g a.toNat).toNat = false)
include good

theorem waita_unarmed_traps (unarmed : (counterAt (teamOf s g) (sreg g a.toNat).toNat).armed = false) :
    exec (.waita a) s = .next (scalarTrap s s.cur g Tc.counterUnarmed) := by
  refine scalExec_eff_trap (t := { cause := Tc.counterUnarmed }) (scalGo_of_plain h rfl rfl rfl rfl (plain_one ha) plain_none) ?_
  rw [groupAt_of_getElem? h.group]
  exact (if_neg (ne_true_of_eq_false good)).trans (if_pos (congrArg (!·) unarmed))

theorem waita_goes (reached : Claim.reached (counterAt (teamOf s g) (sreg g a.toNat).toNat)) :
    exec (.waita a) s = .next (s.modGroup s.cur
      (Claim.nextWord fun h => { h with slt := max h.slt (counterAt (teamOf s g) (sreg g a.toNat).toNat).time })) := by
  obtain ⟨armed, enough⟩ := reached
  refine scalExec_acquires (scalGo_of_plain h rfl rfl rfl rfl (plain_one ha) plain_none) rfl rfl ?_
  rw [groupAt_of_getElem? h.group]
  exact (if_neg (ne_true_of_eq_false good)).trans ((if_neg (by simpa [arg] using armed)).trans (if_pos enough))

theorem waita_waits (armed : (counterAt (teamOf s g) (sreg g a.toNat).toNat).armed = true)
    (short : (counterAt (teamOf s g) (sreg g a.toNat).toNat).count < (counterAt (teamOf s g) (sreg g a.toNat).toNat).target) :
    exec (.waita a) s = .next (enterWait s s.cur) := by
  refine scalExec_eff_hold (scalGo_of_plain h rfl rfl rfl rfl (plain_one ha) plain_none) ?_
  rw [groupAt_of_getElem? h.group]
  exact (if_neg (ne_true_of_eq_false good)).trans ((if_neg (by simpa [arg] using armed)).trans (if_neg (Nat.not_le.mpr short)))

end

theorem waitaReleases : Claim.WaitaReleases := fun _ _ _ h ha =>
  ⟨waita_align_traps h ha, waita_unarmed_traps h ha, waita_goes h ha, waita_waits h ha⟩

/-- Settles O14: every check of ARMA and WAITA is one end of the scalar frame; a counter written is read back field by field. The scalar lt passes the
stamp of the counter's row, and TARGET 0 needs room in the table, as notes/assumptions/25.md has it. -/
theorem arrivalCounterWords : Obligations.ArrivalCounterWords := ⟨armaBinds, waitaReleases⟩

end Sys2Proof.Proofs
end

section
/-! SUPPORT. The ends of handlers and groups: fatal traps, ERET and the reload whose commit is the return, SEXIT (R217, R276, R337 to R347). -/

namespace Sys2Proof.Proofs

open Sys2Proof Sys2Proof.Machine

set_option Elab.async false

variable {s : State} {g : Group} {o : ScalOp} {f : Frame} {a : ASet} {gi v t : Nat}

/-! ## Fatal traps (R337, R338, R347) -/

theorem trapFatal : Claim.TrapFatal := by
  intro s gi g p hg
  refine ⟨fun inside => ?_, fun outside none_ => ?_⟩
  · simp only [takeTrap, hg, inside, if_true]
  · have handler : handlerFor (handlerWalks s (g.quad / 4) (ctxIx s g) p.cause) (g.quad / 4) (ctxIx s g) p.cause = none := none_
    simp only [takeTrap, hg, outside, handler]
    rfl

/-! ## Groups without sets -/

/-- A group without sets holds back no word that names no register. -/
theorem scalarMay_of_noSets (hg : s.groups[s.cur]? = some g) (run : scalarMayRun g = true) (none_ : ∀ a ∈ s.sets, ofGroup s.cur a = false) :
    Claim.ScalarMay s g where
  group := hg
  run := run
  firm a mem party := absurd (none_ a mem) (by simp [ofGroup, party])

theorem partyFull_of_noSets (none_ : ∀ a ∈ s.sets, ofGroup s.cur a = false) : partyFull s (.scalar s.cur) = false := by
  have empty : setsOf s (.scalar s.cur) = [] := by
    simp only [setsOf, List.filter_eq_nil_iff, beq_iff_eq]
    exact fun a mem party => absurd (none_ a mem) (by simp [ofGroup, party])
  simp [partyFull, empty]

/-- A word that names no register goes ahead once its own checks, holds and waits are over. -/
theorem scalGo_of_may (may : Claim.ScalarMay s g) (srcs : o.srcs = []) (dst : o.dst = none) (pre : o.pre = none)
    (own : o.own { s := s, gi := s.cur, g := g, s0 := s } = none) (hold : o.hold { s := s, gi := s.cur, g := g, s0 := s } = false)
    (wait : o.wait { s := s, gi := s.cur, g := g, s0 := s } = false) : ScalGo o s g s [] where
  group := may.group
  run := may.run
  pre := by simp [pre, srcs, dst, portFails]
  own := own
  free := by simp [scalarHeld_of_settled may srcs dst, hold, regionHolds, dst]
  room := by simp [noRoom, dst, wait]
  srcs := by rw [srcs]; rfl

/-! ## ERET (R342, R345) -/

section
variable (hg : s.groups[s.cur]? = some g) (run : scalarMayRun g = true)
include hg run

theorem eret_outside (frame : g.frame = none) : exec .eret s = .next (scalarTrap s s.cur g Tc.eretOutside) := by
  show execEret s = _
  exact scalExec_own_trap (t := { cause := Tc.eretOutside }) hg run rfl (by simp [frame])

section
variable (frame : g.frame = some f)
include frame

theorem eret_held (sets : s.sets.any (ofGroup s.cur) = true) : exec .eret s = .next s := by
  show execEret s = _
  exact scalExec_own_hold hg run rfl (by simp [frame]) sets

variable (none_ : ∀ a ∈ s.sets, ofGroup s.cur a = false)
include none_

theorem eret_waits (blocks : blocksOutstanding g = true) : exec .eret s = .next (enterWait s s.cur) := by
  show execEret s = _
  refine scalExec_own_wait hg run rfl (by simp [frame]) ?_ blocks
  simpa [scalarHeld_of_settled (scalarMay_of_noSets hg run none_), regionHolds] using none_

variable (ended : blocksOutstanding g = false)
include ended

/-- What ERET does once the blocks and sets of its handler have ended. -/
theorem eret_ends {r : State} (eff : (if f.cause = Tc.preemptSave then ScalRes.hold (s.modGroup s.cur fun g => { g with saved := true, wait := .none })
      else issueScalar { s := s, gi := s.cur, g := g, s0 := s } (Claim.scalarAccess s g .load f.area 32 0 .reload) .hold) = .hold r) :
    exec .eret s = .next r := by
  show execEret s = _
  refine scalExec_eff_hold (scalGo_of_may (scalarMay_of_noSets hg run none_) rfl rfl rfl (by simp [frame]) (by simpa using none_) ended) ?_
  rw [groupAt_of_getElem? hg]
  simp only [frame]
  exact eff

theorem eret_saves (saving : f.cause = Tc.preemptSave) :
    exec .eret s = .next (s.modGroup s.cur fun h => { h with saved := true, wait := .none }) :=
  eret_ends hg run frame none_ ended (if_pos saving)

theorem eret_reloads (other : f.cause ≠ Tc.preemptSave) (issues : Claim.Issues s g (Claim.scalarAccess s g .load f.area 32 0 .reload)) :
    exec .eret s = .next (issueSet s (Claim.scalarAccess s g .load f.area 32 0 .reload)) :=
  eret_ends hg run frame none_ ended ((if_neg other).trans (issueScalar_of_issues (partyFull_of_noSets none_) issues))

end

end

/-! ## The return (R342) -/

theorem retired_uncounted (counter : a.ifc = 4) :
    retired a g = { g with p0 := clearLook a.id g.p0, p1 := g.p1.map (clearLook a.id) } := if_pos counter.ge

theorem p0_leaveHandler : (leaveHandler g f).p0 =
    resumePath f false (if f.swap then g.trap.tlpc1 else g.trap.tlpc0).toNat (if f.swap then 0 else bits g.trap.tinfo.toNat 55 48) f.p0 := by
  rw [apply_ite BitVec.toNat]
  rfl

theorem p1_leaveHandler {q : Path} (two : f.p1 = some q) : (leaveHandler g f).p1 =
    some (resumePath f true (if f.swap then g.trap.tlpc0 else g.trap.tlpc1).toNat (if f.swap then bits g.trap.tinfo.toNat 55 48 else 0) q) := by
  rw [apply_ite BitVec.toNat, leaveHandler, two]
  rfl

/-- A set that no in-flight counter counts is forgotten, and no window waits for it. -/
theorem retireSet_uncounted (party : partyGroup a.party = some gi) (counter : a.ifc = 4) :
    retireSet s a = (dropSet s a.id).modGroup gi (retired a) := by
  simp only [retireSet, party, counter, Nat.reduceBEq, Bool.and_false, Bool.false_eq_true, if_false, false_or, le_refl, if_true]
  unfold retired
  simp only [counter, le_refl, if_true]

/-- The group that the commit of a reload with value `v` at time `t` leaves. -/
def returned (a : ASet) (f : Frame) (v t : Nat) (g : Group) : Group :=
  retired a (leaveHandler (reloadFrame v { g with slt := max g.slt t }) f)

theorem modify_set_modify_same {α : Type} {l : List α} {i : Nat} {x : α} {p q : α → α} (inside : i < l.length) :
    ((l.modify i p).set i x).modify i q = l.set i (q x) := by
  refine List.ext_getElem? fun j => ?_
  by_cases same : i = j
  · subst same
    simp [inside]
  · simp [same]

/-- The commit of a reload (R342): the sets of the trapped streams that the save kept stand again, and the group is back from its handler. -/
theorem commitLoad_reload (hg : s.groups[gi]? = some g) (frame : g.frame = some f) (party : a.party = .scalar gi) (dest : a.dest = .reload)
    (counter : a.ifc = 4) :
    commitLoad s a t = (dropSet { s with sets := keptSets g f ++ s.sets } a.id).setGroup gi (returned a f (laneGot a 0) t g) := by
  have group : partyGroup a.party = some gi := by rw [party]; rfl
  have inside : gi < s.groups.length := (List.getElem?_eq_some_iff.mp hg).1
  have retires : commitLoad s a t = retireSet (deliver (raiseLt s a.party t) a) a := by
    simp only [commitLoad, dest]
  have raised : (s.modGroup gi fun x => { x with slt := max x.slt t }).groups.getD gi default = { g with slt := max g.slt t } := by
    simp [hg]
  have delivered : deliver (raiseLt s a.party t) a = { s.modGroup gi fun x => { x with slt := max x.slt t } with sets := keptSets g f ++ s.sets }.setGroup gi
      (leaveHandler (reloadFrame (laneGot a 0) { g with slt := max g.slt t }) f) := by
    have back : deliver (raiseLt s a.party t) a = returnFromTrap (s.modGroup gi fun x => { x with slt := max x.slt t }) gi (laneGot a 0) := by
      simp only [deliver, group, dest]
      rw [party]
      rfl
    rw [back, returnFromTrap, raised]
    simp only [frame]
    rfl
  rw [retires, delivered, retireSet_uncounted group counter]
  exact congrArg (fun l => { dropSet { s with sets := keptSets g f ++ s.sets } a.id with groups := l }) (modify_set_modify_same inside)

theorem lpc_resumePath {path1 : Bool} {l k : Nat} {q : Path} :
    (resumePath f path1 l k q).lpc = if keptAt f true path1 l then q.lpc else l := by
  unfold resumePath
  split <;> rfl

theorem exec_resumePath {path1 : Bool} {l k : Nat} {q : Path} : (resumePath f path1 l k q).exec = q.exec := by
  unfold resumePath
  split <;> rfl

theorem sreg_reloadFrame {r : Nat} (low : r < 44) : sreg (reloadFrame v g) r = sreg g r := by
  unfold reloadFrame sreg
  dsimp only
  refine List.foldlRecOn (motive := fun l : List Word => l.getD r 0 = g.s.getD r 0) (List.range 4) _ rfl fun l same k _ => ?_
  rwa [List.getD_eq_getElem?_getD, List.getElem?_set_ne (by omega), ← List.getD_eq_getElem?_getD]

theorem sreg_reloadFrame_word {k : Nat} (words : g.s.length = 48) (inside : k < 4) : sreg (reloadFrame v g) (44 + k) = w64 (v / 2 ^ (64 * k)) := by
  interval_cases k <;> simp [sreg, reloadFrame, List.range_succ, List.getD_eq_getElem?_getD, words]

theorem loadSetCommit_reload (hg : s.groups[s.cur]? = some g) (frame : g.frame = some f) (here : setAt s a.id = some a) (dest : a.dest = .reload)
    (party : a.party = .scalar s.cur) (load : a.kind = .load) (ready : a.phase = .ready) (global : a.sram = false) (counter : a.ifc = 4)
    (may : mayCommit s a = true) (leases : leasesRun a g.slt = true) :
    exec (.loadSetCommit a.id) s = .next ((dropSet { s with sets := keptSets g f ++ s.sets } a.id).setGroup s.cur
      (returned a f (laneGot a 0) (max g.slt (setTime a)) g)) := by
  have lt : partyLt s a.party = g.slt := by rw [party, partyLt, groupAt_of_getElem? hg]
  rw [← commitLoad_reload hg frame party dest counter]
  show execLoadSetCommit a.id s = _
  simp [execLoadSetCommit, here, tryCommitLoad, storeClass, load, ready, may, global, lt, leases]

theorem eretReturns : Claim.EretReturns := by
  intro s g hg run
  refine ⟨eret_outside hg run, fun f frame some_ => eret_held hg run frame (by simpa using some_), fun f => eret_waits hg run, fun f => eret_saves hg run,
    fun f => eret_reloads hg run, fun f a frame here dest party load ready global counter may leases words => ?_⟩
  have inside : s.cur < s.groups.length := (List.getElem?_eq_some_iff.mp hg).1
  refine ⟨_, _, loadSetCommit_reload hg frame here dest party load ready global counter may leases, List.getElem?_set_self inside, ?_⟩
  rw [returned, retired_uncounted counter]
  refine ⟨rfl, rfl, ⟨?_, ?_⟩, ?_, rfl, rfl, rfl, rfl, rfl, rfl, ?_, fun k => sreg_reloadFrame_word words, fun r => sreg_reloadFrame, rfl, setAt_dropSet_same,
    fun i other => List.getElem?_set_ne (Ne.symm other), fun _ => rfl⟩
  · exact ((congrArg Path.lpc p0_leaveHandler).trans lpc_resumePath :)
  · exact ((congrArg Path.exec p0_leaveHandler).trans exec_resumePath :)
  · intro q some_
    have path := p1_leaveHandler (g := reloadFrame (laneGot a 0) { g with slt := max g.slt (max g.slt (setTime a)) }) some_
    exact ⟨_, congrArg (Option.map (clearLook a.id)) path, (exec_resumePath :), (lpc_resumePath :)⟩
  · exact max_eq_right (le_max_left _ _)

/-! ## SEXIT (R217, R276) -/

section
variable (hg : s.groups[s.cur]? = some g) (run : scalarMayRun g = true)
include hg run

theorem sexit_partial (some_ : ¬((landedGroup s s.cur).copy.partWords = [] ∧ (landedGroup s s.cur).fabric.partWords = [])) :
    exec .sexit s = .next (scalarTrap s s.cur g Tc.enginePartial) := by
  show execSexit s = _
  refine scalExec_own_trap (t := { cause := Tc.enginePartial }) hg run rfl (if_pos ?_)
  simpa [List.isEmpty_iff, ← not_and_or] using some_

variable (whole : (landedGroup s s.cur).copy.partWords = [] ∧ (landedGroup s s.cur).fabric.partWords = [])
include whole

theorem sexit_record (some_ : (landedGroup s s.cur).q4 ≠ []) : exec .sexit s = .next (scalarTrap s s.cur g Tc.launchRecord 0 8) := by
  show execSexit s = _
  refine scalExec_own_trap (t := { cause := Tc.launchRecord, info := 8 }) hg run rfl ?_
  simp [whole, some_]

variable (none_ : (landedGroup s s.cur).q4 = [])
include none_

theorem sexit_held (busy : (blocksOutstanding g || s.sets.any (ofGroup s.cur) || cmdsLeft g.copy || cmdsLeft g.fabric || regionLive s g) = true) :
    exec .sexit s = .next s := by
  show execSexit s = _
  exact scalExec_own_hold hg run rfl (by simp [whole, none_]) busy

theorem sexit_exits (calm : (blocksOutstanding g || s.sets.any (ofGroup s.cur) || cmdsLeft g.copy || cmdsLeft g.fabric || regionLive s g) = false) :
    exec .sexit s = .next (s.modGroup s.cur fun h => { h with exiting := true, prog := 0, wait := .none }) := by
  have noSets : ∀ a ∈ s.sets, ofGroup s.cur a = false := by
    simp only [Bool.or_eq_false_iff] at calm
    simpa using calm.1.1.1.2
  show execSexit s = _
  exact scalExec_eff_hold (scalGo_of_may (scalarMay_of_noSets hg run noSets) rfl rfl rfl (by simp [whole, none_]) calm rfl) rfl

end

theorem sexitEnds : Claim.SexitEnds := fun _ _ hg run => ⟨sexit_partial hg run, sexit_record hg run, sexit_held hg run, sexit_exits hg run⟩

/-- Settles O9: a trap in a handler or without a vector ends in `fatal`; ERET is a word of the scalar frame, and its return is the commit of the set
that it issued (the reload as one load set: notes/assumptions/64.md; a vector table or an image that cannot be read is no usable vector:
notes/assumptions/21.md). -/
theorem handlersAndExits : Obligations.HandlersAndExits := ⟨trapFatal, eretReturns, sexitEnds⟩

end Sys2Proof.Proofs
end

section
/-! SUPPORT. Steps that only give times and enter translations (R151 to R153, R299 to R301): what a walk, or a page's entry in a TLB, leaves of the
machine. -/

namespace Sys2Proof.Proofs

open Sys2Proof Sys2Proof.Machine

set_option Elab.async false

variable {s t u : State} {gpn line core c va d : Nat} {k : Xk} {e : Word}

/-! ## The frame -/

/-- The machine without its L1 lines, sector and frame times, walks, walkers' times and TLBs. -/
def timeless (s : State) : State :=
  { s with l1 := [], sectors := [], am := { s.am with tags := [] }, walks := [], walkLt := [], l1tlb := [], dieTlb := [], hubTlb := [] }

/-- Between `s` and `t` only times have been given and translations entered: no page has moved, no line has left L2, none has become narrow. -/
structure OnlyTimes (s t : State) : Prop where
  rest   : timeless t = timeless s
  frames : SameFrames s.am.tags t.am.tags
  lines  : ∀ line, inL2 s line = true → inL2 t line = true
  narrow : ∀ line, narrowOf s line = none → narrowOf t line = none

theorem OnlyTimes.of_same (rest : timeless t = timeless s := by rfl) (tags : t.am.tags = s.am.tags := by rfl)
    (sectors : t.sectors = s.sectors := by rfl) (l1 : t.l1 = s.l1 := by rfl) : OnlyTimes s t where
  rest := rest
  frames := tags ▸ sameFrames_refl _
  lines _ h := by rwa [inL2, sectors]
  narrow _ h := by rwa [narrowOf, l1]

theorem OnlyTimes.refl : OnlyTimes s s := .of_same

theorem OnlyTimes.trans (h : OnlyTimes s t) (h' : OnlyTimes t u) : OnlyTimes s u where
  rest := h'.rest.trans h.rest
  frames := sameFrames_trans h.frames h'.frames
  lines line l := h'.lines line (h.lines line l)
  narrow line n := h'.narrow line (h.narrow line n)

theorem onlyTimes_foldl {α : Type} {f : State → α → State} (keeps : ∀ s x, OnlyTimes s (f s x)) (l : List α) (s : State) :
    OnlyTimes s (l.foldl f s) :=
  List.foldlRecOn (motive := OnlyTimes s) l f .refl fun _ h x _ => h.trans (keeps _ x)

/-! ## Times (R152, R153) -/

theorem isSome_lookup_tput {β : Type} {v : β} {q j : Nat} (l : List (Nat × β)) (here : (l.lookup j).isSome = true) :
    ((tput q v l).lookup j).isSome = true := by
  by_cases same : j = q
  · rw [same, lookup_tput]
    rfl
  · induction l with
    | nil => simp at here
    | cons x r ih =>
      obtain ⟨a, y⟩ := x
      unfold tput
      split
      · rwa [List.lookup_cons, beq_false_of_ne same]
      · split
        next eq =>
          subst eq
          rw [List.lookup_cons, beq_false_of_ne same] at here ⊢
          exact here
        · by_cases first : j = a
          · simp [first]
          · rw [List.lookup_cons, beq_false_of_ne first] at here ⊢
            exact ih here

theorem setSector_onlyTimes {sec : Nat} {v : Nat × Nat} : OnlyTimes s (setSector s sec v) := by
  unfold setSector
  split
  · refine ⟨rfl, sameFrames_refl _, fun line here => ?_, fun _ h => h⟩
    obtain ⟨j, hj, held⟩ := List.any_eq_true.mp here
    exact List.any_eq_true.mpr ⟨j, hj, isSome_lookup_tput _ held⟩
  · exact ⟨rfl, sameFrames_modFirst (fun _ => raiseTimes_sameFrame) _, fun _ h => h, fun _ h => h⟩

theorem narrowOf_eq_none : narrowOf s line = none ↔ ∀ l ∈ s.l1, l.line = line → l.narrow = none := by
  simp only [narrowOf, List.findSome?_eq_none_iff]
  refine forall₂_congr fun l _ => ?_
  by_cases here : l.line = line <;> simp [here]

/-- An L1 line written back with other times is held as before. -/
theorem l1Put_onlyTimes {l l' : L1Line} (held : l ∈ s.l1) (place : l'.line = l.line) (same : l'.narrow = l.narrow) : OnlyTimes s (l1Put s l') := by
  refine ⟨rfl, sameFrames_refl _, fun _ h => h, fun line free => ?_⟩
  rw [narrowOf_eq_none] at free ⊢
  intro o ho at_
  rcases List.mem_cons.mp ho with rfl | other
  · exact same.trans (free l held (place.symm.trans at_))
  · exact free o (List.mem_of_mem_filter other) at_

theorem setTimesAt_onlyTimes {sec : Nat} {v : Nat × Nat} : OnlyTimes s (setTimesAt s sec v) := by
  unfold setTimesAt
  split
  next l here => exact l1Put_onlyTimes (List.mem_of_find?_eq_some here) rfl rfl
  · exact setSector_onlyTimes

theorem grantLease_onlyTimes {lo n f : Nat} : OnlyTimes s (grantLease s lo n f).1 :=
  onlyTimes_foldl (fun _ _ => setTimesAt_onlyTimes) _ s

theorem stampRange_onlyTimes {lo n ts : Nat} : OnlyTimes s (stampRange s lo n ts) :=
  onlyTimes_foldl (fun _ _ => setTimesAt_onlyTimes) _ s

/-! ## Walks and translations (R299 to R301) -/

theorem dropWalk_onlyTimes : OnlyTimes s (dropWalk s d c va) := .of_same
theorem tlbFill_onlyTimes : OnlyTimes s (tlbFill s core c va e) := .of_same
theorem hubFill_onlyTimes : OnlyTimes s (hubFill s c va e) := .of_same

theorem walkTimes_onlyTimes : OnlyTimes s (walkTimes s d c va) := by
  unfold walkTimes
  extract_lets lt reads r
  have read : OnlyTimes s r.1 :=
    List.foldlRecOn (motive := fun x : State × Nat => OnlyTimes s x.1) reads _ .refl fun _ h _ _ => h.trans grantLease_onlyTimes
  exact read.trans .of_same

/-- The walk of a page: what it reads is leased, and it is under way no longer. -/
theorem walked_onlyTimes : OnlyTimes s (walkTimes (dropWalk s d c va) d c va) := dropWalk_onlyTimes.trans walkTimes_onlyTimes

theorem enterPage_onlyTimes : OnlyTimes s (enterPage s core c k va) := by
  unfold enterPage
  split
  · exact tlbFill_onlyTimes
  · dsimp only
    split
    · exact walked_onlyTimes.trans tlbFill_onlyTimes
    · exact walked_onlyTimes

theorem enterPte_onlyTimes {p : Party} : OnlyTimes s (enterPte s p c va k) := by
  unfold enterPte
  split
  · exact enterPage_onlyTimes
  · split
    · exact hubFill_onlyTimes
    · dsimp only
      split
      · exact walked_onlyTimes.trans hubFill_onlyTimes
      · exact walked_onlyTimes

/-! ## What such steps leave -/

/-- A function that looks past times and translations gives the same value. -/
theorem OnlyTimes.agree {α : Type} (h : OnlyTimes s t) (f : State → α) (past : ∀ s, f (timeless s) = f s := by intro s; rfl) : f t = f s := by
  rw [← past t, h.rest, past]

theorem walk_timeless {n a : Nat} : walk (timeless s) c va k n a = walk s c va k n a := by
  induction n generalizing a with
  | zero => rfl
  | succ n ih =>
    unfold walk
    simp only [ih]
    rfl

namespace OnlyTimes

variable (h : OnlyTimes s t)
include h

theorem mem : t.mem = s.mem := h.agree State.mem
theorem groups : t.groups = s.groups := h.agree State.groups
theorem teams : t.teams = s.teams := h.agree State.teams
theorem ctxs : t.ctxs = s.ctxs := h.agree State.ctxs
theorem sets : t.sets = s.sets := h.agree State.sets
theorem net : t.net = s.net := h.agree State.net
theorem hub : t.hub = s.hub := h.agree State.hub
theorem now : t.now = s.now := h.agree State.now

theorem movesNoPage : MovesNoPage s t where
  mem := h.mem
  net := h.net
  cycle := h.agree State.cycle
  pins := ⟨h.agree State.pins, h.agree State.l2pins⟩
  hub := by rw [h.hub]
  am := by
    obtain ⟨l, am⟩ : ∃ l, t.am = { s.am with tags := l } :=
      ⟨t.am.tags, congrArg (fun a : Am => { a with tags := t.am.tags }) (congrArg State.am h.rest)⟩
    rw [am]
  tags := h.frames

theorem translate : Machine.translate t c va k = Machine.translate s c va k :=
  h.agree (Machine.translate · c va k) fun _ => walk_timeless

theorem walkReads {n a : Nat} : Machine.walkReads t va n a = Machine.walkReads s va n a := by
  induction n generalizing a with
  | zero => rfl
  | succ n ih =>
    unfold Machine.walkReads
    simp only [ih, h.mem]

theorem pageHere : Machine.pageHere t gpn = Machine.pageHere s gpn := by
  rw [Machine.pageHere, h.movesNoPage.readableHere, Machine.pageHere]

theorem tableAway : Machine.tableAway t c va = Machine.tableAway s c va := by
  rw [Machine.tableAway, h.walkReads, ctxAt, h.ctxs, Machine.tableAway, ctxAt]
  exact congrArg (fun p : Nat → Bool => List.find? p _) (funext fun _ => congrArg (!·) h.pageHere)

end OnlyTimes

end Sys2Proof.Proofs
end

section
/-! SUPPORT. Page walks of access sets, and waits for a word of memory (R228, R229, R299 to R304). -/

namespace Sys2Proof.Proofs

open Sys2Proof Sys2Proof.Machine

set_option Elab.async false

variable {s t u : State} {a b : ASet} {x : Acc} {i gi core c va : Nat} {k : Xk} {e : Word}

/-! ## Translations that a TLB holds (R300, R301) -/

theorem checkPte_of_walk {n l : Nat} (found : walk s c va k n l = .ok e) : checkPte s c e k = none := by
  induction n generalizing l with
  | zero => simp [walk] at found
  | succ n ih =>
    rw [walk] at found
    split at found
    · simp at found
    · split at found
      · simp at found
      · split at found
        · split at found
          · simp at found
          next passes =>
            rw [← Except.ok.inj found]
            exact passes
        · split at found
          · simp at found
          · exact ih found

theorem checkPte_of_translate (found : translate s c va k = .ok e) : checkPte s c e k = none := checkPte_of_walk found

/-- The entry last put into a TLB is found in it. -/
theorem tlbGet_tlbPut {sets ways key vpn : Nat} {l : List (Nat × TlbEntry)} :
    tlbGet (tlbPut sets (ways + 1) l key c vpn e) key c vpn = some e := by
  simp [tlbGet, tlbPut]

theorem tlbLook_tlbFill (checked : checkPte s c e k = none) : tlbLook (tlbFill s core c va e) core c va k = some e := by
  have first : tlbGet (tlbFill s core c va e).l1tlb core c (va / 65536) = some e := tlbGet_tlbPut
  have passes : checkPte (tlbFill s core c va e) c e k = none := checked
  rw [tlbLook, first, Option.some_or, Option.filter_some, passes]
  rfl

/-! ## Sets that park, and sets that go on -/

theorem setAt_modSet_other {f : ASet → ASet} {j : Nat} (keeps : ∀ x, (f x).id = x.id) (other : j ≠ i) : setAt (modSet s j f) i = setAt s i := by
  have go (l : List ASet) : (modFirst (fun a => a.id == j) f l).find? (fun a => a.id == i) = l.find? fun a => a.id == i := by
    induction l with
    | nil => rfl
    | cons y r ih =>
      unfold modFirst
      split
      next hit =>
        have hit : y.id = j := by simpa using hit
        rw [List.find?_cons, List.find?_cons, keeps, hit, beq_false_of_ne other]
      · rw [List.find?_cons, List.find?_cons, ih]
  exact go s.sets

/-- A set that parks keeps everything but its phase. -/
theorem setAt_parkSet {cause : Cause} {level : Nat} {lanes : Mask} (party : partyGroup a.party = some gi) (entry : a.entry = false)
    (here : setAt s a.id = some b) : setAt (parkSet s a cause level e va lanes) a.id = some { b with phase := .parked va lanes s.now } := by
  unfold parkSet
  simp only [party, entry]
  exact setAt_modSet (fun _ => rfl) here

theorem setAt_parkSet_other {cause : Cause} {level : Nat} {lanes : Mask} (entry : a.entry = false) (other : a.id ≠ i) :
    setAt (parkSet s a cause level e va lanes) i = setAt s i := by
  unfold parkSet
  dsimp only
  split
  · rfl
  · rw [entry]
    exact setAt_modSet_other (fun _ => rfl) other

/-- A set whose one access faults parks at its address. -/
theorem faultAccs_parks {cause : Cause} {level : Nat} {p : Acc → Bool} (accs : a.accs = [x]) (bytes : 0 < x.n) (lane : x.help = false)
    (hit : p x = true) : faultAccs s a cause level e p = parkSet s a cause level e x.va (lanesWhere a p) := by
  have found : a.accs.find? (fun x => x.n != 0 && !x.help && p x) = some x := by
    simp [accs, lane, hit, Nat.pos_iff_ne_zero.mp bytes]
  rw [faultAccs, found]

theorem setAt_faultAccs_other {cause : Cause} {level : Nat} {p : Acc → Bool} (entry : a.entry = false) (other : a.id ≠ i) :
    setAt (faultAccs s a cause level e p) i = setAt s i := by
  unfold faultAccs
  split
  · exact setAt_parkSet_other entry other
  · exact setAt_modSet_other (fun _ => rfl) other

theorem now_faultAccs {cause : Cause} {level : Nat} {p : Acc → Bool} (entry : a.entry = false) :
    (faultAccs s a cause level e p).now = s.now := by
  unfold faultAccs
  split
  · unfold parkSet
    dsimp only
    split
    · rfl
    · rw [entry]
      rfl
  · rfl

/-- What an access set's bytes come from: the places of its accesses. -/
def placesOf (a : ASet) : List (Nat × Word) := a.accs.map fun y => (y.pa, y.pte)

theorem places_gatherSpan {line : Nat} {view : Nat → Byte} : placesOf (gatherSpan a line view) = placesOf a := by
  unfold placesOf gatherSpan
  rw [List.map_map]
  refine List.map_congr_left fun y _ => ?_
  dsimp only [Function.comp]
  split
  · rfl
  · split <;> rfl

theorem places_setSpan {j : Nat} {f : Span → Span} : placesOf (setSpan a j f) = placesOf a := rfl
theorem places_numberSpans : placesOf (numberSpans s a) = placesOf a := rfl

theorem places_takeHits : placesOf (takeHits s a) = placesOf a := by
  refine List.foldlRecOn (motive := fun b => placesOf b = placesOf a) _ _ rfl fun b same j _ => ?_
  dsimp only
  split
  · rw [places_setSpan, places_gatherSpan, same]
  · split
    · exact same
    · split
      · exact same
      · split
        · exact same
        · rw [spanDone, places_setSpan, places_gatherSpan, same]

theorem places_makeReady : placesOf (makeReady s a) = placesOf a := by
  unfold makeReady
  dsimp only
  split
  · rfl
  · rw [places_numberSpans, places_takeHits]
    rfl

/-- A set without bytes to move is ready with its accesses as they are. -/
theorem accs_makeReady_of_none (none_ : spansOf a.accs = []) : (makeReady s a).accs = a.accs := by
  unfold makeReady
  dsimp only
  split
  · rfl
  · unfold numberSpans takeHits
    rw [none_]
    rfl

/-- A set that becomes ready: what is found under its number, and that no byte has changed. -/
theorem settle_gives (here : setAt s i = some a) (party : partyGroup a.party = some gi) (phase : a.phase = .xlate)
    (issues : Claim.Issues s (groupAt s gi) a) :
    ∃ u, KeepsSets s u ∧ setAt (Machine.settle s i) i = some (makeReady u (withPages s ((groupAt s gi).quad / 4) (ctxIx s (groupAt s gi)) a)) ∧
      Claim.SameMemory s (Machine.settle s i) := by
  rw [settle_ready here party phase issues]
  set r := withPages s ((groupAt s gi).quad / 4) (ctxIx s (groupAt s gi)) a
  have used : KeepsSets s (usePages s ((groupAt s gi).quad / 4) (ctxIx s (groupAt s gi)) r.accs) := usePages_keepsSets
  refine ⟨_, used, ?_, fun y => congrArg (byteAt · y) used.mem⟩
  have there : setAt (usePages s ((groupAt s gi).quad / 4) (ctxIx s (groupAt s gi)) r.accs) i = some a := by rw [setAt, used.sets]; exact here
  exact setAt_modSet_same there fun _ => makeReady_sameWord.id.trans (show a.id = i from id_of_setAt here)

/-- A set whose one access moves no bytes becomes ready at once. -/
theorem settle_emptied (here : setAt s i = some a) (party : partyGroup a.party = some gi) (phase : a.phase = .xlate) (accs : a.accs = [x])
    (empty : x.n = 0) : ∃ b, setAt (Machine.settle s i) i = some b ∧ b.phase = .ready ∧ b.accs = [x] ∧
      (Machine.settle s i).ctxs = s.ctxs ∧ (Machine.settle s i).mem = s.mem := by
  have placed (core c : Nat) : withPages s core c a = a := by
    simp only [withPages, accs, List.map, empty, if_true]
    rw [← accs]
  have used (core c : Nat) : usePages s core c a.accs = s := by
    simp [usePages, accs, empty]
  have issues : Claim.Issues s (groupAt s gi) a := by
    constructor
    · simp [allTranslated, accs, empty]
    · rw [placed]
      simp [afterChecks, accs, empty]
  have ready := settle_ready here party phase issues
  simp only [placed, used] at ready
  have spans : spansOf a.accs = [] := by simp [spansOf, accs, empty]
  rw [ready]
  exact ⟨makeReady s a, setAt_modSet_same here fun _ => makeReady_sameWord.id.trans (show a.id = i from id_of_setAt here), makeReady_sameWord.phase,
    (accs_makeReady_of_none spans).trans accs, rfl, rfl⟩

/-! ## PAGE_WALK (R299 to R304) -/

/-- A set of one access that waits for translation, its page in no TLB and its tables here. -/
structure WalkReady (s : State) (i gi : Nat) (a : ASet) (x : Acc) : Prop where
  here  : setAt s i = some a
  phase : a.phase = .xlate
  party : partyGroup a.party = some gi
  accs  : a.accs = [x]
  bytes : 0 < x.n
  role  : a.role = .access
  entry : a.entry = false
  miss  : tlbLook s ((groupAt s gi).quad / 4) (ctxIx s (groupAt s gi)) x.va (kindX a.kind) = none
  near  : tableAway s (ctxIx s (groupAt s gi)) x.va = none
  free  : walkHeld s (ctxIx s (groupAt s gi)) x.va = false

/-- The state in which a walk reads its entry: its times are given. -/
def walkedFor (s : State) (gi : Nat) (x : Acc) : State :=
  walkTimes (dropWalk s ((groupAt s gi).quad / 4 / 36) (ctxIx s (groupAt s gi)) x.va) ((groupAt s gi).quad / 4 / 36) (ctxIx s (groupAt s gi)) x.va

/-- A set whose walk is over is settled where all its pages are known by then. -/
def settled (t : State) (core c : Nat) (b : ASet) : State :=
  if b.phase = .xlate ∧ allTranslated t core c (kindX b.kind) b.accs then
    if b.role = .probe then probeDone t b c else Machine.settle t b.id
  else t

section
variable (h : WalkReady s i gi a x)
include h

theorem walkFor_reads : walkFor s a ((groupAt s gi).quad / 4) (ctxIx s (groupAt s gi)) x =
    match translate (walkedFor s gi x) (ctxIx s (groupAt s gi)) x.va (kindX a.kind) with
    | .ok e => tlbFill (walkedFor s gi x) ((groupAt s gi).quad / 4) (ctxIx s (groupAt s gi)) x.va e
    | .error f =>
      if x.help then faultAccs (walkedFor s gi x) a f.cause f.level f.entry fun y =>
        y.help && failsHere (walkedFor s gi x) (ctxIx s (groupAt s gi)) (kindX a.kind) y
      else faultAccs (walkedFor s gi x) a f.cause f.level f.entry (failsHere (walkedFor s gi x) (ctxIx s (groupAt s gi)) (kindX a.kind)) := by
  simp only [walkFor, h.near, h.free]
  rfl

theorem pageWalk_walks {t : State} (walked : walkFor s a ((groupAt s gi).quad / 4) (ctxIx s (groupAt s gi)) x = t) (there : setAt t i = some b) :
    exec (.pageWalk i) s = .next (settled t ((groupAt s gi).quad / 4) (ctxIx s (groupAt s gi)) b) := by
  have miss : a.accs.find? (fun x => x.n != 0 && (tlbLook s ((groupAt s gi).quad / 4) (ctxIx s (groupAt s gi)) x.va (kindX a.kind)).isNone) = some x := by
    simp [h.accs, h.miss, Nat.pos_iff_ne_zero.mp h.bytes]
  have waits : ¬(a.phase ≠ .xlate ∨ a.role = .fetch) := by simp [h.phase, h.role]
  show execPageWalk i s = _
  rw [execPageWalk, h.here]
  simp only [walkSet, h.party, if_neg waits, miss, walked, id_of_setAt h.here, there]
  rfl

theorem walked_setAt : setAt (walkedFor s gi x) i = some a := by
  have walked : OnlyTimes s (walkedFor s gi x) := walked_onlyTimes
  rw [setAt, walked.sets]
  exact h.here

theorem pageWalk_finds (found : translate s (ctxIx s (groupAt s gi)) x.va (kindX a.kind) = .ok e)
    (checks : afterChecks s { a with accs := [{ x with pa := podAddr e x.va, pte := e }] } = none) :
    ∃ t b, exec (.pageWalk i) s = .next t ∧ setAt t i = some b ∧ b.phase = .ready ∧
      b.accs.map (fun (y : Acc) => (y.pa, y.pte)) = [(podAddr e x.va, e)] ∧ Claim.SameMemory s t := by
  let r := walkedFor s gi x
  let t := tlbFill r ((groupAt s gi).quad / 4) (ctxIx s (groupAt s gi)) x.va e
  have walked : OnlyTimes s r := walked_onlyTimes
  have times : OnlyTimes s t := walked.trans tlbFill_onlyTimes
  have group : groupAt t gi = groupAt s gi := times.agree (groupAt · gi)
  have ctx : ctxIx t (groupAt s gi) = ctxIx s (groupAt s gi) := times.agree (ctxIx · (groupAt s gi))
  have walk : walkFor s a ((groupAt s gi).quad / 4) (ctxIx s (groupAt s gi)) x = t := by
    rw [walkFor_reads h, walked.translate, found]
  have there : setAt t i = some a := walked_setAt h
  have look : tlbLook t ((groupAt s gi).quad / 4) (ctxIx s (groupAt s gi)) x.va (kindX a.kind) = some e :=
    tlbLook_tlbFill ((walked.agree (checkPte · _ e _)).trans (checkPte_of_translate found))
  have pages : allTranslated t ((groupAt s gi).quad / 4) (ctxIx s (groupAt s gi)) (kindX a.kind) a.accs = true := by
    simp [allTranslated, h.accs, look]
  have placed : withPages t ((groupAt s gi).quad / 4) (ctxIx s (groupAt s gi)) a = { a with accs := [{ x with pa := podAddr e x.va, pte := e }] } := by
    simp [withPages, h.accs, look, Nat.pos_iff_ne_zero.mp h.bytes]
  have issues : Claim.Issues t (groupAt t gi) a := by
    constructor
    · rw [group, ctx]
      exact pages
    · rw [group, ctx, placed]
      exact (times.agree (afterChecks · _)).trans checks
  obtain ⟨u, -, found_, mem⟩ := settle_gives there h.party h.phase issues
  rw [group, ctx, placed] at found_
  refine ⟨Machine.settle t i, _, ?_, found_, makeReady_sameWord.phase, places_makeReady, fun y => (mem y).trans (congrArg (byteAt · y) times.mem)⟩
  rw [pageWalk_walks h walk there, settled, if_pos ⟨h.phase, pages⟩, if_neg (by simp [h.role]), id_of_setAt h.here]

variable {f : XFault} (fails : translate s (ctxIx s (groupAt s gi)) x.va (kindX a.kind) = .error f)
include fails

/-- After a walk that failed, the access fails by tables that are all here. -/
theorem failsHere_walked : failsHere (walkedFor s gi x) (ctxIx s (groupAt s gi)) (kindX a.kind) x = true := by
  have walked : OnlyTimes s (walkedFor s gi x) := walked_onlyTimes
  simp only [failsHere, walked.tableAway, h.near, walked.translate, fails]
  rfl

theorem pageWalk_parks (lane : x.help = false) :
    ∃ t b ls, exec (.pageWalk i) s = .next t ∧ setAt t i = some b ∧ b.phase = .parked x.va ls s.now ∧ Claim.SameMemory s t := by
  have walked : OnlyTimes s (walkedFor s gi x) := walked_onlyTimes
  let p := failsHere (walkedFor s gi x) (ctxIx s (groupAt s gi)) (kindX a.kind)
  have walk : walkFor s a ((groupAt s gi).quad / 4) (ctxIx s (groupAt s gi)) x =
      parkSet (walkedFor s gi x) a f.cause f.level f.entry x.va (lanesWhere a p) := by
    rw [walkFor_reads h, walked.translate, fails]
    simp only [lane]
    exact faultAccs_parks h.accs h.bytes lane (failsHere_walked h fails)
  have parked := setAt_parkSet (s := walkedFor s gi x) (cause := f.cause) (level := f.level) (e := f.entry) (va := x.va) (lanes := lanesWhere a p)
    h.party h.entry (by rw [id_of_setAt h.here]; exact walked_setAt h)
  rw [id_of_setAt h.here, walked.now] at parked
  have mem := parkSet_onlyForgets (s := walkedFor s gi x) (a := a) (c := f.cause) (level := f.level) (entry := f.entry) (va := x.va)
    (lanes := lanesWhere a p)
  refine ⟨_, _, lanesWhere a p, (pageWalk_walks h walk parked).trans (congrArg _ (if_neg ?_)), parked, rfl,
    fun y => congrArg (byteAt · y) (mem.mem.trans walked.mem)⟩
  simp

/-- Where only a helper lane's access fails, it moves no bytes any longer. -/
theorem walkFor_empties (helper : x.help = true) : ∃ held, walkFor s a ((groupAt s gi).quad / 4) (ctxIx s (groupAt s gi)) x =
    modSet (walkedFor s gi x) a.id fun b => { b with accs := [{ x with n := 0, got := 0 }], spans := b.spans.filter held } := by
  have walked : OnlyTimes s (walkedFor s gi x) := walked_onlyTimes
  have hit := failsHere_walked h fails
  rw [walkFor_reads h, walked.translate, fails]
  simp only [helper, if_true, faultAccs, h.accs, List.find?_cons, Bool.not_true, Bool.and_false, List.find?_nil, List.map, hit,
    Bool.and_true, bne_iff_ne, ne_eq, Nat.pos_iff_ne_zero.mp h.bytes, not_false_iff]
  exact ⟨_, rfl⟩

theorem pageWalk_helper (helper : x.help = true) :
    ∃ t b, exec (.pageWalk i) s = .next t ∧ setAt t i = some b ∧ b.phase = .ready ∧ b.accs = [{ x with n := 0, got := 0 }] ∧
      t.ctxs = s.ctxs ∧ Claim.SameMemory s t := by
  obtain ⟨held, walk⟩ := walkFor_empties h fails helper
  have walked : OnlyTimes s (walkedFor s gi x) := walked_onlyTimes
  have there := setAt_modSet (f := fun b => { b with accs := [{ x with n := 0, got := 0 }], spans := b.spans.filter held }) (fun _ => rfl)
    (show setAt (walkedFor s gi x) a.id = some a by rw [id_of_setAt h.here]; exact walked_setAt h)
  generalize emptied : (modSet (walkedFor s gi x) a.id fun b => { b with accs := [{ x with n := 0, got := 0 }], spans := b.spans.filter held }) = t
    at walk there
  rw [id_of_setAt h.here] at there
  obtain ⟨b, ready, phase, accs, ctxs, mem⟩ := settle_emptied there h.party h.phase rfl rfl
  refine ⟨Machine.settle t i, b, ?_, ready, phase, accs, ?_, fun y => congrArg (byteAt · y) ?_⟩
  · have pages (core c : Nat) (k : Xk) : allTranslated t core c k [{ x with n := 0, got := 0 }] = true := rfl
    rw [pageWalk_walks h walk there, settled, if_pos ⟨h.phase, pages _ _ _⟩, if_neg (by simp [h.role])]
  · rw [ctxs, ← emptied]
    exact walked.ctxs
  · rw [mem, ← emptied]
    exact walked.mem

end

/-! ## WALK_TIMEOUT (R300, R302) -/

/-- The set is parked at the address, for its lanes, since now. -/
def ParkedAt (s : State) (i va now : Nat) : Prop := ∃ b ls, setAt s i = some b ∧ b.phase = .parked va ls now

/-- The step that faults one set which shares a late walk. -/
def lateFault (level : Nat) (hit : Acc → Bool) (s : State) (a : ASet) : State := faultAccs (forgetWaiter s a.id) a Tc.xlateTimeout level 0 hit

section
variable {level : Nat} {hit : Acc → Bool} (party : partyGroup a.party = some gi) (accs : a.accs = [x]) (bytes : 0 < x.n) (lane : x.help = false)
  (meets : hit x = true) (id : a.id = i)
include party accs bytes lane meets id

/-- Of sets that fault in turn, the one with a number parks when its turn comes, and stays parked. -/
theorem lateFaults_park (l : List ASet) (only : ∀ b ∈ l, b.entry = false ∧ (b.id = i → b = a)) (here : ∃ b, setAt s i = some b)
    (turn : a ∈ l ∨ ParkedAt s i x.va s.now) : ParkedAt (l.foldl (lateFault level hit) s) i x.va s.now := by
  induction l generalizing s with
  | nil => exact turn.resolve_left (by simp)
  | cons c r ih =>
    obtain ⟨⟨entry, same⟩, rest⟩ := List.forall_mem_cons.mp only
    obtain ⟨b, here⟩ := here
    have now : (lateFault level hit s c).now = s.now := now_faultAccs entry
    rw [List.foldl_cons, ← now]
    by_cases its : c.id = i
    · obtain rfl := same its
      have parked : setAt (lateFault level hit s c) i = some { b with phase := .parked x.va (lanesWhere c hit) s.now } := by
        rw [lateFault, faultAccs_parks accs bytes lane meets, ← its]
        exact setAt_parkSet party entry (its ▸ here)
      exact ih rest ⟨_, parked⟩ (.inr ⟨_, _, parked, by rw [now]⟩)
    · have other : setAt (lateFault level hit s c) i = setAt s i := setAt_faultAccs_other entry its
      refine ih rest ⟨b, other.trans here⟩ (turn.imp (fun mem => ?_) fun ⟨b, ls, at_, phase⟩ => ⟨b, ls, other.trans at_, by rw [now]; exact phase⟩)
      exact (List.mem_cons.mp mem).resolve_left fun eq => its (eq ▸ id)

end

theorem lateFaults_mem {level : Nat} {hit : Acc → Bool} (l : List ASet) : (l.foldl (lateFault level hit) s).mem = s.mem :=
  (onlyForgets_foldl (fun _ _ => forgetWaiter_onlyForgets.trans faultAccs_onlyForgets) l s).mem

theorem walkTimeout_parks {level : Nat} (here : setAt s i = some a) (phase : a.phase = .xlate) (party : partyGroup a.party = some gi)
    (accs : a.accs = [x]) (bytes : 0 < x.n) (late : walkLate s ((groupAt s gi).quad / 4 / 36) (ctxIx s (groupAt s gi)) x.va = some level)
    (lane : x.help = false) (only : ∀ b ∈ s.sets, b.entry = false ∧ (b.id = i → b = a)) :
    ∃ t b ls, exec (.walkTimeout i) s = .next t ∧ setAt t i = some b ∧ b.phase = .parked x.va ls s.now ∧ Claim.SameMemory s t := by
  have late_ : lateWalk s a = some ((groupAt s gi).quad / 4 / 36, ctxIx s (groupAt s gi), x.va, level) := by
    simp [lateWalk, party, phase, accs, late, Nat.pos_iff_ne_zero.mp bytes]
  have out : exec (.walkTimeout i) s = .next (walkTimesOut s ((groupAt s gi).quad / 4 / 36) (ctxIx s (groupAt s gi)) x.va level) := by
    show execWalkTimeout i s = _
    rw [execWalkTimeout, here, Option.bind_some, late_]
  rw [out]
  unfold walkTimesOut
  extract_lets hit shares
  have meets : hit x = true := beq_self_eq_true _
  have its : a ∈ s.sets.filter shares :=
    List.mem_filter.mpr ⟨List.mem_of_find?_eq_some here, by simp [shares, phase, party, accs, meets, Nat.pos_iff_ne_zero.mp bytes]⟩
  obtain ⟨b, ls, at_, parked⟩ := lateFaults_park (level := level) party accs bytes lane meets (id_of_setAt here) _
    (fun c mem => only c (List.mem_of_mem_filter mem)) ⟨a, here⟩ (.inl its)
  exact ⟨_, b, ls, rfl, at_, parked, fun y => congrArg (byteAt · y) (lateFaults_mem _)⟩

theorem pageWalks : Claim.PageWalks := by
  intro s i a x gi here phase party _ accs bytes role entry _ c core
  refine ⟨fun miss near free => ?_, fun l late => walkTimeout_parks here phase party accs bytes late⟩
  have ready : WalkReady s i gi a x := ⟨here, phase, party, accs, bytes, role, entry, miss, near, free⟩
  exact ⟨fun e => pageWalk_finds ready, fun f => pageWalk_parks ready, fun f => pageWalk_helper ready⟩

/-! ## Waited words (R228, R229) -/

theorem groupAt_modGroup_same {f : Group → Group} (present : gi < s.groups.length) : groupAt (s.modGroup gi f) gi = f (groupAt s gi) :=
  getD_of_getElem? (modGroup_groups_same present)

section
variable {w : WordWait}

/-- A waited word read anew (R228). -/
theorem waitAgain_rereads (may : Claim.MayReread s gi w) : waitAgain s gi w = Claim.reread s gi w := by
  obtain ⟨-, ⟨pend, saved, reached⟩, quiet, room⟩ := may
  have full : partyFull s (.scalar gi) = false := by simpa [partyFull] using room
  exact if_neg (by simp [pend, saved, reached, quiet, full])

theorem wake_rereads (may : Claim.MayReread s gi w) (none_ : inboundMsg s (· == .wake gi) = none) (woken : w.woken = true) :
    exec (.wake gi) s = .next (Claim.reread s gi w) := by
  show execWake gi s = _
  simp only [execWake, none_, may.wait, woken, waitAgain_rereads may, if_true]

theorem repoll_rereads (may : Claim.MayReread s gi w) (late : w.at_ + 4096 ≤ s.now) :
    exec (.waitcmpRepoll gi) s = .next (Claim.reread s gi w) := by
  show execWaitcmpRepoll gi s = _
  simp only [execWaitcmpRepoll, may.wait, late, waitAgain_rereads may, if_true]

end

/-- The word is read, waits without a wake, and its entry stands nowhere yet. -/
structure Unplaced (s : State) (gi : Nat) (w : WordWait) : Prop where
  group  : gi < s.groups.length
  wait   : (groupAt s gi).wait = .word w
  placed : w.placed = false
  woken  : w.woken = false
  quiet  : waitReading s gi = false
  read   : w.pa ≠ 0

section
variable {w : WordWait} (h : Unplaced s gi w)
include h

/-- The group's wait, with its entry placed. -/
theorem placed_wait : (groupAt (s.modGroup gi fun g => { g with wait := .word { w with placed := true, pa := w.pa } }) gi).wait =
    .word { w with placed := true } := by
  rw [groupAt_modGroup_same h.group]

theorem not_unplaced : ¬(w.placed = true ∨ w.woken = true ∨ waitReading s gi = true ∨ w.pa = 0) := by
  simp [h.placed, h.woken, h.quiet, h.read]

theorem placeOwn_here (home : ¬(w.sc = 4 ∧ devicePage (pageOf w.pa) = true ∧ (tagOf s (pageOf w.pa)).any crowned = false))
    (room : ((s.waits.filter fun e => !(e.g == gi && e.src == aid s)).filter fun e => homeSlice e.pa == homeSlice w.pa).length < 1024)
    (current : waitStale s w.pa w.t = false) :
    ∃ t, placeOwn s gi w = t ∧ t.waits = (s.waits.filter fun e => !(e.g == gi && e.src == aid s)) ++
        [{ pa := w.pa, g := gi, time := w.t, src := aid s }] ∧ (groupAt t gi).wait = .word { w with placed := true } := by
  let marked := s.modGroup gi fun g => { g with wait := .word { w with placed := true, pa := w.pa } }
  let e : WaitEntry := { pa := w.pa, g := gi, time := w.t, src := aid s }
  let entered : State := { marked with waits := (s.waits.filter fun e => !(e.g == gi && e.src == aid s)) ++ [e] }
  have place : placeWait marked e = entered := by
    have stale : waitStale entered e.pa e.time = false := current
    unfold placeWait
    dsimp only
    exact (if_pos room).trans (if_neg (ne_true_of_eq_false stale))
  refine ⟨entered, ?_, rfl, placed_wait h⟩
  rw [List.filter_filter] at room
  unfold placeOwn
  dsimp only
  rw [if_neg (not_unplaced h), if_neg (by simpa using home), if_pos room]
  exact place

theorem placeOwn_away (away : w.sc = 4 ∧ devicePage (pageOf w.pa) = true ∧ (tagOf s (pageOf w.pa)).any crowned = false) :
    ∃ t, placeOwn s gi w = t ∧ t.net = s.net ++ [Claim.mail s (homeAid s (pageOf w.pa)) (.waitPlace (w.pa / 128) w.t gi (aid s))] ∧
      (groupAt t gi).wait = .word { w with placed := true } := by
  refine ⟨_, rfl, ?_⟩
  unfold placeOwn
  dsimp only
  rw [if_neg (not_unplaced h), if_pos (by simpa using away)]
  exact ⟨rfl, placed_wait h⟩

end

theorem waitedWords : Claim.WaitedWords := by
  intro s gi w present
  refine ⟨?_, wake_rereads, repoll_rereads⟩
  intro none_ wait placed woken quiet read others away
  have own : exec (.waitEntryPlace gi) s = .next (placeOwn s gi w) := by
    show execWaitEntryPlace gi s = _
    unfold execWaitEntryPlace
    split
    next m found => exact absurd (none_.symm.trans found) (by simp)
    · rw [wait]
  have unplaced : Unplaced s gi w := ⟨present, wait, placed, woken, quiet, read⟩
  rw [own]
  refine ⟨fun home room current => ?_, fun far => ?_⟩
  · obtain ⟨t, eq, waits⟩ := placeOwn_here unplaced home room current
    exact ⟨t, congrArg _ eq, waits⟩
  · obtain ⟨t, eq, net⟩ := placeOwn_away unplaced far
    exact ⟨t, congrArg _ eq, net⟩

/-- Settles O33: a walk only gives times, so its set settles, or parks, as the tables say; a wait is placed, sent or read anew. What a walk that has
had no answer counts from is notes/assumptions/68.md, where a waited word's re-read goes notes/assumptions/71.md. -/
theorem walksAndWaits : Obligations.WalksAndWaits := ⟨pageWalks, waitedWords⟩

end Sys2Proof.Proofs
end

section
/-! SUPPORT. Copy and fabric engines (R164, R217 to R222): one context at work on one command, and what a step of it moves or sends. -/

namespace Sys2Proof.Proofs

open Sys2Proof Sys2Proof.Machine

set_option Elab.async false

variable {s u : State} {gi n a f : Nat} {fab : Bool} {c d : EngCmd} {t : Team} {bs : List Byte}

/-! ## A context at work on one command -/

/-- The state with the one command of an engine context, and the group's team, replaced. -/
def working (s : State) (gi : Nat) (fab : Bool) (c : EngCmd) (t : Team) : State :=
  (modEng s gi fab fun e => { e with cmds := [c] }).modTeam (groupAt s gi).team fun _ => t

/-- The team of group `gi`. -/
abbrev teamAt (s : State) (gi : Nat) : Team := teamOf s (groupAt s gi)

theorem engOf_setEng {g : Group} {e : Engine} : engOf (setEng g fab e) fab = e := by cases fab <;> rfl
theorem setEng_setEng {g : Group} {e e' : Engine} : setEng (setEng g fab e) fab e' = setEng g fab e' := by cases fab <;> rfl
theorem setEng_engOf {g : Group} : setEng g fab (engOf g fab) = g := by cases fab <;> rfl
theorem team_setEng {g : Group} {e : Engine} : (setEng g fab e).team = g.team := by cases fab <;> rfl
theorem quad_setEng {g : Group} {e : Engine} : (setEng g fab e).quad = g.quad := by cases fab <;> rfl

theorem modEng_modEng {p q : Engine → Engine} : modEng (modEng s gi fab p) gi fab q = modEng s gi fab (q ∘ p) := by
  unfold modEng
  rw [modGroup_comp]
  refine congrArg (s.modGroup gi) (funext fun g => ?_)
  simp only [Function.comp, engOf_setEng, setEng_setEng]

theorem modTeam_comp {i : Nat} {p q : Team → Team} : (s.modTeam i p).modTeam i q = s.modTeam i (q ∘ p) := by
  simp only [State.modTeam, List.modify_modify_eq]

theorem modTeam_congr {i : Nat} {p q : Team → Team} (present : i < s.teams.length) (same : p (s.teams.getD i default) = q (s.teams.getD i default)) :
    s.modTeam i p = s.modTeam i q := by
  have here : s.teams[i]? = some (s.teams.getD i default) := getElem?_getD_of_lt present
  have teams : s.teams.modify i p = s.teams.modify i q := by
    refine List.ext_getElem? fun j => ?_
    rw [List.getElem?_modify, List.getElem?_modify]
    split
    · subst_vars
      rw [here]
      exact congrArg some same
    · rfl
  simp [State.modTeam, teams]

/-- A state is at work on the one command that its context holds. -/
theorem working_self (group : gi < s.groups.length) (team : (groupAt s gi).team < s.teams.length)
    (cmds : (engOf (groupAt s gi) fab).cmds = [c]) : working s gi fab c (teamAt s gi) = s := by
  have eng : modEng s gi fab (fun e => { e with cmds := [c] }) = s.modGroup gi id := by
    refine modGroup_congr (g := groupAt s gi) (getElem?_getD_of_lt group) ?_
    show setEng (groupAt s gi) fab { engOf (groupAt s gi) fab with cmds := [c] } = groupAt s gi
    rw [← cmds]
    exact setEng_engOf
  have same : s.modTeam (groupAt s gi).team (fun _ => teamAt s gi) = s.modTeam (groupAt s gi).team id := modTeam_congr team rfl
  rw [working, eng]
  simp only [State.modGroup, List.modify_id]
  exact same.trans (by simp [State.modTeam])

/-- A change of the command is made in it. -/
theorem modCmd_working {p : EngCmd → EngCmd} : modCmd (working s gi fab c t) gi fab c.num p = working s gi fab (p c) t := by
  have changed : modEng (modEng s gi fab fun e => { e with cmds := [c] }) gi fab (fun e => { e with cmds := modFirst (fun d => d.num == c.num) p e.cmds }) =
      modEng s gi fab fun e => { e with cmds := [p c] } := by
    rw [modEng_modEng]
    refine congrArg (modEng s gi fab) (funext fun e => ?_)
    simp [modFirst]
  exact congrArg (fun s' : State => s'.modTeam (groupAt s gi).team fun _ => t) changed

section
variable (group : gi < s.groups.length)
include group

theorem groupAt_working : groupAt (working s gi fab c t) gi = setEng (groupAt s gi) fab { engOf (groupAt s gi) fab with cmds := [c] } :=
  groupAt_modGroup_same group

theorem team_working : (groupAt (working s gi fab c t) gi).team = (groupAt s gi).team := by rw [groupAt_working group, team_setEng]

theorem findCmd_working : findCmd (working s gi fab c t) gi fab c.num = some c := by
  rw [findCmd, groupAt_working group, engOf_setEng]
  simp

variable (team : (groupAt s gi).team < s.teams.length)
include team

omit group in
theorem teams_working : (working s gi fab c t).teams.getD (groupAt s gi).team default = t :=
  getD_of_getElem? (modTeam_teams_same (f := fun _ => t) (getElem?_getD_of_lt (d := default) team))

theorem teamAt_working : teamAt (working s gi fab c t) gi = t := by
  rw [teamAt, teamOf, team_working group, teams_working team]

theorem ctxIx_working (launch : t.launch = (teamAt s gi).launch) :
    ctxIx (working s gi fab c t) (groupAt (working s gi fab c t) gi) = ctxIx s (groupAt s gi) := by
  have same : launchIx (working s gi fab c t) (groupAt (working s gi fab c t) gi) = launchIx s (groupAt s gi) :=
    (congrArg Team.launch (teamAt_working group team)).trans launch
  rw [ctxIx, launchOf, same]
  rfl

/-! ## Team SRAM under an engine (R158, R164) -/

omit group team in
/-- Rows that get their times leave the rest of the team. -/
theorem foldl_setRow {ts : Team → Nat → Nat × Nat} (l : List Nat) (t : Team) :
    ∃ rows, l.foldl (fun t r => setRow t r (ts t r)) t = { t with rows := rows } := by
  refine List.foldlRecOn (motive := fun t' : Team => ∃ rows, t' = { t with rows := rows }) l _ ⟨t.rows, rfl⟩ ?_
  rintro _ ⟨rows, rfl⟩ r _
  exact ⟨_, rfl⟩

omit group team in
theorem modTeam_working {p : Team → Team} : (working s gi fab c t).modTeam (groupAt s gi).team p = working s gi fab c (p t) := modTeam_comp

/-- An engine reads its team's SRAM: the bytes there, rows leased. -/
theorem engRead_working (stand : t.state = .resident) (num : Nat) : ∃ rows tm,
    engRead (working s gi fab c t) gi fab num true a n f = .done (working s gi fab c { t with rows := rows }) (bytesAt t.sram a n, tm, none) := by
  have there : sramThere (working s gi fab c t) gi = true := by
    simp only [sramThere, teamAt_working group team, stand]
    rfl
  obtain ⟨rows, leased⟩ := foldl_setRow (ts := fun t r => ((rowTimes t r).1, max (rowTimes t r).2 f)) (rowsOfRange a n) t
  refine ⟨rows, (rowsOfRange a n).foldl (fun m r => max m (rowTimes t r).1) f, ?_⟩
  simp only [engRead, there, if_true, sramGet, team_working group, teams_working team, modTeam_working, leased]

/-- An engine writes its team's SRAM. -/
theorem engWrite_working (stand : t.state = .resident) (num : Nat) : ∃ rows tm, ∀ poison,
    engWrite (working s gi fab c t) gi fab num true a f bs poison =
      .done (working s gi fab c { t with rows := rows, sram := setBytes t.sram a bs }) tm := by
  have there : sramThere (working s gi fab c t) gi = true := by
    simp only [sramThere, teamAt_working group team, stand]
    rfl
  obtain ⟨rows, stamped⟩ := foldl_setRow (ts := fun _ r => (max f ((rowTimes t r).2 + 1), max f ((rowTimes t r).2 + 1))) (rowsOfRange a bs.length) t
  refine ⟨rows, (rowsOfRange a bs.length).foldl (fun m r => max m (max f ((rowTimes t r).2 + 1))) f, fun _ => ?_⟩
  simp only [engWrite, there, if_true, sramPut, team_working group, teams_working team, modTeam_working, stamped]

end

/-! ## Copy commands (R219) -/

/-- The only command of a context that has moved nothing yet goes next. -/
theorem movable_of_engineAt (h : Claim.EngineAt s gi fab c) : movable s gi fab (cmdOpc c) = some c := by
  have starts : mayStart s (engOf (groupAt s gi) fab) c = true := by
    simp [mayStart, h.going, h.held, h.cmds, h.old]
  simp [movable, h.cmds, h.fresh.1, h.calm, starts]

theorem engineAt_working (h : Claim.EngineAt s gi fab c) : working s gi fab c (teamAt s gi) = s := working_self h.group h.team h.cmds

/-- What the end of a copy command leaves: the count is sent with CNT. -/
theorem endCopy_working (group : gi < s.groups.length) (team : (groupAt s gi).team < s.teams.length) (launch : t.launch = (teamAt s gi).launch) :
    ∃ e, findCmd (endCopy (working s gi false d t) gi d) gi false d.num = some e ∧ e.fin = true ∧ e.prog = d.prog ∧
      Claim.sramOf (endCopy (working s gi false d t) gi d) gi = t.sram ∧
      (endCopy (working s gi false d t) gi d).net = s.net ++ Claim.copyCount s gi d d.time ∧
      (endCopy (working s gi false d t) gi d).mem = s.mem := by
  unfold endCopy Claim.copyCount
  split
  · rw [modCmd_working, ctxIx_working group team launch]
    let e : EngCmd := { d with fin := true, acks := 1 }
    exact ⟨e, findCmd_working (c := e) (t := t) group, rfl, rfl, congrArg Team.sram (teamAt_working (c := e) (fab := false) group team), rfl, rfl⟩
  · rw [modCmd_working]
    let e : EngCmd := { d with fin := true }
    exact ⟨e, findCmd_working (c := e) (t := t) group, rfl, rfl, congrArg Team.sram (teamAt_working (c := e) (fab := false) group team),
      (List.append_nil _).symm, rfl⟩

/-- What a step of a copy command leaves when it has written `bs` at `dst`. -/
structure Copied (s : State) (gi : Nat) (c : EngCmd) (dst : Nat) (bs : List Byte) (t : State) : Prop where
  cmd  : ∃ d, findCmd t gi false c.num = some d ∧ d.prog = c.prog + bs.length ∧ (d.fin = true ↔ cmdTotal c ≤ c.prog + bs.length)
  sram : Claim.sramOf t gi = setBytes (Claim.sramOf s gi) dst bs
  mem  : t.mem = s.mem
  net  : cmdTotal c ≤ c.prog + bs.length → ∃ tm, t.net = s.net ++ Claim.copyCount s gi c tm

section
variable (h : Claim.EngineAt s gi false c) (sram : Claim.InSram c)
include h sram

/-- Bytes that have been read are written: `x` is the command as it was read, `d` as it stands, `t` the team after the read. -/
theorem copyOut_copies {x : EngCmd} (words : x.words = c.words ∧ d.words = c.words) (num : x.num = c.num ∧ d.num = c.num)
    (prog : x.prog = c.prog ∧ d.prog = c.prog) (going : d.fin = false) (stand : t.state = .resident) (launch : t.launch = (teamAt s gi).launch)
    (bytes : t.sram = Claim.sramOf s gi) : Copied s gi c (geometry c).2.1 bs (copyOut (working s gi false d t) gi x bs) := by
  obtain ⟨ssram, dsram⟩ := sram
  have word {y : EngCmd} (words : y.words = c.words) (k : Nat) : cmdWord y k = cmdWord c k := by rw [cmdWord, words, cmdWord]
  have total {y : EngCmd} (words : y.words = c.words) : cmdTotal y = cmdTotal c := by simp only [cmdTotal, cmdOpc, word words]
  have place : (geometry x).2.1 = (geometry c).2.1 := by simp only [geometry, cmdOpc, word words.1, prog.1, total words.1]
  have free : copyHeld (working s gi false d t) gi x (geometry c).2.1 bs.length = false := by
    have idle : (working s gi false d t).units.any (fun u => u.2.run.any fun k => k.g == gi && k.eng0 < x.num &&
        (List.range (pieces k)).any fun j => pieceUnread (working s gi false d t) k j &&
          (pieceRanges k j).any fun r => (geometry c).2.1 < r.1 + r.2 && r.1 < (geometry c).2.1 + bs.length) = false := by
      refine List.any_eq_false.mpr fun u mem => ?_
      rw [h.units u mem]
      simp
    rw [copyHeld, idle, Bool.and_false]
  have apart : writeChoice (working s gi false d t) x (geometry c).2.1 bs [] = (working s gi false d t, bs, []) := by
    have none_ : ((List.range bs.length).filter fun k => inSource x ((geometry c).2.1 + k)) = [] := by
      simp [inSource, word words.1, ssram]
    simp only [writeChoice, none_, List.isEmpty_nil, if_true]
  obtain ⟨rows, tm, wrote⟩ := engWrite_working (fab := false) (c := d) (a := (geometry c).2.1) (f := x.lt) (bs := bs) h.group h.team stand c.num
  let e : EngCmd := { d with prog := d.prog + bs.length, time := max d.time tm, buf := none, olds := d.olds ++ [] }
  let t' : Team := { t with rows := rows, sram := setBytes t.sram (geometry c).2.1 bs }
  have number : e.num = c.num := num.2
  have moved : e.prog = c.prog + bs.length := congrArg (· + bs.length) prog.2
  have found : findCmd (working s gi false e t') gi false c.num = some e := number ▸ findCmd_working (c := e) h.group
  have out : copyOut (working s gi false d t) gi x bs =
      if cmdTotal c ≤ e.prog then endCopy (working s gi false e t') gi e else working s gi false e t' := by
    have changed (y : Team) (p : EngCmd → EngCmd) : modCmd (working s gi false d y) gi false c.num p = working s gi false (p d) y :=
      num.2 ▸ modCmd_working
    unfold copyOut
    simp only [place, num.1, free, word words.1, dsram, if_true, apart, wrote, changed, Bool.false_eq_true, if_false]
    rw [found]
    simp only [total (y := e) words.2]
    rfl
  have written : t'.sram = setBytes (Claim.sramOf s gi) (geometry c).2.1 bs := by rw [← bytes]
  rw [out, moved]
  split
  next over_ =>
    obtain ⟨e', ended, fin, prog, sram, net, mem⟩ := endCopy_working (d := e) (t := t') h.group h.team launch
    have count (tm : Nat) : Claim.copyCount s gi e tm = Claim.copyCount s gi c tm := by
      simp only [Claim.copyCount, word (y := e) words.2, total (y := e) words.2, number]
    exact ⟨⟨e', number ▸ ended, prog.trans moved, by simp [fin, over_]⟩, sram.trans written, mem, fun _ => ⟨_, net.trans (congrArg _ (count _))⟩⟩
  next more =>
    exact ⟨⟨e, found, moved, by simp [e, going, more]⟩, (congrArg Team.sram (teamAt_working (c := e) (fab := false) h.group h.team)).trans written,
      rfl, fun over_ => absurd over_ more⟩

/-- A step of FILL writes its pattern. -/
theorem copyStep_fills (fill : cmdOpc c = 2) : Copied s gi c (geometry c).2.1 (fillBytes c (pieceSize c)) (copyStep s gi c) := by
  have step : copyStep s gi c = copyOut (working s gi false { c with began := true } (teamAt s gi)) gi c (fillBytes c (pieceSize c)) := by
    conv_lhs => rw [← engineAt_working h]
    simp only [copyStep, modCmd_working, h.fresh.2.2.1, fill, if_true]
  rw [step]
  exact copyOut_copies h sram ⟨rfl, rfl⟩ ⟨rfl, rfl⟩ ⟨rfl, rfl⟩ h.fresh.1 h.stand rfl rfl

/-- A step of COPY, COPY2D or BPNPREFIX moves the bytes at its place. -/
theorem copyStep_moves (other : cmdOpc c ≠ 2) :
    Copied s gi c (geometry c).2.1 (bytesAt (Claim.sramOf s gi) (geometry c).1 (pieceSize c)) (copyStep s gi c) := by
  obtain ⟨d, begun⟩ : ∃ d : EngCmd, d = { c with began := true } := ⟨_, rfl⟩
  have num : d.num = c.num := by rw [begun]
  have start : modCmd s gi false c.num (fun c => { c with began := true }) = working s gi false d (teamAt s gi) := by
    conv_lhs => rw [← engineAt_working h]
    rw [modCmd_working, begun]
  obtain ⟨rows, tm, read⟩ := engRead_working (fab := false) (c := d) (a := (geometry c).1) (n := pieceSize c) (f := c.lt)
    h.group h.team h.stand c.num
  have step : copyStep s gi c = copyOut (working s gi false { d with buf := some (bytesAt (Claim.sramOf s gi) (geometry c).1 (pieceSize c)), time := max d.time tm }
      { teamAt s gi with rows := rows }) gi { c with buf := some (bytesAt (Claim.sramOf s gi) (geometry c).1 (pieceSize c)), time := max c.time tm }
      (bytesAt (Claim.sramOf s gi) (geometry c).1 (pieceSize c)) := by
    have changed (t : Team) (p : EngCmd → EngCmd) : modCmd (working s gi false d t) gi false c.num p = working s gi false (p d) t :=
      num ▸ modCmd_working
    unfold copyStep
    simp only [start, h.fresh.2.2.1, other, if_false, sram.1, read, readChoice, h.fresh.2.2.2, List.isEmpty_nil, if_true, Option.isSome_none,
      Bool.false_eq_true, changed]
    rfl
  rw [step]
  refine copyOut_copies h sram ⟨rfl, ?_⟩ ⟨rfl, num⟩ ⟨rfl, ?_⟩ ?_ h.stand rfl rfl <;> rw [begun]
  exact h.fresh.1

end

/-! ## Pieces of copy commands between places of team SRAM -/

theorem length_bytesAt {m : Memory} : (bytesAt m a n).length = n := by
  induction n generalizing a with
  | zero => rfl
  | succ n ih => exact congrArg (· + 1) ih

theorem pieceSize_inSram (sram : Claim.InSram c) : pieceSize c = min (geometry c).2.2 4096 := by
  simp [pieceSize, sram.1, sram.2]

theorem total_of_plain (plain : cmdOpc c = 1 ∨ cmdOpc c = 2) : cmdTotal c = cmdWord c 3 := by
  rcases plain with h | h <;> simp only [cmdTotal, h]

theorem geometry_of_plain (plain : cmdOpc c = 1 ∨ cmdOpc c = 2) (start : c.prog = 0) :
    geometry c = (cmdWord c 1, cmdWord c 2, cmdWord c 3) := by
  have total := total_of_plain plain
  rcases plain with h | h <;> simp only [geometry, h, total, start, Nat.add_zero, Nat.sub_zero]

theorem total_of_rows (opc : cmdOpc c = 3) : cmdTotal c = cmdWord c 3 % 2 ^ 32 * (cmdWord c 3 / 2 ^ 32) := by
  simp only [cmdTotal, opc]

/-- COPY2D stands at the head of row `r`. -/
theorem geometry_of_rows {r : Nat} (opc : cmdOpc c = 3) (some_ : 0 < cmdWord c 3 % 2 ^ 32) (row : c.prog = r * (cmdWord c 3 % 2 ^ 32)) :
    geometry c = (cmdWord c 1 + r * (cmdWord c 4 % 2 ^ 32), cmdWord c 2 + r * (cmdWord c 4 / 2 ^ 32), cmdWord c 3 % 2 ^ 32) := by
  simp only [geometry, opc, row, Nat.mul_div_cancel _ some_, Nat.mul_mod_left, Nat.add_zero, Nat.sub_zero]

theorem total_of_records (opc : cmdOpc c = 4) : cmdTotal c = 32 * (cmdWord c 4 % 16) * (cmdWord c 3 % 2 ^ 32) := by
  simp only [cmdTotal, opc]

/-- BPNPREFIX stands at the head of record `r`. -/
theorem geometry_of_records {r : Nat} (opc : cmdOpc c = 4) (some_ : 0 < cmdWord c 4 % 16) (record : c.prog = r * (32 * (cmdWord c 4 % 16))) :
    geometry c = (cmdWord c 1 + 256 * r, cmdWord c 2 + 32 * (cmdWord c 4 % 16) * r, 32 * (cmdWord c 4 % 16)) := by
  have pos : 0 < 32 * (cmdWord c 4 % 16) := by omega
  rw [Nat.mul_comm] at record
  simp only [geometry, opc, record, Nat.mul_div_cancel_left _ pos, Nat.mul_mod_right, Nat.add_zero, Nat.sub_zero]

theorem copyOf_steps {opc : Nat} (h : Claim.EngineAt s gi false c) (its : cmdOpc c = opc) : copyOf opc gi s = .next (copyStep s gi c) := by
  rw [← its, copyOf, movable_of_engineAt h]

/-- The last of `rows` pieces of `k` bytes is the one behind which nothing is left. -/
theorem last_piece_iff {k rows r : Nat} (pos : 0 < k) (inside : r < rows) : k * rows ≤ r * k + k ↔ r + 1 = rows := by
  rw [← Nat.succ_mul, Nat.mul_comm k, Nat.mul_le_mul_right_iff pos]
  omega

theorem byteAt_fillBytes {m : Memory} {k : Nat} (start : c.prog = 0) (inside : k < n) :
    byteAt (setBytes m a (fillBytes c n)) (a + k) = BitVec.ofNat 8 (cmdWord c 1 / 2 ^ (8 * (k % 8))) := by
  rw [byteAt_setBytes_in (by simpa [fillBytes] using inside)]
  simp [fillBytes, start, inside]

/-- The bytes that a step has moved, read back. -/
theorem copied_bytes {dst src : Nat} (moved : Copied s gi c dst (bytesAt (Claim.sramOf s gi) src n) u) :
    bytesAt (Claim.sramOf u gi) dst n = bytesAt (Claim.sramOf s gi) src n := by
  have read := bytesAt_setBytes (m := Claim.sramOf s gi) (pa := dst) (bs := bytesAt (Claim.sramOf s gi) src n)
  rwa [length_bytesAt, ← moved.sram] at read

section
variable (h : Claim.EngineAt s gi false c) (sram : Claim.InSram c)
include h sram

/-- A step of a row or record of at most 4096 bytes moves it whole. -/
theorem copyStep_moves_whole {src dst : Nat} (other : cmdOpc c ≠ 2) (place : geometry c = (src, dst, n)) (fits : n ≤ 4096) :
    Copied s gi c dst (bytesAt (Claim.sramOf s gi) src n) (copyStep s gi c) := by
  have moved := copyStep_moves h sram other
  rwa [pieceSize_inSram sram, place, Nat.min_eq_left fits] at moved

theorem copy_moves (opc : cmdOpc c = 1) (start : c.prog = 0) (fits : cmdWord c 3 ≤ 4096) :
    ∃ t d tm, exec (.copy gi) s = .next t ∧ findCmd t gi false c.num = some d ∧ d.fin = true ∧ d.prog = cmdWord c 3 ∧
      bytesAt (Claim.sramOf t gi) (cmdWord c 2) (cmdWord c 3) = bytesAt (Claim.sramOf s gi) (cmdWord c 1) (cmdWord c 3) ∧
      t.net = s.net ++ Claim.copyCount s gi c tm ∧ t.mem = s.mem := by
  have moved := copyStep_moves_whole h sram (by omega) (geometry_of_plain (.inl opc) start) fits
  have bytes := copied_bytes moved
  obtain ⟨⟨d, found, prog, fin⟩, -, mem, net⟩ := moved
  have whole : cmdTotal c ≤ c.prog + (bytesAt (Claim.sramOf s gi) (cmdWord c 1) (cmdWord c 3)).length := by
    rw [total_of_plain (.inl opc), length_bytesAt]
    omega
  obtain ⟨tm, net⟩ := net whole
  exact ⟨_, d, tm, copyOf_steps h opc, found, fin.mpr whole, by rw [prog, length_bytesAt, start, Nat.zero_add], bytes, net, mem⟩

theorem fill_writes (opc : cmdOpc c = 2) (start : c.prog = 0) (fits : cmdWord c 3 ≤ 4096) :
    ∃ t d tm, exec (.fill gi) s = .next t ∧ findCmd t gi false c.num = some d ∧ d.fin = true ∧
      (∀ k, k < cmdWord c 3 → byteAt (Claim.sramOf t gi) (cmdWord c 2 + k) = BitVec.ofNat 8 (cmdWord c 1 / 2 ^ (8 * (k % 8)))) ∧
      (∀ a, (a < cmdWord c 2 ∨ cmdWord c 2 + cmdWord c 3 ≤ a) → byteAt (Claim.sramOf t gi) a = byteAt (Claim.sramOf s gi) a) ∧
      t.net = s.net ++ Claim.copyCount s gi c tm ∧ t.mem = s.mem := by
  have filled := copyStep_fills h sram opc
  rw [pieceSize_inSram sram, geometry_of_plain (.inr opc) start, Nat.min_eq_left fits] at filled
  have length : (fillBytes c (cmdWord c 3)).length = cmdWord c 3 := by simp [fillBytes]
  obtain ⟨⟨d, found, -, fin⟩, sram, mem, net⟩ := filled
  rw [total_of_plain (.inr opc), length, start, Nat.zero_add] at fin net
  obtain ⟨tm, net⟩ := net le_rfl
  refine ⟨_, d, tm, copyOf_steps h opc, found, fin.mpr le_rfl, fun k inside => ?_, fun a outside => ?_, net, mem⟩
  · rw [sram, byteAt_fillBytes start inside]
  · rw [sram, byteAt_setBytes_out (by rwa [length])]

theorem copy2d_moves {r : Nat} (opc : cmdOpc c = 3) (row : c.prog = r * (cmdWord c 3 % 2 ^ 32)) (inside : r < cmdWord c 3 / 2 ^ 32)
    (some_ : 0 < cmdWord c 3 % 2 ^ 32) (fits : cmdWord c 3 % 2 ^ 32 ≤ 4096) :
    ∃ t d, exec (.copy2d gi) s = .next t ∧ findCmd t gi false c.num = some d ∧ d.prog = c.prog + cmdWord c 3 % 2 ^ 32 ∧
      (d.fin = true ↔ r + 1 = cmdWord c 3 / 2 ^ 32) ∧
      bytesAt (Claim.sramOf t gi) (cmdWord c 2 + r * (cmdWord c 4 / 2 ^ 32)) (cmdWord c 3 % 2 ^ 32) =
        bytesAt (Claim.sramOf s gi) (cmdWord c 1 + r * (cmdWord c 4 % 2 ^ 32)) (cmdWord c 3 % 2 ^ 32) ∧
      t.mem = s.mem := by
  have moved := copyStep_moves_whole h sram (by omega) (geometry_of_rows opc some_ row) fits
  have bytes := copied_bytes moved
  obtain ⟨⟨d, found, prog, fin⟩, -, mem, -⟩ := moved
  rw [length_bytesAt] at prog fin
  rw [total_of_rows opc, row, last_piece_iff some_ inside] at fin
  exact ⟨_, d, copyOf_steps h opc, found, prog, fin, bytes, mem⟩

theorem bpnprefix_moves {r : Nat} (opc : cmdOpc c = 4) (record : c.prog = r * (32 * (cmdWord c 4 % 16))) (inside : r < cmdWord c 3 % 2 ^ 32)
    (some_ : 0 < cmdWord c 4 % 16) :
    ∃ t d, exec (.bpnprefix gi) s = .next t ∧ findCmd t gi false c.num = some d ∧ d.prog = c.prog + 32 * (cmdWord c 4 % 16) ∧
      (d.fin = true ↔ r + 1 = cmdWord c 3 % 2 ^ 32) ∧
      bytesAt (Claim.sramOf t gi) (cmdWord c 2 + 32 * (cmdWord c 4 % 16) * r) (32 * (cmdWord c 4 % 16)) =
        bytesAt (Claim.sramOf s gi) (cmdWord c 1 + 256 * r) (32 * (cmdWord c 4 % 16)) ∧
      t.mem = s.mem := by
  have moved := copyStep_moves_whole h sram (by omega) (geometry_of_records opc some_ record) (by omega)
  have bytes := copied_bytes moved
  obtain ⟨⟨d, found, prog, fin⟩, -, mem, -⟩ := moved
  rw [length_bytesAt] at prog fin
  rw [total_of_records opc, record, last_piece_iff (by omega) inside] at fin
  exact ⟨_, d, copyOf_steps h opc, found, prog, fin, bytes, mem⟩

end

theorem copyCommandsMoveBytes : Claim.CopyCommandsMoveBytes := fun _ _ _ h sram =>
  ⟨fun opc start _ => copy_moves h sram opc start, fun opc start _ => fill_writes h sram opc start, fun _ => copy2d_moves h sram,
    fun _ => bpnprefix_moves h sram⟩

end Sys2Proof.Proofs
end

section
/-! SUPPORT. Fabric commands at the initiator (R220, R222): the granule that a step sends, and what its command then waits for. -/

namespace Sys2Proof.Proofs

open Sys2Proof Sys2Proof.Machine

set_option Elab.async false

variable {s u : State} {gi n va core cx : Nat} {k : Xk} {c d : EngCmd} {t : Team} {e : Word} {p : Party} {who : Issuer}

/-! ## Tables that a party needs (R300, R301) -/

/-- The pages of a range that a party's TLB does not give. -/
def missesOf (s : State) (p : Party) (cx : Nat) (k : Xk) (va n : Nat) : List Nat := (pageVas va n).filter fun a => (partyLook s p cx a k).isNone

/-- Tables are here, and nobody writes them, where the answer is that the state may go on as it is. -/
theorem tablesFor_done_iff : tablesFor s p cx k who va n = .done s () ↔
    (missesOf s p cx k va n).find? (fun a => (tableAway s cx a).isSome) = none ∧ (missesOf s p cx k va n).any (walkHeld s cx) = false := by
  rw [tablesFor, missesOf]
  split
  next near =>
    rw [near]
    split <;> simp_all
  next a away =>
    rw [away]
    dsimp only
    split
    · simp
    · split <;> simp

/-- What a party's look and its walks depend on stands as it was, so its tables are here as before. -/
theorem tablesFor_of_same (look : ∀ a, partyLook u p cx a k = partyLook s p cx a k) (away : ∀ a, tableAway u cx a = tableAway s cx a)
    (held : ∀ a, walkHeld u cx a = walkHeld s cx a) (here : tablesFor s p cx k who va n = .done s ()) :
    tablesFor u p cx k who va n = .done u () := by
  have misses : missesOf u p cx k va n = missesOf s p cx k va n := by simp only [missesOf, look]
  rw [tablesFor_done_iff] at here ⊢
  rw [misses, funext held]
  exact ⟨by simpa only [away] using here.1, here.2⟩

theorem walk_of_same {a : Nat} (mem : u.mem = s.mem) (am : u.am = s.am) (check : ∀ e, checkPte u cx e k = checkPte s cx e k) :
    walk u cx va k n a = walk s cx va k n a := by
  induction n generalizing a with
  | zero => rfl
  | succ n ih =>
    unfold walk
    simp only [mem, am, check, ih]

/-! ## Granules that are sent -/

section
variable (group : gi < s.groups.length)
include group

theorem engineCore_working {fab : Bool} : engineCore (working s gi fab c t) (.fabric gi) = engineCore s (.fabric gi) := by
  simp only [engineCore, groupAt_working group, quad_setEng]

theorem partyLook_working {fab : Bool} : partyLook (working s gi fab c t) (.fabric gi) cx va k = partyLook s (.fabric gi) cx va k := by
  unfold partyLook
  rw [engineCore_working group]
  rfl

theorem tablesFor_working {fab : Bool} (here : tablesFor s (.fabric gi) cx k who va n = .done s ()) :
    tablesFor (working s gi fab c t) (.fabric gi) cx k who va n = .done (working s gi fab c t) () :=
  tablesFor_of_same (fun _ => partyLook_working group) (fun _ => rfl) (fun _ => rfl) here

theorem partyPte_working {fab : Bool} : partyPte (working s gi fab c t) (.fabric gi) cx va k = partyPte s (.fabric gi) cx va k := by
  have walks : translate (working s gi fab c t) cx va k = translate s cx va k := walk_of_same rfl rfl fun _ => rfl
  unfold partyPte
  rw [partyLook_working group, walks]

end

/-- The granule that a command asks for at `va`: where its page's tables are here and give the entry `e`, of a page of device memory. -/
structure Asks (s : State) (gi cx : Nat) (c : EngCmd) (va : Nat) (k : Xk) (e : Word) : Prop where
  tables : tablesFor s (.fabric gi) cx k (.engine gi true c.num va) va 1 = .done s ()
  pte    : partyPte s (.fabric gi) cx va k = .ok e
  device : gpnSpace (pteGpn e) < 0xFFD

/-- The granule has been sent, and the command waits for one acknowledgement more. -/
structure Sent (s : State) (gi : Nat) (c : EngCmd) (va n : Nat) (op : BitVec 8) (data : List Byte) (cnt : Option (Nat × Nat)) (e : Word) (t : State) :
    Prop where
  net : t.net = s.net ++ [Claim.mail s (homeAid s (pteGpn e)) (.granule (aid s) c.num gi (spaceOf s (ctxIx s (groupAt s gi))) va (podAddr e va) op
    data n cnt c.lt false (pteMirr e))]
  cmd : ∃ d, findCmd t gi true c.num = some d ∧ d.acks = c.acks + 1 ∧ d.prog = c.prog + n
  mem : t.mem = s.mem

/-- The counter that a PUT tells with CNT. -/
def putCount (c : EngCmd) : Option (Nat × Nat) :=
  if cmdOpc c = 0x11 ∧ hdrCnt (cmdWord c 0) then some (cmdWord c 4 % 1024, bits (cmdWord c 0) 31 20) else none

/-- The command once its granule at `va` is out. -/
def granuleOut (va n now : Nat) (last : Bool) (c : EngCmd) : EngCmd :=
  { c with prog := c.prog + n, acks := c.acks + 1, outs := c.outs ++ [(va, now)], fin := last, buf := none }

/-- Where tables and page are known, the page is entered, the command counts the granule, and the granule goes to the page's home. -/
theorem sendGranule_of {op : BitVec 8} {data : List Byte} {last : Bool} {v : State}
    (tables : tablesFor s (.fabric gi) (ctxIx s (groupAt s gi)) k (.engine gi true c.num va) va 1 = .done s ())
    (pte : partyPte s (.fabric gi) (ctxIx s (groupAt s gi)) va k = .ok e) (device : gpnSpace (pteGpn e) < 0xFFD)
    (entered : modCmd (enterPte s (.fabric gi) (ctxIx s (groupAt s gi)) va k) gi true c.num
      (granuleOut va n (enterPte s (.fabric gi) (ctxIx s (groupAt s gi)) va k).now last) = v) :
    sendGranule s gi c va n k op data last = send v (homeAid v (pteGpn e)) (.granule (aid v) c.num gi (spaceOf v (ctxIx s (groupAt s gi))) va
      (podAddr e va) op data n (putCount c) c.lt false (pteMirr e)) := by
  rw [← entered, sendGranule, tables]
  dsimp only
  rw [pte]
  exact if_neg (Nat.not_le.mpr device)

/-- The one command of a context, changed and found again. -/
theorem findCmd_modCmd {num : Nat} {fab : Bool} {p : EngCmd → EngCmd} (group : gi < s.groups.length)
    (cmds : (engOf (groupAt s gi) fab).cmds = [d]) (its : d.num = num) (keeps : (p d).num = num) :
    findCmd (modCmd s gi fab num p) gi fab num = some (p d) := by
  have after : (engOf (groupAt (modCmd s gi fab num p) gi) fab).cmds = [p d] := by
    unfold modCmd modEng
    rw [groupAt_modGroup_same group, engOf_setEng]
    simp [cmds, modFirst, its]
  rw [findCmd, after]
  simp [keeps]

/-- A granule is sent while the context is at work on its command, with rows of the team's SRAM leased. -/
theorem sendGranule_sends {op : BitVec 8} {data : List Byte} {last : Bool} (h : Claim.EngineAt s gi true c)
    (launch : t.launch = (teamAt s gi).launch) (num : d.num = c.num) (acks : d.acks = c.acks) (prog : d.prog = c.prog)
    (asks : Asks s gi (ctxIx s (groupAt s gi)) c va k e) :
    Sent s gi c va n op data (putCount c) e (sendGranule (working s gi true d t) gi c va n k op data last) := by
  obtain ⟨w, at_⟩ : ∃ w, w = working s gi true d t := ⟨_, rfl⟩
  have ctx : ctxIx w (groupAt w gi) = ctxIx s (groupAt s gi) := by rw [at_]; exact ctxIx_working h.group h.team launch
  have tables : tablesFor w (.fabric gi) (ctxIx s (groupAt s gi)) k (.engine gi true c.num va) va 1 = .done w () := by
    rw [at_]
    exact tablesFor_working h.group asks.tables
  have pte : partyPte w (.fabric gi) (ctxIx s (groupAt s gi)) va k = .ok e := by rw [at_, partyPte_working h.group, asks.pte]
  have sends := sendGranule_of (n := n) (op := op) (data := data) (last := last) (ctx ▸ tables) (ctx ▸ pte) asks.device rfl
  have times : OnlyTimes w (enterPte w (.fabric gi) (ctxIx w (groupAt w gi)) va k) := enterPte_onlyTimes
  rw [ctx] at sends times
  rw [← at_, sends]
  clear sends tables pte
  generalize enterPte w (.fabric gi) (ctxIx s (groupAt s gi)) va k = v at times ⊢
  have group : gi < v.groups.length := by
    rw [times.groups, at_]
    simpa [working, modEng] using h.group
  have cmds : (engOf (groupAt v gi) true).cmds = [d] := by
    rw [groupAt, times.groups, at_]
    exact congrArg (fun g => (engOf g true).cmds) (groupAt_working h.group)
  have found := findCmd_modCmd (p := granuleOut va n v.now last) group cmds num num
  obtain ⟨x, left⟩ : ∃ x, x = modCmd v gi true c.num (granuleOut va n v.now last) := ⟨_, rfl⟩
  rw [← left] at found ⊢
  have net : x.net = s.net := by rw [left]; exact times.net.trans (by rw [at_]; rfl)
  have mem : x.mem = s.mem := by rw [left]; exact times.mem.trans (by rw [at_]; rfl)
  have hub : x.hub = s.hub := by rw [left]; exact times.hub.trans (by rw [at_]; rfl)
  have ctxs : x.ctxs = s.ctxs := by rw [left]; exact times.ctxs.trans (by rw [at_]; rfl)
  have cycle : x.cycle = s.cycle := by rw [left]; exact times.movesNoPage.cycle.trans (by rw [at_]; rfl)
  have lost : x.am.lost = s.am.lost := by rw [left]; exact times.movesNoPage.lost.trans (by rw [at_]; rfl)
  have aid : aid x = aid s := by rw [Machine.aid, hub, Machine.aid]
  have now : x.now = s.now := by rw [State.now, hub, cycle, State.now]
  have home : homeAid x (pteGpn e) = homeAid s (pteGpn e) := homeAid_of_same lost aid (by rw [podSize, hub, podSize])
  have space : spaceOf x (ctxIx s (groupAt s gi)) = spaceOf s (ctxIx s (groupAt s gi)) := by rw [spaceOf, ctxAt, ctxs, spaceOf, ctxAt]
  refine ⟨?_, ⟨_, found, congrArg (· + 1) acks, congrArg (· + n) prog⟩, mem⟩
  rw [send, net, aid, now, home, space]
  rfl

/-! ## FABRIC commands (R220) -/

/-- A fabric command begins: its context is at work on it. -/
theorem beginFab_working (h : Claim.EngineAt s gi true c) : beginFab s gi c = working s gi true { c with began := true } (teamAt s gi) := by
  conv_lhs => rw [← working_self h.group h.team h.cmds]
  exact modCmd_working

theorem putCount_none {c : EngCmd} (other : cmdOpc c ≠ 0x11) : putCount c = none := if_neg fun h => other h.1

section
variable (h : Claim.EngineAt s gi true c)
include h

theorem put_sends (opc : cmdOpc c = 0x11) (sram : hdrSsram (cmdWord c 0) = true)
    (asks : Asks s gi (ctxIx s (groupAt s gi)) c (cmdWord c 2 + c.prog) .write e) :
    ∃ t, exec (.put gi) s = .next t ∧ Sent s gi c (cmdWord c 2 + c.prog) (min (256 - (cmdWord c 2 + c.prog) % 256) (cmdWord c 3 - c.prog)) 0x11
      (bytesAt (Claim.sramOf s gi) (cmdWord c 1 + c.prog) (min (256 - (cmdWord c 2 + c.prog) % 256) (cmdWord c 3 - c.prog)))
      (if hdrCnt (cmdWord c 0) then some (cmdWord c 4 % 1024, bits (cmdWord c 0) 31 20) else none) e t := by
  have moves := opc ▸ movable_of_engineAt h
  have total : cmdTotal c = cmdWord c 3 := by simp only [cmdTotal, opc]
  generalize size : min (256 - (cmdWord c 2 + c.prog) % 256) (cmdWord c 3 - c.prog) = n
  obtain ⟨d, begun⟩ : ∃ d : EngCmd, d = { c with began := true } := ⟨_, rfl⟩
  have num : d.num = c.num := by rw [begun]
  obtain ⟨rows, tm, read⟩ := engRead_working (fab := true) (c := d) (a := cmdWord c 1 + c.prog) (n := n) (f := c.lt) h.group h.team h.stand c.num
  have sent := sendGranule_sends (n := n) (op := 0x11) (data := bytesAt (Claim.sramOf s gi) (cmdWord c 1 + c.prog) n) (last := cmdTotal c ≤ c.prog + n)
    (d := { d with time := max d.time tm }) (t := { teamAt s gi with rows := rows }) h rfl num (by rw [begun]) (by rw [begun]) asks
  have count : putCount c = if hdrCnt (cmdWord c 0) then some (cmdWord c 4 % 1024, bits (cmdWord c 0) 31 20) else none := by simp [putCount, opc]
  rw [count] at sent
  refine ⟨_, ?_, sent⟩
  have changed (t : Team) (p : EngCmd → EngCmd) : modCmd (working s gi true d t) gi true c.num p = working s gi true (p d) t := num ▸ modCmd_working
  show execPut gi s = _
  rw [execPut, moves]
  simp only [putStep, granuleAt, beginFab_working h, ← begun, total, size, sram, read, changed, Option.isSome_none, Bool.false_eq_true, if_false]
  rfl

theorem get_sends (opc : cmdOpc c = 0x12) (asks : Asks s gi (ctxIx s (groupAt s gi)) c (cmdWord c 1 + c.prog) .read e) :
    ∃ t, exec (.get gi) s = .next t ∧
      Sent s gi c (cmdWord c 1 + c.prog) (min (256 - (cmdWord c 1 + c.prog) % 256) (cmdWord c 3 - c.prog)) 0x12 [] none e t := by
  have moves := opc ▸ movable_of_engineAt h
  have total : cmdTotal c = cmdWord c 3 := by simp only [cmdTotal, opc]
  have sent := sendGranule_sends (n := min (256 - (cmdWord c 1 + c.prog) % 256) (cmdWord c 3 - c.prog)) (op := 0x12) (data := [])
    (last := cmdTotal c ≤ c.prog + min (256 - (cmdWord c 1 + c.prog) % 256) (cmdWord c 3 - c.prog)) (d := { c with began := true }) h rfl rfl rfl rfl asks
  rw [putCount_none (by rw [opc]; decide)] at sent
  refine ⟨_, ?_, sent⟩
  show execGet gi s = _
  rw [execGet, moves]
  simp only [getStep, granuleAt, beginFab_working h, total]

theorem atom_sends (opc : cmdOpc c = 0x13) (asks : Asks s gi (ctxIx s (groupAt s gi)) c (cmdWord c 1) .write e) :
    ∃ t, exec (.atom gi) s = .next t ∧
      Sent s gi c (cmdWord c 1) 8 0x13 (leBytes 8 (cmdWord c 3) ++ leBytes 8 (cmdWord c 4) ++ leBytes 2 (cmdWord c 5 % 512)) none e t := by
  have moves := opc ▸ movable_of_engineAt h
  have sent := sendGranule_sends (n := 8) (op := 0x13) (data := leBytes 8 (cmdWord c 3) ++ leBytes 8 (cmdWord c 4) ++ leBytes 2 (cmdWord c 5 % 512))
    (last := true) (d := { c with began := true }) h rfl rfl rfl rfl asks
  rw [putCount_none (by rw [opc]; decide)] at sent
  refine ⟨_, ?_, sent⟩
  show execAtom gi s = _
  rw [execAtom, moves]
  simp only [atomStep, beginFab_working h]

theorem signal_sends (opc : cmdOpc c = 0x14) :
    ∃ t d, exec (.signal gi) s = .next t ∧ findCmd t gi true c.num = some d ∧ d.acks = 1 ∧ d.fin = true ∧
      t.net = s.net ++ [Claim.mail s (cmdWord c 1 % 1024)
        (.count (spaceOf s (ctxIx s (groupAt s gi))) (bits (cmdWord c 0) 31 20) (cmdWord c 1 / 2 ^ 32) c.lt (aid s) gi c.num true 0)] ∧ t.mem = s.mem := by
  have moves := opc ▸ movable_of_engineAt h
  let d : EngCmd := { c with began := true, fin := true, acks := 1, outs := [(0, s.now)] }
  have begun : modCmd s gi true c.num (fun c => { c with began := true, fin := true, acks := 1, outs := [(0, s.now)] }) =
      working s gi true d (teamAt s gi) := by
    conv_lhs => rw [← working_self h.group h.team h.cmds]
    exact modCmd_working
  have ctx : ctxIx (working s gi true d (teamAt s gi)) (groupAt (working s gi true d (teamAt s gi)) gi) = ctxIx s (groupAt s gi) :=
    ctxIx_working h.group h.team rfl
  have step : exec (.signal gi) s = .next (send (working s gi true d (teamAt s gi)) (cmdWord c 1 % 1024) (.count (spaceOf s (ctxIx s (groupAt s gi)))
      (bits (cmdWord c 0) 31 20) (cmdWord c 1 / 2 ^ 32) c.lt (aid s) gi c.num true 0)) := by
    show execSignal gi s = _
    rw [execSignal, moves]
    simp only [signalStep, begun, ctx]
    rfl
  have found : findCmd (working s gi true d (teamAt s gi)) gi true c.num = some d := findCmd_working (c := d) h.group
  exact ⟨_, d, step, found, rfl, rfl, rfl, rfl⟩

theorem fabricTimeout_ends {o : Nat × Nat} (out : o ∈ c.outs) (waits : 0 < c.acks) (late : o.2 + 2 ^ 22 ≤ s.now) :
    ∃ t d, exec (.fabricTimeout gi c.num) s = .next t ∧ findCmd t gi true c.num = some d ∧ d.stat = 3 ∧ d.acks = 0 ∧ d.fin = true ∧
      t.mem = s.mem := by
  have found : findCmd s gi true c.num = some c := by simp [findCmd, h.cmds]
  have over_ : 0 < c.acks ∧ (c.outs.any fun o => o.2 + 2 ^ 22 ≤ s.now) = true :=
    ⟨waits, List.any_eq_true.mpr ⟨o, out, decide_eq_true late⟩⟩
  have ended := findCmd_modCmd (p := fun c => { c with stat := if c.stat = 0 then 3 else c.stat, acks := 0, outs := [], fin := true })
    h.group h.cmds rfl rfl
  refine ⟨_, _, ?_, ended, if_pos h.fresh.2.1, rfl, rfl, rfl⟩
  show execFabricTimeout gi c.num s = _
  simp only [execFabricTimeout, found]
  exact congrArg _ (if_pos over_)

end

theorem fabricCommandsSend : Claim.FabricCommandsSend := by
  intro s gi c h w cx asks sent
  refine ⟨fun e opc sram ask => ?_, fun e opc ask => ?_, fun e opc ask => ?_, signal_sends h, fun o out waits late => fabricTimeout_ends h out waits late⟩
  · obtain ⟨t, steps, net, cmd, mem⟩ := put_sends h opc sram ⟨ask.1, ask.2.1, ask.2.2⟩
    exact ⟨t, steps, ⟨net, cmd⟩, mem⟩
  · obtain ⟨t, steps, net, cmd, mem⟩ := get_sends h opc ⟨ask.1, ask.2.1, ask.2.2⟩
    exact ⟨t, steps, ⟨net, cmd⟩, mem⟩
  · obtain ⟨t, steps, net, cmd, mem⟩ := atom_sends h opc ⟨ask.1, ask.2.1, ask.2.2⟩
    exact ⟨t, steps, ⟨net, cmd⟩, mem⟩

/-- Settles O39: a step leaves its context at work on the one command, with the piece it stands at moved, or its granule sent. That one step moves a
whole range of up to 4096 bytes, and rows and records in ascending order, is notes/assumptions/15.md. -/
theorem engineCommands : Obligations.EngineCommands := ⟨copyCommandsMoveBytes, fabricCommandsSend⟩

end Sys2Proof.Proofs
end

section
/-! SUPPORT. Engine contexts as their answers come (R217, R222), and counts at arrival counters (R225, R226). -/

namespace Sys2Proof.Proofs

open Sys2Proof Sys2Proof.Machine

set_option Elab.async false

variable {s : State} {gi m cx cid bytes time src g cmd va : Nat} {fab : Bool} {c : EngCmd} {v : Env} {stat : BitVec 8}

/-! ## Acknowledgements (R217, R220, R222) -/

theorem findCmd_of_only (cmds : (engOf (groupAt s gi) fab).cmds = [c]) : findCmd s gi fab c.num = some c := by simp [findCmd, cmds]

theorem engOf_modEng {p : Engine → Engine} (group : gi < s.groups.length) :
    engOf (groupAt (modEng s gi fab p) gi) fab = p (engOf (groupAt s gi) fab) := by
  unfold modEng
  rw [groupAt_modGroup_same group, engOf_setEng]

/-- An acknowledgement without bytes is counted, and its message goes. -/
theorem fabricAck_counts (group : gi < s.groups.length) (cmds : (engOf (groupAt s gi) fab).cmds = [c]) (msg : msgAt s m = some v)
    (its : v.msg = .granAck gi c.num fab stat time va []) (waits : 0 < c.acks) :
    ∃ t d, exec (.fabricAck m) s = .next t ∧ findCmd t gi fab c.num = some d ∧ d.acks = c.acks - 1 ∧ d.time = max c.time time ∧
      d.stat = (if c.stat = 0 then stat else c.stat) ∧ t.net = s.net.eraseIdx m ∧ t.mem = s.mem := by
  have counted := findCmd_modCmd (s := dropMsg s m) (p := ackCmd stat time va) group cmds rfl rfl
  refine ⟨_, _, ?_, counted, rfl, rfl, rfl, rfl, rfl⟩
  show execFabricAck m s = _
  simp [execFabricAck, msg, its, findCmd_of_only cmds, Nat.ne_of_gt waits]

/-- The place of the bytes that an acknowledgement brings. -/
theorem dataPlace {k : Nat} (opc : cmdOpc c = 0x12 ∨ cmdOpc c = 0x13 ∧ k = 0) :
    (if cmdOpc c = 0x13 then cmdWord c 2 else cmdWord c 2 + (cmdWord c 1 + k - cmdWord c 1)) = cmdWord c 2 + k := by
  rcases opc with get | ⟨atom, rfl⟩
  · simp [get]
  · simp [atom]

theorem fabricAck_brings {k : Nat} {data : List Byte} (group : gi < s.groups.length) (cmds : (engOf (groupAt s gi) true).cmds = [c])
    (msg : msgAt s m = some v) (its : v.msg = .granAck gi c.num true 0 time (cmdWord c 1 + k) data) (waits : 0 < c.acks)
    (opc : cmdOpc c = 0x12 ∨ cmdOpc c = 0x13 ∧ k = 0) (sram : hdrDsram (cmdWord c 0) = true) (some_ : data ≠ [])
    (calm : cmdParked s gi true c.num = false) (team : (groupAt s gi).team < s.teams.length) (stand : (teamAt s gi).state = .resident) :
    ∃ t d, exec (.fabricAck m) s = .next t ∧ findCmd t gi true c.num = some d ∧ d.acks = c.acks - 1 ∧
      bytesAt (Claim.sramOf t gi) (cmdWord c 2 + k) data.length = data ∧ t.mem = s.mem := by
  obtain ⟨rows, tm, wrote⟩ := engWrite_working (fab := true) (c := c) (a := cmdWord c 2 + k) (f := c.lt) (bs := data) group team stand c.num
  have wrote := wrote none
  rw [working_self group team cmds] at wrote
  let t' : Team := { teamAt s gi with rows := rows, sram := setBytes (teamAt s gi).sram (cmdWord c 2 + k) data }
  let d : EngCmd := ackCmd 0 (max time tm) (cmdWord c 1 + k) c
  have counted : modCmd (dropMsg (working s gi true c t') m) gi true c.num (ackCmd 0 (max time tm) (cmdWord c 1 + k)) =
      dropMsg (working s gi true d t') m :=
    congrArg (dropMsg · m) modCmd_working
  have step : exec (.fabricAck m) s = .next (dropMsg (working s gi true d t') m) := by
    show execFabricAck m s = _
    simp only [execFabricAck, msg, its, findCmd_of_only cmds, Nat.ne_of_gt waits, if_false, List.isEmpty_eq_false_iff.mpr some_,
      Bool.false_eq_true, fabricData, calm, dataPlace opc, sram, show ¬(0 : BitVec 8) = 1 by decide, wrote]
    exact congrArg _ counted
  refine ⟨_, d, step, findCmd_working (c := d) (t := t') group, rfl, ?_, rfl⟩
  rw [show Claim.sramOf (dropMsg (working s gi true d t') m) gi = t'.sram from congrArg Team.sram (teamAt_working (c := d) (t := t') group team)]
  exact bytesAt_setBytes

/-! ## Completions (R217, R222) -/

/-- The engine context `e` once command `c` has left it. -/
def leftBy (c : EngCmd) (e : Engine) : Engine :=
  if c.stat = 0 then { e with cmds := e.cmds.filter fun d => d.num != c.num }
  else haltEngine { e with cmds := e.cmds.filter fun d => d.num != c.num }

/-- A status halts the context; the only command of a context leaves none. -/
theorem leftBy_only {e : Engine} (cmds : e.cmds = [c]) :
    (leftBy c e).cmds = [] ∧ (leftBy c e).halted = (e.halted || c.stat != 0) ∧ (leftBy c e).time = e.time ∧ (leftBy c e).words = e.words ∧
      (leftBy c e).held = e.held := by
  unfold leftBy
  split <;> simp_all [haltEngine]

/-- The three ways of a completion: into the timeline, into the queue, held back. -/
theorem completeCmd_eq : completeCmd s gi fab c =
    if !needsWord c then modEng s gi fab fun _ => leftBy c (markDone (engOf (groupAt s gi) fab) c.num c.time)
    else if (engOf (groupAt s gi) fab).words.length < 16 ∧ (engOf (groupAt s gi) fab).held.isEmpty then
      modEng s gi fab fun _ => leftBy c (markDone
        { engOf (groupAt s gi) fab with words := (engOf (groupAt s gi) fab).words ++ [completionWord c] } c.num c.time)
    else if (engOf (groupAt s gi) fab).held.length < 16 then
      modEng s gi fab fun _ => leftBy c
        { engOf (groupAt s gi) fab with held := (engOf (groupAt s gi) fab).held ++ [(c.num, c.time, completionWord c)] }
    else s := rfl

theorem needsWord_iff : needsWord c = true ↔ bit (cmdWord c 0) 18 = true ∨ c.stat ≠ 0 := by
  rw [needsWord, Bool.or_eq_true, bne_iff_ne]
  rfl

section
variable (group : gi < s.groups.length) (cmds : (engOf (groupAt s gi) fab).cmds = [c]) (done : c.fin = true ∧ c.acks = 0)
include group cmds done

/-- A command that is done leaves the context that its completion makes. -/
theorem engineCmdComplete_leaves {e : Engine} (completes : completeCmd s gi fab c = modEng s gi fab fun _ => leftBy c e) :
    ∃ t, exec (.engineCmdComplete gi c.num fab) s = .next t ∧ engOf (groupAt t gi) fab = leftBy c e ∧ t.mem = s.mem := by
  refine ⟨modEng s gi fab fun _ => leftBy c e, ?_, engOf_modEng group, rfl⟩
  show execEngineCmdComplete gi c.num fab s = _
  simp [execEngineCmdComplete, findCmd_of_only cmds, done, completes]

theorem complete_passes (clean : c.stat = 0) (noWord : bit (cmdWord c 0) 18 = false) (times : (engOf (groupAt s gi) fab).times = [])
    (next : c.num = (engOf (groupAt s gi) fab).time + 1) :
    ∃ t, exec (.engineCmdComplete gi c.num fab) s = .next t ∧ (engOf (groupAt t gi) fab).cmds = [] ∧
      (engOf (groupAt t gi) fab).time = c.num ∧ (engOf (groupAt t gi) fab).words = (engOf (groupAt s gi) fab).words ∧ t.mem = s.mem := by
  have none_ : ¬needsWord c = true := by simp [needsWord_iff, clean, noWord]
  obtain ⟨t, step, left, mem⟩ := engineCmdComplete_leaves (e := markDone (engOf (groupAt s gi) fab) c.num c.time) group cmds done
    (by rw [completeCmd_eq, if_pos (by simpa using none_)])
  obtain ⟨cmds, -, timeline, words, -⟩ := leftBy_only (e := markDone (engOf (groupAt s gi) fab) c.num c.time) cmds
  refine ⟨t, step, left ▸ cmds, ?_, left ▸ words, mem⟩
  rw [left, timeline]
  simp [markDone, times, climbTl, next]

theorem complete_queues (word : bit (cmdWord c 0) 18 = true ∨ c.stat ≠ 0) (room : (engOf (groupAt s gi) fab).words.length < 16)
    (held : (engOf (groupAt s gi) fab).held = []) :
    ∃ t, exec (.engineCmdComplete gi c.num fab) s = .next t ∧ (engOf (groupAt t gi) fab).cmds = [] ∧
      (engOf (groupAt t gi) fab).halted = ((engOf (groupAt s gi) fab).halted || c.stat != 0) ∧
      (engOf (groupAt t gi) fab).words = (engOf (groupAt s gi) fab).words ++ [completionWord c] ∧ t.mem = s.mem := by
  have needs : ¬(!needsWord c) = true := by simpa using needsWord_iff.mpr word
  let queued : Engine := { engOf (groupAt s gi) fab with words := (engOf (groupAt s gi) fab).words ++ [completionWord c] }
  obtain ⟨t, step, left, mem⟩ := engineCmdComplete_leaves (e := markDone queued c.num c.time) group cmds done
    (by rw [completeCmd_eq, if_neg needs, if_pos ⟨room, List.isEmpty_iff.mpr held⟩])
  obtain ⟨cmds, halted, -, words, -⟩ := leftBy_only (e := markDone queued c.num c.time) cmds
  exact ⟨t, step, left ▸ cmds, left ▸ halted, left ▸ words, mem⟩

theorem complete_holds (word : bit (cmdWord c 0) 18 = true ∨ c.stat ≠ 0)
    (full : (engOf (groupAt s gi) fab).words.length = 16 ∨ (engOf (groupAt s gi) fab).held ≠ []) (room : (engOf (groupAt s gi) fab).held.length < 16) :
    ∃ t, exec (.engineCmdComplete gi c.num fab) s = .next t ∧ (engOf (groupAt t gi) fab).cmds = [] ∧
      (engOf (groupAt t gi) fab).words = (engOf (groupAt s gi) fab).words ∧
      (engOf (groupAt t gi) fab).held = (engOf (groupAt s gi) fab).held ++ [(c.num, c.time, completionWord c)] ∧ t.mem = s.mem := by
  have needs : ¬(!needsWord c) = true := by simpa using needsWord_iff.mpr word
  have noRoom : ¬((engOf (groupAt s gi) fab).words.length < 16 ∧ (engOf (groupAt s gi) fab).held.isEmpty = true) := by
    rintro ⟨short, none_⟩
    rcases full with full | some_
    · omega
    · exact some_ (List.isEmpty_iff.mp none_)
  let kept : Engine := { engOf (groupAt s gi) fab with held := (engOf (groupAt s gi) fab).held ++ [(c.num, c.time, completionWord c)] }
  obtain ⟨t, step, left, mem⟩ := engineCmdComplete_leaves (e := kept) group cmds done
    (by rw [completeCmd_eq, if_neg needs, if_neg noRoom, if_pos room])
  obtain ⟨cmds, -, -, words, held⟩ := leftBy_only (e := kept) cmds
  exact ⟨t, step, left ▸ cmds, left ▸ words, left ▸ held, mem⟩

end

theorem heldWord_enters {n tm : Nat} {x : Word} {r : List (Nat × Nat × Word)} (group : gi < s.groups.length)
    (held : (engOf (groupAt s gi) fab).held = (n, tm, x) :: r) (room : (engOf (groupAt s gi) fab).words.length < 16) :
    ∃ t, exec (.completionWordPush gi fab) s = .next t ∧ (engOf (groupAt t gi) fab).words = (engOf (groupAt s gi) fab).words ++ [x] ∧
      (engOf (groupAt t gi) fab).held = r ∧ (n, tm) ∈ (engOf (groupAt t gi) fab).times ∧ t.mem = s.mem := by
  refine ⟨_, rfl, ?_⟩
  rw [engOf_modEng group]
  simp [refill, held, Nat.not_le.mpr room, markDone, modEng, State.modGroup]

theorem engineCompletions : Claim.EngineCompletions := fun _ _ _ _ group cmds =>
  ⟨fun _ _ _ _ _ msg its waits => fabricAck_counts group cmds msg its waits,
    fun _ _ _ _ _ fab msg its waits opc sram some_ calm team stand =>
      fabricAck_brings group (fab ▸ cmds) msg its waits opc sram some_ calm team stand,
    fun fin acks => complete_passes group cmds ⟨fin, acks⟩, fun fin acks => complete_queues group cmds ⟨fin, acks⟩,
    fun fin acks => complete_holds group cmds ⟨fin, acks⟩, fun _ _ _ _ => heldWord_enters group⟩

/-! ## Counts (R225, R226) -/

theorem leNat_lt {bs : List Byte} : leNat bs < 2 ^ (8 * bs.length) := by
  induction bs with
  | nil => exact Nat.one_pos
  | cons b bs ih =>
    have := b.isLt
    rw [leNat, List.length_cons, Nat.mul_succ, Nat.pow_add]
    omega

theorem loadLe_lt {m : Memory} {a : Nat} : loadLe m a 8 < 2 ^ 64 := leNat_lt (bs := bytesAt m a 8)

section
variable (msg : msgAt s m = some v) (its : v.msg = .count (4096 + cx) cid bytes time src g cmd fab va)
include msg its

/-- A count that its context's table takes is acknowledged with status 0. -/
theorem arrivalCount_answers {t : State} (added : addCount (dropMsg s m) cx cid bytes time = some t) (same : t.net = s.net.eraseIdx m)
    (hub : t.hub = s.hub) (cycle : t.cycle = s.cycle) :
    ∃ u, exec (.arrivalCount m) s = .next u ∧ u.net = Claim.replied s m [(src, .granAck g cmd fab 0 time va [])] ∧ u.mem = t.mem ∧
      u.teams = t.teams ∧ u.ctxs = t.ctxs := by
  refine ⟨send t src (.granAck g cmd fab 0 time va []), ?_, ?_, rfl, rfl, rfl⟩
  · show execArrivalCount m s = _
    simp [execArrivalCount, msg, its, countCtx, added]
  · rw [send, same, aid, hub, State.now, hub, cycle]
    rfl

theorem bound_counts {ti off y z : Nat} (entry : ((ctxAt s cx).arrivals.find? fun e => e.1 == cid) = some (cid, some (ti, off), y, z))
    (team : ti < s.teams.length) (stand : (s.teams.getD ti default).state = .resident) (soon : time < 2 ^ 63)
    (lease : (rowTimes (s.teams.getD ti default) (off / 128)).2 < 2 ^ 63) :
    let k := counterAt (s.teams.getD ti default) off
    ∃ t, exec (.arrivalCount m) s = .next t ∧ t.net = Claim.replied s m [(src, .granAck g cmd fab 0 time va [])] ∧ t.mem = s.mem ∧
      let k' := counterAt (t.teams.getD ti default) off
      k'.count = (k.count + bytes) % 2 ^ 64 ∧ k'.target = k.target ∧ k'.id = k.id ∧ k'.armed = k.armed ∧ time ≤ k'.time ∧ k.time ≤ k'.time := by
  intro k
  let ts := max time ((rowTimes (s.teams.getD ti default) (off / 128)).2 + 1)
  let counted : Counter := { k with count := (k.count + bytes) % 2 ^ 64, time := max k.time ts }
  let put (t : Team) : Team :=
    putCounter t off { counterAt t off with count := ((counterAt t off).count + bytes) % 2 ^ 64, time := max (counterAt t off).time ts } ts
  have added : addCount (dropMsg s m) cx cid bytes time = some ((dropMsg s m).modTeam ti put) := by
    have entry : ((ctxAt (dropMsg s m) cx).arrivals.find? fun e => e.1 == cid) = some (cid, some (ti, off), y, z) := entry
    have here : ¬(((dropMsg s m).teams.getD ti default).state = .out ∨ ((dropMsg s m).teams.getD ti default).state = .saving) := by
      rw [show (dropMsg s m).teams = s.teams from rfl, stand]
      decide
    simp only [addCount, entry, here, if_false]
    rfl
  obtain ⟨t, step, net, mem, teams, -⟩ := arrivalCount_answers msg its added rfl rfl rfl
  have row : t.teams.getD ti default = putCounter (s.teams.getD ti default) off counted ts := by
    rw [teams]
    exact getD_of_getElem? (modTeam_teams_same (f := put) (getElem?_getD_of_lt (d := default) team))
  have k64 : k.target < 2 ^ 64 ∧ k.time < 2 ^ 64 := ⟨loadLe_lt, loadLe_lt⟩
  have id_ : k.id < 4096 := Nat.mod_lt _ (by decide)
  have late : ts < 2 ^ 64 := by simp only [ts]; omega
  refine ⟨t, step, net, mem, ?_⟩
  rw [row, counterAt_putCounter (k := counted) id_]
  refine ⟨Nat.mod_mod _ _, Nat.mod_eq_of_lt k64.1, rfl, rfl, ?_, ?_⟩ <;> simp only [counted, ts] at late ⊢ <;> omega

theorem unbound_counts (present : cx < s.ctxs.length) (none_ : ((ctxAt s cx).arrivals.find? fun e => e.1 == cid) = none)
    (room : arrivalUsed s < 4096) :
    ∃ t, exec (.arrivalCount m) s = .next t ∧ t.net = Claim.replied s m [(src, .granAck g cmd fab 0 time va [])] ∧
      (ctxAt t cx).arrivals = (ctxAt s cx).arrivals ++ [(cid, none, bytes, time)] ∧ t.teams = s.teams ∧ t.mem = s.mem := by
  have none_ : ((ctxAt (dropMsg s m) cx).arrivals.find? fun e => e.1 == cid) = none := none_
  have room : arrivalUsed (dropMsg s m) < 4096 := room
  have added : addCount (dropMsg s m) cx cid bytes time =
      some ((dropMsg s m).modCtx cx fun x => { x with arrivals := x.arrivals ++ [(cid, none, bytes, time)] }) := by
    rw [addCount, none_]
    exact if_pos room
  obtain ⟨t, step, net, mem, teams, ctxs⟩ := arrivalCount_answers msg its added rfl rfl rfl
  refine ⟨t, step, net, ?_, teams, mem⟩
  rw [ctxAt, ctxs]
  exact congrArg Ctx.arrivals (ctxAt_modCtx_same (s := dropMsg s m) _ present)

theorem countTable_times_out (none_ : ((ctxAt s cx).arrivals.find? fun e => e.1 == cid) = none) (full : 4096 ≤ arrivalUsed s)
    (late : v.at_ + 2 ^ 20 ≤ s.now) :
    exec (.countTableTimeout m) s = .next { s with net := Claim.replied s m [(src, .granAck g cmd fab 7 time va [])] } := by
  have refused : addCount s cx cid bytes time = none := by
    rw [addCount, none_]
    exact if_neg (Nat.not_lt.mpr full)
  have none_ : (countCtx s (4096 + cx)).all (fun c => (addCount s c cid bytes time).isNone) = true := by simp [countCtx, refused]
  show execCountTableTimeout m s = _
  simp only [execCountTableTimeout, msg, its, late, none_, and_self, if_true]
  rfl

end

theorem arrivalCounts : Claim.ArrivalCounts := fun _ _ _ _ _ _ _ _ _ _ _ _ msg its present =>
  ⟨fun _ _ _ _ entry team stand _ => bound_counts msg its entry team stand, unbound_counts msg its present, countTable_times_out msg its⟩

end Sys2Proof.Proofs
end

section
/-! SUPPORT. An ATOM whose operation byte is none of R210's ten codes, at a page that is never cached (R220). -/

namespace Sys2Proof.Proofs

open Sys2Proof Sys2Proof.Machine

set_option Elab.async false

/-- An ATOM on a doubleword of the placed page, of group 0 here: operation byte 0x40, by which the machine names a reduction (ADD); operand and
compare value 0. -/
def oddAtom : Gran :=
  { src := 0, cmd := 1, g := 0, space := 1, va := 0x10800, pa := placedGpn * 65536 + 0x800, op := 0x13,
    data := leBytes 8 0 ++ leBytes 8 0 ++ leBytes 2 0x40, n := 8, cnt := none, floor := 0, parked := false, mirr := false }

/-- The granule, come by the home of its page. -/
def oddAtomMail : Env := { src := 0, dst := 0, msg := oddAtom.msg, passed := true }

/-- A lane block whose table enters the placed page as never cached; the doubleword is 1, its line is in L2, and the granule is here. -/
def oddAtomHere : State :=
  let s := fillL2 (State.reset.withFetchWord 96 0) (oddAtom.pa / 128)
  { s with net := [oddAtomMail], mem := storeLe (storeLe s.mem (placedTables + 0x1808) 8 (placedGpn * 65536 + 0xF)) oddAtom.pa 8 1 }

theorem oddAtom_granHere : Claim.GranHere oddAtomHere oddAtomMail oddAtom where
  own   := .inl (by decide +kernel)
  fresh := by decide +kernel
  crown := by decide +kernel
  line  := by decide +kernel
  calm  := by decide +kernel
  free  := by decide +kernel
  alone := by decide +kernel

/-- The granule is performed as a reduction, 1 + 0. -/
theorem oddAtom_adds : ∀ t, exec (.fabricGranuleArrive 0) oddAtomHere = .next t → loadLe t.mem oddAtom.pa 8 = 1 := by
  have sum : (match exec (.fabricGranuleArrive 0) oddAtomHere with | .next t => loadLe t.mem oddAtom.pa 8 | _ => 1) = 1 := by decide +kernel
  intro t runs
  rw [runs] at sum
  exact sum

/-- As an atomic the byte would be taken for dec, the last code of R210, which brings 1 to the operand. -/
theorem oddAtom_applied : loadLe oddAtomHere.mem oddAtom.pa 8 = 1 ∧ atomApply 0x40 .n64 1 0 0 = 0 := by decide +kernel

/-- Refutes O40: `GranulesAtTarget` takes any operation byte of an ATOM, where R210 has ten codes (the initiator refuses others, `argField`). At a
page that is never cached the machine reads the bytes 0x40 to 0x4F as reductions, so a doubleword 1 stays 1 under byte 0x40 and operand 0, where
the statement has it 0. The other two parts hold (`engineCompletions`, `arrivalCounts`); the hub that holds a counter is the one that acknowledges
its count (notes/assumptions/37.md). -/
theorem not_engineAnswers : ¬ Obligations.EngineAnswers := by
  rintro ⟨granules, -, -⟩
  obtain ⟨-, -, atoms⟩ := granules oddAtomHere 0 oddAtomMail oddAtom (by decide +kernel) rfl oddAtom_granHere
  obtain ⟨-, applies⟩ := atoms 0x40 false 0 0 rfl rfl rfl (by decide) rfl (by decide +kernel) (by decide +kernel)
  obtain ⟨t, -, runs, -, value, -⟩ := applies (by decide +kernel)
  have added := oddAtom_adds t runs
  rw [oddAtom_applied.1] at value
  have zero : loadLe t.mem oddAtom.pa 8 = 0 := value.trans (congrArg (· % 2 ^ 64) oddAtom_applied.2)
  omega

end Sys2Proof.Proofs
end

section
/-! SUPPORT. The domino table (R231 to R244): a slot that is opened, changed or freed, an abort without a cascade, and what the start of a commit
leaves of the table and of the groups. -/

namespace Sys2Proof.Proofs

open Sys2Proof Sys2Proof.Machine

set_option Elab.async false

variable {s t u : State} {n : Nat} {y : DomSlot}

/-! ## Slots -/

theorem slot_of_slotAt (at_ : slotAt s n = some y) : y.slot = n := by simpa using List.find?_some at_

/-- A slot that has been changed is the change of the slot as it was. -/
theorem slotAt_modSlot {f : DomSlot → DomSlot} (keeps : ∀ x, (f x).slot = x.slot) (at_ : slotAt s n = some y) :
    slotAt (modSlot s n f) n = some (f y) := by
  have found : slotAt (modSlot s n f) n = (slotAt s n).map f := find?_modFirst (by simp [keeps]) s.dom.slots
  rw [found, at_]
  rfl

theorem slotAt_of_dom (same : t.dom = s.dom) : slotAt t n = slotAt s n := by rw [slotAt, same, slotAt]

/-- A slot that has been added under a free number is found under it. -/
theorem slotAt_of_added (free : slotAt s n = none) (slots : t.dom.slots = s.dom.slots ++ [y]) (number : y.slot = n) : slotAt t n = some y := by
  unfold slotAt at free ⊢
  simp [slots, List.find?_append, free, number]

theorem slotAt_freed : slotAt (s.modDom fun d => freeSlot d n) n = none := by simp [slotAt, freeSlot]

/-- The lowest free slot holds no region. -/
theorem slotAt_freeSlotNo (free : freeSlotNo s = some n) : slotAt s n = none :=
  Option.isNone_iff_eq_none.mp (List.find?_some (p := fun k => (slotAt s k).isNone) free)

/-! ## Aborts (R239, R244) -/

theorem abortable_of_live (live : y.state = .live) : abortable y = true := by rw [abortable, live]; rfl

/-- With no edge in the table an abort reaches no other region. -/
theorem abortRegion_alone {cause : BitVec 4} {by_ : Nat} (alone : s.dom.reach = []) (at_ : slotAt s n = some y) (may : abortable y = true) :
    abortRegion s n cause by_ = abortOne s n cause by_ := by
  have can : [n].filter (fun k => (slotAt s k).any abortable) = [n] := by simp [at_, may]
  simp only [abortRegion, abortRegions, can, alone]
  rfl

/-- A region in LIVE or WAITING enters ABORTING with its cause, and its group's DSTAT keeps the cause. -/
theorem abortOne_aborts {cause : BitVec 4} {by_ : Nat} (at_ : slotAt s n = some y) (may : abortable y = true) :
    (∃ z, slotAt (abortOne s n cause by_) n = some z ∧ z.state = .aborting ∧ z.cause = cause) ∧
      (y.g < s.groups.length → (groupAt (abortOne s n cause by_) y.g).dstat.cause = cause) := by
  unfold abortOne
  simp only [at_, may, Bool.not_true, Bool.false_eq_true, if_false]
  refine ⟨⟨_, slotAt_modSlot (s := { s with sets := _ }) (fun _ => rfl) at_, rfl, rfl⟩, fun present => ?_⟩
  rw [groupAt_modGroup_same (by exact present)]

/-- A live region with no edge in the table is aborted alone. -/
theorem abortRegion_aborts {cause : BitVec 4} {by_ : Nat} (alone : s.dom.reach = []) (at_ : slotAt s n = some y) (live : y.state = .live) :
    (∃ z, slotAt (abortRegion s n cause by_) n = some z ∧ z.state = .aborting ∧ z.cause = cause) ∧
      (y.g < s.groups.length → (groupAt (abortRegion s n cause by_) y.g).dstat.cause = cause) := by
  rw [abortRegion_alone alone at_ (abortable_of_live live)]
  exact abortOne_aborts at_ (abortable_of_live live)

/-! ## The start of a commit (R195, R241) -/

/-- Between `s` and `t` messages have been sent or taken, and attraction memory keeps account of them. -/
def OnlyMail (s t : State) : Prop := t = { s with am := t.am, net := t.net }

theorem OnlyMail.refl : OnlyMail s s := rfl

theorem OnlyMail.trans (h : OnlyMail s t) (h' : OnlyMail t u) : OnlyMail s u := by
  unfold OnlyMail at h h' ⊢
  rw [h', h]

theorem onlyMail_foldl {α : Type} {f : State → α → State} (keeps : ∀ s x, OnlyMail s (f s x)) (l : List α) (s : State) :
    OnlyMail s (l.foldl f s) :=
  List.foldlRecOn (motive := OnlyMail s) l f .refl fun _ h x _ => h.trans (keeps _ x)

theorem OnlyMail.dom (h : OnlyMail s t) : t.dom = s.dom := by rw [h]
theorem OnlyMail.groups (h : OnlyMail s t) : t.groups = s.groups := by rw [h]
theorem OnlyMail.mem (h : OnlyMail s t) : t.mem = s.mem := by rw [h]

theorem mirrorFirst_onlyMail {id k lo m f : Nat} {ws : List (Nat × List Byte)} : OnlyMail s (mirrorFirst s id k lo m f ws).1 := by
  unfold mirrorFirst
  split
  · exact .refl
  · split
    · exact rfl
    · split <;> exact rfl

theorem takeMirrors_onlyMail : OnlyMail s (takeMirrors s n) := by
  unfold takeMirrors
  refine onlyMail_foldl (fun s m => ?_) _ s
  dsimp only
  split <;> exact rfl

/-- A region enters COMMITTING with its commit time; mail apart, nothing else changes. -/
theorem startCommit_commits (at_ : slotAt s n = some y) :
    slotAt (startCommit s n) n = some { y with state := .committing, cts := commitTime s y, since := s.now } ∧
      (startCommit s n).groups = s.groups := by
  have entered := slotAt_modSlot (f := fun x => { x with state := .committing, cts := commitTime s x, since := s.now }) (fun _ => rfl) at_
  have mailed : OnlyMail (modSlot s n fun x => { x with state := .committing, cts := commitTime s x, since := s.now }) (startCommit s n) := by
    unfold startCommit
    simp only [entered]
    refine onlyMail_foldl (fun s l => ?_) _ _
    split
    · exact mirrorFirst_onlyMail
    · exact .refl
  exact ⟨(slotAt_of_dom mailed.dom).trans entered, mailed.groups⟩

end Sys2Proof.Proofs
end

section
/-! SUPPORT. DBEGIN, DCOMMIT, DABORT and DSTAT: their checks, the region that a DBEGIN opens, and where each of them does nothing (R231, R234, R241,
R244, R247 to R251). -/

namespace Sys2Proof.Proofs

open Sys2Proof Sys2Proof.Machine

set_option Elab.async false

variable {s : State} {g : Group} {maj n : Nat} {w : LaneW} {x : LaneIn} {y : DomSlot}

/-! ## Groups -/

theorem groupAt_of_go (go : LaneGo maj w s g) : groupAt s s.cur = g := groupAt_of_present go.group

theorem present_of_go (go : LaneGo maj w s g) : s.cur < s.groups.length := (List.getElem?_eq_some_iff.mp go.group).1

/-- Moving on leaves the group's region and its DSTAT values. -/
theorem advance_keepsRegion {set : Option Nat} : (advance x set g).region = g.region ∧ (advance x set g).dstat = g.dstat := by
  unfold advance modPath setPath
  cases x.path1 <;> exact ⟨rfl, rfl⟩

/-! ## Checks (R247, R251) -/

theorem ifActs_none : ifActs x none = none := ite_self none

theorem ifActs_of_still {c : Option LTrap} (still : acting x = []) : ifActs x c = none := if_pos (by simp [still])

theorem ifActs_of_acting {c : Option LTrap} (some_ : acting x ≠ []) : ifActs x c = c := if_neg (by simpa using some_)

section
variable (plain : Claim.ungarded w g)
include plain

theorem domGuard_none : domGuard (laneIn maj w s g) = none := by
  obtain ⟨open_, positive, -⟩ := plain
  exact trapIf_none (by simp [laneIn, open_, positive])

theorem domPath_none : domPath (laneIn maj w s g) = none := by
  obtain ⟨-, -, single⟩ := plain
  exact trapIf_none (by simp [dual, laneIn, single])

/-- DBEGIN passes its checks where its abort LPC does and, if lanes act, the nest count has room. -/
theorem beginChecks_none (safe : w.safe = true) (target : domTarget (laneIn maj w s g) = none)
    (nest : ifActs (laneIn maj w s g) (trapIf ((ownSlot (laneIn maj w s g)).any fun y => 255 ≤ y.nest) Tc.dominoNest) = none) :
    firstTrap [domGuard (laneIn maj w s g), trapIf (!w.safe) Tc.dominoNoMask, ifActs (laneIn maj w s g) (domPath (laneIn maj w s g)),
      ifActs (laneIn maj w s g) (trapIf ((ownSlot (laneIn maj w s g)).any fun y => 255 ≤ y.nest) Tc.dominoNest),
      domTarget (laneIn maj w s g)] = none := by
  refine firstTrap_none ?_
  simp only [List.forall_mem_cons]
  exact ⟨domGuard_none plain, trapIf_none (by simp [safe]), by rw [domPath_none plain, ifActs_none], nest, target, List.forall_mem_nil _⟩

/-- DCOMMIT and DABORT come down to their check for a region, made where lanes act. -/
theorem endChecks_eq : firstTrap [domGuard (laneIn maj w s g), ifActs (laneIn maj w s g) (domPath (laneIn maj w s g)),
    ifActs (laneIn maj w s g) (domNone (laneIn maj w s g))] = ifActs (laneIn maj w s g) (domNone (laneIn maj w s g)) := by
  rw [domGuard_none plain, domPath_none plain, ifActs_none]
  cases last : ifActs (laneIn maj w s g) (domNone (laneIn maj w s g)) <;> rfl

end

theorem domNone_inside (inside : g.region = some n) : domNone (laneIn maj w s g) = none := trapIf_none (by simp [laneIn, inside])

theorem domNone_outside (outside : g.region = none) : domNone (laneIn maj w s g) = some { cause := Tc.dominoNone } := by
  simp [domNone, laneIn, outside]

theorem ownSlot_outside (outside : g.region = none) : ownSlot (laneIn maj w s g) = none := by simp [ownSlot, laneIn, outside]

theorem ownSlot_inside (inside : g.region = some n) : ownSlot (laneIn maj w s g) = slotAt s n := by simp [ownSlot, laneIn, inside]

/-! ## DBEGIN (R231, R232, R234, R248) -/

/-- A DBEGIN of acting lanes outside regions passes its checks, finds slot `n` free and room on its core, and no waiter holds it back (R231). -/
structure MayOpen (w : LaneW) (s : State) (g : Group) (n : Nat) : Prop where
  go      : LaneGo 0xA0 w s g
  plain   : Claim.ungarded w g
  safe    : w.safe = true
  target  : domTarget (laneIn 0xA0 w s g) = none
  acts    : acting (laneIn 0xA0 w s g) ≠ []
  outside : g.region = none
  free    : freeSlotNo s = some n
  room    : coreRoom s (g.quad / 4) (ckptQuads ((maskAfter (laneIn 0xA0 w s g)).setWidth 88)).length = true
  first   : heldBack s s.cur = false

section
variable (go : LaneGo 0xA0 w s g) (plain : Claim.ungarded w g) (safe : w.safe = true) (target : domTarget (laneIn 0xA0 w s g) = none)
include go plain safe target

theorem dbegin_still (still : acting (laneIn 0xA0 w s g) = []) :
    execDbegin w s = .next (s.setGroup s.cur (advance (laneIn 0xA0 w s g) none g)) := by
  unfold execDbegin
  rw [laneExec_go go, beginChecks_none plain safe target (ifActs_of_still still)]
  exact congrArg Host.Outcome.next (if_pos (by simp [still]))

variable (some_ : acting (laneIn 0xA0 w s g) ≠ [])
include some_

/-- A DBEGIN of acting lanes opens a region, nests or waits, where the nest count has room. -/
theorem dbegin_begins (room : (ownSlot (laneIn 0xA0 w s g)).any (fun y => 255 ≤ y.nest) = false) :
    execDbegin w s = .next (beginEff (laneIn 0xA0 w s g)) := by
  unfold execDbegin
  rw [laneExec_go go, beginChecks_none plain safe target (by rw [trapIf_none room, ifActs_none])]
  exact congrArg Host.Outcome.next (issue_of_acting some_)

theorem dbegin_nests (inside : g.region = some n) (at_ : slotAt s n = some y) (room : y.nest < 255) :
    execDbegin w s = .next ((modSlot s n fun y => { y with nest := y.nest + 1 }).modGroup s.cur (advance (laneIn 0xA0 w s g) none)) := by
  have nests : beginEff (laneIn 0xA0 w s g) =
      (modSlot s n fun y => { y with nest := y.nest + 1 }).modGroup s.cur (advance (laneIn 0xA0 w s g) none) := by
    simp only [beginEff, show (laneIn 0xA0 w s g).g.region = some n from inside]
    rfl
  rw [dbegin_begins go plain safe target some_ (by simp [ownSlot_inside inside, at_, room]), nests]

theorem dbegin_waits (outside : g.region = none) (full : freeSlotNo s = none) :
    execDbegin w s = .next (waitSlot (laneIn 0xA0 w s g)) := by
  have waits : beginEff (laneIn 0xA0 w s g) = waitSlot (laneIn 0xA0 w s g) := by
    simp only [beginEff, show (laneIn 0xA0 w s g).g.region = none from outside, show freeSlotNo (laneIn 0xA0 w s g).s = none from full]
  rw [dbegin_begins go plain safe target some_ (by rw [ownSlot_outside outside]; rfl), waits]

end

theorem MayOpen.opens (may : MayOpen w s g n) : execDbegin w s = .next (openRegion (laneIn 0xA0 w s g) n) := by
  have opens : beginEff (laneIn 0xA0 w s g) = openRegion (laneIn 0xA0 w s g) n := by
    have free : (coreRoom s (g.quad / 4) (ckptQuads ((maskAfter (laneIn 0xA0 w s g)).setWidth 88)).length && !heldBack s s.cur) = true := by
      rw [may.room, may.first]
      rfl
    simp only [beginEff, show (laneIn 0xA0 w s g).g.region = none from may.outside, show freeSlotNo (laneIn 0xA0 w s g).s = some n from may.free]
    exact if_pos free
  rw [dbegin_begins may.go may.plain may.safe may.target may.acts (by rw [ownSlot_outside may.outside]; rfl), opens]

/-- The group of an opened region is in it, with its lanes as they were. -/
theorem groupAt_openRegion (present : x.gi < x.s.groups.length) :
    (groupAt (openRegion x n) x.gi).region = some n ∧ (groupAt (openRegion x n) x.gi).lanes = (groupAt x.s x.gi).lanes := by
  unfold openRegion
  rw [groupAt_modGroup_same (by exact present)]
  exact ⟨advance_keepsRegion.1, (advance_keeps x).1⟩

/-- The group has left the waiters. -/
theorem notMem_fifo_openRegion : x.gi ∉ (openRegion x n).dom.fifo := by simp [openRegion]

/-- A DBEGIN that may open leaves its group in the region and no longer among the waiters (R231). -/
theorem MayOpen.served (may : MayOpen w s g n) : ∃ t, execDbegin w s = .next t ∧ (groupAt t s.cur).region = some n ∧ s.cur ∉ t.dom.fifo :=
  ⟨_, may.opens, (groupAt_openRegion (x := laneIn 0xA0 w s g) (present_of_go may.go)).1, notMem_fifo_openRegion (x := laneIn 0xA0 w s g)⟩

/-- The region that opens is LIVE, of its group, with its stamp, abort LPC and checkpoint (R231, R234, R244, R248). -/
theorem slotAt_openRegion (free : slotAt x.s n = none) :
    ∃ y, slotAt (openRegion x n) n = some y ∧ y.state = .live ∧ y.g = x.gi ∧ y.stamp = x.g.retry.getD x.s.dom.stamp ∧ y.nest = 0 ∧
      y.abort = immTarget x.w ∧ y.ckpt.lanes = x.g.lanes ∧ y.ckpt.exec = x.g.p0.exec ∧
      y.lines = 8 * (ckptQuads ((maskAfter x).setWidth 88)).length :=
  ⟨_, slotAt_of_added free rfl rfl, rfl, rfl, rfl, rfl, rfl, rfl, rfl, rfl⟩

theorem mem_insertOn {α : Type} {key : α → Nat} {a b : α} {l : List α} : b ∈ insertOn key a l ↔ b = a ∨ b ∈ l := by
  induction l with
  | nil => simp [insertOn]
  | cons c r ih =>
    unfold insertOn
    split
    · simp
    · simp only [List.mem_cons, ih]
      tauto

/-- Sorting a list puts in the last element as well. -/
theorem mem_sortOn_last {α : Type} {key : α → Nat} {a : α} {l : List α} : a ∈ sortOn key (l ++ [a]) := by
  rw [sortOn, List.foldl_append]
  exact mem_insertOn.mpr (.inl rfl)

/-- A DBEGIN that cannot open stands among the waiters, and its path where it stood (R231). -/
theorem waitSlot_waits (present : x.gi < x.s.groups.length) : x.gi ∈ (waitSlot x).dom.fifo ∧ (groupAt (waitSlot x) x.gi).lwait = true ∧
    (groupAt (waitSlot x) x.gi).p0 = (groupAt x.s x.gi).p0 := by
  unfold waitSlot
  extract_lets s1
  have groups : s1.groups = x.s.groups := by
    unfold s1
    split <;> rfl
  have waiter : x.gi ∈ s1.dom.fifo := by
    unfold s1
    split
    next listed => simpa using listed
    · exact List.mem_append_right _ mem_sortOn_last
  have before : groupAt s1 x.gi = groupAt x.s x.gi := by rw [groupAt, groups, groupAt]
  rw [groupAt_modGroup_same (by rwa [groups]), before]
  refine ⟨waiter, ?_⟩
  split
  next already => exact ⟨already, rfl⟩
  · exact ⟨rfl, rfl⟩

/-! ## DCOMMIT (R232, R241) -/

section
variable (go : LaneGo 0xA1 w s g) (plain : Claim.ungarded w g)
include go plain

theorem dcommit_still (still : acting (laneIn 0xA1 w s g) = []) :
    execDcommit w s = .next (s.setGroup s.cur (advance (laneIn 0xA1 w s g) none g)) := by
  unfold execDcommit
  rw [laneExec_go go, endChecks_eq plain, ifActs_of_still still]
  simp only [still]
  rfl

variable (some_ : acting (laneIn 0xA1 w s g) ≠ [])
include some_

theorem dcommit_traps (outside : g.region = none) : execDcommit w s = .next (laneTrap s s.cur g s.path1 Tc.dominoNone) := by
  unfold execDcommit
  rw [laneExec_go go, endChecks_eq plain, ifActs_of_acting some_, domNone_outside outside]

/-- A DCOMMIT in a region does to the table what its nest count says, with every access performed where it is the outer one. -/
theorem dcommit_ends {t : State} (inside : g.region = some n) (at_ : slotAt s n = some y) (performed : y.nest = 0 → regionPerformed s n = true)
    (leaves : (if y.nest = 0 then outerCommit s n else modSlot s n fun y => { y with nest := y.nest - 1 }) = t) :
    execDcommit w s = .next (t.modGroup s.cur (advance (laneIn 0xA1 w s g) none)) := by
  obtain rfl : y.slot = n := slot_of_slotAt at_
  have acts : (acting (laneIn 0xA1 w s g)).isEmpty = false := by simpa using some_
  have ready : (y.nest == 0 && !regionPerformed s y.slot) = false := by
    by_cases outer : y.nest = 0
    · simp [performed outer]
    · simp [outer]
  unfold execDcommit
  rw [← leaves, laneExec_go go, endChecks_eq plain, ifActs_of_acting some_, domNone_inside inside]
  simp only [acts, ownSlot_inside inside, at_, Option.any_some, show (laneIn 0xA1 w s g).s = s from rfl, ready]
  rfl

end

/-! ## DABORT (R244, R249) -/

section
variable (go : LaneGo 0xA2 w s g) (plain : Claim.ungarded w g)
include go plain

theorem dabort_still (still : acting (laneIn 0xA2 w s g) = []) :
    execDabort w s = .next (s.setGroup s.cur (advance (laneIn 0xA2 w s g) none g)) := by
  unfold execDabort
  rw [laneExec_go go, endChecks_eq plain, ifActs_of_still still]
  simp only [still]
  rfl

theorem dabort_aborts (some_ : acting (laneIn 0xA2 w s g) ≠ []) (inside : g.region = some n) :
    execDabort w s = .next ((abortRegion (s.modGroup s.cur (advance (laneIn 0xA2 w s g) none)) n 7 0).modGroup s.cur fun g =>
      { g with dstat := { g.dstat with userCode := w.imm.setWidth 8 } }) := by
  have acts : (acting (laneIn 0xA2 w s g)).isEmpty = false := by simpa using some_
  unfold execDabort
  rw [laneExec_go go, endChecks_eq plain, ifActs_of_acting some_, domNone_inside inside]
  simp only [acts, show (laneIn 0xA2 w s g).g.region = some n from inside]
  rfl

end

/-! ## What the words claim -/

theorem MayOpen.opensRegion (may : MayOpen w s g n) :
    ∃ t y, exec (.dbegin w) s = .next t ∧ (groupAt t s.cur).region = some n ∧ slotAt t n = some y ∧ y.state = .live ∧ y.g = s.cur ∧
      y.stamp = g.retry.getD s.dom.stamp ∧ y.nest = 0 ∧ y.abort = immTarget w ∧ y.ckpt.lanes = g.lanes ∧ y.ckpt.exec = g.p0.exec ∧
      y.lines = 8 * (ckptQuads ((maskAfter (laneIn 0xA0 w s g)).setWidth 88)).length ∧ (groupAt t s.cur).lanes = g.lanes ∧
      Claim.SameMemory s t := by
  obtain ⟨region, lanes⟩ := groupAt_openRegion (x := laneIn 0xA0 w s g) (n := n) (present_of_go may.go)
  obtain ⟨y, at_, live, gi, stamp, nest, abort, saved, mask, lines⟩ := slotAt_openRegion (x := laneIn 0xA0 w s g) (slotAt_freeSlotNo may.free)
  exact ⟨_, y, may.opens, region, at_, live, gi, stamp, nest, abort, saved, mask, lines,
    lanes.trans (congrArg Group.lanes (groupAt_of_go may.go)), fun _ => rfl⟩

/-- The group of the word, behind a step of the table that leaves the groups, has moved on in its region. -/
theorem region_movedOn {t : State} (go : LaneGo maj w s g) (groups : t.groups = s.groups) :
    (groupAt (t.modGroup s.cur (advance x none)) s.cur).region = g.region := by
  have present : s.cur < t.groups.length := groups ▸ present_of_go go
  have before : groupAt t s.cur = g := by rw [groupAt, groups]; exact groupAt_of_go go
  rw [groupAt_modGroup_same present, before, advance_keepsRegion.1]

section
variable (go : LaneGo 0xA1 w s g) (plain : Claim.ungarded w g) (some_ : acting (laneIn 0xA1 w s g) ≠ []) (inside : g.region = some n)
  (at_ : slotAt s n = some y)
include go plain some_ inside at_

theorem dcommit_commits (outer : y.nest = 0) (performed : regionPerformed s n = true) (first : predsOf s n = []) :
    ∃ t z, exec (.dcommit w) s = .next t ∧ slotAt t n = some z ∧ z.state = .committing ∧ z.cts = commitTime s y ∧
      (groupAt t s.cur).region = some n := by
  have commits : outerCommit s n = startCommit s n := if_pos (by simp [first])
  obtain ⟨slot, groups⟩ := startCommit_commits at_
  exact ⟨_, _, dcommit_ends go plain some_ inside at_ (fun _ => performed) ((if_pos outer).trans commits), slot, rfl, rfl,
    (region_movedOn go groups).trans inside⟩

theorem dcommit_waits (outer : y.nest = 0) (performed : regionPerformed s n = true) (behind : predsOf s n ≠ []) :
    ∃ t z, exec (.dcommit w) s = .next t ∧ slotAt t n = some z ∧ z.state = .waiting := by
  have waits : outerCommit s n = modSlot s n fun x => { x with state := .waiting } := if_neg (by simpa using behind)
  exact ⟨_, _, dcommit_ends go plain some_ inside at_ (fun _ => performed) ((if_pos outer).trans waits), slotAt_modSlot (fun _ => rfl) at_, rfl⟩

theorem dcommit_lowersNest (inner : y.nest ≠ 0) :
    ∃ t z, exec (.dcommit w) s = .next t ∧ slotAt t n = some z ∧ z = { y with nest := y.nest - 1 } :=
  ⟨_, _, dcommit_ends go plain some_ inside at_ (fun outer => absurd outer inner) (if_neg inner), slotAt_modSlot (fun _ => rfl) at_, rfl⟩

end

theorem dabort_abortsRegion (go : LaneGo 0xA2 w s g) (plain : Claim.ungarded w g) (some_ : acting (laneIn 0xA2 w s g) ≠ [])
    (inside : g.region = some n) (at_ : slotAt s n = some y) (live : y.state = .live) (mine : y.g = s.cur) (alone : s.dom.reach = []) :
    ∃ t z, exec (.dabort w) s = .next t ∧ slotAt t n = some z ∧ z.state = .aborting ∧ z.cause = 7 ∧
      (groupAt t s.cur).dstat.userCode = w.imm.setWidth 8 ∧ (groupAt t s.cur).dstat.cause = 7 := by
  set moved := s.modGroup s.cur (advance (laneIn 0xA2 w s g) none)
  have present : s.cur < moved.groups.length := by simpa [moved] using present_of_go go
  obtain ⟨⟨z, aborting, state, cause⟩, kept⟩ := abortRegion_aborts (s := moved) (cause := 7) (by_ := 0) alone at_ live
  rw [mine] at kept
  refine ⟨_, z, dabort_aborts go plain some_ inside, aborting, state, cause, ?_⟩
  rw [groupAt_modGroup_same (present.trans_eq abortRegion_keepsWork.groups.symm)]
  exact ⟨rfl, kept present⟩

/-- Settles O29: each word's checks pass or fail by its own table; then it changes the table's slot and the group moves on. -/
theorem dominoWords : Obligations.DominoWords := by
  intro w s g plain
  refine ⟨fun go safe target some_ => ⟨fun n outside free room first => ?opens, fun n y inside at_ room => ?nests, fun outside full => ?waits⟩,
    fun n y inside at_ _ live => ⟨fun go some_ => ⟨?commits, ?behind, ?inner⟩, fun go some_ mine alone => ?aborts⟩,
    fun go => ?status, fun go some_ outside => ?none_, fun go safe target still => ?beginStill, fun go still => ?commitStill,
    fun go still => ?abortStill⟩
  case opens => exact MayOpen.opensRegion ⟨go, plain, safe, target, some_, outside, free, room, first⟩
  case nests =>
    refine ⟨_, _, dbegin_nests go plain safe target some_ inside at_ room, slotAt_modSlot (fun _ => rfl) at_, rfl, ?_⟩
    exact (region_movedOn go rfl).trans inside
  case waits =>
    obtain ⟨waiter, held, path⟩ := waitSlot_waits (x := laneIn 0xA0 w s g) (present_of_go go)
    exact ⟨_, dbegin_waits go plain safe target some_ outside full, waiter, held, path.trans (congrArg Group.p0 (groupAt_of_go go))⟩
  case commits => exact fun outer performed first => dcommit_commits go plain some_ inside at_ outer performed first
  case behind => exact fun outer performed behind => dcommit_waits go plain some_ inside at_ outer performed behind
  case inner => exact fun inner => dcommit_lowersNest go plain some_ inside at_ inner
  case aborts => exact dabort_abortsRegion go plain some_ inside at_ live mine alone
  case status => exact laneGroup_done go (domGuard_none plain) rfl
  case none_ => exact dcommit_traps go plain some_ outside
  case beginStill => exact dbegin_still go plain safe target still
  case commitStill => exact dcommit_still go plain still
  case abortStill => exact dabort_still go plain still

end Sys2Proof.Proofs
end

section
/-! SUPPORT. The steps of the domino table: a waiter's grant, edges, the end of a commit and of an abort, and the limits on held recalls and deferred
pre-emptions (R231, R238 to R244). -/

namespace Sys2Proof.Proofs

open Sys2Proof Sys2Proof.Machine

set_option Elab.async false

variable {s t u : State} {n : Nat} {y : DomSlot}

/-! ## The grant of a slot (R231) -/

theorem cur_laneState {gi : Nat} {p : Bool} : (Claim.laneState s gi p).cur = gi := keepsMatrix_laneState.cur

/-- A waiting DBEGIN issues again on the fetched state and opens its region there. -/
theorem dbeginSlotGrant_opens {gi : Nat} {g : Group} {bs : List Byte} {w : LaneW} (waiter : gi ∈ s.dom.fifo)
    (fetch : Claim.LaneFetch s gi false g bs) (decoded : decodeLaneBytes bs = .ok (.dbegin w))
    (may : MayOpen w (Claim.laneState s gi false) g n) :
    ∃ t, exec (.dbeginSlotGrant gi) s = .next t ∧ (groupAt t gi).region = some n ∧ gi ∉ t.dom.fifo := by
  have issue : exec (.dbeginSlotGrant gi) s = stepLane dominoWord gi false s := by
    show execDbeginSlotGrant gi s = _
    exact if_pos (by simpa using waiter)
  have ran : stepLane dominoWord gi false s = dropFetched (execDbegin w (Claim.laneState s gi false)) :=
    (stepLane_congr (run := dominoWord) fetch decoded rfl).trans (stepLane_runs fetch decoded)
  obtain ⟨t, runs, region, left⟩ := may.served
  rw [cur_laneState] at region left
  refine ⟨{ t with ibuf := [] }, ?_, region, left⟩
  rw [issue, ran, runs]
  rfl

/-! ## Edges (R238) -/

/-- An edge that is no forward joins the table and changes nothing else. -/
theorem recordEdge_records {a b : DomSlot} : (a.slot, b.slot) ∈ (recordEdge s a b false).dom.reach ∧ (recordEdge s a b false).groups = s.groups ∧
    (recordEdge s a b false).sets = s.sets := by
  refine ⟨?_, rfl, rfl⟩
  simp [recordEdge]

/-- Span `k` of set `i`, a store of region `y` here on its way, needs one edge, from region `z`, which it does not wait for; the table may take
the request and records the edge. -/
structure EdgeDue (s : State) (i k : Nat) (y z : DomSlot) (a : ASet) (p : Span) : Prop where
  set_    : setAt s i = some a
  inside  : a.region = some y.slot
  mine    : slotAt s y.slot = some y
  span    : a.spans[k]? = some p
  fresh   : p.done = false
  calm    : cycleHeld s y.slot = false
  store   : storeClass a.kind = true
  gone    : a.phase = .gone
  here    : regionAt s a p = true
  foreign : ownWords s a p.line y.slot = false
  turn    : edgeTurn s y = true
  free    : (i, k, z.slot) ∉ s.dom.stalls
  need    : edgesNeeded s y.slot (readsToo a.kind) (storeClass a.kind) (spanLo p) (spanLen p) = [(z.slot, false)]
  other   : slotAt s z.slot = some z
  fate    : edgeFate s z y false = .record

theorem EdgeDue.records {i k : Nat} {z : DomSlot} {a : ASet} {p : Span} (due : EdgeDue s i k y z a p) :
    exec (.dominoEdgeRequest i k) s = .next (recordEdge (serve s (8, 0) y.stamp) z y false) := by
  obtain ⟨set_, inside, mine, span, fresh, calm, store, gone, here, foreign, turn, free, need, other, fate⟩ := due
  have records : tryEdge (serve s (8, 0) y.stamp) y (i, k) z.slot false = recordEdge (serve s (8, 0) y.stamp) z y false := by
    simp only [tryEdge, show slotAt (serve s (8, 0) y.stamp) z.slot = some z from other,
      show edgeFate (serve s (8, 0) y.stamp) z y false = .record from fate]
  rw [store] at need
  rw [← records]
  show execDominoEdgeRequest i k s = _
  simp [execDominoEdgeRequest, set_, inside, mine, span, fresh, calm, store, gone, here, foreign, turn, free, need]

/-! ## The end of a commit (R241) -/

/-- Between `s` and `t` no byte of memory and no lane time has changed. -/
structure KeepsBytes (s t : State) : Prop where
  mem : t.mem = s.mem
  llt : t.groups.map Group.llt = s.groups.map Group.llt

theorem KeepsBytes.of_same (mem : t.mem = s.mem := by rfl) (groups : t.groups = s.groups := by rfl) : KeepsBytes s t := ⟨mem, by rw [groups]⟩

theorem KeepsBytes.trans (h : KeepsBytes s t) (h' : KeepsBytes t u) : KeepsBytes s u := ⟨h'.mem.trans h.mem, h'.llt.trans h.llt⟩

theorem keepsBytes_foldl {α : Type} {f : State → α → State} (keeps : ∀ s x, KeepsBytes s (f s x)) (l : List α) (s : State) :
    KeepsBytes s (l.foldl f s) :=
  List.foldlRecOn (motive := KeepsBytes s) l f .of_same fun _ h x _ => h.trans (keeps _ x)

theorem keepsBytes_modGroup {gi : Nat} {f : Group → Group} (keeps : ∀ g, (f g).llt = g.llt) : KeepsBytes s (s.modGroup gi f) := by
  refine ⟨rfl, List.ext_getElem? fun j => ?_⟩
  rw [State.modGroup_groups, List.getElem?_map, List.getElem?_map, List.getElem?_modify]
  cases s.groups[j]? with
  | none => rfl
  | some g => by_cases here : gi = j <;> simp [here, keeps]

theorem keepsBytes_wakeWhere {p : WaitEntry → Bool} : KeepsBytes s (wakeWhere s p) := by
  unfold wakeWhere
  have waits : KeepsBytes s { s with waits := s.waits.filter fun w => !p w } := .of_same
  refine waits.trans (keepsBytes_foldl (fun t w => ?_) _ _)
  split
  · exact keepsBytes_modGroup fun _ => rfl
  · exact .of_same

theorem keepsBytes_l1Update {core lo m : Nat} {was : Nat → Nat × Nat} {ws : List (Nat × List Byte)} :
    KeepsBytes s (l1Update s core lo m was ws) := by
  unfold l1Update
  split
  · exact .of_same
  · split <;> exact .of_same

theorem keepsBytes_noteWrite {lo m : Nat} : KeepsBytes s (noteWrite s lo m) := by
  unfold noteWrite
  dsimp only
  split
  · split <;> exact .of_same
  · exact .of_same

theorem keepsBytes_setTimesAt {sec : Nat} {v : Nat × Nat} : KeepsBytes s (setTimesAt s sec v) :=
  .of_same setTimesAt_onlyTimes.mem setTimesAt_onlyTimes.groups

/-- Memory with the values that a region wrote in a sector. -/
def putSector (y : DomSlot) (m : Memory) (sec : Nat) : Memory := (y.wr.filter fun w => w.1 / 32 == sec).foldl (fun m w => setByte m w.1 w.2) m

theorem applySector_puts {sec : Nat} : KeepsBytes { s with mem := putSector y s.mem sec } (applySector s y sec) := by
  have timed : KeepsBytes s (setTimesAt s sec (y.cts, y.cts)) := keepsBytes_setTimesAt
  unfold applySector
  extract_lets was s1 ws s2
  have put : KeepsBytes { s with mem := putSector y s.mem sec } { s1 with mem := putSector y s1.mem sec } :=
    ⟨congrArg (putSector y · sec) timed.mem, timed.llt⟩
  have updated : KeepsBytes s2 (l1Update s2 y.core (32 * sec) 32 was (asWrites ws)) := keepsBytes_l1Update
  have woken : KeepsBytes s2 (wakeLine (l1Update s2 y.core (32 * sec) 32 was (asWrites ws)) (sec / 4)) :=
    (updated.trans .of_same).trans keepsBytes_wakeWhere
  exact (put.trans keepsBytes_noteWrite).trans woken

/-- A commit puts the region's values in memory, sector by sector. -/
theorem applyCommit_puts : KeepsBytes { s with mem := (wroteSectors y).foldl (putSector y) s.mem } (applyCommit s y) := by
  have put (l : List Nat) (s : State) : KeepsBytes { s with mem := l.foldl (putSector y) s.mem } (l.foldl (applySector · y) s) := by
    induction l generalizing s with
    | nil => exact .of_same
    | cons sec l ih =>
      have here : KeepsBytes { s with mem := putSector y s.mem sec } (applySector s y sec) := applySector_puts
      have there := ih (applySector s y sec)
      exact ⟨there.mem.trans (congrArg (l.foldl (putSector y)) here.mem), there.llt.trans here.llt⟩
  exact (put (wroteSectors y) s).trans (keepsBytes_foldl (fun _ _ => keepsBytes_setTimesAt) _ _)

/-- What a completed commit leaves: its values in memory, its slot free, its group out of the region with its lane time past the commit time. -/
theorem finishCommit_ends (present : y.g < s.groups.length) :
    slotAt (finishCommit s y) y.slot = none ∧ (groupAt (finishCommit s y) y.g).region = none ∧
      (groupAt (finishCommit s y) y.g).llt = max (groupAt s y.g).llt y.cts ∧ (groupAt (finishCommit s y) y.g).dstat.cts = w64 y.cts ∧
      (finishCommit s y).mem = (wroteSectors y).foldl (putSector y) s.mem := by
  have mailed : OnlyMail s (takeMirrors s y.slot) := takeMirrors_onlyMail
  unfold finishCommit
  extract_lets n succs late s1 s2 leave s3 s4
  have applied : KeepsBytes _ s1 := applyCommit_puts
  have raised : KeepsBytes s1 s2 := keepsBytes_foldl (fun _ _ => .of_same) succs s1
  have freed : KeepsBytes s2 s4 := .of_same
  have later := raised.trans freed
  have mem : s4.mem = (wroteSectors y).foldl (putSector y) s.mem := by rw [later.mem, applied.mem, mailed.mem]
  have llt : s4.groups.map Group.llt = s.groups.map Group.llt := by rw [later.llt, applied.llt, mailed.groups]
  have length : s4.groups.length = s.groups.length := by simpa using congrArg List.length llt
  have before : (groupAt s4 y.g).llt = (groupAt s y.g).llt := by
    unfold groupAt
    rw [← List.getD_map (f := Group.llt), ← List.getD_map (f := Group.llt), llt]
  rw [groupAt_modGroup_same (length ▸ present), before]
  exact ⟨slotAt_freed, rfl, rfl, rfl, mem⟩

/-- A byte that the region did not write stands. -/
theorem byteAt_puts_out {m : Memory} {a : Nat} {secs : List Nat} (out : ∀ v ∈ y.wr, v.1 ≠ a) :
    byteAt (secs.foldl (putSector y) m) a = byteAt m a := by
  refine read_foldl_of_keeps (read := (byteAt · a)) fun m sec _ => ?_
  refine List.foldlRecOn (motive := fun m' => byteAt m' a = byteAt m a) _ _ rfl fun m' same v listed => ?_
  rw [byteAt_setByte, if_neg (out v (List.mem_of_mem_filter listed)).symm, same]

/-- The one byte that a region wrote is put. -/
theorem byteAt_puts_one {m : Memory} {a : Nat} {b : Byte} (one : y.wr = [(a, b)]) :
    byteAt ((wroteSectors y).foldl (putSector y) m) a = b := by
  simp [wroteSectors, putSector, one, byteAt_setByte]

theorem dominoCommitComplete_ends (at_ : slotAt s n = some y) (committing : y.state = .committing)
    (due : y.since + 40 + (y.wspans.length + 7) / 8 ≤ s.now) (mirrored : commitMirrored s n = true) (present : y.g < s.groups.length) :
    ∃ t, exec (.dominoCommitComplete n) s = .next t ∧ slotAt t n = none ∧ (groupAt t y.g).region = none ∧
      (groupAt t y.g).llt = max (groupAt s y.g).llt y.cts ∧ (groupAt t y.g).dstat.cts = w64 y.cts ∧
      (∀ a, (∀ v ∈ y.wr, v.1 ≠ a) → byteAt t.mem a = byteAt s.mem a) ∧ (∀ a b, y.wr = [(a, b)] → byteAt t.mem a = b) := by
  obtain rfl : y.slot = n := slot_of_slotAt at_
  have ends : exec (.dominoCommitComplete y.slot) s = .next (finishCommit s y) := by
    show execDominoCommitComplete y.slot s = _
    simp only [execDominoCommitComplete, at_]
    exact congrArg Host.Outcome.next (if_pos ⟨committing, due, mirrored⟩)
  obtain ⟨free, outside, time, cts, mem⟩ := finishCommit_ends present
  refine ⟨_, ends, free, outside, time, cts, fun a out => ?_, fun a b one => ?_⟩
  · rw [mem, byteAt_puts_out out]
  · rw [mem, byteAt_puts_one one]

/-! ## The end of an abort (R244) -/

theorem dominoAbortComplete_restores (at_ : slotAt s n = some y) (aborting : y.state = .aborting)
    (due : y.since + 12 + (ckptQuads y.ckpt.mask).length ≤ s.now) (present : y.g < s.groups.length) :
    ∃ t, exec (.dominoAbortComplete n) s = .next t ∧ slotAt t n = none ∧ (groupAt t y.g).region = none ∧ (groupAt t y.g).p0.lpc = y.abort ∧
      (groupAt t y.g).p0.exec = y.ckpt.exec ∧ (groupAt t y.g).part = y.ckpt.part ∧ (groupAt t y.g).cvmode = y.ckpt.cvmode ∧
      (groupAt t y.g).s = (groupAt s y.g).s ∧ Claim.SameMemory s t := by
  have ends : exec (.dominoAbortComplete n) s = .next ((s.modDom fun d => freeSlot d n).modGroup y.g (restoreGroup y)) := by
    show execDominoAbortComplete n s = _
    simp only [execDominoAbortComplete, at_]
    exact congrArg Host.Outcome.next (if_pos ⟨aborting, due⟩)
  refine ⟨_, ends, slotAt_freed, ?_⟩
  rw [groupAt_modGroup_same (by exact present)]
  exact ⟨rfl, rfl, rfl, rfl, rfl, rfl, fun _ => rfl⟩

/-! ## Limits (R240, R243) -/

section
variable (at_ : slotAt s n = some y) (live : y.state = .live) (alone : s.dom.reach = [])
include at_ live alone

/-- The only region of the table, and a marker of the page, is aborted by a recall held too long. -/
theorem recallHoldTimeout_aborts {gpn since : Nat} {e : Env} (only : s.dom.slots = [y]) (holds : s.dom.holds = [(gpn, since, e)])
    (late : since + 2 ^ 14 ≤ s.now) (marks : ∃ w ∈ y.rd, w / 16384 = gpn) :
    ∃ t z, exec (.recallHoldTimeout gpn) s = .next t ∧ slotAt t n = some z ∧ z.state = .aborting ∧ z.cause = 5 := by
  obtain rfl : y.slot = n := slot_of_slotAt at_
  have marker : pageMarkers s gpn = [y] := by
    obtain ⟨word, read, page⟩ := marks
    have reads : (y.rd.any fun w => w / 16384 == gpn) = true := List.any_eq_true.mpr ⟨word, read, by simpa using page⟩
    simp [pageMarkers, only, liveSlot, live, reads]
  have aborts : exec (.recallHoldTimeout gpn) s = .next (abortRegion s y.slot 5 0) := by
    show execRecallHoldTimeout gpn s = _
    rw [execRecallHoldTimeout, if_pos (by simpa [holds] using late), marker]
    rfl
  obtain ⟨⟨z, found, state, cause⟩, -⟩ := abortRegion_aborts (cause := 5) (by_ := 0) alone at_ live
  exact ⟨_, z, aborts, found, state, cause⟩

/-- A region that has deferred its team's pre-emption too long is aborted. -/
theorem preemptDeferTimeout_aborts {gi since : Nat} (inside : (groupAt s gi).region = some n)
    (asked : (teamOf s (groupAt s gi)).request = some since) (late : since + 2 ^ 16 ≤ s.now) :
    ∃ t z, exec (.preemptDeferTimeout gi) s = .next t ∧ slotAt t n = some z ∧ z.state = .aborting ∧ z.cause = 6 := by
  have aborts : exec (.preemptDeferTimeout gi) s = .next (abortRegion s n 6 0) := by
    show execPreemptDeferTimeout gi s = _
    simp only [execPreemptDeferTimeout, inside, asked]
    exact congrArg Host.Outcome.next (if_pos (Bool.or_eq_true_iff.mpr (.inl (decide_eq_true late))))
  obtain ⟨⟨z, found, state, cause⟩, -⟩ := abortRegion_aborts (cause := 6) (by_ := 0) alone at_ live
  exact ⟨_, z, aborts, found, state, cause⟩

end

/-! ## What the steps claim -/

theorem dominoCommitStart_commits (at_ : slotAt s n = some y) (waiting : y.state = .waiting) (first : predsOf s n = []) :
    ∃ t z, exec (.dominoCommitStart n) s = .next t ∧ slotAt t n = some z ∧ z.state = .committing ∧ z.cts = commitTime s y := by
  have commits : exec (.dominoCommitStart n) s = .next (startCommit s n) := by
    show execDominoCommitStart n s = _
    exact congrArg Host.Outcome.next (if_pos (by simp [at_, waiting, first]))
  exact ⟨_, _, commits, (startCommit_commits at_).1, rfl, rfl⟩

/-- Settles O30: each step of the table finds its slot in the state it asks for, and then opens, commits, restores or aborts it. -/
theorem dominoSteps : Obligations.DominoSteps := by
  intro s n y
  refine ⟨fun gi g bs w k waiter fetch decoded go plain safe target some_ outside free room first => ?grant,
    fun i k a p z set_ inside at_ slot span fresh calm store gone here foreign turn unstalled need other fate => ?edge,
    fun at_ _ => ⟨fun waiting first => ?start, fun committing due mirrored present => ?commit, fun aborting due present => ?abort,
      fun live alone only => ⟨fun gpn since e holds late marks => ?held, fun gi since inside asked late => ?preempt⟩⟩⟩
  case grant =>
    exact dbeginSlotGrant_opens waiter fetch decoded ⟨go, plain, safe, target, some_, outside, free, room, by rwa [cur_laneState]⟩
  case edge =>
    obtain rfl : y.slot = n := slot
    have due : EdgeDue s i k y z a p := ⟨set_, inside, at_, span, fresh, calm, store, gone, here, foreign, turn, unstalled, need, other, fate⟩
    exact ⟨_, due.records, recordEdge_records⟩
  case start => exact dominoCommitStart_commits at_ waiting first
  case commit => exact dominoCommitComplete_ends at_ committing due mirrored present
  case abort => exact dominoAbortComplete_restores at_ aborting due present
  case held => exact recallHoldTimeout_aborts at_ live alone only holds late marks
  case preempt => exact preemptDeferTimeout_aborts at_ live alone inside asked late

end Sys2Proof.Proofs
end
